-- ==== Sys2Proof/Word.lean ====
section
/-! DEFINITION. The word types of the module (R10, R13) and sparse tables as sorted lists. -/

namespace Sys2Proof

/-- Eight bits (R10). -/
abbrev Byte := BitVec 8

/-- A word: 32 bits, the width of every register (R10, R13). -/
abbrev Word := BitVec 32

/-- A sparse table: number and entry, the numbers strictly rising. -/
abbrev Tab (α : Type) := List (Nat × α)

end Sys2Proof
end

