-- ==== Sys2Proof/Machine/Bits.lean ====
section
/-! DEFINITION. Tables, bit fields, little-endian bytes and the check codes (R10, R11, R54; 11 R367, 12 R396, 16). -/

namespace Sys2Proof

/-! ### Sparse tables -/

/-- The entry of a table under number `k`, if there is one. -/
def Tab.look {α : Type} : Tab α → Nat → Option α
  | [], _ => none
  | (k', v) :: t, k => if k = k' then some v else if k < k' then none else Tab.look t k

/-- A table with entry `v` under number `k`. -/
def Tab.put {α : Type} : Tab α → Nat → α → Tab α
  | [], k, v => [(k, v)]
  | (k', v') :: t, k, v =>
    if k < k' then (k, v) :: (k', v') :: t
    else if k = k' then (k, v) :: t
    else (k', v') :: Tab.put t k v

/-- A table without the entry under number `k`. -/
def Tab.erase {α : Type} : Tab α → Nat → Tab α
  | [], _ => []
  | (k', v') :: t, k =>
    if k < k' then (k', v') :: t
    else if k = k' then t
    else (k', v') :: Tab.erase t k

/-- The value a table gives number `k`, `d` where it lists none. -/
def Tab.get {α : Type} (t : Tab α) (d : α) (k : Nat) : α := (t.look k).getD d

/-- A table that gives `k` the value `v`; the value `d` is never listed. -/
def Tab.set {α : Type} [DecidableEq α] (t : Tab α) (d : α) (k : Nat) (v : α) : Tab α :=
  if v = d then t.erase k else t.put k v

/-- The entry under `k`, changed by `f` (from `d` where none is listed). -/
def Tab.modify {α : Type} [DecidableEq α] (t : Tab α) (d : α) (k : Nat) (f : α → α) : Tab α :=
  t.set d k (f (t.get d k))

/-- The entry under `k` changed by `f`; a table without it stays as it is. -/
def Tab.adjust {α : Type} (t : Tab α) (k : Nat) (f : α → α) : Tab α :=
  match t.look k with
  | none => t
  | some v => t.put k (f v)

/-- Numbers strictly rising. -/
def Tab.sorted {α : Type} : Tab α → Bool
  | [] => true
  | [_] => true
  | (k, _) :: (k', v') :: t => decide (k < k') && Tab.sorted ((k', v') :: t)

/-- The canonical form: numbers strictly rising, and the unlisted value never listed. -/
def Tab.wf {α : Type} [DecidableEq α] (t : Tab α) (d : α) : Bool :=
  Tab.sorted t && t.all fun p => decide (p.2 ≠ d)

/-! ### Fields and bytes -/

/-- Bit field `x[lo + w - 1 : lo]` of a number (R11). -/
def bitsOf (x lo w : Nat) : Nat := (x >>> lo) % 2 ^ w

/-- Bit `i` of a number. -/
def bitOf (x i : Nat) : Bool := x.testBit i

/-- A number with bit `i` set to `b`. -/
def setBit (x i : Nat) (b : Bool) : Nat :=
  if x.testBit i = b then x else if b then x + 2 ^ i else x - 2 ^ i

/-- 1 or 0. -/
def b2n (b : Bool) : Nat := if b then 1 else 0

/-- The number that bytes spell, the lowest offset least significant (R10). -/
def leNat : List Byte → Nat
  | [] => 0
  | b :: t => b.toNat + 256 * leNat t

/-- `n` bytes of a number, least significant first (R10). -/
def leBytes : Nat → Nat → List Byte
  | 0, _ => []
  | n + 1, x => BitVec.ofNat 8 x :: leBytes n (x / 256)

/-- `n` bytes of a structure from offset `off`; bytes past its end are 0. -/
def slice (d : List Byte) (off n : Nat) : List Byte :=
  let t := (d.drop off).take n
  t ++ List.replicate (n - t.length) 0

/-- The field of `w` bits at bit `lo` of the little-endian value at offset `off` (R16). -/
def fld (d : List Byte) (off lo w : Nat) : Nat :=
  bitsOf (leNat (slice d off ((lo + w + 7) / 8))) lo w

/-- The whole little-endian value of `n` bytes at offset `off`. -/
def num (d : List Byte) (off n : Nat) : Nat := leNat (slice d off n)

/-- One flag bit of a structure. -/
def flg (d : List Byte) (off i : Nat) : Bool := fld d off i 1 == 1

/-- Every listed field (offset, low bit, width) of a structure is zero (R16). -/
def zeroFlds (d : List Byte) (fs : List (Nat × Nat × Nat)) : Bool :=
  fs.all fun f => fld d f.1 f.2.1 f.2.2 == 0

/-- Every byte of a range of a structure is zero. -/
def zeroRange (d : List Byte) (off n : Nat) : Bool := num d off n == 0

/-- A structure with `new` laid over it from offset `off`. -/
def overlay (d : List Byte) (off : Nat) (new : List Byte) : List Byte :=
  slice d 0 off ++ new ++ d.drop (off + new.length)

/-- How many of the low `n` bits of `x` are set. -/
def popCount : Nat → Nat → Nat
  | 0, _ => 0
  | n + 1, x => b2n (bitOf x n) + popCount n x

/-- The set bits of `x` below `n`, lowest first. -/
def setBits (n x : Nat) : List Nat := (List.range n).filter fun i => x.testBit i

/-- The lowest number below `n` that meets `p`. -/
def lowest (n : Nat) (p : Nat → Bool) : Option Nat := (List.range n).find? p

/-- Division rounded up. -/
def ceilDiv (a b : Nat) : Nat := (a + b - 1) / b

/-- A number rounded up to a multiple of `b`. -/
def roundUp (a b : Nat) : Nat := ceilDiv a b * b

/-- `x` held between two bounds. -/
def clampInt (x lo hi : Int) : Int := if x < lo then lo else if hi < x then hi else x

/-- A counter of `w` bits that stops at its largest value. -/
def satAdd (w x n : Nat) : Nat := min (x + n) (2 ^ w - 1)

/-- An element put before the first of a list that it may stand before. -/
def insertBy {α : Type} (le : α → α → Bool) (a : α) : List α → List α
  | [] => [a]
  | b :: t => if le a b then a :: b :: t else b :: insertBy le a t

/-- A list in order; equals keep their order. -/
def sortBy {α : Type} (le : α → α → Bool) : List α → List α
  | [] => []
  | a :: t => insertBy le a (sortBy le t)

/-- The sum of a list. -/
def sumNat (l : List Nat) : Nat := l.foldl (· + ·) 0

/-! ### Check codes -/

/-- One shift of a cyclic check of width `w`, most significant bit first. -/
def crcShift (w poly crc : Nat) : Nat :=
  if crc.testBit (w - 1) then ((crc <<< 1) % 2 ^ w) ^^^ poly else (crc <<< 1) % 2 ^ w

/-- `n` shifts. -/
def crcShifts (w poly : Nat) : Nat → Nat → Nat
  | 0, crc => crc
  | n + 1, crc => crcShifts w poly n (crcShift w poly crc)

/-- The cyclic check of bytes taken in order, each byte's most significant bit first. -/
def crcMsb (w poly init : Nat) (bs : List Byte) : Nat :=
  bs.foldl (fun crc b => crcShifts w poly 8 (crc ^^^ (b.toNat <<< (w - 8)))) init

/-- One shift of a reflected cyclic check (least significant bit first). -/
def crcShiftR (poly crc : Nat) : Nat :=
  if crc.testBit 0 then (crc >>> 1) ^^^ poly else crc >>> 1

/-- `n` reflected shifts. -/
def crcShiftsR (poly : Nat) : Nat → Nat → Nat
  | 0, crc => crc
  | n + 1, crc => crcShiftsR poly n (crcShiftR poly crc)

/-- The reflected cyclic check of bytes taken in order (`poly` given reflected). -/
def crcLsb (poly init : Nat) (bs : List Byte) : Nat :=
  bs.foldl (fun crc b => crcShiftsR poly 8 (crc ^^^ b.toNat)) init

/-- CRC-8 with polynomial 0x07 and initial value 0xFF: the tile header check (R54). -/
def crc8 (bs : List Byte) : Nat := crcMsb 8 0x07 0xFF bs

end Sys2Proof
end

