-- ==== Sys2Proof/Machine/Flags.lean ====
section
/-! DEFINITION. The numeric status flags (R66, R127). -/

namespace Sys2Proof

/-- The sticky conversion flags of R66. -/
structure Flags where
  nan : Bool := false
  ovf : Bool := false
  ufl : Bool := false
  deriving DecidableEq, Repr

/-- No flag. -/
def Flags.none : Flags := {}

/-- Flags accumulate by OR (R66). -/
def Flags.or (a b : Flags) : Flags :=
  { nan := a.nan || b.nan, ovf := a.ovf || b.ovf, ufl := a.ufl || b.ufl }

/-- NANF, OVFF and UFLF in bits 0 to 2, as a completion record carries them (R144). -/
def Flags.bits (f : Flags) : Nat := b2n f.nan + 2 * b2n f.ovf + 4 * b2n f.ufl

end Sys2Proof
end

