-- ==== Sys2Proof/Machine/Float.lean ====
section
/-! DEFINITION. Number formats and binary32 arithmetic (02): R47 to R52, R60 to R66, R71. -/

namespace Sys2Proof

/-- An exact value: NaN, a signed infinity, or a signed dyadic `m * 2^e`. -/
inductive FVal where
  | nan
  | inf (neg : Bool)
  | fin (neg : Bool) (m : Nat) (e : Int)
  deriving DecidableEq, Repr

/-- The value +0. -/
def FVal.zero : FVal := .fin false 0 0

/-- A zero of either sign. -/
def FVal.isZero : FVal → Bool
  | .fin _ m _ => m == 0
  | _ => false

/-- NaN. -/
def FVal.isNaN : FVal → Bool
  | .nan => true
  | _ => false

/-- Neither NaN nor infinite. -/
def FVal.isFinite : FVal → Bool
  | .fin .. => true
  | _ => false

/-- An infinity of either sign. -/
def FVal.isInf : FVal → Bool
  | .inf _ => true
  | _ => false

/-- Exact multiplication by `2^n`. -/
def FVal.scale (n : Int) : FVal → FVal
  | .fin s m e => .fin s m (e + n)
  | x => x

/-- The negated value. -/
def FVal.neg : FVal → FVal
  | .nan => .nan
  | .inf s => .inf (!s)
  | .fin s m e => .fin (!s) m e

/-- How an element format marks infinities and NaN (R49). -/
inductive Specials where
  | ieee    -- the exponent of all ones holds infinities and NaN
  | e4m3    -- only the code with every magnitude bit set is NaN
  | finite  -- every code is finite
  deriving DecidableEq, Repr

/-- A floating-point element format (R49). -/
structure Elem where
  exp : Nat
  mant : Nat
  bias : Nat
  specials : Specials
  deriving DecidableEq, Repr

def binary32 : Elem := ⟨8, 23, 127, .ieee⟩
def bf16 : Elem := ⟨8, 7, 127, .ieee⟩
def binary16 : Elem := ⟨5, 10, 15, .ieee⟩
def e4m3 : Elem := ⟨4, 3, 7, .e4m3⟩
def e5m2 : Elem := ⟨5, 2, 15, .ieee⟩
def e3m2 : Elem := ⟨3, 2, 3, .finite⟩
def e2m3 : Elem := ⟨2, 3, 1, .finite⟩
def e2m1 : Elem := ⟨2, 1, 1, .finite⟩

/-- Width of an element in bits. -/
def Elem.width (f : Elem) : Nat := 1 + f.exp + f.mant

/-- The magnitude code of the largest finite value (R49) (log 101: DEDUCED). -/
def Elem.maxMag (f : Elem) : Nat :=
  match f.specials with
  | .ieee => 2 ^ (f.exp + f.mant) - 2 ^ f.mant - 1
  | .e4m3 => 2 ^ (f.exp + f.mant) - 2
  | .finite => 2 ^ (f.exp + f.mant) - 1

/-- The magnitude code of infinity, in the formats that have one. -/
def Elem.infMag (f : Elem) : Nat := 2 ^ (f.exp + f.mant) - 2 ^ f.mant

/-- The canonical NaN of a format (R49); formats without NaN never use it. -/
def Elem.canonNaN (f : Elem) : Nat :=
  match f.specials with
  | .ieee => 2 ^ (f.exp + f.mant) - 2 ^ f.mant + 2 ^ (f.mant - 1)
  | .e4m3 => 2 ^ (f.exp + f.mant) - 1
  | .finite => 0

/-- A code with its sign bit. -/
def Elem.withSign (f : Elem) (neg : Bool) (mag : Nat) : Nat := mag + (if neg then 2 ^ (f.exp + f.mant) else 0)

/-- The value a code stands for (R49); an exponent field of zero encodes zero and subnormals. -/
def Elem.decode (f : Elem) (code : Nat) : FVal :=
  let neg := code.testBit (f.exp + f.mant)
  let mag := code % 2 ^ (f.exp + f.mant)
  let ex := mag >>> f.mant
  let fr := mag % 2 ^ f.mant
  let value : FVal :=
    if ex = 0 then .fin neg fr (1 - (f.bias : Int) - f.mant)
    else .fin neg (fr + 2 ^ f.mant) ((ex : Int) - f.bias - f.mant)
  match f.specials with
  | .finite => value
  | .e4m3 => if mag = 2 ^ (f.exp + f.mant) - 1 then .nan else value
  | .ieee =>
    if ex = 2 ^ f.exp - 1 then (if fr = 0 then .inf neg else .nan) else value

/-- The rounding modes of R61, SR with its 16-bit draw. -/
inductive RMode where
  | rne
  | rtz
  | sr (r : Nat)
  deriving DecidableEq, Repr

/-- The magnitude `m * 2^e` rounded to a whole number of `2^lsb` (R61, R62). -/
def roundAt (mode : RMode) (m : Nat) (e lsb : Int) : Nat :=
  let k := lsb - e
  if k ≤ 0 then m <<< (-k).toNat
  else
    let sh := k.toNat
    let q := m >>> sh
    let rem := m % 2 ^ sh
    match mode with
    | .rtz => q
    | .rne =>
      let half := 2 ^ (sh - 1)
      if rem > half || (rem == half && q.testBit 0) then q + 1 else q
    | .sr r => if (rem <<< 16) >>> sh + r ≥ 65536 then q + 1 else q

/-- Floor of the base-2 logarithm of `m * 2^e`, for `m` above 0. -/
def ilog2 (m : Nat) (e : Int) : Int := (m.log2 : Int) + e

/-- The magnitude code of `m * 2^e` in a format, rounded by the mode with no upper bound on the exponent. -/
def Elem.roundMag (f : Elem) (mode : RMode) (m : Nat) (e : Int) : Nat :=
  if m = 0 then 0
  else
    let emin : Int := 1 - (f.bias : Int)
    let x := ilog2 m e
    let top := if x < emin then emin else x
    let lsb := top - f.mant
    let q := roundAt mode m e lsb
    if x < emin then q else ((top + f.bias).toNat <<< f.mant) + q - 2 ^ f.mant

/-- The draw of R62 for linear index `i`. -/
def srDraw (seed i : Nat) : Nat :=
  let h := seed % 2 ^ 32 ^^^ ((i * 0x9E3779B9) % 2 ^ 32)
  let h := h ^^^ (h >>> 16)
  let h := (h * 0x85EBCA6B) % 2 ^ 32
  let h := h ^^^ (h >>> 13)
  let h := (h * 0xC2B2AE35) % 2 ^ 32
  let h := h ^^^ (h >>> 16)
  h >>> 16

/-- The rounding mode of code RND for the element at linear index `i` (R61, R62). -/
def rmodeAt (rnd seed i : Nat) : RMode :=
  if rnd = 1 then .rtz else if rnd = 2 then .sr (srDraw seed i) else .rne

/-! ### binary32 arithmetic (R71) -/

/-- The canonical binary32 NaN. -/
def nan32 : Word := 0x7FC00000#32

/-- The value of a binary32 word. -/
def f32 (w : Word) : FVal := binary32.decode w.toNat

/-- A value rounded to binary32 with round-to-nearest-even (R71). -/
def toF32 : FVal → Word
  | .nan => nan32
  | .inf neg => BitVec.ofNat 32 (binary32.withSign neg binary32.infMag)
  | .fin neg m e => BitVec.ofNat 32 (binary32.withSign neg (min (binary32.roundMag .rne m e) binary32.infMag))

/-- The exact sum; equal and opposite values give +0, two zeros of one sign keep it. -/
def FVal.add : FVal → FVal → FVal
  | .nan, _ => .nan
  | _, .nan => .nan
  | .inf a, .inf b => if a = b then .inf a else .nan
  | .inf a, _ => .inf a
  | _, .inf b => .inf b
  | .fin sa ma ea, .fin sb mb eb =>
    if ma = 0 ∧ mb = 0 then .fin (sa && sb) 0 0
    else
      let e := if ea < eb then ea else eb
      let a : Int := (ma <<< (ea - e).toNat : Nat)
      let b : Int := (mb <<< (eb - e).toNat : Nat)
      let t := (if sa then -a else a) + (if sb then -b else b)
      .fin (decide (t < 0)) t.natAbs e

/-- The exact product. -/
def FVal.mul : FVal → FVal → FVal
  | .nan, _ => .nan
  | _, .nan => .nan
  | .inf a, .inf b => .inf (a != b)
  | .inf a, .fin s m _ => if m = 0 then .nan else .inf (a != s)
  | .fin s m _, .inf b => if m = 0 then .nan else .inf (s != b)
  | .fin sa ma ea, .fin sb mb eb => .fin (sa != sb) (ma * mb) (ea + eb)

/-- Flags an operation raises from its operands, exact result and rounded result (R127). -/
def opFlags (operands : List FVal) (exact : FVal) (res : FVal) : Flags :=
  { nan := res.isNaN && operands.all (fun x => !x.isNaN)
    ovf := res.isInf && operands.all FVal.isFinite
    ufl := res.isZero && (match exact with | .fin _ m _ => m != 0 | _ => false) }

/-- An exact result rounded to binary32, with its flags. -/
def finish (operands : List FVal) (exact : FVal) : Word × Flags :=
  let w := toF32 exact
  (w, opFlags operands exact (f32 w))

def fadd (a b : Word) : Word × Flags := finish [f32 a, f32 b] ((f32 a).add (f32 b))
def fsub (a b : Word) : Word × Flags := finish [f32 a, f32 b] ((f32 a).add (f32 b).neg)
def fmul (a b : Word) : Word × Flags := finish [f32 a, f32 b] ((f32 a).mul (f32 b))

/-- Fused multiply-add with one rounding (R71). -/
def ffma (a b c : Word) : Word × Flags :=
  finish [f32 a, f32 b, f32 c] (((f32 a).mul (f32 b)).add (f32 c))

/-- The quotient to 64 bits beyond binary32, with the lowest bit set where it is not exact. -/
def FVal.div : FVal → FVal → FVal
  | .nan, _ => .nan
  | _, .nan => .nan
  | .inf _, .inf _ => .nan
  | .inf a, .fin s _ _ => .inf (a != s)
  | .fin s _ _, .inf b => .fin (s != b) 0 0
  | .fin sa ma ea, .fin sb mb eb =>
    if mb = 0 then (if ma = 0 then .nan else .inf (sa != sb))
    else if ma = 0 then .fin (sa != sb) 0 0
    else
      let sh := 128 + mb.log2
      let q := (ma <<< sh) / mb
      let r := (ma <<< sh) % mb
      .fin (sa != sb) (2 * q + (if r = 0 then 0 else 1)) (ea - eb - sh - 1)

/-- Correctly rounded division (R71). -/
def fdiv (a b : Word) : Word × Flags := finish [f32 a, f32 b] ((f32 a).div (f32 b))

/-- One step of the integer square root: the largest `r` with `r * r ≤ n`, bit by bit from bit `k`. -/
def isqrtFrom (n : Nat) : Nat → Nat → Nat
  | 0, r => r
  | k + 1, r =>
    let c := r + 2 ^ k
    isqrtFrom n k (if c * c ≤ n then c else r)

/-- The square root, with the lowest bit set where it is not exact. -/
def FVal.sqrt : FVal → FVal
  | .nan => .nan
  | .inf s => if s then .nan else .inf false
  | .fin s m e =>
    if m = 0 then .fin s 0 0
    else if s then .nan
    else
      let odd := e % 2 ≠ 0
      let m1 := if odd then 2 * m else m
      let e1 := if odd then e - 1 else e
      let n := m1 <<< 64
      let r := isqrtFrom n (n.log2 / 2 + 1) 0
      .fin false (2 * r + (if r * r = n then 0 else 1)) (e1 / 2 - 33)

/-- Correctly rounded square root (R71). -/
def fsqrt (a : Word) : Word × Flags := finish [f32 a] (f32 a).sqrt

/-- Signed comparison key of a finite or infinite value: `a < b` for values that are not NaN. -/
def FVal.lt : FVal → FVal → Bool
  | .nan, _ => false
  | _, .nan => false
  | .inf a, .inf b => a && !b
  | .inf a, .fin .. => a
  | .fin .., .inf b => !b
  | .fin sa ma ea, .fin sb mb eb =>
    let e := if ea < eb then ea else eb
    let a : Int := (ma <<< (ea - e).toNat : Nat)
    let b : Int := (mb <<< (eb - e).toNat : Nat)
    decide ((if sa then -a else a) < (if sb then -b else b))

/-- Less-than of binary32; false with a NaN (R71). -/
def flt (a b : Word) : Bool := (f32 a).lt (f32 b)

/-- IEEE 754-2019 maximum: NaN gives NaN, -0 is below +0 (R71). -/
def fmax (a b : Word) : Word × Flags :=
  if (f32 a).isNaN || (f32 b).isNaN then (nan32, {})
  else if flt a b then (b, {}) else if flt b a then (a, {})
  else (if a.toNat.testBit 31 then b else a, {})

/-- IEEE 754-2019 minimum (R71). -/
def fmin (a b : Word) : Word × Flags :=
  if (f32 a).isNaN || (f32 b).isNaN then (nan32, {})
  else if flt a b then (a, {}) else if flt b a then (b, {})
  else (if a.toNat.testBit 31 then a else b, {})

/-- Magnitude; of a NaN, the canonical NaN (R125). -/
def fabs (a : Word) : Word × Flags :=
  if (f32 a).isNaN then (nan32, {}) else (a &&& 0x7FFFFFFF#32, {})

/-- Negation; of a NaN, the canonical NaN (R125). -/
def fneg (a : Word) : Word × Flags :=
  if (f32 a).isNaN then (nan32, {}) else (a ^^^ 0x80000000#32, {})

/-- The reciprocal (R125). -/
def frecip (a : Word) : Word × Flags := fdiv 0x3F800000#32 a

/-- The largest whole number not above a finite value that is not negative. -/
def FVal.floorNat : FVal → Nat
  | .fin _ m e => if e < 0 then m >>> (-e).toNat else m <<< e.toNat
  | _ => 0

end Sys2Proof
end

