-- ==== Sys2Proof/Machine/Tile.lean ====
section
/-! DEFINITION. Tiles: format codes, headers, payload layout, decode and encode of elements and blocks,
the array's group sums (02: R47 to R72). -/

namespace Sys2Proof

/-- The thirteen format codes of R47. -/
inductive Fmt where
  | fp32 | bf16 | fp16 | sf16 | fp8e4m3 | fp8e5m2 | mxfp8e4m3 | mxfp8e5m2 | mxfp6e3m2 | mxfp6e2m3 | mxfp4 | int8 | int4
  deriving DecidableEq, Repr

/-- The format a code names; codes 0xD to 0xF are reserved (R47). -/
def Fmt.ofCode : Nat → Option Fmt
  | 0 => some .fp32 | 1 => some .bf16 | 2 => some .fp16 | 3 => some .sf16 | 4 => some .fp8e4m3 | 5 => some .fp8e5m2
  | 6 => some .mxfp8e4m3 | 7 => some .mxfp8e5m2 | 8 => some .mxfp6e3m2 | 9 => some .mxfp6e2m3 | 10 => some .mxfp4
  | 11 => some .int8 | 12 => some .int4
  | _ => none

/-- The code of a format. -/
def Fmt.code : Fmt → Nat
  | .fp32 => 0 | .bf16 => 1 | .fp16 => 2 | .sf16 => 3 | .fp8e4m3 => 4 | .fp8e5m2 => 5 | .mxfp8e4m3 => 6
  | .mxfp8e5m2 => 7 | .mxfp6e3m2 => 8 | .mxfp6e2m3 => 9 | .mxfp4 => 10 | .int8 => 11 | .int4 => 12

/-- The floating-point element of a format; the integer formats have none. -/
def Fmt.elem : Fmt → Option Elem
  | .fp32 => some binary32 | .bf16 => some Sys2Proof.bf16 | .fp16 => some binary16 | .sf16 => some binary16
  | .fp8e4m3 => some e4m3 | .fp8e5m2 => some e5m2 | .mxfp8e4m3 => some e4m3 | .mxfp8e5m2 => some e5m2
  | .mxfp6e3m2 => some e3m2 | .mxfp6e2m3 => some e2m3 | .mxfp4 => some e2m1 | .int8 => none | .int4 => none

/-- Element width in bits. -/
def Fmt.width : Fmt → Nat
  | .fp32 => 32 | .bf16 => 16 | .fp16 => 16 | .sf16 => 16 | .mxfp6e3m2 => 6 | .mxfp6e2m3 => 6 | .mxfp4 => 4 | .int4 => 4
  | .fp8e4m3 => 8 | .fp8e5m2 => 8 | .mxfp8e4m3 => 8 | .mxfp8e5m2 => 8 | .int8 => 8

/-- Block size of the block formats, 0 for the others (R47). -/
def Fmt.block : Fmt → Nat
  | .sf16 => 256
  | .mxfp8e4m3 => 32 | .mxfp8e5m2 => 32 | .mxfp6e3m2 => 32 | .mxfp6e2m3 => 32 | .mxfp4 => 32 | .int4 => 32
  | _ => 0

/-- NOBLK is legal only with codes 0x6 to 0xA (R53). -/
def Fmt.allowsNoblk (f : Fmt) : Bool := decide (6 ≤ f.code ∧ f.code ≤ 10)

/-- Elements that share a scale byte, 0 when the tile has no block scales (R47, R52). -/
def Fmt.blockOf (f : Fmt) (noblk : Bool) : Nat := if noblk && f.allowsNoblk then 0 else f.block

/-- The anchor exponent of R64. -/
def Fmt.anchor : Fmt → Int
  | .sf16 => 14
  | .fp8e4m3 => 8 | .mxfp8e4m3 => 8
  | .fp8e5m2 => 15 | .mxfp8e5m2 => 15
  | .mxfp6e3m2 => 4
  | _ => 2

/-- Elements a tile stores, padding of the last block included (R56 step 1). -/
def Fmt.stored (f : Fmt) (noblk : Bool) (count : Nat) : Nat :=
  let b := f.blockOf noblk
  if b = 0 then count else roundUp count b

/-- Element region in 16-byte units (R56 step 3). -/
def Fmt.elemUnits (f : Fmt) (noblk : Bool) (count : Nat) : Nat := ceilDiv (ceilDiv (f.stored noblk count * f.width) 8) 16

/-- Number of blocks. -/
def Fmt.blocks (f : Fmt) (noblk : Bool) (count : Nat) : Nat :=
  let b := f.blockOf noblk
  if b = 0 then 0 else ceilDiv count b

/-- PLEN of R56. -/
def Fmt.plen (f : Fmt) (noblk : Bool) (count : Nat) : Nat := f.elemUnits noblk count + ceilDiv (f.blocks noblk count) 16

/-! ### The tile header (R53, R54, R57) -/

/-- The fields of a tile header that its checks have passed. -/
structure Hdr where
  fmt : Fmt
  noblk : Bool
  scale : Nat
  layer : Nat
  epoch : Nat
  ctx : Nat
  count : Nat
  plen : Nat
  deriving DecidableEq, Repr

/-- Header bytes 0 to 14 of R53. -/
def Hdr.body (h : Hdr) : List Byte :=
  leBytes 1 (h.fmt.code + 16 * b2n h.noblk) ++ leBytes 1 h.scale ++ leBytes 2 h.layer ++ leBytes 2 h.epoch
    ++ leBytes 2 h.ctx ++ leBytes 4 h.count ++ leBytes 3 h.plen

/-- A header body with its check byte (R54). -/
def withHchk (body : List Byte) : List Byte := body ++ leBytes 1 (crc8 body)

/-- The sixteen bytes of a header (R53, R54). -/
def Hdr.bytes (h : Hdr) : List Byte := withHchk h.body

/-- The header of a pending tile: HCHK complemented (R142). -/
def Hdr.pendingBytes (h : Hdr) : List Byte := h.body ++ leBytes 1 (255 - crc8 h.body)

/-- A header with its CTX field rewritten and HCHK recomputed (R59). -/
def rewriteCtx (d : List Byte) (ctx : Nat) : List Byte :=
  withHchk (slice d 0 6 ++ leBytes 2 ctx ++ slice d 8 7)

/-- The fields of header bytes; meaningful once `hdrCheck` has found no fault. -/
def Hdr.parse (d : List Byte) : Hdr :=
  { fmt := (Fmt.ofCode (fld d 0 0 4)).getD .fp32, noblk := flg d 0 4, scale := num d 1 1, layer := fld d 2 0 12
    epoch := num d 4 2, ctx := fld d 6 0 9, count := num d 8 4, plen := num d 12 3 }

/-- The number of the first check of R57 that header bytes fail; `ctxOk` is check 7. -/
def hdrCheck (ctxOk : Nat → Bool) (d : List Byte) : Option Nat :=
  if num d 15 1 ≠ crc8 (slice d 0 15) then some 1
  else match Fmt.ofCode (fld d 0 0 4) with
    | none => some 2
    | some f =>
      if !(zeroFlds d [(0, 5, 3), (2, 12, 4), (6, 9, 7)]) then some 2
      else if flg d 0 4 && !f.allowsNoblk then some 3
      else if num d 1 1 = 255 then some 4
      else if num d 8 4 = 0 || num d 8 4 > 2 ^ 24 then some 5
      else if num d 12 3 ≠ f.plen (flg d 0 4) (num d 8 4) then some 6
      else if ctxOk (fld d 6 0 9) then none else some 7

/-- Bytes of a tile with its header. -/
def Hdr.total (h : Hdr) : Nat := 16 + 16 * h.plen

/-- COUNT rounded up to a whole block where the format has block scales (R238). -/
def Hdr.limit (h : Hdr) : Nat := h.fmt.stored h.noblk h.count

/-! ### Elements of a payload (R50 to R52, R55, R60) -/

/-- The code of element `i` of width `w`, from the payload's bytes `rd` (R55). -/
def elemCode (rd : Nat → Byte) (w i : Nat) : Nat :=
  let bit := i * w
  let n := (bit % 8 + w + 7) / 8
  bitsOf (leNat ((List.range n).map fun j => rd (bit / 8 + j))) (bit % 8) w

/-- A two's-complement code of `w` bits as an exact value (R51). -/
def intVal (w code : Nat) : FVal :=
  if code.testBit (w - 1) then .fin true (2 ^ w - code % 2 ^ w) 0 else .fin false (code % 2 ^ w) 0

/-- The value of an element code without its scales (R49, R51). -/
def Fmt.codeVal (f : Fmt) (code : Nat) : FVal :=
  match f.elem with
  | some e => e.decode code
  | none => intVal f.width code

/-- The scale byte of element `i`'s block, 0x7F where there are no block scales (R52, R55). -/
def scaleByte (rd : Nat → Byte) (f : Fmt) (noblk : Bool) (count i : Nat) : Nat :=
  let b := f.blockOf noblk
  if b = 0 then 127 else (rd (16 * f.elemUnits noblk count + i / b)).toNat

/-- Element `i` of a tile without the tile's scales: its own value, NaN in a block whose scale is NaN (R50). -/
def rawElem (rd : Nat → Byte) (h : Hdr) (i : Nat) : FVal :=
  if scaleByte rd h.fmt h.noblk h.count i = 255 then .nan else h.fmt.codeVal (elemCode rd h.fmt.width i)

/-- The exact value of element `i` of a tile (R52). -/
def exactElem (rd : Nat → Byte) (h : Hdr) (i : Nat) : FVal :=
  (rawElem rd h i).scale ((scaleByte rd h.fmt h.noblk h.count i : Int) - 127 + ((h.scale : Int) - 127))

/-- An exact value decoded to binary32, with the flags of R60. -/
def decode32 (x : FVal) : Word × Flags :=
  let w := toF32 x
  (w, { ovf := (f32 w).isInf && x.isFinite, ufl := (f32 w).isZero && (match x with | .fin _ m _ => m != 0 | _ => false) })

/-- Element `i` of a tile decoded to binary32 (R60). -/
def decodeElem (rd : Nat → Byte) (h : Hdr) (i : Nat) : Word × Flags := decode32 (exactElem rd h i)

/-! ### Encode (R61 to R65) -/

/-- What a producing operation supplies to an encode (R61). -/
structure Enc where
  fmt : Fmt
  noblk : Bool
  scale : Nat
  rnd : Nat
  sat : Bool
  seed : Nat
  deriving DecidableEq, Repr

/-- An exact value encoded into a floating-point element without block scale (R63). -/
def encFloat (e : Elem) (mode : RMode) (sat : Bool) (x : FVal) : Nat × Flags :=
  match x with
  | .nan => (e.canonNaN, { nan := true })
  | .inf s =>
    if sat then (e.withSign s e.maxMag, { ovf := true })
    else match e.specials with
      | .ieee => (e.withSign s e.infMag, {})
      | _ => (e.canonNaN, { nan := true })
  | .fin s m ex =>
    let mag := e.roundMag mode m ex
    if mag > e.maxMag then
      let useMax := sat || mode == .rtz || e.specials != .ieee
      (e.withSign s (if useMax then e.maxMag else e.infMag), { ovf := true })
    else (e.withSign s mag, { ufl := mag == 0 && m != 0 })

/-- An exact value encoded as a two's-complement integer of `w` bits (R63). -/
def encInt (w : Nat) (mode : RMode) (x : FVal) : Nat × Flags :=
  match x with
  | .nan => (0, { nan := true })
  | .inf s => (if s then 2 ^ (w - 1) else 2 ^ (w - 1) - 1, { ovf := true })
  | .fin s m ex =>
    let q := roundAt mode m ex 0
    if s then
      if q > 2 ^ (w - 1) then (2 ^ (w - 1), { ovf := true })
      else ((2 ^ w - q) % 2 ^ w, { ufl := q == 0 && m != 0 })
    else
      if q > 2 ^ (w - 1) - 1 then (2 ^ (w - 1) - 1, { ovf := true })
      else (q, { ufl := q == 0 && m != 0 })

/-- A value encoded into one element, its scale already divided out. -/
def encElem (f : Fmt) (mode : RMode) (sat : Bool) (x : FVal) : Nat × Flags :=
  match f.elem with
  | some e => encFloat e mode sat x
  | none => encInt f.width mode x

/-- The larger of two exact magnitudes. -/
def maxAbs (a b : FVal) : FVal :=
  match a, b with
  | .fin _ ma ea, .fin _ mb eb => if (FVal.fin false ma ea).lt (.fin false mb eb) then .fin false mb eb else .fin false ma ea
  | a, .fin .. => a
  | _, b => b

/-- The unclamped scale byte of a block of exact values: none when it has no non-zero finite element (R64 steps 2, 3). -/
def scaleOf (f : Fmt) (xs : List FVal) : Option Int :=
  match (xs.filter FVal.isFinite).foldl maxAbs FVal.zero with
  | .fin _ m e => if m = 0 then none else some (ilog2 m e - f.anchor + 127)
  | _ => none

/-- One element of a block (R64 step 4, R65); `real` says that a saturation is an overflow (log 101: DEDUCED). -/
def encInBlock (f : Fmt) (noblk : Bool) (mode : RMode) (sat real : Bool) (x : FVal) : Nat × Flags :=
  match x with
  | .fin .. =>
    let r := encElem f mode true x
    (r.1, { r.2 with ovf := r.2.ovf && real })
  | .nan =>
    match f with
    | .mxfp8e4m3 | .mxfp8e5m2 | .sf16 => (match f.elem with | some e => e.canonNaN | none => 0, { nan := true })
    | _ => (match f.elem with | some e => if noblk then e.maxMag else 0 | none => 0, { nan := true })
  | .inf s =>
    match f with
    | .mxfp8e5m2 | .sf16 => (match f.elem with | some e => e.withSign s e.infMag | none => 0, {})
    | .mxfp8e4m3 => encElem f mode sat x
    | _ => (match f.elem with | some e => if noblk then e.withSign s e.maxMag else 0 | none => 0,
            if noblk then { ovf := true } else { nan := true })

/-- Formats whose block takes the NaN scale byte when it holds NaN or infinity (R65) (log 102: DEDUCED). -/
def Fmt.poisonsBlock : Fmt → Bool
  | .mxfp6e3m2 | .mxfp6e2m3 | .mxfp4 | .int4 => true
  | _ => false

/-- Codes of `(index, binary32)` elements that share a block, the block's scale byte and the flags
(R63 for formats without blocks, R64 and R65 for the block formats) (log 102: DEDUCED). -/
def encodeBlock (en : Enc) (xs : List (Nat × Word)) : List Nat × Nat × Flags :=
  let vals := xs.map fun p => (p.1, (f32 p.2).scale (127 - (en.scale : Int)))
  let fold (f : Nat → FVal → Nat × Flags) : List Nat × Flags :=
    let rs := vals.map fun p => f p.1 p.2
    (rs.map (·.1), rs.foldl (fun a r => a.or r.2) {})
  if en.fmt.block = 0 then
    let r := fold fun i x => encElem en.fmt (rmodeAt en.rnd en.seed i) en.sat x
    (r.1, 127, r.2)
  else if en.fmt.blockOf en.noblk = 0 then
    let r := fold fun i x => encInBlock en.fmt true (rmodeAt en.rnd en.seed i) en.sat true x
    (r.1, 127, r.2)
  else if en.fmt.poisonsBlock && vals.any (fun p => !p.2.isFinite) then
    (vals.map fun _ => 0, 255, { nan := true })
  else
    let s0 := (scaleOf en.fmt (vals.map (·.2))).getD 127
    let s := (clampInt s0 0 254).toNat
    let r := fold fun i x =>
      encInBlock en.fmt false (rmodeAt en.rnd en.seed i) en.sat (decide (254 < s0)) (x.scale (127 - (s : Int)))
    (r.1, s, r.2)

/-! ### SF16 addition (R72) -/

/-- Two decoded blocks added in binary32 and encoded to SF16 with RNE. -/
def sf16Add (scale : Nat) (sat : Bool) (xs ys : List Word) : List Nat × Nat × Flags :=
  let sums := (xs.zip ys).map fun p => fadd p.1 p.2
  let r := encodeBlock { fmt := .sf16, noblk := false, scale := scale, rnd := 0, sat := sat, seed := 0 }
    ((List.range sums.length).zip (sums.map (·.1)))
  (r.1, r.2.1, sums.foldl (fun a p => a.or p.2) r.2.2)

/-! ### The matrix array (R67 to R69) -/

/-- The exponent of the largest non-zero product. -/
def emaxOf (ps : List FVal) : Option Int :=
  ps.foldl (fun a p => match p with
    | .fin _ m e => if m = 0 then a else match a with
      | none => some (ilog2 m e)
      | some x => if x < ilog2 m e then some (ilog2 m e) else some x
    | _ => a) none

/-- A product on the fixed-point grid of its group: `trunc_toward_zero(p * 2^(40 - emax))`. -/
def gridOf (emax : Int) : FVal → Int
  | .fin s m e =>
    let k := e + 40 - emax
    let q : Nat := if k < 0 then m >>> (-k).toNat else m <<< k.toNat
    if s then -(q : Int) else q
  | _ => 0

/-- The sum G of a group of products (R67). `adj` is the scales' exponent; `nanIn` says that an operand of the group is NaN. -/
def groupSum (ps : List FVal) (adj : Int) (nanIn : Bool) : Word × Flags :=
  let pinf := ps.any (· == .inf false)
  let ninf := ps.any (· == .inf true)
  if ps.any FVal.isNaN || (pinf && ninf) then (nan32, { nan := !nanIn })
  else if pinf then (toF32 (.inf false), {})
  else if ninf then (toF32 (.inf true), {})
  else match emaxOf ps with
    | none => (0#32, {})
    | some emax =>
      let q := (ps.map (gridOf emax)).foldl (· + ·) 0
      if q = 0 then (0#32, {})
      else
        let w := toF32 (.fin (decide (q < 0)) q.natAbs (emax - 40 + adj))
        (w, { ovf := (f32 w).isInf, ufl := (f32 w).isZero })

/-- The integer of a value that is one. -/
def FVal.toInt : FVal → Int
  | .fin s m _ => if s then -(m : Int) else m
  | _ => 0

/-- A signed 32-bit word as an integer. -/
def sInt (w : Word) : Int := w.toInt

/-- An INT32 accumulator with an exact group sum added, saturating (R69). -/
def accInt (acc : Word) (sum : Int) : Word × Flags :=
  let t := sInt acc + sum
  if t > 2 ^ 31 - 1 then (0x7FFFFFFF#32, { ovf := true })
  else if t < -(2 ^ 31) then (0x80000000#32, { ovf := true })
  else (BitVec.ofInt 32 t, {})

/-- An INT32 accumulator value leaving the array under both tile scales (R69) (log 100: DEDUCED). -/
def intOut (acc : Word) (bx bw : Nat) : Word × Flags :=
  let t := sInt acc
  decode32 (.fin (decide (t < 0)) t.natAbs ((bx : Int) + bw - 254))

end Sys2Proof
end

