-- ==== Sys2Proof/Machine/Status.lean ====
section
/-! DEFINITION. Status codes (R17, R495) and the data operands that several commands carry. -/

namespace Sys2Proof

/-- The mailbox status codes of R17. -/
inductive Status where
  | ok | busy | argRange | noResource | denied | timeout | state | integrity | unsupported | aborted | quota
  deriving DecidableEq, Repr

/-- The value of a status code (R17). -/
def Status.code : Status → Nat
  | .ok => 0x00 | .busy => 0x01 | .argRange => 0x02 | .noResource => 0x03 | .denied => 0x04 | .timeout => 0x05
  | .state => 0x06 | .integrity => 0x07 | .unsupported => 0x08 | .aborted => 0x09 | .quota => 0x0A

/-- The status a code names, `ok` for a value R495 does not list. -/
def Status.ofCode : Nat → Status
  | 1 => .busy | 2 => .argRange | 3 => .noResource | 4 => .denied | 5 => .timeout | 6 => .state | 7 => .integrity
  | 8 => .unsupported | 9 => .aborted | 10 => .quota | _ => .ok

/-- What every mailbox command carries in its entry beside its own arguments (R490). -/
structure Caller where
  fn : Nat               -- 0 the physical function, 1 to 8 the virtual functions
  ctag : Nat := 0
  noirq : Bool := false
  rlen : Nat := 0x1000000
  rbuf : Nat := 0
  deriving DecidableEq, Repr

/-- What a read of a save area meets beside the errors that it holds already (R176): the bits of its sectors that have turned over
since, and whether the saved bytes fail their check code. -/
structure AreaErrs where
  errs : List (Nat × Nat)
  crc : Bool
  deriving DecidableEq, Repr

/-- What this end's receiver of a lane has found (R362, R364): the lane's polarity, and whether it holds clock lock. -/
structure LaneRx where
  flip : Bool
  locked : Bool
  deriving DecidableEq, Repr

end Sys2Proof
end

