-- ==== Sys2Proof/Syntax.lean ====
section
/-! DEFINITION. The commands of the module: one constructor per row of the command table, in its order, with the row's operands.

`c` is the caller of a mailbox command. `fn` is a PCIe function (0 physical, 1 to 8 virtual); `part` a partition by its lowest
eighth; `desc`, `block`, `bits`, `acts`, `entries`, `token` and `msg` are bytes as the spec lays them out; `ok` says that check
code and byte count of a sideband write, or the tag of a sealed read, are right (`sbMbAbort none` is one that is not); `flips`, `errs` and `upsets` name stored bits that
have turned over before the access; `off` is a register offset; `space` is a function, or 9 for the sideband. -/

namespace Sys2Proof

inductive Instr where
  -- Host registers, PCIe functions and resets (15)
  | registerWrite (space off value : Nat) (ok : Bool)  -- REGISTER_WRITE (R14)
  | unmappedRegisterAccess (space off bytes : Nat) (write : Bool)  -- UNMAPPED_REGISTER_ACCESS (R15)
  | mailboxEnable (fn logn : Nat)  -- MAILBOX_ENABLE (R487)
  | mailboxDisable (fn logn : Nat)  -- MAILBOX_DISABLE (R487)
  | mailboxDoorbell (fn index : Nat)  -- MAILBOX_DOORBELL (R488)
  | mailboxResponseDoorbell (fn index : Nat)  -- MAILBOX_RESPONSE_DOORBELL (R488)
  | submissionDoorbell (fn ring index : Nat)  -- SUBMISSION_DOORBELL (R488)
  | completionDoorbell (fn ring index : Nat)  -- COMPLETION_DOORBELL (R488)
  | completionInterruptTimer (fn ring : Nat)  -- COMPLETION_INTERRUPT_TIMER (R507)
  | msixVectorUnmask (fn vector : Nat)  -- MSIX_VECTOR_UNMASK (R507)
  | configRequest (fn off : Nat) (write : Bool)  -- CONFIG_REQUEST (R480)
  | configImageLoaded  -- CONFIG_IMAGE_LOADED (R480)
  | vfEnableSet (numVFs : Nat)  -- VF_ENABLE_SET (R479)
  | vfEnableClear  -- VF_ENABLE_CLEAR (R479)
  | vfFlr (fn : Nat)  -- VF_FLR (R512)
  | pfFlr  -- PF_FLR (R512)
  | pcieHotReset  -- PCIE_HOT_RESET (R512)
  | pcieLinkDown  -- PCIE_LINK_DOWN (R512)
  | busMasterEnableClear (fn : Nat)  -- BUS_MASTER_ENABLE_CLEAR (R511)
  | busMasterEnableSet (fn : Nat)  -- BUS_MASTER_ENABLE_SET (R511)
  | hostCopyBmeTimeout (fn seq : Nat)  -- HOST_COPY_BME_TIMEOUT (R511)
  | hostReadError (fn kind which : Nat) (late : Bool)  -- HOST_READ_ERROR (R510)
  -- Mailbox: device, partitions, contexts, clients
  | nop (c : Caller) (value : Nat)  -- NOP (R498)
  | deviceInfo (c : Caller)  -- DEVICE_INFO (R499)
  | partLayout (c : Caller) (start : Nat)  -- PART_LAYOUT (R455)
  | partConfig (c : Caller) (part pdl age lo hi : Nat)  -- PART_CONFIG (R456)
  | ctxCreate (c : Caller) (desc : List Byte)  -- CTX_CREATE (R459)
  | ctxDestroy (c : Caller) (ctx : Nat)  -- CTX_DESTROY (R471)
  | ctxStop (c : Caller) (ctx : Nat)  -- CTX_STOP (R466)
  | ctxResume (c : Caller) (ctx : Nat)  -- CTX_RESUME (R465)
  | ctxReset (c : Caller) (ctx : Nat)  -- CTX_RESET (R461)
  | ctxEvict (c : Caller) (ctx : Nat)  -- CTX_EVICT (R469)
  | ctxRestore (c : Caller) (ctx : Nat)  -- CTX_RESTORE (R470)
  | ctxStatus (c : Caller) (ctx : Nat)  -- CTX_STATUS (R500)
  | clientQuery (c : Caller) (client : Nat)  -- CLIENT_QUERY (R474)
  | clientSetQuota (c : Caller) (client quota : Nat)  -- CLIENT_SET_QUOTA (R474)
  | clientClear (c : Caller) (client : Nat)  -- CLIENT_CLEAR (R474)
  -- Mailbox: segments, parameter groups, programs, copies
  | segCreate (c : Caller) (desc : List Byte) (ctx : Nat)  -- SEG_CREATE (R262)
  | segQuery (c : Caller) (ctx seg : Nat)  -- SEG_QUERY (R261)
  | segProtect (c : Caller) (ctx seg perm : Nat)  -- SEG_PROTECT (R265)
  | segMigrate (c : Caller) (ctx seg attr pref tmo : Nat)  -- SEG_MIGRATE (R267)
  | segDelete (c : Caller) (ctx seg tmo : Nat)  -- SEG_DELETE (R268)
  | pgroupCreate (c : Caller) (desc : List Byte)  -- PGROUP_CREATE (R285)
  | pgroupDelete (c : Caller) (stack gid : Nat)  -- PGROUP_DELETE (R285)
  | nmuProgramLoad (c : Caller) (part stack prog : Nat) (image : List Byte)  -- NMU_PROGRAM_LOAD (R306)
  | nmuProgramDelete (c : Caller) (part stack prog : Nat)  -- NMU_PROGRAM_DELETE (R306)
  | stateLoad (c : Caller) (stack gid epoch cva : Nat)  -- STATE_LOAD (R316)
  | stateExport (c : Caller) (stack gid haddr : Nat)  -- STATE_EXPORT (R316)
  | weightImport (c : Caller) (stack gid key cva bytes : Nat)  -- WEIGHT_IMPORT (R317)
  | hostCopy (c : Caller) (desc ext : List Byte)  -- HOST_COPY (R508)
  -- Mailbox: rings
  | ringCreateSubmission (c : Caller) (ctx form logn base shadow : Nat)  -- RING_CREATE_SUBMISSION (R502)
  | ringCreateCompletion (c : Caller) (logn vector icnt itime base shadow : Nat)  -- RING_CREATE_COMPLETION (R502)
  | ringDestroy (c : Caller) (kind ring : Nat)  -- RING_DESTROY (R502)
  | ringReset (c : Caller) (kind ring : Nat)  -- RING_RESET (R502)
  | ringBindNotice (c : Caller) (ctx ring : Nat)  -- RING_BIND_NOTICE (R502)
  -- Mailbox: counters, streams, layouts, telemetry tables
  | counter (c : Caller) (ctx core idx value : Nat)  -- COUNTER (R122)
  | streamSlotAllocate (c : Caller) (ctx core sid : Nat)  -- STREAM_SLOT_ALLOCATE (R177)
  | streamSlotFree (c : Caller) (ctx core sid : Nat)  -- STREAM_SLOT_FREE (R177)
  | streamArm (c : Caller) (ctx core : Nat) (desc : List Byte)  -- STREAM_ARM (R183)
  | streamCancel (c : Caller) (ctx core sid : Nat)  -- STREAM_CANCEL (R188)
  | streamStatus (c : Caller) (ctx core sid : Nat)  -- STREAM_STATUS (R501)
  | bankCap (c : Caller) (part cap : Nat)  -- BANK_CAP (R202)
  | tagtmo (c : Caller) (part tmo : Nat)  -- TAGTMO (R204)
  | mcastGroupCreate (c : Caller) (ctx leader : Nat) (bits : List Byte)  -- MCAST_GROUP_CREATE (R212)
  | mcastGroupDelete (c : Caller) (group : Nat)  -- MCAST_GROUP_DELETE (R212)
  | layoutCreate (c : Caller) (ctx : Nat) (desc : List Byte)  -- LAYOUT_CREATE (R234)
  | layoutDelete (c : Caller) (ctx handle : Nat)  -- LAYOUT_DELETE (R228)
  | histogramRead (c : Caller) (ctx first count : Nat)  -- HISTOGRAM_READ (R333)
  | histogramClear (c : Caller) (ctx first count : Nat)  -- HISTOGRAM_CLEAR (R333)
  | formatTableWrite (c : Caller) (ctx first count : Nat) (entries : List Byte)  -- FORMAT_TABLE_WRITE (R335)
  | formatTableRead (c : Caller) (ctx first count : Nat)  -- FORMAT_TABLE_READ (R498)
  | q1Tblload (c : Caller) (ctx pair fcva dcva : Nat)  -- Q1_TBLLOAD (R149)
  -- Mailbox: jobs, routes, windows, collectives, ports
  | deviceId (c : Caller) (devid : Nat)  -- DEVICE_ID (R391)
  | jobJoin (c : Caller) (part job midx nmem : Nat) (table : List Byte)  -- JOB_JOIN (R393)
  | jobLeave (c : Caller) (part job : Nat)  -- JOB_LEAVE (R393)
  | route (c : Caller) (first count : Nat) (entries : List Byte)  -- ROUTE (R398)
  | windowOpen (c : Caller) (desc : List Byte)  -- WINDOW_OPEN (R403)
  | windowClose (c : Caller) (rwin : Nat)  -- WINDOW_CLOSE (R405)
  | collective (c : Caller) (desc : List Byte)  -- COLLECTIVE (R409)
  | collCancel (c : Caller) (part job coll : Nat)  -- COLL_CANCEL (R419)
  | portEnable (c : Caller) (port : Nat)  -- PORT_ENABLE (R386)
  | portDisable (c : Caller) (port : Nat)  -- PORT_DISABLE (R386)
  | portLaneRestore (c : Caller) (port : Nat)  -- PORT_LANE_RESTORE (R386)
  | portCreditAllocation (c : Caller) (port : Nat) (init : List Nat)  -- PORT_CREDIT_ALLOCATION (R386)
  -- Mailbox: optimizer sets, commit groups, trees
  | role (c : Caller) (elig : Nat)  -- ROLE (R42)
  | optSetCreate (c : Caller) (part stmo : Nat)  -- OPT_SET_CREATE (R283)
  | optSetDelete (c : Caller) (part set : Nat)  -- OPT_SET_DELETE (R283)
  | optSetQuery (c : Caller) (part set : Nat)  -- OPT_SET_QUERY (R305)
  | updateStage (c : Caller) (part set : Nat) (block : List Byte)  -- UPDATE_STAGE (R302)
  | setResolveCommit (c : Caller) (part set : Nat)  -- SET_RESOLVE_COMMIT (R429)
  | setResolveAbort (c : Caller) (part set : Nat)  -- SET_RESOLVE_ABORT (R429)
  | stepBind (c : Caller) (ctx set sig score rcva : Nat)  -- STEP_BIND (R336)
  | lossScaleSet (c : Caller) (part set dyn lse lsmin lsmax ngrow : Nat)  -- LOSS_SCALE_SET (R343)
  | lossScaleQuery (c : Caller) (part set : Nat)  -- LOSS_SCALE_QUERY (R343)
  | commitGroupStage (c : Caller) (part buf : Nat) (acts : List Byte)  -- COMMIT_GROUP_STAGE (R425)
  | commitGroupApply (c : Caller) (part buf : Nat)  -- COMMIT_GROUP_APPLY (R426)
  | commitGroupBind (c : Caller) (part buf set : Nat)  -- COMMIT_GROUP_BIND (R428)
  | commitGroupDiscard (c : Caller) (part buf : Nat)  -- COMMIT_GROUP_DISCARD (R423)
  | commitGroupQuery (c : Caller) (part buf : Nat)  -- COMMIT_GROUP_QUERY (R423)
  | jobStepBind (c : Caller) (part job sets nctx sig score : Nat)  -- JOB_STEP_BIND (R430)
  | jobStepUnbind (c : Caller) (part job sets : Nat)  -- JOB_STEP_UNBIND (R430)
  | treeForm (c : Caller) (job fan skipovf vtmo dectmo rstmo : Nat) (elig : List Byte)  -- TREE_FORM (R437)
  | jobFault (c : Caller) (part job : Nat)  -- JOB_FAULT (R441)
  -- Mailbox and sessions: the Security Enclave
  | spdm (c : Caller) (msg : List Byte) (opens ends : Option Nat)  -- SPDM (R531)
  | keyDeliver (transport session : Nat) (msg : List Byte)  -- KEY_DELIVER (R534)
  | keyErase (transport session : Nat) (msg : List Byte)  -- KEY_ERASE (R534)
  | keyQuery (transport session : Nat) (msg : List Byte)  -- KEY_QUERY (R533)
  | spdmSessionTimeout (transport session : Nat)  -- SPDM_SESSION_TIMEOUT (R530)
  | confModeEnter (c : Caller) (session : Nat)  -- CONF_MODE_ENTER (R537)
  | confModeLeave (c : Caller)  -- CONF_MODE_LEAVE (R537)
  | confModeKeyUpdate (c : Caller)  -- CONF_MODE_KEY_UPDATE (R538)
  | keyRelease (c : Caller) (part handle : Nat)  -- KEY_RELEASE (R535)
  | keyReleaseErase (c : Caller) (part handle : Nat)  -- KEY_RELEASE_ERASE (R536)
  | keyReleaseQuery (c : Caller) (part handle : Nat)  -- KEY_RELEASE_QUERY (R535)
  | debugUnlockChallenge (c : Caller)  -- DEBUG_UNLOCK_CHALLENGE (R540)
  | debugUnlock (c : Caller) (token : List Byte)  -- DEBUG_UNLOCK (R541)
  | debugZeroiseTimeout  -- DEBUG_ZEROISE_TIMEOUT (R541)
  -- Mailbox: power
  | powerStateForce (c : Caller) (kind unit target : Nat)  -- POWER_STATE_FORCE (R574)
  | powerStateRelease (c : Caller) (kind unit : Nat)  -- POWER_STATE_RELEASE (R574)
  | powerStateSetDivider (c : Caller) (part div : Nat)  -- POWER_STATE_SET_DIVIDER (R574)
  | ltol (c : Caller) (part tol : Nat)  -- LTOL (R573)
  | powerCap (c : Caller) (cap : Nat)  -- POWER_CAP (R578)
  | powerStatus (c : Caller)  -- POWER_STATUS (R582)
  -- Mailbox: faults, telemetry, firmware
  | faultConfigWrite (c : Caller) (src cfg : Nat)  -- FAULT_CONFIG_WRITE (R546)
  | faultConfigRead (c : Caller)  -- FAULT_CONFIG_READ (R546)
  | faultConfigFaultN (c : Caller) (mode fnpw : Nat)  -- FAULT_CONFIG_FAULT_N (R546)
  | faultConfigRelease (c : Caller)  -- FAULT_CONFIG_RELEASE (R555)
  | faultConfigPatrol (c : Caller) (iper sper : Nat)  -- FAULT_CONFIG_PATROL (R546)
  | faultConfigInject (c : Caller) (src unit part ctx : Nat)  -- FAULT_CONFIG_INJECT (R546)
  | faultConfigWatchdog (c : Caller) (wdt : Nat)  -- FAULT_CONFIG_WATCHDOG (R546)
  | faultRecordsRead (c : Caller) (start max : Nat)  -- FAULT_RECORDS_READ (R552)
  | faultRecordsPersistent (c : Caller)  -- FAULT_RECORDS_PERSISTENT (R552)
  | memStatus (c : Caller)  -- MEM_STATUS (R164)
  | corrLog (c : Caller) (stack : Nat)  -- CORR_LOG (R281)
  | portStatus (c : Caller)  -- PORT_STATUS (R387)
  | fabricStatus (c : Caller)  -- FABRIC_STATUS (R421)
  | fwUpdateWrite (c : Caller) (kind : Nat) (img : List Byte)  -- FW_UPDATE_WRITE (R601)
  | fwUpdateQuery (c : Caller)  -- FW_UPDATE_QUERY (R603)
  | logRead (c : Caller) (start max : Nat)  -- LOG_READ (R603)
  | crashDumpRead (c : Caller)  -- CRASH_DUMP_READ (R603)
  | crashDumpClear (c : Caller)  -- CRASH_DUMP_CLEAR (R603)
  -- Tasks on cores
  | submissionTaskEntry (fn ring : Nat)  -- SUBMISSION_TASK_ENTRY (R113)
  | q1SubmissionEntry (fn ring : Nat)  -- Q1_SUBMISSION_ENTRY (R148)
  -- Streams and multicast
  | submissionArmEntry (fn ring : Nat)  -- SUBMISSION_ARM_ENTRY (R183)
  -- Tasks on cores
  | queueEntryPlaced (fn ring : Nat)  -- QUEUE_ENTRY_PLACED (R463)
  | taskDispatch (core : Nat)  -- TASK_DISPATCH (R116)
  | dispatchAgeing (core ctx : Nat)  -- DISPATCH_AGEING (R464)
  | passEnd (core eng : Nat) (parity : Option Nat) (upsets : List (Nat × Nat))  -- PASS_END (R95)
  | chunkDrainEnd (core eng : Nat)  -- CHUNK_DRAIN_END (R92)
  | copyBlockEnd (core entry word flip : Nat)  -- COPY_BLOCK_END (R253)
  | taskEnd (core entry cycles : Nat)  -- TASK_END (R142)
  | signalArrival (index : Nat)  -- SIGNAL_ARRIVAL (R120)
  | tableSetSwap (core ctx : Nat) (bad : AreaErrs)  -- TABLE_SET_SWAP (R174)
  | stateSaveComplete (core ctx : Nat) (upsets : List (Nat × Nat × Nat))  -- STATE_SAVE_COMPLETE (R175)
  | stateRestoreComplete (core ctx : Nat) (bad : AreaErrs)  -- STATE_RESTORE_COMPLETE (R176)
  -- Streams and multicast
  | isleAccess (core : Nat) (flips : List (Nat × Nat))  -- ISLE_ACCESS (R152)
  -- Tasks on cores
  | isleScrubWrite (core word : Nat)  -- ISLE_SCRUB_WRITE (R161)
  | scrubAbandon (core word : Nat)  -- SCRUB_ABANDON (R161)
  -- Contexts
  | dependencyTimeout (core ctx kind which : Nat)  -- DEPENDENCY_TIMEOUT (R223)
  | preemptionDeadline (ctx : Nat)  -- PREEMPTION_DEADLINE (R467)
  | contextStopped (ctx : Nat)  -- CONTEXT_STOPPED (R466)
  | stopTimeout (ctx : Nat)  -- STOP_TIMEOUT (R466)
  | teardownComplete (ctx : Nat)  -- TEARDOWN_COMPLETE (R471)
  -- Streams and multicast
  | streamIssue (core : Nat)  -- STREAM_ISSUE (R207)
  | backgroundAgeing (core sid : Nat)  -- BACKGROUND_AGEING (R208)
  | streamResponse (core tag gen : Nat)  -- STREAM_RESPONSE (R198)
  | mcastCredit (group member : Nat)  -- MCAST_CREDIT (R214)
  | mcastTileArrival (group member : Nat)  -- MCAST_TILE_ARRIVAL (R215)
  | versionResolution (core sid : Nat)  -- VERSION_RESOLUTION (R290)
  | tagTimeout (core tag : Nat)  -- TAG_TIMEOUT (R204)
  | tagQuarantineEnd (core tag : Nat)  -- TAG_QUARANTINE_END (R203)
  -- Stacks, near-memory units, migrations
  | nmuRequestArrival (stack core : Nat)  -- NMU_REQUEST_ARRIVAL (R273)
  | sorterAdmit (stack : Nat)  -- SORTER_ADMIT (R273)
  | bankService (stack chan pc bank aged : Nat) (errs : List (Nat × Nat))  -- BANK_SERVICE (R274)
  | dramRefresh (stack : Nat)  -- DRAM_REFRESH (R255)
  | stageClaimsGranted (part set : Nat)  -- STAGE_CLAIMS_GRANTED (R302)
  | stageTimeout (part set : Nat)  -- STAGE_TIMEOUT (R302)
  | stageKernelsEnd (part set : Nat)  -- STAGE_KERNELS_END (R302)
  | formatRefresh (part set : Nat)  -- FORMAT_REFRESH (R337)
  | migrationHoldersEnded (ctx seg : Nat)  -- MIGRATION_HOLDERS_ENDED (R267)
  | migrationTimeout (ctx seg : Nat)  -- MIGRATION_TIMEOUT (R267)
  | migrationCopyComplete (ctx seg : Nat)  -- MIGRATION_COPY_COMPLETE (R267)
  -- Job trees
  | hello (port vc : Nat)  -- HELLO (R438)
  | treeOk (port vc : Nat)  -- TREE_OK (R437)
  | treeFormTimeout (job : Nat)  -- TREE_FORM_TIMEOUT (R437)
  | vote (port vc : Nat)  -- VOTE (R439)
  | voteTimeout (job who : Nat)  -- VOTE_TIMEOUT (R439)
  | decide (port vc : Nat)  -- DECIDE (R434)
  | decisionTimeout (job : Nat)  -- DECISION_TIMEOUT (R441)
  | fault (port vc : Nat)  -- FAULT (R442)
  | restart (port vc : Nat)  -- RESTART (R443)
  | restartStopComplete (job : Nat)  -- RESTART_STOP_COMPLETE (R443)
  | stateRpt (port vc : Nat)  -- STATE_RPT (R443)
  | restartHoldEnd (job : Nat)  -- RESTART_HOLD_END (R443)
  | resume (port vc : Nat)  -- RESUME (R445)
  | restartTimeout (job : Nat)  -- RESTART_TIMEOUT (R447)
  -- Links
  | trainingFrame (port lane ctl : Nat) (rx : LaneRx) (rdy pre : Bool) (preset ask : Nat)  -- TRAINING_FRAME (R362)
  | trainingTimeout (port : Nat)  -- TRAINING_TIMEOUT (R363)
  | trainingWaitEnd (port : Nat)  -- TRAINING_WAIT_END (R363)
  | fastRetrainTimeout (port : Nat)  -- FAST_RETRAIN_TIMEOUT (R382)
  | codeword (port ctl : Nat) (corrected : List Nat) (bad : Bool)  -- CODEWORD (R361)
  | flitReceive (port : Nat) (flit : List Byte) (failed : Bool)  -- FLIT_RECEIVE (R369)
  | flitTransmit (port : Nat)  -- FLIT_TRANSMIT (R375)
  | replayTimeout (port : Nat)  -- REPLAY_TIMEOUT (R372)
  | recoveryTimeout (port : Nat)  -- RECOVERY_TIMEOUT (R370)
  | idleFlitTimer (port : Nat)  -- IDLE_FLIT_TIMER (R371)
  | creditRelease (port vc : Nat)  -- CREDIT_RELEASE (R376)
  | lsymWindowEnd (port lane : Nat)  -- LSYM_WINDOW_END (R378)
  | laneLockLoss (port lane : Nat)  -- LANE_LOCK_LOSS (R378)
  | disableDrainTimeout (port : Nat)  -- DISABLE_DRAIN_TIMEOUT (R386)
  | config (port : Nat) (flit : List Byte) (failed : Bool)  -- CONFIG (R384)
  | retrain (port : Nat) (flit : List Byte) (failed : Bool)  -- RETRAIN (R385)
  | down (port : Nat) (flit : List Byte) (failed : Bool)  -- DOWN (R385)
  | echoReq (port : Nat) (flit : List Byte) (failed : Bool)  -- ECHO_REQ (R384)
  | echoRsp (port : Nat) (flit : List Byte) (failed : Bool)  -- ECHO_RSP (R384)
  -- Packets and collectives
  | put (port vc : Nat)  -- PUT (R403)
  | getReq (port vc : Nat)  -- GET_REQ (R403)
  | putAck (port vc : Nat)  -- PUT_ACK (R404)
  | getRsp (port vc : Nat)  -- GET_RSP (R405)
  | nack (port vc : Nat)  -- NACK (R403)
  | red (port vc : Nat)  -- RED (R411)
  | dlv (port vc : Nat)  -- DLV (R414)
  | rep (port vc : Nat)  -- REP (R415)
  | bar (port vc : Nat)  -- BAR (R416)
  | barRel (port vc : Nat)  -- BAR_REL (R416)
  | packetForward (port vc : Nat)  -- PACKET_FORWARD (R399)
  | packetQueueTimeout (port vc : Nat)  -- PACKET_QUEUE_TIMEOUT (R397)
  | collectiveTimeout (part job coll : Nat)  -- COLLECTIVE_TIMEOUT (R418)
  -- Fault collection
  | faultSweep  -- FAULT_SWEEP (R547)
  | blockResetComplete (ukind unit : Nat)  -- BLOCK_RESET_COMPLETE (R548)
  | faultNPulseEnd  -- FAULT_N_PULSE_END (R555)
  | faultNGapEnd  -- FAULT_N_GAP_END (R555)
  | faultNHoldRelease (ok : Bool)  -- FAULT_N_HOLD_RELEASE (R554)
  | islePatrolRead (core : Nat) (flips : List (Nat × Nat))  -- ISLE_PATROL_READ (R556)
  | stackPatrolRead (stack : Nat) (errs : List (Nat × Nat))  -- STACK_PATROL_READ (R557)
  | controlSramPatrol (fl : List (Nat × Nat))  -- CONTROL_SRAM_PATROL (R558)
  | watchdogKick  -- WATCHDOG_KICK (R561)
  | watchdogFirstExpiry  -- WATCHDOG_FIRST_EXPIRY (R561)
  | watchdogSecondExpiry  -- WATCHDOG_SECOND_EXPIRY (R561)
  | enclaveWatchdogExpiry  -- ENCLAVE_WATCHDOG_EXPIRY (R562)
  -- Power, clocks, temperature
  | powerSample (vin iin : Nat)  -- POWER_SAMPLE (R566)
  | inputVoltageLow  -- INPUT_VOLTAGE_LOW (R566)
  | inputVoltageOutOfRange  -- INPUT_VOLTAGE_OUT_OF_RANGE (R566)
  | fastLimit  -- FAST_LIMIT (R567)
  | fastLimitEnd  -- FAST_LIMIT_END (R567)
  | inputOvercurrent  -- INPUT_OVERCURRENT (R566)
  | powerCapWindow (avg : Nat)  -- POWER_CAP_WINDOW (R579)
  | thermalSample (junction stackTs others : List Int)  -- THERMAL_SAMPLE (R580)
  | thermalWindow (eighth : Nat)  -- THERMAL_WINDOW (R580)
  | thermalTrip  -- THERMAL_TRIP (R581)
  | dividerChange (eighth : Nat)  -- DIVIDER_CHANGE (R577)
  | domainIdleDescent (kind unit sub : Nat)  -- DOMAIN_IDLE_DESCENT (R568)
  | domainWake (kind unit sub : Nat)  -- DOMAIN_WAKE (R571)
  | railPowerGoodLost (domain : Nat)  -- RAIL_POWER_GOOD_LOST (R543)
  | pllLock  -- PLL_LOCK (R575)
  | pllLockTimeout  -- PLL_LOCK_TIMEOUT (R590)
  | pllLockLoss  -- PLL_LOCK_LOSS (R575)
  -- Supplies, pins, start-up, flash
  | alwaysOnPowerUp (vin : Nat) (pwrEn resetN perstN eoffN mgr : Bool) (slot fold : Nat)  -- ALWAYS_ON_POWER_UP (R565)
  | alwaysOnPowerLoss  -- ALWAYS_ON_POWER_LOSS (R553)
  | pwrEnAssert  -- PWR_EN_ASSERT (R589)
  | railsInRegulation  -- RAILS_IN_REGULATION (R589)
  | railRegulationTimeout (domain : Nat)  -- RAIL_REGULATION_TIMEOUT (R589)
  | pwrEnDeassert  -- PWR_EN_DEASSERT (R593)
  | resetNAssert  -- RESET_N_ASSERT (R592)
  | resetNDeassert  -- RESET_N_DEASSERT (R592)
  | chipResetHoldEnd  -- CHIP_RESET_HOLD_END (R592)
  | perstNAssert  -- PERST_N_ASSERT (R592)
  | perstNDeassert  -- PERST_N_DEASSERT (R592)
  | eoffNAssert  -- EOFF_N_ASSERT (R593)
  | eoffNDeassert  -- EOFF_N_DEASSERT (R593)
  | strapChange (mgr : Bool) (slot fold : Nat)  -- STRAP_CHANGE (R588)
  | enclaveBootComplete (katOk : Bool)  -- ENCLAVE_BOOT_COMPLETE (R524)
  | stackTrainingTimeout (stack step : Nat)  -- STACK_TRAINING_TIMEOUT (R256)
  | arraySelfTestComplete (found : List (Nat × Nat × Nat × Bool))  -- ARRAY_SELF_TEST_COMPLETE (R100)
  | droverInitTimeout  -- DROVER_INIT_TIMEOUT (R590)
  | ready  -- READY (R590)
  -- Sideband
  | sbSetReadPointer (off : Nat) (ok : Bool)  -- SB_SET_READ_POINTER (R596)
  | sbRegisterRead  -- SB_REGISTER_READ (R596)
  | sbMbDataWrite (value : Nat) (ok : Bool)  -- SB_MB_DATA_WRITE (R599)
  | sbMbDataRead  -- SB_MB_DATA_READ (R599)
  | sbMbLenWrite (value : Nat) (ok : Bool)  -- SB_MB_LEN_WRITE (R599)
  | sbEvtClear (value : Nat) (ok : Bool)  -- SB_EVT_CLEAR (R598)
  | smbusAlertResponse  -- SMBUS_ALERT_RESPONSE (R598)
  | sbMbAbort (v : Option Nat)  -- SB_MB_ABORT (R599)
  | fwWrite (kind : Nat) (ok : Bool)  -- FW_WRITE (R601)
  | sbLogRead (ok : Bool)  -- SB_LOG_READ (R600)
  | dumpRead (ok : Bool)  -- DUMP_READ (R604)
  | dumpClear (ok : Bool)  -- DUMP_CLEAR (R600)
  | fstoreRead (ok : Bool)  -- FSTORE_READ (R600)
  | chipReset (ok : Bool)  -- CHIP_RESET (R600)
  | sbMbWordTimeout  -- SB_MB_WORD_TIMEOUT (R599)
  | mctpPacket (som eom : Bool) (body : List Byte) (opens ends : Option Nat) (ok : Bool)  -- MCTP_PACKET (R602)
  | mctpReassemblyTimeout  -- MCTP_REASSEMBLY_TIMEOUT (R602)
  | setEndpointId (eid : Nat)  -- SET_ENDPOINT_ID (R602)
  | getEndpointId  -- GET_ENDPOINT_ID (R602)
  | getEndpointUuid  -- GET_ENDPOINT_UUID (R602)
  | getMctpVersionSupport  -- GET_MCTP_VERSION_SUPPORT (R602)
  | getMessageTypeSupport  -- GET_MESSAGE_TYPE_SUPPORT (R602)
  -- Test access port
  | samplePreload (cells load : List Bool)  -- SAMPLE_PRELOAD (R605)
  | extest (cells load : List Bool)  -- EXTEST (R605)
  | clamp  -- CLAMP (R605)
  | highz  -- HIGHZ (R605)
  | extestPulse (cells load : List Bool)  -- EXTEST_PULSE (R605)
  | extestTrain (cells load : List Bool)  -- EXTEST_TRAIN (R605)
  | bypass  -- BYPASS (R605)
  | tapPrivateInstruction (opcode : Nat)  -- TAP_PRIVATE_INSTRUCTION (R605)
  | tapReset  -- TAP_RESET (R605)
  -- Host registers, PCIe functions and resets (15)
  | hostReadCompletion (fn kind which : Nat) (bytes : List Byte) (ok : Bool)  -- HOST_READ_COMPLETION (R489)
  -- Completions of running commands
  | zeroingComplete (seq : Nat)  -- ZEROING_COMPLETE (R263)
  | regenerationComplete (stack gid : Nat)  -- REGENERATION_COMPLETE (R316)
  | regenerationTimeout (stack gid : Nat)  -- REGENERATION_TIMEOUT (R316)
  -- Supplies, pins, start-up, flash
  | flashProgrammingComplete  -- FLASH_PROGRAMMING_COMPLETE (R601)
  | crashCaptureComplete  -- CRASH_CAPTURE_COMPLETE (R604)
  -- Job trees
  | restartStopTimeout (job : Nat)  -- RESTART_STOP_TIMEOUT (R443)
  | stateReportTimeout (job : Nat)  -- STATE_REPORT_TIMEOUT (R443)
  -- Power, clocks, temperature
  | forcedStateReached (kind unit : Nat)  -- FORCED_STATE_REACHED (R574)
  deriving DecidableEq, Repr

end Sys2Proof
end

