-- ==== Sys2Proof/Decode.lean ====
section
/-! DEFINITION. Commands from the table's bits. The command table of this block gives no row any bits. -/

namespace Sys2Proof

/-- The command that `nbits` bits of the table spell: no row has bits (log 8: DESIGN CHOICE). -/
def decodeTableWord (_nbits _w : Nat) : Option Instr := none

end Sys2Proof
end

