-- ==== Sys2Proof/Config.lean ====
section
/-! DEFINITION. What an implementation fixes and the spec leaves open: opaque constants that no proof can look into. -/

namespace Sys2Proof.Config

/-- A value the spec does not state, by the place that asks for it and the number of the draw (log 1: DESIGN CHOICE). -/
opaque freeValue : Nat → Nat → Nat

/-- Sectors into which the NMU's internal encoding compresses a unit's bytes (R269 to R271): read through `unitSectors`
(log 33: DESIGN CHOICE). -/
opaque compressed : List Byte → Nat

/-- JOB and DPART, as `JOB * 8 + DPART`, of a remote request of a partition to a device and window where the member tables
leave more than one choice or none (R394 names the fields, no rule says where an arm takes them from) (log 55: DESIGN CHOICE). -/
opaque remoteTarget : Nat → Nat → Nat → Nat

/-- SCALE_BASE, LAYER, EPOCH and NOBLK of the source tile that another module supplies to a collective, as SCALE_BASE + 256 * LAYER
+ 2^20 * EPOCH + 2^36 * NOBLK, by job, COLL and tile: no packet carries them (R413, R415) (log 58: DESIGN CHOICE). -/
opaque sourceTile : Nat → Nat → Nat → Nat

/-- ROOTH: SHA-384 digests of the four image-signing public keys (R518) (log 5: DESIGN CHOICE). -/
opaque rootHash : Nat → Nat

/-- DBGH: SHA-384 digests of the two debug-authority public keys (R518) (log 5: DESIGN CHOICE). -/
opaque debugHash : Nat → Nat

/-- UDS, the 384-bit unique device secret (R518) (log 5: DESIGN CHOICE). -/
opaque uds : Nat

/-- The fixed debug secret that stands in for UDS at debug level 2 (R539). -/
opaque debugSecret : Nat

/-- The P-384 private key that 48 bytes of HKDF output give: no rule says how (R525) (log 162: DESIGN CHOICE). -/
opaque privateKey : List Byte → Nat

/-- The certificates made outside the module, in DER: the SHA-384 of the root, and root, stepping intermediate and device identity
certificate, which boot flash holds (R525). -/
opaque certificates : Nat × List Byte

/-- The alias certificate before its signature, in X.509 v3 DER, of a public key and the extension with the measured values (R525)
(log 162: DESIGN CHOICE). -/
opaque aliasBody : Nat × Nat → List Byte → List Byte

/-- A certificate of a body and its signature (R525) (log 162: DESIGN CHOICE). -/
opaque certificate : List Byte → Nat × Nat → List Byte

/-- Where the SR-IOV capability lies in the configuration space of the physical function (R479), which the spec does not state
(log 7: PRESUMED). -/
opaque sriovCap : Nat

/-- Measurement 1: the SHA-384 digest of the enclave ROM (R526). -/
opaque romDigest : Nat

/-- The images with which the module is delivered, by kind: VERSION, SVN, MINSVN, digest (R520). -/
opaque factoryImage : Nat → Nat × Nat × Nat × Nat

/-- The number that a fault record gives a sensor: kind (0 junction, 1 stack) and index; the spec numbers no sensor (R543)
(log 92: DESIGN CHOICE). -/
opaque sensorNumber : Nat → Nat → Nat

/-- The state of a PRBS13Q generator after the 3,904 symbols of one training frame: IEEE 802.3 defines it, the spec names it alone
(R362) (log 160: DESIGN CHOICE). -/
opaque prbs13q : Nat → Nat

end Sys2Proof.Config
end

