-- ==== Sys2Proof/Machine/Crypto.lean ====
section
/-! DEFINITION. The algorithms of R519 and R317: SHA-384 (FIPS 180-4), AES-256-GCM (FIPS 197, SP 800-38D), ECDSA on curve P-384
(FIPS 186-5), HKDF with SHA-384 (RFC 5869), all over natural numbers. Byte strings are big-endian, as those standards give them. -/

namespace Sys2Proof

/-- The number that bytes spell, the first most significant. -/
def beNat (bs : List Byte) : Nat := bs.foldl (fun a b => a * 256 + b.toNat) 0

/-- `n` bytes of a number, most significant first. -/
def beBytes (n x : Nat) : List Byte := (leBytes n x).reverse

/-- `x` to the power `e` modulo `m`, for `e` below 2^n. -/
def powMod (m x e n : Nat) : Nat :=
  (List.range n).foldl (fun a i => let b := a * a % m; if e.testBit (n - 1 - i) then b * x % m else b) 1

/-! ### SHA-384 -/

/-- The 80 round constants, 64 bits each, the first lowest. -/
def sha384K : Nat :=
  0x59F111F1B605D0193956C25BF348B538E9B5DBA58189DBBCB5C0FBCFEC4D3B2F7137449123EF65CD428A2F98D728AE22
    + 0x550C7DC3D5FFB4E2243185BE4EE4B28C12835B0145706FBED807AA98A3030242AB1C5ED5DA6D8118923F82A4AF194F9B * 2 ^ 384
    + 0xEFBE4786384F25E3E49B69C19EF14AD2C19BF174CF6926949BDC06A725C7123580DEB1FE3B1696B172BE5D74F27B896F * 2 ^ 768
    + 0x76F988DA831153B55CB0A9DCBD41FBD44A7484AA6EA6E4832DE92C6F592B0275240CA1CC77AC9C650FC19DC68B8CD5B5 * 2 ^ 1152
    + 0xD5A79147930AA725C6E00BF33DA88FC2BF597FC7BEEF0EE4B00327C898FB213FA831C66D2DB43210983E5152EE66DFAB * 2 ^ 1536
    + 0x53380D139D95B3DF4D2C6DFC5AC42AED2E1B21385C26C92627B70A8546D22FFC142929670A0E6E7006CA6351E003826F * 2 ^ 1920
    + 0xA81A664BBC423001A2BFE8A14CF1036492722C851482353B81C2C92E47EDAEE6766A0ABB3C77B2A8650A73548BAF63DE * 2 ^ 2304
    + 0x106AA07032BBD1B8F40E35855771202AD69906245565A910D192E819D6EF5218C76C51A30654BE30C24B8B70D0F89791 * 2 ^ 2688
    + 0x4ED8AA4AE3418ACB391C0CB3C5C95A6334B0BCB5E19B48A82748774CDF8EEB991E376C085141AB5319A4C116B8D2D0C8 * 2 ^ 3072
    + 0x8CC702081A6439EC84C87814A1F0AB7278A5636F43172F60748F82EE5DEFB2FC682E6FF3D6B2B8A35B9CCA4F7763E373 * 2 ^ 3456
    + 0xD186B8C721C0C207CA273ECEEA26619CC67178F2E372532BBEF9A3F7B2C67915A4506CEBDE82BDE990BEFFFA23631E28 * 2 ^ 3840
    + 0x1B710B35131C471B113F9804BEF90DAE0A637DC5A2C898A606F067AA72176FBAF57D4F7FEE6ED178EADA7DD6CDE0EB1E * 2 ^ 4224
    + 0x597F299CFC657E2A4CC5D4BECB3E42B6431D67C49C100D4C3C9EBE0A15C9BEBC32CAAB7B40C7249328DB77F523047D84 * 2 ^ 4608
    + 0x00000000000000000000000000000000000000000000000000000000000000006C44198C4A4758175FCB6FAB3AD6FAEC * 2 ^ 4992

/-- The initial hash value, eight words, the first most significant. -/
def sha384H : Nat :=
  0x9159015A3070DD17152FECD8F70E593967332667FFC00B318EB44A8768581511DB0C2E0D64F98FA747B5481DBEFA4FA4
    + 0x0000000000000000000000000000000000000000000000000000000000000000CBBB9D5DC1059ED8629A292A367CD507 * 2 ^ 384

/-- A 64-bit word turned right. -/
def rotr64 (n x : Nat) : Nat := (x >>> n) ||| ((x <<< (64 - n)) % 2 ^ 64)

/-- Words of the message schedule, `w` the last sixteen, newest first; `n` more are made. -/
def shaSchedule : Nat → List Nat → List Nat
  | 0, w => w
  | n + 1, w =>
    let a := w.getD 1 0
    let b := w.getD 14 0
    let s1 := rotr64 19 a ^^^ rotr64 61 a ^^^ (a >>> 6)
    let s0 := rotr64 1 b ^^^ rotr64 8 b ^^^ (b >>> 7)
    shaSchedule n ((s1 + w.getD 6 0 + s0 + w.getD 15 0) % 2 ^ 64 :: w)

/-- One round. -/
def shaRound (h : List Nat) (kw : Nat) : List Nat :=
  match h with
  | [a, b, c, d, e, f, g, x] =>
    let s1 := rotr64 14 e ^^^ rotr64 18 e ^^^ rotr64 41 e
    let ch := (e &&& f) ^^^ ((2 ^ 64 - 1 - e) &&& g)
    let t1 := x + s1 + ch + kw
    let s0 := rotr64 28 a ^^^ rotr64 34 a ^^^ rotr64 39 a
    let maj := (a &&& b) ^^^ (a &&& c) ^^^ (b &&& c)
    [(t1 + s0 + maj) % 2 ^ 64, a, b, c, (d + t1) % 2 ^ 64, e, f, g]
  | _ => h

/-- One 128-byte block. -/
def shaBlock (h : List Nat) (blk : List Byte) : List Nat :=
  let w0 := (List.range 16).map fun i => beNat (slice blk (8 * (15 - i)) 8)
  let ws := (shaSchedule 64 w0).reverse
  let r := ((List.range 80).zip ws).foldl (fun a p => shaRound a (bitsOf sha384K (64 * p.1) 64 + p.2)) h
  (h.zip r).map fun p => (p.1 + p.2) % 2 ^ 64

/-- SHA-384 of bytes, as a number of 384 bits. -/
def sha384 (bs : List Byte) : Nat :=
  let n := bs.length
  let pad := bs ++ 0x80#8 :: List.replicate ((239 - n % 128) % 128) 0#8 ++ beBytes 16 (8 * n)
  let h0 := (List.range 8).map fun i => bitsOf sha384H (64 * (7 - i)) 64
  let h := (List.range (pad.length / 128)).foldl (fun a i => shaBlock a (slice pad (128 * i) 128)) h0
  (h.take 6).foldl (fun a x => a * 2 ^ 64 + x) 0

/-! ### AES-256-GCM -/

/-- The substitution table, entry 0 lowest. -/
def aesSbox : Nat :=
  0x1531D871F1E5A534CCF73F362693FDB7C072A49CAFA2D4ADF04759FA7DC982CA76ABD7FE2B670130C56F6BF27B777C63
    + 0xCF584C4A39BECB6A5BB1FC20ED00D153842FE329B3D63B52A05A6E1B1A2C830975B227EBE28012079A059618C323C704 * 2 ^ 384
    + 0x73195D643D7EA7C41744975FEC130CCDD2F3FF1021DAB6BCF5389D928F40A351A89F3C507F02F94585334D43FBAAEFD0 * 2 ^ 768
    + 0x08AE7A65EAF4566CA94ED58D6D37C8E779E4959162ACD3C25C2406490A3A32E0DB0B5EDE14B8EE4688902A22DC4F8160 * 2 ^ 1152
    + 0xDF2855CEE9871E9B948ED9691198F8E19E1DC186B95735610EF6034866B53E708A8BBD4B1F74DDE8C6B4A61C2E2578BA * 2 ^ 1536
    + 0x000000000000000000000000000000000000000000000000000000000000000016BB54B00F2D99416842E6BF0D89A18C * 2 ^ 1920

def subByte (x : Nat) : Nat := bitsOf aesSbox (8 * x) 8

/-- Multiplication by x in the field of AES. -/
def xtime (x : Nat) : Nat := if 128 ≤ x then (2 * x) % 256 ^^^ 0x1B else 2 * x

/-- Round keys of an AES-256 key as words of four bytes, `acc` newest first. -/
def aesExpand : Nat → Nat → Nat → List (List Nat) → List (List Nat)
  | 0, _, _, acc => acc
  | n + 1, i, rc, acc =>
    let t := acc.headD []
    let u := if i % 8 = 0 then (match (t.drop 1 ++ t.take 1).map subByte with
        | a :: r => (a ^^^ rc) :: r
        | [] => [])
      else if i % 8 = 4 then t.map subByte else t
    let w := ((acc.getD 7 []).zip u).map fun p => p.1 ^^^ p.2
    aesExpand n (i + 1) (if i % 8 = 0 then xtime rc else rc) (w :: acc)

/-- The fifteen round keys of sixteen bytes. -/
def aesKeys (key : Nat) : List (List Nat) :=
  let k := (beBytes 32 key).map (·.toNat)
  let ws := (aesExpand 52 8 1 ((List.range 8).map fun i => (k.drop (4 * (7 - i))).take 4)).reverse
  (List.range 15).map fun r => ((ws.drop (4 * r)).take 4).flatten

def xorBytes (a b : List Nat) : List Nat := (a.zip b).map fun p => p.1 ^^^ p.2

/-- Rows shifted. -/
def shiftRows (s : List Nat) : List Nat := (List.range 16).map fun i => s.getD ((i + 4 * (i % 4)) % 16) 0

/-- Columns mixed. -/
def mixColumns (s : List Nat) : List Nat :=
  (List.range 16).map fun i =>
    let c := i / 4 * 4
    let a (k : Nat) : Nat := s.getD (c + (i + k) % 4) 0
    xtime (a 0) ^^^ (xtime (a 1) ^^^ a 1) ^^^ a 2 ^^^ a 3

/-- One block of 128 bits encrypted. -/
def aesBlock (keys : List (List Nat)) (x : Nat) : Nat :=
  let s0 := xorBytes ((beBytes 16 x).map (·.toNat)) (keys.headD [])
  let s := (List.range 13).foldl (fun s r => xorBytes (mixColumns (shiftRows (s.map subByte))) (keys.getD (r + 1) [])) s0
  (xorBytes (shiftRows (s.map subByte)) (keys.getD 14 [])).foldl (fun a b => a * 256 + b) 0

/-- Product in GF(2^128) of GCM. -/
def gcmMul (x y : Nat) : Nat :=
  ((List.range 128).foldl (fun (a : Nat × Nat) i =>
    (if x.testBit (127 - i) then a.1 ^^^ a.2 else a.1, if a.2.testBit 0 then (a.2 >>> 1) ^^^ (0xE1 <<< 120) else a.2 >>> 1)) (0, y)).1

/-- Bytes in blocks of 128 bits, the last filled with zeros. -/
def gcmBlocks (bs : List Byte) : List Nat := (List.range (ceilDiv bs.length 16)).map fun i => beNat (slice bs (16 * i) 16)

/-- AES-256-GCM decryption under a 12-byte nonce: the plaintext, where the tag holds. -/
def gcmOpen (key : Nat) (nonce aad ct : List Byte) (tag : Nat) : Option (List Byte) :=
  let ks := aesKeys key
  let h := aesBlock ks 0
  let j := beNat nonce * 2 ^ 32
  let s := (gcmBlocks aad ++ gcmBlocks ct ++ [8 * aad.length * 2 ^ 64 + 8 * ct.length]).foldl (fun a b => gcmMul (a ^^^ b) h) 0
  if s ^^^ aesBlock ks (j + 1) = tag then
    some (((List.range (ceilDiv ct.length 16)).flatMap fun i =>
      beBytes 16 (beNat (slice ct (16 * i) 16) ^^^ aesBlock ks (j + 2 + i))).take ct.length)
  else none

/-! ### ECDSA on P-384 -/

/-- The field prime, the coefficient b, the order, and the base point. -/
def p384 : Nat := 2 ^ 384 - 2 ^ 128 - 2 ^ 96 + 2 ^ 32 - 1
def p384b : Nat := 0xB3312FA7E23EE7E4988E056BE3F82D19181D9C6EFE8141120314088F5013875AC656398D8A2ED19D2A85C8EDD3EC2AEF
def p384n : Nat := 0xFFFFFFFFFFFFFFFFFFFFFFFFFFFFFFFFFFFFFFFFFFFFFFFFC7634D81F4372DDF581A0DB248B0A77AECEC196ACCC52973
def p384G : Nat × Nat :=
  (0xAA87CA22BE8B05378EB1C71EF320AD746E1D3B628BA79B9859F741E082542A385502F25DBF55296C3A545E3872760AB7,
   0x3617DE4A96262C6F5D9E98BF9292DC29F8F41DBD289A147CE9DA3113B5F0B8C00A60B1CE1D7E819D7A431D7C90EA0E5F)

/-- A point of the curve; none is the point at infinity. -/
abbrev Point := Option (Nat × Nat)

/-- The sum of two points. -/
def pointAdd (a b : Point) : Point :=
  match a, b with
  | none, q => q
  | q, none => q
  | some (x1, y1), some (x2, y2) =>
    let inv (v : Nat) : Nat := powMod p384 v (p384 - 2) 384
    let go (l : Nat) : Point :=
      let x := (l * l + 2 * p384 - x1 - x2) % p384
      some (x, (l * (x1 + p384 - x) + p384 - y1) % p384)
    if x1 = x2 then
      if (y1 + y2) % p384 = 0 then none else go ((3 * x1 * x1 + p384 - 3) % p384 * inv (2 * y1 % p384) % p384)
    else go ((y2 + p384 - y1) % p384 * inv ((x2 + p384 - x1) % p384) % p384)

/-- A multiple of a point. -/
def pointMul (k : Nat) (q : Point) : Point :=
  (List.range 384).foldl (fun a i => let d := pointAdd a a; if k.testBit (383 - i) then pointAdd d q else d) none

/-- A signature (r, s) of a digest holds under a public key. -/
def ecdsaOk (digest x y r s : Nat) : Bool :=
  decide (x < p384) && decide (y < p384) && y * y % p384 == (x * x * x + (p384 - 3) * x + p384b) % p384
    && decide (0 < r ∧ r < p384n ∧ 0 < s ∧ s < p384n)
    && (let w := powMod p384n s (p384n - 2) 384
        match pointAdd (pointMul (digest * w % p384n) (some p384G)) (pointMul (r * w % p384n) (some (x, y))) with
        | some q => q.1 % p384n == r
        | none => false)

/-- A public key. -/
def publicKey (d : Nat) : Nat × Nat := (pointMul d (some p384G)).getD (0, 0)

/-- The bytes of a public key: x, then y (R520). -/
def keyBytes (q : Nat × Nat) : List Byte := beBytes 48 q.1 ++ beBytes 48 q.2

/-- The signature (r, s) of a digest under a private key, with the per-message number `k`. -/
def ecdsaSign (digest d k : Nat) : Nat × Nat :=
  let r := (publicKey k).1 % p384n
  (r, powMod p384n k (p384n - 2) 384 * (digest + r * d) % p384n)

/-! ### HKDF with SHA-384 -/

/-- HMAC under a key of at most 128 bytes. -/
def hmac384 (key msg : List Byte) : List Byte :=
  let pad (x : Byte) : List Byte := (List.range 128).map fun i => key.getD i 0#8 ^^^ x
  beBytes 48 (sha384 (pad 0x5C#8 ++ beBytes 48 (sha384 (pad 0x36#8 ++ msg))))

/-- HKDF-Expand, of at most 48 bytes. -/
def hkdfExpand (prk info : List Byte) (n : Nat) : List Byte := (hmac384 prk (info ++ [1#8])).take n

/-- HKDF without a salt. -/
def hkdf (ikm info : List Byte) (n : Nat) : List Byte := hkdfExpand (hmac384 [] ikm) info n

/-- The bytes of an info string. -/
def ascii (t : String) : List Byte := t.toList.map fun c => BitVec.ofNat 8 c.toNat

end Sys2Proof
end

