-- ==== Sys2Proof/Machine/State.lean ====
section
/-! DEFINITION. The state of the module: every register, table, queue, counter, mode and pin the spec gives it,
and the queue of commands that wait. Plain data throughout. -/

namespace Sys2Proof.Machine

open Sys2Proof

/-- No command of this block ends in a fault: R7 gives every input a defined result (log 12: DESIGN CHOICE). -/
inductive Fault where
  | none_   -- raised by nothing; the type needs one name (safe)
  deriving DecidableEq, Repr

/-- Why a command has no meaning. -/
inductive Refusal where
  | notModelled (mnemonic : String)   -- raised only by a row that has no meaning yet (safe)
  deriving DecidableEq, Repr

/-- What left the module: writes and messages to the host, packets and flits, pins and sideband bytes
(log 2: DESIGN CHOICE; log 78: DEDUCED). -/
inductive Out where
  | hostWrite (fn addr : Nat) (bytes : List Byte)
  -- ciphertext of `plain` under `key` with its tag, laid over host ranges (address, bytes) (R514, R515)
  | hostSealed (fn chan ring counter : Nat) (places : List (Nat × Nat)) (key plain : List Byte)
  | hostRead (fn addr bytes : Nat)
  | msix (fn vector : Nat)
  | drs (fn : Nat)                                  -- Device Readiness Status message (R480)
  | retryStatus (fn : Nat)                          -- Request Retry Status (R480)
  | config (fn reg value : Nat)                     -- answer to a configuration read
  | mmio (fn value : Nat)                           -- answer to a BAR read
  | flit (port : Nat) (bytes : List Byte)           -- a flit sent on a port (R365)
  | frame (port lane control prbs : Nat)            -- a lane's training frames from now on: control field, and the PRBS13Q generator (R362)
  | codeword (port control : Nat) (bytes : List Byte)   -- message of a codeword: its control field and 5,120 bits of the flit stream (R359)
  | smbus (bytes : List Byte)                       -- bytes the module returns in an SMBus transaction (R596)
  | mctp (bytes : List Byte)                        -- an MCTP message sent to the bus owner (R602)
  | secured (transport session : Nat) (bytes : List Byte)   -- plaintext of an answer inside an SPDM session (R533)
  | scan (cells : List Bool)                        -- the boundary register captured and shifted out (R605)
  deriving DecidableEq, Repr

/-! ### Segments, contexts, clients, partitions (08, 14) -/

/-- A run of frames of one stack that Drover reserved (R628): stack, first frame, frames. -/
structure Reservation where
  stack : Nat
  frame : Nat
  count : Nat
  deriving DecidableEq, Repr

/-- A segment of a context's Segment Translation Table (R261). -/
structure Segment where
  cbase : Nat
  npage : Nat
  dbase : Nat
  rd : Bool
  wr : Bool
  arch : Bool            -- TIER = 1: the Archipelago
  comp : Bool
  ilv : Nat
  fixed : Bool
  pref : Nat
  vers : Option (Nat × Nat) := none   -- the stack and GID of the NMU group it belongs to (VERS = 1)
  copies : Bool := false -- the working-copy segment of its group: read by arms with VER alone (R286)
  mig : Bool := false
  created : Nat := 0     -- creation sequence (R264)
  former : Option Nat := none   -- first core before an eviction (R469)
  mdata : List Reservation := []   -- metadata frames (R269)
  deriving DecidableEq, Repr

/-- The states of R460. -/
inductive CtxState where
  | active | stopping | stopped | evicted | dead
  deriving DecidableEq, Repr

/-- One entry of the per-layer format table (R334), its 64 bits. -/
abbrev FmtEntry := Nat

/-- The step binding of a context (R336). -/
structure Binding where
  set : Nat
  sig : Nat
  score : Nat
  rcva : Option Nat := none
  deriving DecidableEq, Repr

/-- A refresh that a resolution of a set has started and that has not run (R337): the decision, its overflow flag, the epoch and LSE
after it, and the contexts bound to the set at that moment. -/
structure Refresh where
  no : Nat                       -- number of the resolution
  commit : Bool
  ovf : Bool
  epoch : Nat
  lse : Int
  binds : List (Nat × Binding)
  deriving DecidableEq, Repr

/-- A context (R457 to R460). -/
structure Context where
  st : CtxState
  estop : Bool := false
  prio : Nat
  client : Nat
  dtmo : Nat
  qmin : Nat
  qmax : Nat
  flags : Flags := {}                       -- sticky flags (R66)
  segs : Tab Segment := []                  -- by SEGID (R261)
  segSeq : Nat := 0                         -- R264
  layouts : Tab (List Byte) := []           -- by handle (R228)
  cnt : Tab Word := []                      -- counter `core * 64 + index` (R118), 0 where unlisted
  tables : Tab (List Byte) := []            -- image of table `core * 16 + 2 * pair + t` (R130), unloaded where unlisted
  hist : Tab Nat := []                      -- count `layer * 64 + bin` (R332), 0 where unlisted
  fmt : Tab FmtEntry := []                  -- per-layer format table (R334), 0 where unlisted
  bind : Option Binding := none
  notice : Option (Nat × Nat) := none       -- function and completion ring (R502)
  lost : Nat := 0                           -- LOSTREC (R506)
  reserved : List Reservation := []         -- save areas, histogram table, format table (R628)
  armSeq : Nat := 0                         -- arms accepted, for the ledger of R314
  deriving DecidableEq, Repr

/-- The counts and quota of a client (R472). -/
structure Client where
  submitted : Nat := 0
  completed : Nat := 0
  faulted : Nat := 0
  running : Nat := 0
  quota : Nat := 512
  deriving DecidableEq, Repr

/-- The attributes of a partition (R456, R202, R204; 18 R572, R577). -/
structure PartAttr where
  pdl : Nat := 20           -- in 10 µs
  age : Nat := 10           -- in 100 µs
  clientLo : Nat := 0
  clientHi : Nat := 0xFFFF
  cap : Nat := 16
  tagTmo : Nat := 10        -- in 100 µs
  ltol : Nat := 2000        -- in ns
  div : Nat := 6
  deriving DecidableEq, Repr

/-! ### Cores: tasks (03 to 05) -/

/-- One accumulator half (R89): the context that last wrote it, and whether it holds values (log 100: DEDUCED). -/
structure Half where
  tag : Option Nat := none
  valid : Bool := false
  int : Option Nat := none     -- INT32 values, with the sum of their two tile scale fields (R69)
  deriving DecidableEq, Repr

/-- One set of weight registers with its scale store (R75): the format, the code in cell `row * 64 + column` (0 where unlisted) and
the block scale byte of reduction group `g` and output line `i` at `64 * g + i` (127 where unlisted). -/
structure WSet where
  fmt : Fmt := .int8
  cells : Tab Nat := []
  scales : Tab Nat := []
  deriving DecidableEq, Repr

/-- An engine (R75, R104): presence, soft repairs, the active and the shadow weight registers, accumulator buffer. -/
structure Eng where
  present : Bool := true
  cause : Nat := 0
  srow : Nat := 0
  scol : Nat := 0
  h0 : Half := {}
  h1 : Half := {}
  active : WSet := {}
  shadow : WSet := {}
  acc : Tab Word := []         -- entry `row * 64 + column`, 0 where unlisted
  err : Tab Nat := []          -- flipped bits of an entry's 39-bit word (R165)
  deriving DecidableEq, Repr

/-- Where an engine stands in its share of a task (R87, R95). -/
structure Pos where
  eng : Nat
  chunk : Nat                  -- ordinal of the chunk in the order of R87
  pass : Nat                   -- next pass of that chunk
  drains : List Nat := []      -- chunks whose passes have ended and whose drain has not
  halted : Bool := false       -- stopped at a pass boundary (R95)
  loaded : Bool := false       -- the active set holds the weight block of the next pass (R80)
  deriving DecidableEq, Repr

/-- An output tile of a task: its header, the key of its first byte, its slot (none: the main output). -/
structure OutTile where
  hdr : Hdr
  base : Nat
  slot : Option Nat
  vals : Tab Word := []        -- values that wait for the rest of their block, by linear index
  deriving DecidableEq, Repr

/-- What a dispatched task has latched (R117) and where it stands. -/
structure Run where
  segs : Tab Segment
  holds : List Nat
  a : Option (Hdr × Nat) := none
  b : Option (Hdr × Nat) := none
  aux : Tab (Hdr × Nat) := []
  outs : List OutTile := []
  mask : List Byte := []
  pos : List Pos := []
  fed : List (Nat × Nat) := []   -- passes whose activation rows the lowest engine's feeder has read, by ordinal and pass (R79)
  flags : Flags := {}
  hbase : Nat := 0             -- histogram window base latched for LAYER (R331)
  hist : Tab Nat := []         -- histogram counts of the task, by counter (R332)
  fail : Option (Status × Nat) := none
  copyAt : Nat := 0               -- COPY: next output linear index
  staged : Option (Nat × List Word) := none  -- COPY: end of the staged block and its element codes
  issued : Nat := 0               -- COPY: requests of the present phase issued (R200)
  acks : Nat := 0                 -- COPY: requests of the present phase answered
  begun : Bool := false        -- the pending headers have been written (R142)
  deriving DecidableEq, Repr

/-- The stages of a task in a queue. -/
inductive TaskStage where
  | queued
  | running
  | stopping        -- a stop request has reached its engines (R95)
  | stopped         -- stopped, its state in the engines
  | saved           -- stopped, its state in the save area (R175)
  deriving DecidableEq, Repr

/-- A task in a core's queue (R114, R462). -/
structure Task where
  ctx : Nat
  desc : List Byte
  origin : Option (Nat × Nat) := none       -- submission ring and entry index (R505)
  images : Option (List Byte × List Byte) := none   -- Drover's copies for a Q1 table load (R149)
  stage : TaskStage := .queued
  aged : Bool := false                       -- ready for AGE or longer (R464)
  run : Option Run := none
  deriving DecidableEq, Repr

/-- A table set in the activation unit (R132, R174). -/
structure Resident where
  ctx : Nat
  dirty : Bool := false
  used : Nat := 0
  deriving DecidableEq, Repr

/-! ### Cores: streams (06, 07) -/

/-- Elements an ACCUM request adds to: the element keys of one far block (or of elements that share no scale), the key
of its scale byte, and the incoming elements by place in the block (R312). -/
structure AccBlock where
  keys : List Nat
  scale : Option Nat
  adds : List (Nat × Nat)
  deriving DecidableEq, Repr

/-- What an ACCUM request carries (R312, R314). `head`: the request marks the far header pending or final and names the
incoming COUNT. -/
structure AccReq where
  aseq : Nat
  num : Nat
  layer : Nat
  fmt : Fmt
  base : Nat                     -- SCALE_BASE of the far format
  vals : Tab Word := []          -- the incoming values by element, once they have been pulled (R273)
  head : Option (Bool × Nat × Nat) := none   -- final, incoming COUNT, CVA of the far header
  blocks : List AccBlock := []
  deriving DecidableEq, Repr

/-- What a request of a stream engine is for. -/
inductive ReqKind where
  | head            -- the first request of a whole inbound tile (R195)
  | data
  | index           -- index elements (R210)
  | pendHead        -- the pending header of an outbound tile (R196)
  | lastHead        -- the valid header of an outbound tile
  | accum           -- elements of an ACCUM tile (R312)
  deriving DecidableEq, Repr

/-- A request, at most 1 KiB of one far run (R200): where its bytes lie and which bytes of the tile they are. -/
structure Req where
  kind : ReqKind
  far : Nat                      -- first byte: memory key, or window offset when the arm is REMOTE
  dpa : Nat := 0                 -- its DPA, for the patrol and the fault record
  len : Nat
  pieces : List (Nat × Nat × Nat)   -- offset in the request, bytes, offset in the tile
  comp : Bool := false           -- the far bytes lie in a COMP = 1 segment
  acc : Option AccReq := none    -- ACCUM
  deriving DecidableEq, Repr

/-- A tile in progress. -/
structure TileX where
  hdr : List Byte := []          -- its header once known
  reqs : List Req := []          -- requests not yet issued, in order
  live : Nat := 0                -- requests issued and not yet answered
  bytes : Nat := 0               -- payload bytes that have arrived or been acknowledged
  last : Bool := false           -- the last stage of requests has been formed
  rows : Nat := 0                -- rows of the tile whose index has been used (R211)
  num : Nat := 0                 -- number of the tile's first ACCUM request (R314)
  img : List Byte := []          -- MCAST: the tile's bytes as they have arrived
  far : List Byte := []          -- whole-tile ACCUM: the far header, once the NMU has returned it (R311)
  deriving DecidableEq, Repr

/-- An arm of a stream slot (R178, R184). -/
structure Arm where
  desc : List Byte
  seq : Nat                      -- arm sequence of its context (R314)
  origin : Option (Nat × Nat) := none
  effect : Bool := false         -- it has taken effect (R185)
  started : Bool := false        -- its start wait has been satisfied
  segs : Tab Segment := []
  holds : List Nat := []
  vslot : Option Nat := none     -- version slot resolved for EPOCH (R186)
  resolving : Bool := false      -- a resolution request is with the NMU (R290)
  voff : Nat := 0                -- offset of the resolved version slot (R290)
  vgrp : Option (Nat × Nat) := none   -- stack and GID of the group whose working copy it reads
  next : Nat := 0                -- next tile to open
  tiles : Tab TileX := []        -- tiles open
  done : List Nat := []          -- tiles complete whose per-tile signal waits for an earlier tile
  sig : Nat := 0                 -- tiles complete and signalled in order
  idxAt : Nat := 0               -- bytes of the index array requested
  idxPart : List Byte := []      -- bytes of an index element that has arrived in part (R200)
  idx : Tab Nat := []            -- index elements in the queue, by element number
  oobr : Nat := 0
  oobw : Nat := 0
  credits : Tab Nat := []        -- MCAST: first tile without a credit from each member
  slacks : Tab Nat := []         -- MCAST: slack each member last reported (R206)
  credited : Nat := 0            -- MRECV: tiles for which a credit has been sent
  freed : Nat := 0               -- VER: tiles whose count has been returned to the version slot
  led : Bool := false            -- MRECV: the leader's arm that it is paired with has ended
  bgWait : Bool := false         -- a background arm eligible for 4,096 CCLK (R208)
  opened : Nat := 0              -- VER: tiles counted against the version slot (R291)
  accNo : Nat := 0               -- number of the next ACCUM request (R314)
  sizes : Tab Nat := []          -- bytes of complete inbound tiles, for the slack of R206
  deriving DecidableEq, Repr

/-- A complete tile of an ended arm whose ring bytes the next arm of the slot keeps reserved (R187): the counter values that
free it, by core (none: only the ring's release does), its bytes, its version slot. -/
structure KeptTile where
  waits : List (Nat × Nat × Word)
  timed : Bool                   -- the waits free it
  bytes : Nat
  ver : Option (Nat × Nat × Nat) := none
  group : Option Nat := none
  deriving DecidableEq, Repr

/-- A stream slot (R177, R178). -/
structure Slot where
  ctx : Nat
  cur : Option Arm := none
  shadow : Option Arm := none
  stale : Nat := 0
  lastIssue : Nat := 0                       -- number of the stream's last issue (R207)
  kept : List KeptTile := []                 -- tiles of ended arms that still count (R187, R206, R291)
  deriving DecidableEq, Repr

/-- What a tag tracks. -/
structure Outst where
  ctx : Nat
  sid : Nat
  seq : Nat                      -- of its arm; for the COPY channel the task
  tile : Nat
  req : Req
  port : Option Nat := none      -- REMOTE: the request left as a packet
  deriving DecidableEq, Repr

/-- A tag (R200, R203). -/
structure TagState where
  gen : Nat := 0
  req : Option Outst := none
  quarantine : Bool := false
  deriving DecidableEq, Repr

/-- A core: task queue, engines, activation unit, stream engine, Isle counters, power state (log 89: DESIGN CHOICE). -/
structure Core where
  queue : List Task := []
  dispNo : Nat := 0                          -- dispatches so far
  lastDisp : Tab Nat := []                   -- dispatch number of each context's last dispatch (R464)
  eng : Tab Eng := []                        -- engines 0 to 3, as reset where unlisted
  resident : List Resident := []
  staging : Option Nat := none               -- context whose COPY holds the staging buffer (R167)
  stageErr : Tab Nat := []                   -- flipped bits of staged words (R166)
  slots : Tab Slot := []
  aseqs : Tab Nat := []                      -- arm sequence of each slot (R314), 8 bits
  tags : Tab TagState := []                  -- tags 0 to 63, free where unlisted
  issueNo : Nat := 0
  rr : Nat := 0                              -- background round robin (R208)
  copyLast : Nat := 0                        -- number of the COPY channel's last issue
  copyWait : Bool := false                   -- the COPY channel has been eligible for 4,096 CCLK (R208)
  ice : Nat := 0
  iue : Nat := 0
  ace : Nat := 0
  aue : Nat := 0
  sce : Nat := 0
  sue : Nat := 0
  ubank : Nat := 0
  urow : Nat := 0
  uword : Nat := 0
  drain : Tab Nat := []                      -- write-drain counter of each bank (R170)
  scrubs : Tab Nat := []                     -- words that wait for a scrub write (R161)
  patrol : Nat := 0                          -- next line (R556)
  pst : Nat := 0                           -- depth of the power state, 0 is C0 (18 R568)
  banks : Tab Nat := []                      -- power state of banks, 0 (on) where unlisted
  force : Option Bool := none                -- forced ON or OFF (R574)
  deriving DecidableEq, Repr

/-- An on-chip multicast group (R212). -/
structure McastGroup where
  ctx : Nat
  members : List Nat
  leader : Nat
  deriving DecidableEq, Repr

/-- An increment on its way to a counter (R120). -/
structure Signal where
  ctx : Nat
  core : Nat
  idx : Nat
  inc : Nat
  deriving DecidableEq, Repr

/-- A response on its way to a stream engine. -/
structure Resp where
  core : Nat
  sid : Nat
  tag : Nat
  gen : Nat
  data : List Byte
  status : Status := .ok         -- INTEGRITY: a poisoned or uncorrectable source; DENIED: the window refused
  detail : Nat := 0
  deriving DecidableEq, Repr

/-! ### Host interface (15) -/

/-- A submission ring (R502, R503). -/
structure SubRing where
  ctx : Nat
  q1 : Bool
  logn : Nat
  base : Nat
  shadow : Nat
  prod : Nat := 0
  cons : Nat := 0
  err : Bool := false
  reading : Bool := false                    -- the read of an entry is out
  head : Option (List Byte) := none          -- the fetched entry that has not been taken yet
  checked : Option (Nat × List Byte) := none -- an accepted task that waits for a queue entry: core, descriptor
  deriving DecidableEq, Repr

/-- A completion ring (R502, R505 to R507). -/
structure CplRing where
  logn : Nat
  vector : Nat
  icnt : Nat
  itime : Nat
  base : Nat
  shadow : Nat
  prod : Nat := 0
  cons : Nat := 0
  cseq : Nat := 0
  err : Bool := false
  held : List (Nat × List Byte) := []        -- records that wait for a slot, with their context
  since : Nat := 0                           -- records posted since the last message
  deriving DecidableEq, Repr

/-- A mailbox command fetched and not yet started (R496). -/
structure Fetched where
  seq : Nat
  ctag : Nat
  opc : Nat
  fence : Bool
  xwait : Bool := false                      -- its external argument has not arrived yet
  noirq : Bool := false
  ctr : Nat := 0                             -- counter of channel 0x01 under which its entry was sealed (R514)
  mute : Bool := false                       -- EN was cleared after it was accepted: its response is discarded (R487)
  deriving DecidableEq, Repr

/-- The mailbox of a function (R487, R489). -/
structure Mailbox where
  en : Bool := false
  err : Bool := false
  logn : Nat := 0
  cbase : Nat := 0
  rbase : Nat := 0
  shad : Nat := 0
  cprod : Nat := 0
  chead : Nat := 0
  rtail : Nat := 0
  rcons : Nat := 0
  fetched : List Fetched := []
  reading : Bool := false                    -- the read of a command entry is out
  deriving DecidableEq, Repr

/-- Confidential mode of a function (R513, R514; 16 R537). -/
structure Conf where
  session : Nat
  secret : List Byte := []                   -- S, from which both keys are derived (R537)
  counters : Tab Nat := []                   -- next counter of channel `256 * channel + ring`; at 2^64 the channel is in ERROR (R516)
  deriving DecidableEq, Repr

/-- A PCIe function: 0 the physical function, 1 to 8 the virtual functions (log 7: PRESUMED). -/
structure Fn where
  isr : Nat := 0
  imask : Nat := 0x7F
  mb : Mailbox := {}
  sub : Tab SubRing := []
  cpl : Tab CplRing := []
  bme : Bool := false
  waiting : List Out := []                   -- requests that wait for Bus Master Enable (R511)
  msix : Tab Word := []                      -- MSI-X table words by index; vector control reads masked where unlisted
  pending : List Nat := []                   -- vectors whose pending bit is set
  conf : Option Conf := none
  deriving DecidableEq, Repr

/-- Objects by which commands are ordered (R496). -/
inductive Obj where
  | ctx (n : Nat) | seg (c n : Nat) | set (p n : Nat) | group (st gid : Nat) | member (p job : Nat) | window (n : Nat)
  | port (n : Nat) | ring (fn kind n : Nat) | client (n : Nat) | buf (p n : Nat) | partitions | domain (kind unit : Nat)
  deriving DecidableEq, Repr

/-- What a running command waits for (log 19: DEDUCED). -/
inductive Await where
  | newSeg (ctx id : Nat) (seg : Segment)   -- a new segment is being zeroed
  | newLayout (eighths : Nat)               -- these eighths are being zeroed (R455)
  | stop (ctx : Nat)
  | teardown (ctx : Nat)
  | migrate (ctx seg : Nat) (new : Segment) (phase : Nat)   -- phase 0 waits for holders, 1 copies (R267)
  | delete (ctx seg : Nat)
  | evict (ctx : Nat) (rest : List (Nat × Segment)) (phase : Nat)
  | restore (ctx : Nat) (rest : List (Nat × Segment)) (phase : Nat)
  | load (stack gid : Nat) (key epoch : Option Nat)   -- the key of a weight-import, the epoch of a state-load
  | hostCopy (ctx seg dir : Nat) (left : Nat) (arg : List Byte)
  | portDrain (port : Nat)
  | tree (part job : Nat)
  | flash (kind : Nat)
  | zeroise (level : Nat)
  | force (kind unit : Nat) (on : Bool)
  | divider (part : Nat)
  deriving DecidableEq, Repr

/-- A command accepted and not yet answered (R496) (log 19: DEDUCED). -/
structure Running where
  seq : Nat
  caller : Caller
  opc : Nat
  objs : List Obj
  await : Await
  result : Nat := 0
  data : List Byte := []
  ctr : Nat := 0                             -- as in Fetched
  mute : Bool := false                       -- as in Fetched
  deriving DecidableEq, Repr

/-- The host interface (log 6: DESIGN CHOICE; log 70: DEDUCED). -/
structure Hif where
  configReady : Bool := false
  drs : Bool := false                        -- the Device Readiness Status message has been sent
  numVFs : Nat := 0
  vfEnable : Bool := false
  ready : Bool := false
  fatal : Bool := false
  readyAt : Nat := 0
  fatalAt : Nat := 0
  seq : Nat := 0
  fns : Tab Fn := []
  running : List Running := []
  deriving DecidableEq, Repr

/-! ### Faults (17) -/

/-- A fault record (R549). -/
structure FaultRec where
  seq : Nat
  time : Nat
  src : Nat
  sev : Nat
  inj : Bool
  react : Nat
  rep : Nat
  part : Option Nat
  ctx : Option Nat
  ukind : Nat
  unit : Nat
  detail : Nat
  info : Nat
  deriving DecidableEq, Repr

/-- The fault collector (R544, R550, R561) (log 98: DEDUCED). -/
structure FaultCollector where
  cfg : Tab Nat := []                -- configuration words that differ from the defaults of R543, by source
  recs : List FaultRec := []         -- oldest first
  seq : Nat := 0
  lost : Nat := 0
  lostPart : Tab Nat := []           -- LOST as each partition's function sees it (R552)
  iper : Nat := 4096
  sper : Nat := 1000
  wdt : Nat := 100
  wdFirst : Bool := false            -- the first expiry has passed without a kick
  kick : Nat := 0                    -- time of Drover's last kick
  sweep : List Nat := []             -- sources that wait for the 1 ms sweep (R547)
  blk : List (Nat × Nat) := []       -- block resets running: unit kind and unit (R548)
  todoB : List (Nat × Nat) := []     -- block resets to start at the end of the current step
  todoC : Option Nat := none         -- chip reset to start at the end of the current step, with its source
  deriving DecidableEq, Repr
/-! ### Stacks (08) -/

/-- An entry of a stack's correction log (R281). -/
structure CorrEntry where
  count : Nat
  sector : Nat        -- sector number of the stack: A / 32
  symbol : Nat
  first : Nat
  deriving DecidableEq, Repr

/-- A request at an NMU (R273). -/
structure NReq where
  core : Nat
  sid : Nat
  tag : Nat
  gen : Nat
  ctx : Nat
  write : Bool
  addr : Nat            -- memory key of the first byte
  len : Nat
  data : List Byte := []
  comp : Bool := false
  accum : Option AccReq := none
  acked : Bool := false          -- a write acknowledged at its admission (R273)
  pull : Option (Nat × List Byte × List (Nat × Nat × Nat)) := none   -- data still to be pulled (R273): slot key, tile header, pieces
  arr : Nat := 0                 -- the NMU's event number of its arrival
  adm : Nat := 0                 -- and of its admission
  met : List (Nat × Bool) := []  -- sectors served from an earlier read, and whether each was uncorrectable (R275)
  deriving DecidableEq, Repr

/-- A request on its way through the mesh: to a stack, or to a core's Isle. -/
structure MReq where
  toStack : Bool
  dst : Nat
  req : NReq
  deriving DecidableEq, Repr

/-- A credit flit of a member (R214). -/
structure McastCredit where
  group : Nat
  member : Nat
  tile : Nat
  slack : Nat
  deriving DecidableEq, Repr

/-- A multicast tile on its way to a member (R215). -/
structure McastTile where
  group : Nat
  member : Nat
  tile : Nat
  bytes : List Byte
  head : Bool := false           -- the header that goes before the tile (R196)
  deriving DecidableEq, Repr

/-! ### The always-on block (17, 18, 19) -/

/-- Filtered levels of the always-on block's input pins (R585, R587). -/
structure Pins where
  pwrEn : Bool := false
  resetN : Bool := true
  perstN : Bool := true
  eoffN : Bool := true
  mgr : Bool := false
  slot : Nat := 0
  fold : Nat := 0
  deriving DecidableEq, Repr

/-- The sideband mailbox (R599). -/
structure SbMailbox where
  op : Nat := 0
  arg : Nat := 0
  len : Nat := 0
  busy : Bool := false
  done : Bool := false
  status : Nat := 0
  detail : Nat := 0
  data : List Word := []         -- words still to be read
  data_ : Word := 0#32           -- the last word moved (SB_MB_DATA)
  deriving DecidableEq, Repr

/-- A firmware write in progress (R601). -/
structure FwWrite where
  kind : Nat
  host : Option Nat              -- the acceptance number of the host's FW_UPDATE, none for the sideband
  len : Nat                      -- bytes of header and body to come in all
  bytes : List Byte := []        -- what has arrived
  copyA : Bool := false          -- step 4 of R601 is running
  deriving DecidableEq, Repr

/-- A copy of an image in the boot flash (R520): as the module was delivered, as written, or marked invalid (log 84: DEDUCED). -/
inductive FlashCopy where
  | factory
  | written (bytes : List Byte)
  | invalid
  deriving DecidableEq, Repr

/-- What survives the loss of every supply: fuses (R518) and boot flash (R520, R604) (log 5: DESIGN CHOICE). -/
structure NonVolatile where
  b0 : Bool := false             -- stepping B0
  keyrev : Nat := 0
  svn : List Nat := [0, 0, 0]    -- EFWSVN, DRVSVN, CFGSVN
  dbgdis : Bool := false
  repair : Tab (Nat × Nat) := [] -- spare rows and columns used by fused repair of each engine, none where unlisted (R99)
  flash : Tab FlashCopy := []    -- copy `2 * kind + c` (A 0, B 1), as delivered where unlisted
  dump : Option Nat := none      -- the held crash dump: captures counted after it (R604)
  unlocked : Bool := false       -- an unlock has happened since the last start-up zeroing (R542)
  deriving DecidableEq, Repr

/-- The always-on block: its state survives a chip reset (log 6: DESIGN CHOICE; log 91: DEDUCED; log 93: DEDUCED). -/
structure Aon where
  up : Bool := false
  addr : Option Nat := none
  time : Nat := 0                    -- microseconds of AOCLK
  resetAt : Nat := 0                 -- time of the release of the last chip reset
  pins : Pins := {}
  mgrL : Bool := false
  slotL : Nat := 0
  foldL : Nat := 0
  stby : Bool := true
  pgood : Bool := false
  eoff : Bool := false
  ttrip : Bool := false
  sensorHot : Bool := false          -- a sensor read above 100 °C at the last reading
  halt : Bool := false
  pecErr : Bool := false
  cRst : Nat := 0
  evt : Nat := 0
  emask : Nat := 0x1F
  rdPtr : Nat := 0
  mb : SbMailbox := {}
  fnMode : Bool := true
  fnPw : Nat := 10
  fnOn : Bool := false
  lastSrc : Nat := 0
  fnCount : Nat := 0
  hold : Bool := false
  fnPulse : Bool := false            -- the current assertion began in pulse mode
  fnGap : Bool := false              -- within 10 µs of a release in pulse mode
  fnDefer : Option Nat := none       -- source of the latest occurrence that waits for the end of the gap
  store : List FaultRec := []        -- persistent store, oldest first (R553)
  storeLost : Nat := 0
  vin : Nat := 0
  iin : Nat := 0
  vlow : Bool := false
  energy : Nat := 0                  -- input energy since always-on power-up, in mV x mA x 10 us (10^-8 mJ)
  eid : Nat := 0
  mctp : List Byte := []             -- body of the MCTP message under assembly (R602)
  tapIr : Nat := 0xFF
  mainOn : Bool := false             -- the main conversion is on
  starting : Bool := false           -- soft start runs (R589)
  needCycle : Bool := false          -- only a cycle of PWR_EN restarts the main conversion
  holding : Bool := false            -- a chip reset without pin cause holds (R592)
  fw : Option FwWrite := none
  capture : Bool := false            -- a crash capture runs (R604)
  sdone : Bool := false              -- s of the SMBus address has been taken since power-up (R595)
  bscan : List Bool := List.replicate 321 false
  deriving DecidableEq, Repr

/-- Where start-up stands (R590, R522, R524, R594). -/
inductive BootPhase where
  | held        -- in reset
  | pll         -- step 1: the root PLL has been enabled
  | enclave     -- step 2
  | init        -- steps 3 and 4
  | ready
  | recovery    -- R522
  | encHalt     -- a known-answer test failed (R524)
  deriving DecidableEq, Repr

/-- Power, clocks and thermal control outside the domains themselves (18) (log 6: DESIGN CHOICE; log 92: DESIGN CHOICE). -/
structure Pwr where
  cap : Nat := 6500
  capNew : Nat := 6500               -- cap from the next 1 ms window (R578)
  capDiv : Nat := 6
  below : Nat := 0                   -- consecutive windows below 95 % of the cap
  fast : Bool := false
  pin : Nat := 0
  therm : Tab Nat := []              -- thermal divider of each eighth, 6 where unlisted
  junction : List Int := []          -- last reading of the 144 junction sensors, 36 a tile, in 0.125 °C
  stackT : List Int := []            -- last reading of the 32 stacks
  div : Tab Nat := []                -- divider in force on each eighth, 6 where unlisted
  mesh : Tab Nat := []               -- depth of each tile mesh's state, ON where unlisted
  strait : Tab Nat := []             -- depth of each Strait's state
  deriving DecidableEq, Repr

/-- A weight key held by the enclave (R533, R534). -/
structure HeldKey where
  mmask : Nat
  poldig : Nat
  revoke : Bool
  key : Nat
  released : Bool := false
  deriving DecidableEq, Repr

/-- An image that runs: VERSION, SVN, MINSVN, digest (R520). -/
structure RunImage where
  version : Nat
  svn : Nat
  minsvn : Nat
  digest : Nat
  deriving DecidableEq, Repr

/-- What the SPDM responder holds of a connection: the messages that agreed it, and the measurement messages not yet signed
(R529, R532). -/
structure SpdmConn where
  agreed : List Byte := []
  measured : List Byte := []
  deriving DecidableEq, Repr

/-- The Security Enclave's state that the spec names (16). -/
structure Enclave where
  keys : Tab HeldKey := []           -- by `part * 16 + handle`
  sessions : List (Nat × Nat) := []  -- transport (0 to 8 the functions, 9 MCTP) and session ID
  exports : Tab Nat := []            -- export master secret of a session, by `transport * 2^32 + session` (R537)
  conns : Tab SpdmConn := []         -- connection state by transport (R529)
  aliasKey : Option Nat := none      -- alias private key (R525)
  aliasCert : List Byte := []        -- alias certificate, in DER
  images : Tab RunImage := []        -- by kind
  dbg : Nat := 0                     -- DBGLVL
  nonce : Option Nat := none
  unz : Nat := 0                     -- UNZMAP
  deriving DecidableEq, Repr

/-! ### Near-memory units, optimizer sets (09, 10) -/

/-- The states of a version slot (R289). -/
inductive VState where
  | free | staging | current | prior
  deriving DecidableEq, Repr

/-- A version slot (R289, R291, R303). -/
structure VSlot where
  st : VState := .free
  epoch : Nat := 0
  count : Nat := 0               -- outstanding tiles
  claimed : Bool := false        -- PRIOR and claimed: no resolution any more
  deriving DecidableEq, Repr

/-- A parameter group (R284, R288) (log 34: DEDUCED). -/
structure Group where
  desc : List Byte               -- the 128-byte descriptor, returned fields filled in
  cur : Nat := 0
  pend : Bool := false
  v0 : VSlot := {}
  v1 : VSlot := {}
  err : Bool := false            -- its kernels ended with ERR in the running update
  deriving DecidableEq, Repr

/-- The ledger of one core and stream at an NMU (R314). -/
structure Ledger where
  seq : Nat := 0
  high : Nat := 0                -- every request below is applied
  map : List Nat := []           -- applied requests above
  pend : List Nat := []          -- far headers that the arm's tiles keep pending (R312)
  deriving DecidableEq, Repr

/-- A stack's NMU (log 10: DESIGN CHOICE). -/
structure Nmu where
  avail : Bool := true
  tries : Nat := 0               -- training attempts that have failed (R256)
  ingress : List NReq := []
  window : List NReq := []
  open_ : Tab Nat := []          -- open row of each bank
  mdata : Tab Nat := []          -- sector count of each compressed unit (R269), 0 where unlisted
  mcache : List Nat := []        -- metadata sectors in the cache of R269, newest first
  mfix : List Nat := []          -- units written whole since their metadata sector was found uncorrectable (R271)
  events : Nat := 0              -- arrivals and admissions so far
  log : List CorrEntry := []
  cetot : Nat := 0
  ovf : Nat := 0
  uetot : Nat := 0
  patrol : Nat := 0
  groups : Tab Group := []       -- by GID
  progs : Tab (List Byte) := []  -- by program number (R306)
  accf : Tab Nat := []           -- accumulate flags of each layer (R315): NANF, OVFF, UFLF in bits 0 to 2
  ledger : Tab Ledger := []      -- by `core * 32 + SID`
  keys : List Nat := []          -- loaded key slots (R317)
  refresh2 : Bool := false       -- doubled refresh rate (18 R580)
  half : Bool := false           -- half admission (18 R580)
  refresh : Nat := 0             -- refresh commands issued (R255)
  pst : Nat := 0                 -- depth of the NMU logic's power state: ON, IDLE, OFF (18 R568)
  dram : Nat := 0                -- depth of the DRAM's: ON, SR, OFF
  force : Option Bool := none
  deriving DecidableEq, Repr

/-- The states of an optimizer set (R283). -/
inductive SetState where
  | idle | staging | staged | resolving
  deriving DecidableEq, Repr

/-- An optimizer set (R283, R302, R305, R343) (log 39: DEDUCED). -/
structure OptSet where
  st : SetState := .idle
  epoch : Nat := 0
  stmo : Nat := 100
  kernels : Bool := false                -- step 2 of R302 has begun
  step : List Byte := []                 -- the step block (R292)
  ovf : Bool := false
  bad : Bool := false
  err : Bool := false
  estatus : Nat := 0
  edetail : Nat := 0
  egid : Nat := 0
  estack : Nat := 0
  lsdyn : Bool := true
  lse : Int := 16
  lsmin : Int := 0
  lsmax : Int := 32
  ngrow : Nat := 1000
  clean : Nat := 0
  refresh : List Refresh := []           -- refreshes that have not run, in resolution order
  job : Option Nat := none               -- the membership that binds it (13 R430)
  deriving DecidableEq, Repr

/-- A commit buffer (13 R423). -/
structure CommitBuf where
  acts : List (List Byte) := []
  bound : Option Nat := none
  status : Nat := 0
  failed : Nat := 0
  deriving DecidableEq, Repr

/-! ### Nellon: links (11), fabric and collectives (12), jobs (13) -/

/-- One lane of a port (R354, R362, R387). -/
structure Lane where
  seen : Bool := false           -- a valid control field has arrived
  locked : Bool := false
  rdySent : Bool := false
  rdyRcvd : Bool := false
  bad : Bool := false
  pre : Bool := false            -- precoding in force on the receive direction
  txPre : Bool := false          -- precoding in force on the transmit direction
  partner : Nat := 0             -- the transmitter's physical lane number, learned from LANE
  flip : Bool := false           -- the pair arrives with its polarity reversed, learned from the marker (R364)
  ask : Nat := 0                 -- PRESET and REQ that this lane sends: PRESET * 2^10 + REQ
  prbs : Nat := 0                -- the lane's PRBS13Q generator (R362)
  taps : List Int := [0, 0, 0, 100, 0]    -- c(-3) to c(1) in hundredths
  sts : List Nat := [0, 0, 0, 0, 0]       -- reported tap status
  held : List Bool := [true, true, true, true, true]   -- the partner has returned the tap to hold
  lsym : Nat := 0
  win : Nat := 0                 -- LSYM at the start of the 1 ms window
  deriving DecidableEq, Repr

/-- The link states of R387; `align` covers step 4 of R363. -/
inductive LinkState where
  | disabled | detect | lock | eq | align | config | active | retrain | wait | noPartner
  deriving DecidableEq, Repr

/-- A Nellon port (11), with its packet queues and PRU contexts (12). -/
structure Port where
  st : LinkState := .disabled
  enabled : Bool := true
  draining : Bool := false       -- a disable waits for the replay buffer (R386)
  fast : Bool := false           -- within a fast retrain (R382)
  down : Bool := false           -- DOWN since a lost link (R383)
  width : Nat := 0
  grp : Nat := 0                 -- lowest lane of the group in use
  lanes : List Lane := List.replicate 8 {}
  pvalid : Bool := false
  pdevid : Nat := 0
  pport : Nat := 0
  txSeq : Nat := 0
  rxX : Nat := 0
  recovering : Bool := false
  nak : Bool := false            -- NAK is set in the next flit
  buf : List (Nat × List Byte) := []    -- replay buffer: SEQ and flit, oldest first
  replayAt : Option Nat := none  -- position in the buffer of the next flit to resend
  replayFrom : Option Nat := none   -- ACKSEQ that the replay in progress answers
  streak : Nat := 0              -- replays in a row without progress (R373)
  crvc : Nat := 0                -- channel whose count the next flit carries
  ctrl : List (List Byte) := []  -- messages that wait for a CTRL flit (R384)
  alloc : List Nat := List.replicate 8 512     -- stored allocation (R374)
  inUse : List Nat := List.replicate 8 512     -- allocation of the current link
  init : List Nat := List.replicate 8 512      -- the partner's allocation
  sent : List Nat := List.replicate 8 0
  crtot : List Nat := List.replicate 8 0
  freed : List Nat := List.replicate 8 0
  heldBuf : List Nat := List.replicate 8 0     -- delivered flits whose buffers the packet layer holds
  nonce : Nat := 0
  pnonce : Nat := 0
  cfgRx : Bool := false
  echoed : Bool := false
  fails : Nat := 0               -- failures in a row from steps 4 to 6
  raised : Bool := false         -- the port-training fault has been raised since the last ACTIVE
  cwGood : Nat := 0              -- codewords decoded in sequence in ALIGN
  cwNum : Nat := 0               -- number of the next codeword received, since ALIGN
  rxFlit : Nat := 0              -- number, in the received stream, of the next flit (R359)
  spoilt : List Nat := []        -- numbers of flits that an uncorrectable codeword failed, not yet received (R361)
  txCw : Nat := 0                -- number of the next codeword sent, since ALIGN (R359)
  txBits : List Byte := []       -- bytes of the flit stream that no codeword has carried yet
  linked : Bool := false         -- a link exists: a full training has completed CONFIG (R383)
  crossed : Bool := false        -- a RETRAIN of the partner may still arrive that the last fast retrain answered (R390)
  cwHist : List (Bool × Bool) := []     -- last 8 codewords: uncorrectable, unexpected count
  feccor : Nat := 0
  fecunc : Nat := 0
  crcerr : Nat := 0
  replays : Nat := 0
  fretrain : Nat := 0
  fulltrain : Nat := 0
  degrade : Nat := 0
  downs : Nat := 0
  outq : Tab (List (Nat × List Byte)) := []   -- packets waiting on each virtual channel, with the port that counts them (R421)
  tx : Tab (List Byte) := []     -- bytes of a packet partly sent on each channel
  txPkt : Tab (List Byte) := []  -- the packet to which those bytes belong
  rr : Nat := 0
  rx : Tab (List Byte) := []     -- received stream of each channel not yet taken by the packet layer
  transit : Nat := 0
  unroute : Nat := 0
  lifedrop : Nat := 0
  ecrcerr : Nat := 0
  badpkt : Nat := 0
  jobdrop : Nat := 0
  nacks : Nat := 0
  stale : Nat := 0
  pst : Nat := 0                 -- depth of the power state, 0 is ON (18 R568)
  force : Option Bool := none
  deriving DecidableEq, Repr

/-- A remote window (R403, R405). -/
structure Window where
  part : Nat
  ctx : Nat
  job : Nat
  cbase : Nat
  wlen : Nat
  pget : Bool
  pput : Bool
  pcol : Bool
  deriving DecidableEq, Repr

/-- A chunk on its way through the order of R411 at this member. -/
structure Prog where
  val : List Byte
  flags : Nat
  at_ : Nat := 0                 -- steps of the member's plan that are done
  deriving DecidableEq, Repr

/-- A tile being received (R414). -/
structure RTile where
  next : Nat := 0                -- chunks received
  got : List Nat := []
  hdr : List Byte := []
  deriving DecidableEq, Repr

/-- A collective that runs at this member (R407 to R417). -/
structure Coll where
  part : Nat
  job : Nat
  desc : List Byte
  progs : Tab Prog := []         -- chunk `t * 2^24 + c`
  parked : List (Nat × Nat × Nat × List Byte × Nat) := []   -- chunk, stage, part of the sender, payload, flags
  rtiles : Tab RTile := []
  tiles : Nat := 0               -- tiles received complete
  flags : Nat := 0
  bar : Bool := false            -- BARRIER: BAR_REL has reached the member
  origin : Option (Nat × Nat) := none
  deriving DecidableEq, Repr

/-- The states of a membership (13 R441 to R447). -/
inductive MState where
  | normal | faulted | restarting | lost
  deriving DecidableEq, Repr

/-- A membership of a job (12 R392, 13 R430, R441). -/
structure Member where
  part : Nat
  job : Nat
  midx : Nat
  nmem : Nat
  table : List Byte
  nextColl : Nat := 0
  ended : List (Nat × Nat) := []         -- ended collectives: COLL and time (check 4 of R409)
  sets : List Nat := []                  -- bound sets, ascending
  nctx : Nat := 0
  sig : Nat := 0
  score : Nat := 0
  causes : List (Nat × Nat) := []        -- causes of R441 that have not been acted on: CODE and status
  lastDec : Option (Nat × Nat × Bool × Bool) := none   -- DSEQ, epoch, COMMIT, OVF (R434)
  st : MState := .normal
  deriving DecidableEq, Repr

/-- What a job-control message carries (13 R438). -/
structure JobMsg where
  epoch : Nat := 0
  lsdig : Nat := 0
  ncount : Nat := 0
  nlow : Nat := 0
  nstg : Nat := 0
  flags : Nat := 0        -- byte 22: FAIL, ROLL, DIS, LATE, ERR, BAD, OVF, ABORT from bit 7 down
  code : Nat := 0
  ephi : Nat := 0
  origin : Nat := 0
  deriving DecidableEq, Repr

/-- The bellwether tree of a job on this module and the rounds it carries (13 R435 to R447). -/
structure Tree where
  fan : Nat
  vtmo : Nat
  dectmo : Nat
  rstmo : Nat
  skipovf : Bool
  elig : List Byte
  tdig : Nat
  parent : Option (Nat × Nat)            -- DEVID and lowest member partition, none at the root
  children : List (Nat × Nat)
  root : Nat × Nat                       -- DEVID and lowest member partition of the root
  bell : Bool := false                   -- this module is a bellwether of the tree
  formed : Bool := false
  hellos : List (Nat × JobMsg) := []
  helloSent : Bool := false
  dseq : Nat := 0
  votes : List (Nat × JobMsg) := []      -- votes of the round: by child DEVID, or 2^15 + own member partition
  voted : Bool := false                  -- the combined vote has been sent or decided
  attempt : Nat := 0
  starts : List Nat := []                -- root: times of the attempts' RESTARTs (R446)
  faultSent : Bool := false              -- FAULT sent in this attempt
  restarting : Bool := false
  stopped : Bool := false                -- step 2 has issued its stops
  reported : Bool := false               -- step 3 is done here
  rpts : List (Nat × JobMsg) := []
  rptSent : Bool := false
  deriving DecidableEq, Repr

/-- Everything that a chip reset discards. -/
structure Chip where
  hif : Hif := {}
  start : Nat := 1
  attr : Tab PartAttr := []
  ctxs : Tab Context := []
  clients : Tab Client := []
  cores : Tab Core := []
  mcast : Tab McastGroup := []
  resps : List Resp := []
  sigs : List Signal := []
  nmus : Tab Nmu := []
  sets : Tab OptSet := []              -- by `part * 16 + set`
  resolutions : Nat := 0               -- resolutions of sets so far (R337)
  bufs : Tab CommitBuf := []           -- by `part * 8 + buffer`
  ports : Tab Port := []
  devid : Option Nat := none
  routes : Tab (List Byte) := []       -- valid routing table entries by DST (12 R398)
  wins : Tab Window := []
  members : Tab Member := []           -- by `part * 4096 + JOB`
  trees : Tab Tree := []               -- by JOB
  colls : Tab Coll := []               -- by `(part * 4096 + JOB) * 65536 + COLL`
  pru : Tab Nat := []                  -- PRU contexts held on each port (R409)
  orig : List (List Byte) := []        -- packets originated here that wait for their route
  mesh : List MReq := []               -- requests on their way to a stack or an Isle
  credits : List McastCredit := []     -- credit flits on their way to leaders (R214)
  mtiles : List McastTile := []        -- multicast tiles on their way to members (R215)
  isleErr : Tab Nat := []
  sram : Option FlashCopy := none      -- the image of Drover that the control SRAM holds (R29, R524)
  sramErr : Tab Nat := []              -- flipped bits of the words of the control SRAM's 8 MiB (R29, R558)
  fc : FaultCollector := {}
  boot : BootPhase := .held
  pwr : Pwr := {}
  enc : Enclave := {}
  elig : Bool := false
  jobStale : Nat := 0                  -- job-control messages dropped under R438
  hellos : List (Nat × Nat × List Byte) := []   -- HELLOs of a job without a tree here: JOB, DEVID, body
  otherResv : List (Obj × Reservation) := []   -- member tables and parking buffers with their owners (R392, R413, R628)
  deriving DecidableEq, Repr

structure State where
  pending : List Instr := []
  free : Nat := 0
  out : List Out := []
  mem : List Host.Cell := []
  dramErr : Tab Nat := []
  dramHard : Tab Nat := []             -- symbols of sectors with a permanent fault (R280)
  nv : NonVolatile := {}
  aon : Aon := {}
  chip : Chip := {}
  deriving DecidableEq, Repr

def State.reset : State := {}

end Sys2Proof.Machine
end

