-- ==== Sys2Proof/Machine/Ops.lean ====
section
/-! DEFINITION. Named operations over the state: memory, partitions, contexts, cores, what leaves the module,
fault records and their reactions, completion records, mailbox responses. -/

namespace Sys2Proof.Machine

open Sys2Proof

/-! ### Memory (R32 to R34, R259) -/

/-- First key of the Archipelago: its first DPA (R32). Below it lie the 2 TiB of the stacks. -/
def archBase : Nat := 0x1000_0000_0000

/-- Bytes of one Isle (R33). -/
def isleBytes : Nat := 0x18_0000

/-- The byte a memory key holds; an unlisted byte is 0 (log 3: DESIGN CHOICE). -/
def State.rd (s : State) (k : Nat) : Byte := Tab.get s.mem 0 k

/-- A memory with one byte stored. -/
def State.wr (s : State) (k : Nat) (b : Byte) : State := { s with mem := Tab.set s.mem 0 k b }

/-- `n` bytes from key `k`. -/
def State.rdN (s : State) (k n : Nat) : List Byte := (List.range n).map fun i => s.rd (k + i)

/-- Bytes stored from key `k` on. -/
def State.wrN (s : State) (k : Nat) (bs : List Byte) : State :=
  match bs with
  | [] => s
  | b :: t => (s.wr k b).wrN (k + 1) t

/-- The sector counts of the units in a range of one stack back at none: a unit of zeroes stores no sector, and metadata sectors in the
range have left the cache (R269). -/
def dropCounts (t : Tab Nmu) (lo n : Nat) : Tab Nmu :=
  if archBase ≤ lo then t
  else
    let m := Tab.get t {} (lo / 2 ^ 36)
    Tab.set t {} (lo / 2 ^ 36) { m with
      mdata := m.mdata.filter fun p => !(decide (lo ≤ 1024 * p.1) && decide (1024 * p.1 < lo + n))
      mfix := m.mfix.filter fun u => !(decide (lo ≤ 1024 * u) && decide (1024 * u < lo + n))
      mcache := m.mcache.filter fun c => !(decide (lo ≤ 32 * c) && decide (32 * c < lo + n)) }

/-- The keys `lo` to `lo + n - 1` of one stack or of the Isles zeroed, with their errors (R278: whole sectors; R162: whole words). -/
def State.zero (s : State) (lo n : Nat) : State :=
  { s with
    chip.nmus := dropCounts s.chip.nmus lo n
    mem := s.mem.filter fun p => !(decide (lo ≤ p.1) && decide (p.1 < lo + n))
    dramErr := s.dramErr.filter fun p => !(decide (lo ≤ 32 * p.1) && decide (32 * p.1 < lo + n))
    chip.isleErr := s.chip.isleErr.filter fun p => !(decide (lo ≤ 4 * p.1) && decide (4 * p.1 < lo + n)) }

/-- Several ranges zeroed. -/
def State.zeroAll (s : State) (rs : List (Nat × Nat)) : State := rs.foldl (fun a r => a.zero r.1 r.2) s

/-- The stack and stack address a policy gives a DPA of the stacked-memory range (R259). -/
def placeDpa (ilv dpa : Nat) : Nat × Nat :=
  if ilv = 1 then
    (8 * bitsOf dpa 39 2 + (bitsOf dpa 12 3 ^^^ bitsOf dpa 36 3), bitsOf dpa 15 24 * 4096 + bitsOf dpa 0 12)
  else if ilv = 2 then
    (bitsOf dpa 12 5 ^^^ bitsOf dpa 36 5, bitsOf dpa 17 24 * 4096 + bitsOf dpa 0 12)
  else (bitsOf dpa 36 5, bitsOf dpa 0 36)

/-- The memory key of byte `a` of stack `st`: its stack-local DPA (R34). -/
def stackKey (st a : Nat) : Nat := st * 2 ^ 36 + a

/-- The memory key of a segment's DPA. -/
def Segment.keyOfDpa (g : Segment) (dpa : Nat) : Nat :=
  if g.arch then dpa else let p := placeDpa g.ilv dpa; stackKey p.1 p.2

/-- Bytes of a segment. -/
def Segment.bytes (g : Segment) : Nat := g.npage * 4096

/-- A segment covers a CVA. -/
def Segment.covers (g : Segment) (cva : Nat) : Bool := decide (g.cbase ≤ cva) && decide (cva < g.cbase + g.bytes)

/-- The DPA of a CVA of a segment. -/
def Segment.dpa (g : Segment) (cva : Nat) : Nat := g.dbase + (cva - g.cbase)

/-- The memory key of a CVA of a segment. -/
def Segment.key (g : Segment) (cva : Nat) : Nat := g.keyOfDpa (g.dpa cva)

/-- The segment of a table that covers a CVA. -/
def segAt (segs : Tab Segment) (cva : Nat) : Option (Nat × Segment) := segs.find? fun p => p.2.covers cva

/-- The segment that holds the `n` bytes from `cva` whole. -/
def segOver (segs : Tab Segment) (cva n : Nat) : Option (Nat × Segment) :=
  match segAt segs cva with
  | some p => if cva + n ≤ p.2.cbase + p.2.bytes then some p else none
  | none => none

/-- The core whose Isle a DPA names (R33). -/
def coreOfDpa (dpa : Nat) : Nat := (dpa - archBase) / isleBytes

/-- First DPA of a core's Isle (R33). -/
def isleBase (core : Nat) : Nat := archBase + core * isleBytes

/-- The segment that holds the `n` bytes from `cva` whole, inside one core's Isle (R78, check 4 of R116). -/
def segInIsle (segs : Tab Segment) (core cva n : Nat) : Option (Nat × Segment) :=
  match segOver segs cva n with
  | some p =>
    if p.2.arch && decide (isleBase core ≤ p.2.dpa cva) && decide (p.2.dpa cva + n ≤ isleBase core + isleBytes) then some p
    else none
  | none => none

/-! ### Partitions (R26, R452 to R454) -/

def eighthOfCore (c : Nat) : Nat := c / 72
def eighthOfStack (st : Nat) : Nat := st / 4
def eighthOfPort (p : Nat) : Nat := p / 2

/-- Eighth `h` starts a partition under mask `start`. -/
def startsPart (start h : Nat) : Bool := decide (h < 8) && start.testBit h

/-- The partition that holds eighth `e`: the highest start not above it. -/
def partOf (start e : Nat) : Nat := ((List.range (e + 1)).filter fun h => start.testBit h).foldl max 0

/-- Eighths of the partition that starts at `h` (R453). -/
def partSize (start h : Nat) : Nat :=
  match (List.range 8).find? fun e => decide (h < e) && start.testBit e with
  | some e => e - h
  | none => 8 - h

/-- The starts of a layout. -/
def partsOf (start : Nat) : List Nat := setBits 8 start

/-- START is legal (R452, R453). -/
def legalStart (start : Nat) : Bool :=
  decide (start < 256) && start.testBit 0 && (partsOf start).all fun h =>
    let n := partSize start h
    (n == 1 || n == 2 || n == 4 || n == 8) && h % n == 0

/-- Eighth `e` belongs to partition `h` of the present layout. -/
def State.inPart (s : State) (h e : Nat) : Bool := decide (h ≤ e) && decide (e < h + partSize s.chip.start h)

def State.coreInPart (s : State) (h c : Nat) : Bool := decide (c < 576) && s.inPart h (eighthOfCore c)
def State.stackInPart (s : State) (h st : Nat) : Bool := decide (st < 32) && s.inPart h (eighthOfStack st)
def State.portInPart (s : State) (h p : Nat) : Bool := decide (p < 16) && s.inPart h (eighthOfPort p)

/-- The cores of partition `h`, ascending. -/
def State.partCores (s : State) (h : Nat) : List Nat := (List.range (72 * partSize s.chip.start h)).map (72 * h + ·)

/-- The stacks of partition `h`, ascending. -/
def State.partStacks (s : State) (h : Nat) : List Nat := (List.range (4 * partSize s.chip.start h)).map (4 * h + ·)

/-- The attributes of partition `h`. -/
def State.attr (s : State) (h : Nat) : PartAttr := Tab.get s.chip.attr {} h

/-- The partition a context number belongs to (R457). -/
def ctxPart (n : Nat) : Nat := n / 64

/-- The partition a virtual function is bound to (R454); none for an unbound one and for the physical function. -/
def State.boundPart (s : State) (fn : Nat) : Option Nat :=
  if fn = 0 then none else if startsPart s.chip.start (fn - 1) then some (fn - 1) else none

/-- Caller P of R498: the physical function, or the function bound to partition `h`. -/
def State.mayAct (s : State) (fn h : Nat) : Bool := fn == 0 || s.boundPart fn == some h

/-! ### Contexts, cores, functions -/

def State.ctx? (s : State) (n : Nat) : Option Context := Tab.look s.chip.ctxs n
def State.setCtx (s : State) (n : Nat) (c : Context) : State := { s with chip.ctxs := Tab.put s.chip.ctxs n c }
def State.modCtx (s : State) (n : Nat) (f : Context → Context) : State := { s with chip.ctxs := Tab.adjust s.chip.ctxs n f }

/-- A context that exists and is not DEAD. -/
def State.liveCtx (s : State) (n : Nat) : Bool :=
  match s.ctx? n with
  | some c => c.st != .dead
  | none => false

/-- Contexts of partition `h`, by number. -/
def State.partCtxs (s : State) (h : Nat) : Tab Context := s.chip.ctxs.filter fun p => ctxPart p.1 == h

def State.core (s : State) (n : Nat) : Core := Tab.get s.chip.cores {} n
def State.setCore (s : State) (n : Nat) (c : Core) : State := { s with chip.cores := Tab.set s.chip.cores {} n c }
def State.modCore (s : State) (n : Nat) (f : Core → Core) : State := s.setCore n (f (s.core n))

def State.nmu (s : State) (n : Nat) : Nmu := Tab.get s.chip.nmus {} n
def State.setNmu (s : State) (n : Nat) (c : Nmu) : State := { s with chip.nmus := Tab.set s.chip.nmus {} n c }
def State.modNmu (s : State) (n : Nat) (f : Nmu → Nmu) : State := s.setNmu n (f (s.nmu n))

def State.fn (s : State) (n : Nat) : Fn := Tab.get s.chip.hif.fns {} n
def State.setFn (s : State) (n : Nat) (f : Fn) : State := { s with chip.hif.fns := Tab.set s.chip.hif.fns {} n f }
def State.modFn (s : State) (n : Nat) (f : Fn → Fn) : State := s.setFn n (f (s.fn n))

/-- A core's engine. -/
def Core.engine (c : Core) (e : Nat) : Eng := Tab.get c.eng {} e
def Core.setEngine (c : Core) (e : Nat) (g : Eng) : Core := { c with eng := Tab.set c.eng {} e g }
def Core.tag (c : Core) (t : Nat) : TagState := Tab.get c.tags {} t
/-- A core that a request or a dispatch wakes from a low state other than OFF (R571) (log 87: DESIGN CHOICE). -/
def Core.awake (c : Core) : Core := { c with pst := if c.pst = 3 then 3 else 0 }
def Core.setTag (c : Core) (t : Nat) (g : TagState) : Core := { c with tags := Tab.set c.tags {} t g }
def Core.slot? (c : Core) (sid : Nat) : Option Slot := Tab.look c.slots sid
def Core.setSlot (c : Core) (sid : Nat) (g : Slot) : Core := { c with slots := Tab.put c.slots sid g }

/-- Counter `i` of a context on a core (R118). -/
def Context.counter (c : Context) (core i : Nat) : Word := Tab.get c.cnt 0#32 (core * 64 + i)

/-- Counter `i` of a context on a core raised by `n`, modulo 2^32 (R119, R120). -/
def State.signal (s : State) (ctx core i n : Nat) : State :=
  s.modCtx ctx fun c => { c with cnt := Tab.set c.cnt 0#32 (core * 64 + i) (c.counter core i + BitVec.ofNat 32 n) }

/-- A wait for threshold `t` is satisfied by counter value `v` (R119). -/
def waitMet (v t : Word) : Bool := decide ((v - t).toNat < 2 ^ 31)

/-- Flags OR-ed into a context's sticky flags (R66). -/
def State.stick (s : State) (ctx : Nat) (f : Flags) : State := s.modCtx ctx fun c => { c with flags := c.flags.or f }

/-- A context in error stop (R143, R221). -/
def State.errorStop (s : State) (ctx : Nat) : State := s.modCtx ctx fun c => { c with estop := true }

/-- A free value drawn (log 1) (log 1: DESIGN CHOICE; log 129: DESIGN CHOICE). -/
def State.draw (s : State) (place : Nat) : State × Nat := ({ s with free := s.free + 1 }, Config.freeValue place s.free)

/-! ### What leaves the module for the host (R489, R511) -/

/-- A memory request of a function: it waits while Bus Master Enable is clear (R511) (log 2: DESIGN CHOICE). -/
def State.emit (s : State) (fn : Nat) (o : Out) : State :=
  if (s.fn fn).bme then { s with out := s.out ++ [o] }
  else s.modFn fn fun f => { f with waiting := f.waiting ++ [o] }

/-- Something that leaves without a memory request (log 2: DESIGN CHOICE). -/
def State.send (s : State) (o : Out) : State := { s with out := s.out ++ [o] }

/-- A word of a function's MSI-X table; vector control reads masked until it is written (log 7: PRESUMED). -/
def Fn.msixWord (f : Fn) (i : Nat) : Word := (Tab.look f.msix i).getD (if i % 4 = 3 then 1#32 else 0#32)

/-- A vector is masked. -/
def Fn.vectorMasked (f : Fn) (v : Nat) : Bool := (f.msixWord (4 * v + 3)).toNat.testBit 0

/-- A message of MSI-X vector `v`, or its pending bit while the vector is masked (R507). -/
def State.msix (s : State) (fn v : Nat) : State :=
  if (s.fn fn).vectorMasked v then
    s.modFn fn fun f => { f with pending := if f.pending.contains v then f.pending else f.pending ++ [v] }
  else s.emit fn (.msix fn v)

/-- A cause set in HIF_ISR; one that becomes set while unmasked signals vector 0 (R486). -/
def State.setIsr (s : State) (fn bit : Nat) : State :=
  let f := s.fn fn
  if f.isr.testBit bit then s
  else
    let s1 := s.modFn fn fun f => { f with isr := setBit f.isr bit true }
    if f.imask.testBit bit then s1 else s1.msix fn 0

/-- HIF_ISR.MBRSP, READY, FAULT, DBERR, RINGERR, COVF, FATAL (R486). -/
def isrMbrsp : Nat := 0
def isrReady : Nat := 1
def isrFault : Nat := 2
def isrDberr : Nat := 3
def isrRingerr : Nat := 4
def isrCovf : Nat := 5
def isrFatal : Nat := 6

/-- S of a function that enters confidential mode, from its session's export master secret (R537). -/
def bounceSecret (ems : Nat) : List Byte := hkdfExpand (beBytes 48 ems) (ascii "quasor bounce") 48

/-- S after a key update (R538). -/
def updatedSecret (secret : List Byte) : List Byte := hkdfExpand secret (ascii "quasor update") 48

/-- The device-to-host key (R537). -/
def dataKey (secret : List Byte) : List Byte := hkdfExpand secret (ascii "d2h") 32

/-- The host-to-device key (R537), under which the host seals what it sends: a row says whether its tag holds. -/
def orderKey (secret : List Byte) : List Byte := hkdfExpand secret (ascii "h2d") 32

/-- The next counter of a function's channel and ring; 0 outside confidential mode (R514). -/
def State.sealCounter (s : State) (fn chan ring : Nat) : Nat :=
  ((s.fn fn).conf.map fun c => Tab.get c.counters 0 (256 * chan + ring)).getD 0

/-- A channel whose next counter would pass 2^64 - 1 is in ERROR until the keys are updated: nothing moves on it (R516). -/
def State.sealSpent (s : State) (fn chan ring : Nat) : Bool := decide (2 ^ 64 ≤ s.sealCounter fn chan ring)

/-- The counter of a channel and ring rises (R514). -/
def State.countSeal (s : State) (fn chan ring : Nat) : State :=
  s.modFn fn fun f => { f with conf := f.conf.map fun c => { c with counters := Tab.modify c.counters 0 (256 * chan + ring) (· + 1) } }

/-- An object for the host, sealed in confidential mode under a counter that is given, plain otherwise (R514)
(log 78: DEDUCED). -/
def State.toHostUnder (s : State) (fn chan ring counter addr : Nat) (bytes : List Byte) : State :=
  match (s.fn fn).conf with
  | none => s.emit fn (.hostWrite fn addr bytes)
  | some cf => s.emit fn (.hostSealed fn chan ring counter [(addr, bytes.length + 16)] (dataKey cf.secret) bytes)

/-- An object for the host at an address, under the next counter of its channel and ring (R514, R516). -/
def State.toHost (s : State) (fn chan ring addr : Nat) (bytes : List Byte) : State :=
  if s.sealSpent fn chan ring then s
  else (s.toHostUnder fn chan ring (s.sealCounter fn chan ring) addr bytes).countSeal fn chan ring

/-- Bytes a tag adds to a sealed object (R514) (log 78: DEDUCED). -/
def State.sealBytes (s : State) (fn : Nat) : Nat := if (s.fn fn).conf.isSome then 16 else 0

/-! ### Faults (17) -/

/-- Default severity, default reactions, locked reactions and unit kind of a source (R543); none for a reserved ID.
Reactions in the bit order of R544: 1 I, 2 N, 4 B, 8 C, 16 F. -/
def faultDefault : Nat → Option (Nat × Nat × Nat × Nat)
  | 0x01 => some (1, 1, 0, 6) | 0x02 => some (2, 3, 0, 5) | 0x03 => some (3, 18, 18, 5) | 0x04 => some (0, 0, 0, 5)
  | 0x05 => some (3, 19, 0, 5) | 0x06 => some (3, 24, 24, 5) | 0x07 => some (3, 16, 0, 5) | 0x08 => some (1, 1, 0, 6)
  | 0x09 => some (2, 1, 0, 6) | 0x10 => some (1, 1, 0, 1) | 0x11 => some (1, 1, 0, 1) | 0x12 => some (2, 3, 0, 2)
  | 0x13 => some (1, 1, 0, 2) | 0x14 => some (2, 1, 0, 2) | 0x15 => some (0, 0, 0, 2) | 0x16 => some (2, 3, 0, 2)
  | 0x17 => some (2, 3, 0, 1) | 0x18 => some (0, 1, 0, 1) | 0x20 => some (0, 0, 0, 1) | 0x21 => some (2, 3, 0, 1)
  | 0x22 => some (3, 19, 0, 1) | 0x23 => some (0, 0, 0, 1) | 0x24 => some (2, 3, 0, 1) | 0x25 => some (2, 1, 0, 1)
  | 0x30 => some (1, 1, 0, 1) | 0x31 => some (1, 1, 0, 1) | 0x32 => some (1, 1, 0, 1) | 0x33 => some (1, 1, 0, 1)
  | 0x40 => some (2, 3, 0, 3) | 0x41 => some (0, 0, 0, 3) | 0x42 => some (2, 3, 0, 3) | 0x43 => some (1, 1, 0, 3)
  | 0x44 => some (2, 1, 0, 3) | 0x50 => some (1, 1, 0, 4) | 0x51 => some (0, 1, 0, 4) | 0x52 => some (1, 1, 0, 4)
  | 0x53 => some (1, 1, 0, 4) | 0x54 => some (1, 1, 0, 4) | 0x55 => some (1, 1, 0, 4) | 0x60 => some (0, 1, 0, 0)
  | 0x61 => some (1, 1, 0, 0) | 0x62 => some (1, 1, 0, 0) | 0x63 => some (2, 1, 0, 0) | 0x70 => some (1, 1, 0, 0)
  | 0x71 => some (3, 19, 0, 0) | 0x72 => some (3, 19, 0, 0) | 0x73 => some (0, 1, 0, 0) | 0x74 => some (3, 16, 16, 0)
  | 0x75 => some (3, 16, 16, 0) | 0x76 => some (3, 24, 0, 0) | 0x77 => some (0, 0, 0, 0)
  | _ => none

/-- The default FC_SRC_CFG word of a source (R544); a reserved ID reads zero. -/
def faultCfgDefault (src : Nat) : Nat :=
  match faultDefault src with
  | some (sev, react, lock, _) => sev * 2 ^ 14 + lock * 2 ^ 8 + react
  | none => 0

/-- FC_SRC_CFG of a source (R544). -/
def State.faultCfg (s : State) (src : Nat) : Nat := Tab.get s.chip.fc.cfg (faultCfgDefault src) src

/-- The unit kind of a source (R543, R549). -/
def unitKind (src : Nat) : Nat :=
  match faultDefault src with
  | some (_, _, _, k) => k
  | none => 0

/-- The reactions a source takes: its configured ones and the locked ones (R545). -/
def cfgReact (cfg : Nat) : Nat := bitsOf cfg 0 5 ||| bitsOf cfg 8 5

/-- FAULT_N becomes asserted: COUNT and LASTSRC (R554), SB_EVT.FN (R598) (log 99: DEDUCED). -/
def Aon.assertN (a : Aon) (src : Nat) (pulse : Bool) : Aon :=
  { a with fnOn := true, hold := a.hold || !pulse, fnPulse := pulse, fnGap := false, fnDefer := none, lastSrc := src
           fnCount := satAdd 8 a.fnCount 1, evt := a.evt ||| 8 }

/-- FAULT_N and an occurrence of a source (R555): a pulse mode's assertion goes on, hold mode's is held (log 99: DEDUCED). -/
def Aon.faultN (a : Aon) (src : Nat) : Aon :=
  if a.fnMode then
    if a.fnOn then { a with hold := true, fnPulse := false }
    else a.assertN src false
  else if a.fnOn then a
  else if a.fnGap then { a with fnDefer := some src }
  else a.assertN src true

/-- Microseconds from the release of the chip reset. -/
def State.now (s : State) : Nat := s.aon.time - s.aon.resetAt

/-- The partition of a unit of a kind that has one. -/
def State.unitPart (s : State) (ukind unit : Nat) : Option Nat :=
  match ukind with
  | 1 => some (partOf s.chip.start (eighthOfCore unit))
  | 2 => some (partOf s.chip.start (eighthOfCore (unit / 4)))
  | 3 => some (partOf s.chip.start (eighthOfStack unit))
  | 4 => some (partOf s.chip.start (eighthOfPort unit))
  | 6 => s.boundPart unit
  | _ => none

/-- A new record coalesces into `r` (R551). -/
def coalesces (new r : FaultRec) : Bool :=
  r.src == new.src && r.ukind == new.ukind && r.unit == new.unit && r.inj == new.inj &&
    (if new.sev = 0 then decide (new.time - r.time ≤ 1000000)
     else r.part == new.part && r.ctx == new.ctx && r.detail == new.detail && decide (new.time - r.time ≤ 1000))

/-- A record dropped or replaced is counted, also for its partition's function (R550, R552). -/
def FaultCollector.lose (fc : FaultCollector) (r : FaultRec) : FaultCollector :=
  { fc with
    lost := satAdd 32 fc.lost 1
    lostPart := match r.part with
      | some p => Tab.set fc.lostPart 0 p (satAdd 32 (Tab.get fc.lostPart 0 p) 1)
      | none => fc.lostPart }

/-- A record put into the store of 4,096 entries (R550). -/
def FaultCollector.put (fc : FaultCollector) (r : FaultRec) : FaultCollector :=
  if fc.recs.length < 4096 then { fc with recs := fc.recs ++ [r] }
  else
    let lowest := fc.recs.foldl (fun a x => min a x.sev) 3
    if lowest ≤ r.sev then
      match fc.recs.find? fun x => x.sev == lowest with
      | some old => { fc.lose old with recs := fc.recs.erase old ++ [r] }
      | none => fc.lose r
    else fc.lose r

/-- A severity-3 record placed in the persistent store of 16 (R553). -/
def Aon.persist (a : Aon) (r : FaultRec) : Aon :=
  if r.sev ≠ 3 then a
  else if a.store.length < 16 then { a with store := a.store ++ [r] }
  else { a with store := a.store.drop 1 ++ [r], storeLost := satAdd 32 a.storeLost 1 }

/-- Where a fault occurred and what its record carries (R543, R549). -/
structure Occ where
  src : Nat
  unit : Nat := 0
  ctx : Option Nat := none
  part : Option Nat := none
  detail : Nat := 0
  info : Nat := 0
  inj : Bool := false
  ukind : Option Nat := none

/-- The record of an occurrence, before it takes its number; an injected one names only the partition it is given (R546). -/
def State.recOf (s : State) (o : Occ) : FaultRec :=
  let cfg := s.faultCfg o.src
  let uk := o.ukind.getD (unitKind o.src)
  { seq := s.chip.fc.seq, time := s.now, src := o.src, sev := bitsOf cfg 14 2, inj := o.inj, react := cfgReact cfg, rep := 0
    part := match o.ctx with
      | some c => some (ctxPart c)
      | none => match o.part with
        | some p => some p
        | none => if o.inj then none else s.unitPart uk o.unit
    ctx := o.ctx, ukind := uk, unit := o.unit, detail := o.detail, info := o.info }

/-- Step 1 of R547: the record is written or coalesced; the answer says whether it is new (log 98: DEDUCED). -/
def State.record (s : State) (r : FaultRec) : State × Bool :=
  match s.chip.fc.recs.find? (coalesces r) with
  | some old =>
    ({ s with chip.fc.recs := s.chip.fc.recs.map fun x => if x = old then { x with rep := satAdd 16 x.rep 1 } else x }, false)
  | none =>
    ({ s with chip.fc := { s.chip.fc with seq := (s.chip.fc.seq + 1) % 2 ^ 32 }.put r, aon := s.aon.persist r }, true)

/-- Reaction I of R547: HIF_ISR.FAULT of the physical function and of the function bound to the record's partition. -/
def State.faultIrq (s : State) (part : Option Nat) : State :=
  let s1 := s.setIsr 0 isrFault
  match part with
  | some p => s1.setIsr (p + 1) isrFault
  | none => s1

/-- One occurrence of a fault source with its reactions (R547). Block reset and chip reset are noted and run at the
end of the step (`State.settle`); records before READY set no interrupt until READY (R553); a unit whose block reset runs
raises nothing (R548). A record of severity 2 or 3 sets SB_EVT.FAULT, an assertion of FAULT_N SB_EVT.FN (R598). -/
def State.raise (s : State) (o : Occ) : State :=
  let r := s.recOf o
  if s.chip.fc.blk.contains (r.ukind, r.unit) then s
  else
    let p := s.record r
    let s1 := if p.2 && decide (2 ≤ r.sev) then { p.1 with aon.evt := p.1.aon.evt ||| 4 } else p.1
    let s2 := if r.react.testBit 4 then { s1 with aon := s1.aon.faultN o.src } else s1
    let s3 := if r.react.testBit 0 && p.2 && s2.chip.hif.ready then s2.faultIrq r.part else s2
    let s4 := if r.react.testBit 1 then s3 else { s3 with chip.fc.sweep := s3.chip.fc.sweep ++ [o.src] }
    let s5 := if r.react.testBit 2 && !s4.chip.fc.blk.contains (r.ukind, r.unit)
      then { s4 with chip.fc.todoB := s4.chip.fc.todoB ++ [(r.ukind, r.unit)] } else s4
    if r.react.testBit 3 then { s5 with chip.fc.todoC := some o.src } else s5

/-- The 32 bytes of a fault record (R549). -/
def FaultRec.bytes (r : FaultRec) : List Byte :=
  leBytes 4 r.seq ++ leBytes 6 r.time ++ leBytes 1 r.src ++ leBytes 1 (r.sev * 64 + b2n r.inj * 32 + r.react)
    ++ leBytes 2 r.rep
    ++ leBytes 2 (b2n r.part.isSome * 2 ^ 15 + b2n r.ctx.isSome * 2 ^ 14 + r.part.getD 0 * 2 ^ 9 + r.ctx.getD 0)
    ++ leBytes 2 (r.ukind * 4096 + r.unit) ++ leBytes 2 r.detail ++ leBytes 12 r.info

/-- INFO fields packed under R493: each at the lowest offset that is a multiple of its size (at most 16) (log 95: DEDUCED). -/
def packInfo : Nat → List (Nat × Nat) → Nat
  | _, [] => 0
  | off, (size, v) :: t => let o := roundUp off (max 1 (min size 16)); v * 256 ^ o + packInfo (o + size) t

/-! ### The Isles (05) -/

/-- Bank, row and word of an Isle offset (R151). -/
def isleLoc (o : Nat) : Nat × Nat × Nat := (o / 64 % 48, o / 64 / 48, o / 4 % 16)

/-- INFO of an Isle fault: bank, row, word (log 95: DEDUCED). -/
def isleInfo (o : Nat) : Nat := let l := isleLoc o; packInfo 0 [(1, l.1), (2, l.2.1), (1, l.2.2)]

/-- Stored words with flipped bits in the `n` bytes from key `k`, as (word number, flips). -/
def State.isleErrs (s : State) (k n : Nat) : List (Nat × Nat) :=
  s.chip.isleErr.filter fun p => decide (k / 4 ≤ p.1) && decide (4 * p.1 < k + n)

/-- Flipped bits of a stored word of 39 bits. -/
def flips (mask : Nat) : Nat := popCount 39 mask

/-- Frames of a segment on each stack, as (stack, first frame, frames) (R260). -/
def Segment.frames (g : Segment) : List Reservation :=
  let cut (lo step : Nat) : Option (Nat × Nat) :=      -- intersection of the DPA range with [lo, lo + step)
    let a := max g.dbase lo
    let b := min (g.dbase + g.bytes) (lo + step)
    if a < b then some (a - lo, b - a) else none
  if g.arch then []
  else if g.ilv = 1 then
    (List.range 4).flatMap fun t => match cut (t * 2 ^ 39) (2 ^ 39) with
      | some (off, n) => (List.range 8).map fun i => { stack := 8 * t + i, frame := off / 32768, count := ceilDiv n 32768 }
      | none => []
  else if g.ilv = 2 then
    (List.range 32).map fun st => { stack := st, frame := g.dbase / 131072, count := ceilDiv g.bytes 131072 }
  else
    (List.range 32).flatMap fun st => match cut (st * 2 ^ 36) (2 ^ 36) with
      | some (off, n) => [{ stack := st, frame := off / 4096, count := ceilDiv n 4096 }]
      | none => []

/-- 4 KiB pages of the Archipelago a segment holds, as (first, count). -/
def Segment.pages (g : Segment) : List (Nat × Nat) := if g.arch then [((g.dbase - archBase) / 4096, g.npage)] else []

/-- The ranges of memory keys a segment's bytes fill. -/
def Segment.keyRuns (g : Segment) : List (Nat × Nat) :=
  if g.arch then [(g.dbase, g.bytes)] else g.frames.map fun r => (stackKey r.stack (r.frame * 4096), r.count * 4096)

/-- Ranges of memory keys of a segment's metadata frames (R269). -/
def Segment.metaRuns (g : Segment) : List (Nat × Nat) := g.mdata.map fun r => (stackKey r.stack (r.frame * 4096), r.count * 4096)

/-- The context whose segment holds the byte at key `k`: the CTX of the record of an error that a demand access meets there
(R549) (log 123: DEDUCED). -/
def State.ownerAt (s : State) (k : Nat) : Option Nat :=
  (s.chip.ctxs.find? fun p => p.2.segs.any fun g => g.2.keyRuns.any fun r => decide (r.1 ≤ k) && decide (k < r.1 + r.2)).map (·.1)

/-- The banks of some Isle words in use again: a request that reaches a bank in RET or OFF wakes it and is granted after the exit
latency (R170, R570) (log 133: DEDUCED). -/
def State.wakeBanks (s : State) (core : Nat) (ks : List Nat) : State :=
  if (s.core core).banks.isEmpty then s
  else
    let hit := (ks.map fun k => (isleLoc (k - isleBase core)).1).eraseDups
    s.modCore core fun c => { c with banks := c.banks.filter fun b => !hit.contains b.1 }

/-- A word with flipped bits met by a read: one flip is corrected and its scrub waits, more make it uncorrectable
(R160, R161); three or more flips count as flips that the code detects. `detail` is 0 for a demand read, 1 for the patrol, 2 for a
partial write (log 97: DESIGN CHOICE; log 123: DEDUCED; log 134: DESIGN CHOICE). -/
def State.meetWord (s : State) (core detail : Nat) (w mask : Nat) : State :=
  let o := 4 * w - isleBase core
  if flips mask = 1 then
    (s.modCore core fun c => { c with ice := satAdd 32 c.ice 1, scrubs := Tab.put c.scrubs w 0 }).raise
      { src := 0x20, unit := core, ctx := if detail = 1 then none else s.ownerAt (4 * w), detail := if detail = 1 then 1 else 0
        info := isleInfo o }
  else
    let l := isleLoc o
    (s.modCore core fun c => { c with iue := satAdd 16 c.iue 1, ubank := l.1, urow := l.2.1, uword := l.2.2 }).raise
      { src := 0x21, unit := core, ctx := if detail = 1 then none else s.ownerAt (4 * w), detail := detail, info := isleInfo o }

/-- A key in each line that the `n` bytes from key `k` touch. -/
def lineKeys (k n : Nat) : List Nat := (List.range ((k % 64 + n + 63) / 64)).map fun i => (k / 64 + i) * 64

/-- An Isle read of `n` bytes: the state after its corrections and faults, and whether a word came back poisoned (R160). -/
def State.isleRead (s : State) (core k n : Nat) : State × Bool :=
  let es := s.isleErrs k n
  (es.foldl (fun a p => a.meetWord core 0 p.1 p.2) (s.wakeBanks core (lineKeys k n)), es.any fun p => decide (2 ≤ flips p.2))

/-- One write access to an Isle: bytes by key. A word written with all four bytes is stored with fresh check bits; a word written
in part is read, corrected and merged, or drops its bytes where it is uncorrectable (R152, R160, R163). A write to a word cancels
its scrub (R161). The answer says whether bytes were dropped. -/
def State.isleStore (s : State) (core : Nat) (bs : List (Nat × Byte)) : State × Bool :=
  let ks := bs.map (·.1)
  let hit (w : Nat) : Bool := ks.any fun k => k / 4 == w
  let part := s.chip.isleErr.filter fun p => hit p.1 && !((List.range 4).all fun j => ks.contains (4 * p.1 + j))
  let bad := (part.filter fun p => decide (2 ≤ flips p.2)).map (·.1)
  let s1 := part.foldl (fun a p => a.meetWord core (if flips p.2 = 1 then 0 else 2) p.1 p.2) (s.wakeBanks core ks)
  let s2 := bs.foldl (fun a p => if bad.contains (p.1 / 4) then a else a.wr p.1 p.2) s1
  let s3 := { s2 with chip.isleErr := s2.chip.isleErr.filter fun p => !hit p.1 || bad.contains p.1 }
  (s3.modCore core fun c => { c with scrubs := c.scrubs.filter fun p => !hit p.1 || bad.contains p.1 }, !bad.isEmpty)

/-- A write access of consecutive bytes; one into a reserved ring (R193) takes place in the order of the commands
(log 159: DESIGN CHOICE). -/
def State.isleWrite (s : State) (core k : Nat) (bs : List Byte) : State × Bool :=
  s.isleStore core (((List.range bs.length).map (k + ·)).zip bs)

/-! ### Completion records (R505 to R507) -/

/-- Bytes of one slot of a completion ring. -/
def State.cplSlot (s : State) (fn : Nat) : Nat := 32 + s.sealBytes fn

/-- A record written to a ring that has room, with its message (R505, R507). -/
def State.writeRecord (s : State) (fn ring : Nat) (r : CplRing) (body : List Byte) : State :=
  let addr := r.base + (r.prod % 2 ^ r.logn) * s.cplSlot fn
  let s1 := s.toHost fn 0x04 ring addr (body ++ leBytes 4 (r.cseq + 1) ++ leBytes 8 0)
  let prod := (r.prod + 1) % 2 ^ 32
  let s2 := s1.emit fn (.hostWrite fn r.shadow (leBytes 8 prod))
  let fire := r.itime = 0 || r.since + 1 ≥ r.icnt
  let r1 := { r with prod := prod, cseq := (r.cseq + 1) % 2 ^ 32, since := if fire then 0 else r.since + 1 }
  let s3 := s2.modFn fn fun f => { f with cpl := Tab.put f.cpl ring r1 }
  if fire then s3.msix fn r.vector else s3

/-- A ring with no free slot, or in ERROR. -/
def CplRing.full (r : CplRing) : Bool := r.err || (r.prod + 2 ^ 32 - r.cons) % 2 ^ 32 == 2 ^ r.logn

/-- A completion record of a context posted to its notice ring, held while the ring is full, or dropped and counted
(R502, R506). `origin` is the submission ring and index that carried the entry (R505). -/
def State.post (s : State) (ctx : Nat) (rec : List Byte) (origin : Option (Nat × Nat)) : State :=
  let body := rec ++ (match origin with
    | some (ring, idx) => leBytes 1 ring ++ leBytes 1 0 ++ leBytes 2 idx
    | none => leBytes 1 0xFF ++ leBytes 1 0 ++ leBytes 2 0)
  match s.ctx? ctx with
  | none => s
  | some c =>
    match c.notice with
    | none => s.setCtx ctx { c with lost := satAdd 32 c.lost 1 }
    | some (fn, ring) =>
      match Tab.look (s.fn fn).cpl ring with
      | none => s.setCtx ctx { c with lost := satAdd 32 c.lost 1 }
      | some r =>
        if r.full || !r.held.isEmpty then
          if r.held.length < 4096 then
            s.modFn fn fun f => { f with cpl := Tab.put f.cpl ring { r with held := r.held ++ [(ctx, body)] } }
          else (s.setCtx ctx { c with lost := satAdd 32 c.lost 1 }).setIsr fn isrCovf
        else s.writeRecord fn ring r body

/-- Held records posted while the ring has room. -/
def State.drainHeld (s : State) (fn ring : Nat) : Nat → State
  | 0 => s
  | n + 1 =>
    match Tab.look (s.fn fn).cpl ring with
    | none => s
    | some r =>
      match r.held with
      | [] => s
      | (_, body) :: t => if r.full then s else (s.writeRecord fn ring { r with held := t } body).drainHeld fn ring n

/-- A task record (R144) (log 113: DEDUCED). -/
def taskRecord (taskid : Nat) (st : Status) (f : Flags) (core opc detail cycles ctx : Nat) : List Byte :=
  leBytes 2 taskid ++ leBytes 1 st.code ++ leBytes 1 f.bits ++ leBytes 2 core ++ leBytes 1 opc ++ leBytes 1 detail
    ++ leBytes 4 (min cycles (2 ^ 32 - 1)) ++ leBytes 4 ctx

/-- A stream record (R219). -/
def streamRecord (armid : Nat) (st : Status) (core detail tiles sid ctx : Nat) : List Byte :=
  leBytes 2 armid ++ leBytes 1 st.code ++ leBytes 1 0 ++ leBytes 2 core ++ leBytes 1 0xF0 ++ leBytes 1 detail
    ++ leBytes 4 tiles ++ leBytes 4 (sid * 2 ^ 9 + ctx)

/-! ### Mailbox commands (R491, R494, R496) -/

/-- A command as it runs: who sent it, its opcode, its acceptance number, its counter and muteness (Fetched). -/
structure Cmd where
  caller : Caller
  opc : Nat
  seq : Nat
  ctr : Nat := 0
  mute : Bool := false
  deriving DecidableEq, Repr

/-- The device serves mailbox commands: READY reached and FATAL clear (R480, R484). -/
def State.serving (s : State) : Bool := s.chip.hif.ready && !s.chip.hif.fatal

/-- The fetched command a row stands for, when HOST_READ_COMPLETION brought it. -/
def State.fetchedOf (s : State) (c : Caller) (opc : Nat) : Option Fetched :=
  (s.fn c.fn).mb.fetched.find? fun f => f.ctag == c.ctag && f.opc == opc

/-- A command may start: service, fewer than 64 running, no running command on a common object, a FENCE's earlier
commands ended (R496) (log 11: DEDUCED). -/
def State.mayStart (s : State) (c : Caller) (opc : Nat) (objs : List Obj) : Bool :=
  s.serving && decide (s.chip.hif.running.length < 64) &&
    s.chip.hif.running.all (fun r => r.objs.all fun o => !objs.contains o) &&
    (match s.fetchedOf c opc with
      | some f => !f.xwait && (!f.fence || ((s.fn c.fn).mb.fetched.head? == some f && s.chip.hif.running.all fun r => r.caller.fn != c.fn))
      | none => true)

/-- A command taken up: its fetched entry is consumed, or it is accepted now (R496). -/
def State.accept (s : State) (c : Caller) (opc : Nat) : State × Cmd :=
  match s.fetchedOf c opc with
  | some f =>
    (s.modFn c.fn fun g => { g with mb.fetched := g.mb.fetched.erase f }, { caller := c, opc := opc, seq := f.seq, ctr := f.ctr, mute := f.mute })
  | none =>
    (({ s with chip.hif.seq := (s.chip.hif.seq + 1) % 2 ^ 32 } : State).countSeal c.fn 0x01 0,
      { caller := c, opc := opc, seq := s.chip.hif.seq, ctr := s.sealCounter c.fn 0x01 0 })

/-- A response posted to the caller's mailbox, its buffer sealed with the command's counter (R514); discarded while EN is 0 and for a
command accepted before EN was cleared (R487, R491) (log 117: DEDUCED). -/
def State.respond (s : State) (m : Cmd) (st : Status) (detail : Nat := 0) (result : Nat := 0) (data : List Byte := [])
    (need : Nat := 0) : State :=
  let fn := m.caller.fn
  let mb := (s.fn fn).mb
  if !mb.en || m.mute then s
  else
    let sl := s.sealBytes fn
    let s1 := if data.isEmpty then s else s.toHostUnder fn 0x08 0 m.ctr m.caller.rbuf data
    let done := if data.isEmpty then 0 else data.length + sl
    let body := leBytes 2 m.caller.ctag ++ leBytes 1 st.code ++ leBytes 1 0 ++ leBytes 2 m.opc ++ leBytes 2 detail
      ++ leBytes 8 result ++ leBytes 4 done ++ leBytes 4 (if data.isEmpty then need else done) ++ leBytes 4 m.seq ++ leBytes 4 0
    let s2 := s1.toHost fn 0x02 0 (mb.rbase + (mb.rtail % 2 ^ mb.logn) * (32 + sl)) body
    let rtail := (mb.rtail + 1) % 2 ^ 32
    let s3 := s2.emit fn (.hostWrite fn (mb.shad + 4) (leBytes 4 rtail))
    let s4 := s3.modFn fn fun f => { f with mb.rtail := rtail }
    if m.caller.noirq then s4 else s4.setIsr fn isrMbrsp

/-- The status and DETAIL of the first failed check of a list (failed, status, DETAIL) (log 16: DEDUCED). -/
def firstFail : List (Bool × Status × Nat) → Option (Status × Nat)
  | [] => none
  | (b, st, d) :: t => if b then some (st, d) else firstFail t

/-- A mailbox command: where it may not start yet nothing happens; a failed check refuses it and changes nothing else;
otherwise `body` carries it out (R494, R496, R627) (log 16: DEDUCED). -/
def State.mbox (s : State) (c : Caller) (opc : Nat) (objs : List Obj) (need : Nat)
    (checks : List (Bool × Status × Nat)) (body : Cmd → State → State) : State :=
  if s.mayStart c opc objs then
    let a := s.accept c opc
    match firstFail checks with
    | some (st, d) => a.1.respond a.2 st d (need := need)
    | none => body a.2 a.1
  else s

/-- A command that goes on running until a later event answers it (R496). -/
def State.run (s : State) (m : Cmd) (objs : List Obj) (w : Await) (result : Nat := 0) (data : List Byte := []) : State :=
  { s with chip.hif.running := s.chip.hif.running ++
      [{ seq := m.seq, caller := m.caller, opc := m.opc, objs := objs, await := w, result := result, data := data,
          ctr := m.ctr, mute := m.mute }] }

/-- The running commands that meet `p` answered with a status and taken off the list. -/
def State.answerRun (s : State) (p : Running → Bool) (st : Status) (detail : Nat := 0) : State :=
  let hit := s.chip.hif.running.filter p
  let s1 := { s with chip.hif.running := s.chip.hif.running.filter fun r => !p r }
  hit.foldl (fun a r =>
    let m : Cmd := { caller := r.caller, opc := r.opc, seq := r.seq, ctr := r.ctr, mute := r.mute }
    if st = .ok then a.respond m st detail r.result r.data else a.respond m st detail) s1

/-- The running commands that wait for what `p` says answered (log 19: DEDUCED). -/
def State.answer (s : State) (p : Await → Bool) (st : Status) (detail : Nat := 0) : State := s.answerRun (fun r => p r.await) st detail

/-! ### Check lists that many commands share -/

/-- Check 3 of R494: the caller may act on partition `h`. -/
def State.chkPart (s : State) (c : Caller) (h : Nat) : Bool × Status × Nat := (!s.mayAct c.fn h, .denied, 3)

/-- Check 3 of R494 for a command of the physical function alone. -/
def chkPF (c : Caller) : Bool × Status × Nat := (c.fn != 0, .denied, 3)

/-- Check 4 of R494: the response buffer holds the response. -/
def State.chkResp (s : State) (c : Caller) (n : Nat) : Bool × Status × Nat :=
  (decide (c.rlen < n + s.sealBytes c.fn), .argRange, 4)

/-- R627: the context number exists and is not DEAD. -/
def State.chkCtx (s : State) (n : Nat) : List (Bool × Status × Nat) :=
  [((s.ctx? n).isNone, .argRange, 0), (!s.liveCtx n, .state, 0)]

/-- R627: the eighth starts a partition. -/
def State.chkStart (s : State) (h : Nat) : Bool × Status × Nat := (!startsPart s.chip.start h, .denied, 0)

end Sys2Proof.Machine
end

