-- ==== Sys2Proof/Machine/Segments.lean ====
section
/-! DEFINITION. Frames, placement and the checks of segments (08: R259 to R264, R269, R628; 01 R35). -/

namespace Sys2Proof.Machine

open Sys2Proof

/-! ### Spans of frames and of Isle pages -/

/-- Segments that hold or will hold frames: those of every context, new ones and the destinations of migrations. -/
def State.allSegs (s : State) : List Segment :=
  (s.chip.ctxs.flatMap fun p => p.2.segs.map (·.2)) ++
    s.chip.hif.running.flatMap fun r => match r.await with
      | .newSeg _ _ g => [g]
      | .migrate _ _ g _ => [g]
      | .evict _ gs _ => gs.map (·.2)
      | .restore _ gs _ => gs.map (·.2)
      | _ => []

/-- Everything that holds frames of the stacks (R260, R628). -/
def State.grants (s : State) : List Reservation :=
  (s.allSegs.flatMap fun g => g.frames ++ g.mdata) ++ (s.chip.ctxs.flatMap fun p => p.2.reserved) ++ s.chip.otherResv.map (·.2)

/-- Spans sorted by their first number. -/
def sortSpans (l : List (Nat × Nat)) : List (Nat × Nat) := sortBy (fun a b => decide (a.1 ≤ b.1)) l

/-- The gaps that sorted spans leave between `lo` and `hi`. -/
def gaps (hi : Nat) : Nat → List (Nat × Nat) → List (Nat × Nat)
  | lo, [] => if lo < hi then [(lo, hi - lo)] else []
  | lo, (a, n) :: t =>
    if lo < min a hi then (lo, min a hi - lo) :: gaps hi (max lo (a + n)) t else gaps hi (max lo (a + n)) t

/-- Frames of one stack among grants. -/
def spansOf (gs : List Reservation) (st : Nat) : List (Nat × Nat) := (gs.filter (·.stack == st)).map fun r => (r.frame, r.count)

/-- Free runs of frames that a set of stacks has in common. -/
def freeRuns (gs : List Reservation) (sts : List Nat) : List (Nat × Nat) :=
  gaps (2 ^ 24) 0 (sortSpans (sts.flatMap (spansOf gs)))

/-- Free frames of a stack. -/
def freeFrames (gs : List Reservation) (st : Nat) : Nat := sumNat ((freeRuns gs [st]).map (·.2))

/-- The lowest start of `n` within free runs. -/
def lowestFit (runs : List (Nat × Nat)) (n : Nat) : Option Nat := (runs.find? fun r => decide (n ≤ r.2)).map (·.1)

/-- The highest start of `n` within free runs. -/
def highestFit (runs : List (Nat × Nat)) (n : Nat) : Option Nat :=
  (runs.reverse.find? fun r => decide (n ≤ r.2)).map fun r => r.1 + r.2 - n

/-- Stacks from the most free frames downward, the lower number among equals (R263, R628). -/
def byFree (gs : List Reservation) (sts : List Nat) : List Nat :=
  sortBy (fun a b =>
    let fa := freeFrames gs a
    let fb := freeFrames gs b
    decide (fa > fb) || (fa == fb && decide (a ≤ b))) sts

/-- One reservation of Drover (R628): the highest run of the stack with the most free frames that has one (log 31: DEDUCED). -/
def reserveOne (gs : List Reservation) (sts : List Nat) (bytes : Nat) : Option Reservation :=
  let n := ceilDiv bytes 4096
  (byFree gs sts).findSome? fun st => (highestFit (freeRuns gs [st]) n).map fun f => { stack := st, frame := f, count := n }

/-- Several reservations, each after the ones before it (R628) (log 31: DEDUCED). -/
def reserveAll (gs : List Reservation) (sts : List Nat) : List Nat → Option (List Reservation)
  | [] => some []
  | b :: t =>
    match reserveOne gs sts b with
    | none => none
    | some r => (reserveAll (r :: gs) sts t).map (r :: ·)

/-- Up to `n` frames of one stack from its highest free runs downward (R628: compression metadata). -/
def topFrames (st : Nat) : List (Nat × Nat) → Nat → List Reservation
  | [], _ => []
  | (a, c) :: t, n =>
    if n = 0 then []
    else if n ≤ c then [{ stack := st, frame := a + c - n, count := n }]
    else { stack := st, frame := a, count := c } :: topFrames st t (n - c)

/-- Metadata frames a COMP = 1 segment needs on each of its stacks (R269). -/
def Segment.metaNeed (g : Segment) : Nat :=
  if g.comp then ceilDiv (g.npage * 4 / (if g.ilv = 1 then 8 else if g.ilv = 2 then 32 else 1)) 4096 else 0

/-- A placed segment with its metadata frames; none where a stack lacks the room. -/
def withMeta (gs : List Reservation) (g : Segment) : Option Segment :=
  let n := g.metaNeed
  let fr := g.frames
  let got := fr.map fun r => topFrames r.stack (freeRuns (fr ++ gs) [r.stack]).reverse n
  if got.all fun l => sumNat (l.map (·.count)) == n then some { g with mdata := got.flatten } else none

/-- The available stacks of a partition (R256). -/
def State.availStacks (s : State) (h : Nat) : List Nat := (s.partStacks h).filter fun st => (s.nmu st).avail

/-- The place R263 chooses for a segment of partition `h`; `gs` are the frames already granted (log 31: DEDUCED). -/
def State.place (s : State) (h : Nat) (gs : List Reservation) (g : Segment) : Option Segment :=
  if g.arch then
    let first := if g.pref = 0xFFFF then 72 * h else g.pref
    let top := 384 * 72 * (h + partSize s.chip.start h)
    let used := s.allSegs.flatMap Segment.pages
    (lowestFit (gaps top (384 * first) (sortSpans used)) g.npage).map fun p => { g with dbase := archBase + 4096 * p }
  else if g.ilv = 1 then
    (List.range 4).findSome? fun t =>
      let sts := (List.range 8).map (8 * t + ·)
      if sts.all fun st => (s.availStacks h).contains st then
        (lowestFit (freeRuns gs sts) (g.npage / 8)).bind fun f => withMeta gs { g with dbase := t * 2 ^ 39 + f * 32768 }
      else none
  else if g.ilv = 2 then
    let sts := List.range 32
    if sts.all fun st => (s.availStacks h).contains st then
      (lowestFit (freeRuns gs sts) (g.npage / 32)).bind fun f => withMeta gs { g with dbase := f * 131072 }
    else none
  else
    let order := if g.pref = 0xFFFF then byFree gs (s.availStacks h)
      else if (s.availStacks h).contains g.pref then [g.pref] else []
    order.findSome? fun st =>
      (lowestFit (freeRuns gs [st]) g.npage).bind fun f => withMeta gs { g with dbase := stackKey st (f * 4096) }

/-! ### Segment descriptors (R261) -/

/-- A segment as the caller's descriptor asks for it. -/
def Segment.ofDesc (d : List Byte) : Segment :=
  { cbase := num d 0 6, npage := fld d 8 0 36, dbase := fld d 16 0 46, rd := flg d 22 7, wr := flg d 22 6, arch := flg d 22 5
    comp := flg d 22 4, ilv := fld d 22 2 2, fixed := flg d 22 1, pref := num d 24 2 }

/-- Byte 22 of a descriptor: the attributes. -/
def Segment.attrByte (g : Segment) : Nat :=
  b2n (g.rd || g.copies) * 128 + b2n g.wr * 64 + b2n g.arch * 32 + b2n g.comp * 16 + g.ilv * 4 + b2n g.fixed * 2

/-- The 32 bytes SEG_QUERY and SEG_CREATE return (R261). -/
def Segment.bytesOf (g : Segment) (id part : Nat) : List Byte :=
  leBytes 8 g.cbase ++ leBytes 8 g.npage ++ leBytes 6 g.dbase ++ leBytes 1 g.attrByte ++ leBytes 1 0 ++ leBytes 2 g.pref
    ++ leBytes 2 id ++ leBytes 1 (b2n g.vers.isSome * 128 + b2n g.mig * 64 + part) ++ leBytes 3 0

/-- The granule of a policy (check 1 of R262). -/
def granule (arch : Bool) (ilv : Nat) : Nat := if arch then 4096 else if ilv = 1 then 32768 else if ilv = 2 then 131072 else 4096

/-- A DPA range touches control space, or passes the end of the DPA space (R35) (log 115: DESIGN CHOICE). -/
def touchesControl (lo n : Nat) : Bool := decide (lo + n > 0x3F00_0000_0000)

/-- A DPA range lies in one mapped range of its tier (R32, R35) (log 115: DESIGN CHOICE). -/
def inTier (arch : Bool) (lo n : Nat) : Bool :=
  if arch then decide (archBase ≤ lo) && decide (lo + n ≤ archBase + 576 * isleBytes) else decide (lo + n ≤ 2 ^ 41)

/-- Check 1 of R262 on a segment. -/
def Segment.shapeOk (g : Segment) : Bool :=
  let gr := granule g.arch g.ilv
  g.ilv != 3 && decide (1 ≤ g.npage) && g.cbase % gr == 0 && g.bytes % gr == 0 && g.dbase % gr == 0
    && decide (g.cbase + g.bytes ≤ 2 ^ 48) && (!g.arch || (g.ilv == 0 && !g.comp)) && (g.fixed || g.dbase == 0)

/-- Reserved and returned fields of a create descriptor are zero (R261) (log 29: DEDUCED). -/
def segReservedOk (d : List Byte) : Bool :=
  zeroFlds d [(6, 0, 16), (8, 36, 28), (16, 46, 2), (22, 0, 1), (23, 0, 8), (26, 0, 16), (28, 0, 8), (29, 0, 24)]

/-- Check 5 of R262: the partition can hold the policy and PREF lies in it. -/
def State.policyOk (s : State) (h : Nat) (g : Segment) : Bool :=
  let n := partSize s.chip.start h
  (g.arch || (if g.ilv = 1 then decide (2 ≤ n) else if g.ilv = 2 then n == 8 else true)) &&
    (g.pref == 0xFFFF || (if g.arch then s.coreInPart h g.pref else s.stackInPart h g.pref))

/-- A list of sorted spans covers [lo, lo + n). -/
def covered (spans : List (Nat × Nat)) (lo n : Nat) : Bool := (gaps (lo + n) lo (sortSpans spans)).isEmpty

/-- Check 4 of R262 on a FIXED range: it names only what segments of the partition hold, with the same COMP; the state segment of an NMU
group is one of them (log 147: DESIGN CHOICE). -/
def State.fixedGranted (s : State) (h : Nat) (g : Segment) : Bool :=
  let own := (s.partCtxs h).flatMap fun p => p.2.segs.map (·.2)
  if g.arch then g.pages.all fun p => covered (own.flatMap Segment.pages) p.1 p.2
  else
    g.frames.all fun r =>
      covered (spansOf (own.flatMap Segment.frames) r.stack) r.frame r.count &&
        own.all fun o => o.comp == g.comp || o.frames.all fun q =>
          q.stack != r.stack || decide (q.frame + q.count ≤ r.frame) || decide (r.frame + r.count ≤ q.frame)

/-- The CVA ranges of two segments overlap. -/
def Segment.overlaps (a b : Segment) : Bool := decide (a.cbase < b.cbase + b.bytes) && decide (b.cbase < a.cbase + a.bytes)

/-- The lowest free number of a table below `n`. -/
def freeKey {α : Type} (n : Nat) (t : Tab α) : Option Nat := lowest n fun k => (Tab.look t k).isNone

/-! ### Parameter groups and the gradient tiles that an update locks (R284, R302) -/

/-- Ranges of keys overlap. -/
def spansMeet (a b : Nat × Nat) : Bool := decide (a.1 < b.1 + b.2) && decide (b.1 < a.1 + a.2)

/-- A group of an NMU. -/
def State.group? (s : State) (st gid : Nat) : Option Group := Tab.look (s.nmu st).groups gid

def Group.wcva (g : Group) : Nat := num g.desc 40 6
def Group.scva (g : Group) : Nat := num g.desc 32 6
def Group.vsize (g : Group) : Nat := num g.desc 112 6
def Group.set (g : Group) : Nat := fld g.desc 1 0 4
def Group.layer (g : Group) : Nat := fld g.desc 2 0 12
def Group.ctx (g : Group) : Nat := fld g.desc 4 0 9
def Group.stack (g : Group) : Nat := fld g.desc 6 0 5
def Group.slot (g : Group) (v : Nat) : VSlot := if v = 0 then g.v0 else g.v1
def Group.setSlot (g : Group) (v : Nat) (x : VSlot) : Group := if v = 0 then { g with v0 := x } else { g with v1 := x }
def State.modGroup (s : State) (st gid : Nat) (f : Group → Group) : State :=
  s.modNmu st fun n => { n with groups := Tab.adjust n.groups gid f }

/-- Gradient tiles that a running step 1 or 2 of R302 locks, as ranges of memory keys. -/
def State.gradLocks (s : State) : List (Nat × Nat) :=
  s.chip.nmus.flatMap fun n => n.2.groups.flatMap fun g =>
    let k := ctxPart g.2.ctx * 16 + g.2.set
    if ((Tab.look s.chip.sets k).map (·.st)) == some .staging then
      match s.ctx? g.2.ctx with
      | none => []
      | some c =>
        let d := g.2.desc
        let nt := ceilDiv (fld d 8 0 25) (fld d 16 0 13) * ceilDiv (fld d 12 0 25) (fld d 18 0 13)
        (List.range nt).filterMap fun t =>
          let a := num d 48 6 + t * num d 56 4
          (segAt c.segs a).map fun p => (p.2.key a, 16 + 16 * Fmt.fp32.plen false (fld d 16 0 13 * fld d 18 0 13))
    else []

/-- A CVA range covers a byte of one of the key ranges `ks`. -/
def rangeMeets (segs : Tab Segment) (ks : List (Nat × Nat)) (cva n : Nat) : Bool :=
  !ks.isEmpty && (List.range ((cva % 4096 + n + 4095) / 4096)).any fun i =>
    let lo := max cva ((cva / 4096 + i) * 4096)
    let hi := min (cva + n) ((cva / 4096 + i + 1) * 4096)
    (segAt segs lo).elim false fun p => ks.any (spansMeet (p.2.key lo, hi - lo))

end Sys2Proof.Machine
end

