-- ==== Sys2Proof/Machine/Layout.lean ====
section
/-! DEFINITION. Layout descriptors, element positions and the units a stream visits (07: R229 to R249). -/

namespace Sys2Proof

/-- One dim of a layout (R229). -/
structure Dim where
  stride : Nat
  size : Nat
  axis : Nat
  deriving DecidableEq, Repr

/-- The fields of a layout descriptor (R229). -/
structure Layout where
  rows : Bool                -- LKIND 0x02
  baxis : Nat
  noblk : Bool
  fmt : Fmt
  scale : Nat
  swz : Bool := false
  gsel : Nat := 0
  sbits : Nat := 0
  rbit : Nat := 0
  layer : Nat := 0
  fill : Nat := 0
  soff : Nat := 0
  dims : List Dim
  box : List Nat := []
  deriving DecidableEq, Repr

/-- The fields of descriptor bytes. -/
def Layout.parse (d : List Byte) : Layout :=
  { rows := num d 0 1 == 2, baxis := fld d 1 5 3, noblk := flg d 1 4, fmt := (Fmt.ofCode (fld d 1 0 4)).getD .fp32
    scale := num d 2 1, swz := flg d 4 15, gsel := fld d 4 12 2, sbits := fld d 4 10 2, rbit := fld d 4 4 4
    layer := fld d 6 0 12, fill := num d 8 2, soff := num d 10 6
    dims := (List.range (fld d 3 0 3)).map fun i =>
      { stride := num d (16 + 8 * i) 5, size := num d (21 + 8 * i) 3, axis := fld d (88 + i) 0 3 }
    box := (List.range 6).map fun a => num d (64 + 4 * a) 3 }

/-- NAX: the number of logical axes (R230). -/
def Layout.nax (l : Layout) : Nat := l.dims.foldl (fun a d => max a (d.axis + 1)) 0

/-- Logical extent of an axis (R230). -/
def Layout.lsize (l : Layout) (a : Nat) : Nat := (l.dims.filter (·.axis == a)).foldl (fun p d => p * d.size) 1

/-- The lowest dim of an axis. -/
def Layout.lowDim (l : Layout) (a : Nat) : Option Dim := l.dims.find? (·.axis == a)

/-- Elements that share a scale byte under this layout. -/
def Layout.block (l : Layout) : Nat := l.fmt.blockOf l.noblk

/-- Element offset of the coordinates, before any swizzle (R231). -/
def Layout.offset (l : Layout) (coord : List Nat) : Nat :=
  let rec go : List Dim → List Nat → Nat
    | [], _ => 0
    | d :: t, xs =>
      let x := xs.getD d.axis 0
      (x % d.size) * d.stride + go t (xs.set d.axis (x / d.size))
  go l.dims coord

/-- Bit position of the coordinates for elements of `w` bits (R231). -/
def Layout.bitPos (l : Layout) (w : Nat) (coord : List Nat) : Nat :=
  let q := l.offset coord * w
  if l.swz then q ^^^ (bitsOf q (l.rbit + 3) l.sbits <<< (4 + l.gsel + 3)) else q

/-- Linear index e' of the coordinates for elements of `w` bits (R231). -/
def Layout.index (l : Layout) (w : Nat) (coord : List Nat) : Nat := l.bitPos w coord / w

/-- emax of R234. -/
def Layout.emax (l : Layout) : Nat := l.dims.foldl (fun a d => a + (d.size - 1) * d.stride) 0

/-- EXT of R234 in bytes, for elements of `w` bits. -/
def Layout.ext (l : Layout) (w : Nat) : Nat :=
  let e := ceilDiv ((l.emax + 1) * w) 8
  if l.swz then roundUp e (2 ^ (4 + l.gsel + l.sbits)) else e

/-- R232: strides and BAXIS meet the rule of format `f`. -/
def Layout.stridesOk (l : Layout) (f : Fmt) (noblk : Bool) : Bool :=
  let b := f.blockOf noblk
  let lowest (i : Nat) : Bool := match l.dims[i]? with
    | some d => !(l.dims.take i).any (·.axis == d.axis)
    | none => false
  if b ≠ 0 then
    match l.dims[l.baxis]? with
    | none => false
    | some d =>
      lowest l.baxis && d.stride == 1 && d.size % b == 0 &&
        (List.range l.dims.length).all fun i => i == l.baxis || (l.dims[i]?.elim true fun e => e.stride % b == 0)
  else if f.width < 8 && f.allowsNoblk then
    l.baxis == 7 &&
      ((List.range l.dims.length).filter fun i => l.dims[i]?.elim false fun e => e.stride == 1).length == 1 &&
      (List.range l.dims.length).all fun i => l.dims[i]?.elim true fun e =>
        if e.stride = 1 then lowest i && e.size % 32 == 0 else e.stride % 32 == 0
  else l.baxis == 7

/-- R233: the swizzle fields suit elements of format `f`. -/
def Layout.swizzleOk (l : Layout) (f : Fmt) (noblk : Bool) : Bool :=
  if l.swz then
    let g := 4 + l.gsel
    f.width != 6 && decide (1 ≤ l.sbits ∧ l.sbits ≤ 3) && decide (max 6 (g + l.sbits) ≤ l.rbit) && !l.rows &&
      (f.blockOf noblk == 0 || decide (f.blockOf noblk * f.width ≤ 8 * 2 ^ g))
  else l.gsel == 0 && l.sbits == 0 && l.rbit == 0

/-- R237: dense for elements of `w` bits. -/
def Layout.dense (l : Layout) (w : Nat) : Bool :=
  let ds := sortBy (fun a b => decide (a.stride ≤ b.stride)) (l.dims.filter (·.size > 1))
  let rec go (n : Nat) : List Dim → Bool
    | [] => true
    | d :: t => d.stride == n && go (n * d.size) t
  let total := l.dims.foldl (fun p d => p * d.size) 1
  go 1 ds && (!l.swz || total * w % (8 * 2 ^ (4 + l.gsel + l.sbits)) == 0)

/-- The axes in use run from 0 with none skipped, each of extent at most 2^32 (R230). -/
def Layout.axesOk (l : Layout) : Bool :=
  (List.range l.nax).all fun a => l.dims.any (·.axis == a) && decide (l.lsize a ≤ 2 ^ 32)

/-- The boxes of a TENSOR far end along axis `a` (R244). -/
def Layout.nb (l : Layout) (a : Nat) : Nat := ceilDiv (l.lsize a) (max 1 (l.box.getD a 1))

/-- Product of a number for each axis. -/
def prodAxes (n : Nat) (f : Nat → Nat) : Nat := (List.range n).foldl (fun p a => p * f a) 1

/-- COUNT of every tile of a far end (R244, R248). -/
def Layout.tileCount (l : Layout) : Nat := prodAxes l.nax fun a => l.box.getD a 0

/-- The boxes a TENSOR layout has. -/
def Layout.boxes (l : Layout) : Nat := prodAxes l.nax l.nb

/-- Rows per tile of an index-driven arm. -/
def Layout.rpt (l : Layout) : Nat := l.box.getD 1 0

/-- R248: the shape of a ROWS layout. -/
def Layout.rowsOk (l : Layout) : Bool :=
  match l.dims with
  | [d0, d1] =>
    d0.axis == 0 && d1.axis == 1 && d0.stride == 1 && decide (d0.size ≤ d1.stride) && l.box.getD 0 0 == d0.size &&
      decide (1 ≤ l.box.getD 1 0 ∧ l.box.getD 1 0 ≤ d1.size) && !l.swz &&
      (l.block == 0 || (l.baxis == 0 && d0.size % l.block == 0 && d1.stride % l.block == 0))
  | _ => false

/-- The reserved fields of a layout descriptor are zero (R229). -/
def layoutReservedOk (d : List Byte) : Bool :=
  zeroFlds d [(3, 3, 5), (4, 14, 1), (4, 8, 2), (4, 0, 4), (6, 12, 4)] && zeroRange d 94 34
    && (List.range 6).all (fun i => fld d (88 + i) 3 5 == 0 && num d (67 + 4 * i) 1 == 0)

/-- The number of the first check of R234 that descriptor bytes fail; reserved fields aside. -/
def layoutFail (d : List Byte) : Option Nat :=
  let l := Layout.parse d
  let nd := fld d 3 0 3
  let lk := num d 0 1
  let f? := Fmt.ofCode (fld d 1 0 4)
  let c1 := (lk == 1 || lk == 2) && f?.isSome && (!l.noblk || l.fmt.allowsNoblk) && l.scale != 255
    && decide (l.fill < 2 ^ l.fmt.width) && l.baxis != 6 && l.gsel != 3
  let c2 := decide (1 ≤ nd ∧ nd ≤ 6) && l.dims.all (fun e => decide (1 ≤ e.size))
    && (List.range 6).all (fun i => decide (i < nd) || (num d (16 + 8 * i) 8 == 0 && fld d (88 + i) 0 3 == 0))
    && (List.range 6).all (fun a => decide (a < l.nax) || l.box.getD a 0 == 0)
    && decide (l.nax ≤ nd) && l.axesOk
  let c3 := l.stridesOk l.fmt l.noblk && l.swizzleOk l.fmt l.noblk && (l.soff == 0 || (l.block != 0 && l.soff % 16 == 0))
  let c4 := decide (l.ext l.fmt.width ≤ 2 ^ 47) && (l.block == 0 || decide (l.soff + ceilDiv (l.emax + 1) l.block ≤ 2 ^ 47))
  let c5 := l.rows || (List.range l.nax).all (fun a => l.box.getD a 0 == 0) ||
    ((List.range l.nax).all (fun a => decide (1 ≤ l.box.getD a 0 ∧ l.box.getD a 0 ≤ l.lsize a)) && decide (l.tileCount ≤ 2 ^ 24))
  let c6 := !l.rows || l.rowsOk
  if !c1 then some 1 else if !c2 then some 2 else if !c3 then some 3 else if !c4 then some 4 else if !c5 then some 5
  else if !c6 then some 6 else none

/-- Every check of R234 passes for descriptor bytes. -/
def layoutOk (d : List Byte) : Bool := layoutReservedOk d && (layoutFail d).isNone

/-! ### Handle 0x0000 (R235) -/

/-- A layout of two dense axes: axis 0 runs fastest. -/
def denseRows (n0 n1 : Nat) (f : Fmt) (noblk : Bool) : Layout :=
  { rows := false, baxis := 7, noblk := noblk, fmt := f, scale := 127
    dims := [{ stride := 1, size := n0, axis := 0 }, { stride := n0, size := n1, axis := 1 }] }

/-- The feature map of CONV under handle 0x0000. -/
def denseMap (c wi h : Nat) (f : Fmt) (noblk : Bool) : Layout :=
  { rows := false, baxis := 7, noblk := noblk, fmt := f, scale := 127
    dims := [{ stride := 1, size := c, axis := 0 }, { stride := c, size := wi, axis := 1 },
             { stride := wi * c, size := h, axis := 2 }] }

/-- One dense axis. -/
def denseLine (n : Nat) (f : Fmt) (noblk : Bool) : Layout :=
  { rows := false, baxis := 7, noblk := noblk, fmt := f, scale := 127, dims := [{ stride := 1, size := n, axis := 0 }] }

/-! ### Tiles built from a tensor (R244, R245, R248) -/

/-- A unit of a far tensor that is judged and moved as a whole: a block, a 32-element group of sub-byte elements, or one
element (R242). `far` is its byte offset from the far base (none: an edge unit or a row out of range), `tile` its byte
offset in the tile's payload, `n` its bytes; `sfar` and `stile` the same for its scale byte. -/
structure Unit where
  far : Option Nat
  tile : Nat
  n : Nat
  sfar : Option Nat := none
  stile : Option Nat := none
  elems : Nat
  deriving DecidableEq, Repr

/-- Elements of one unit. -/
def Layout.unit (l : Layout) : Nat :=
  if l.block ≠ 0 then l.block else if l.fmt.width < 8 then 32 else 1

/-- Axes from the innermost outward in visit order (R245). -/
def Layout.visit (l : Layout) : List Nat :=
  sortBy (fun a b =>
    let sa := (l.lowDim a).elim 0 (·.stride)
    let sb := (l.lowDim b).elim 0 (·.stride)
    decide (sa < sb) || (sa == sb && decide (a ≤ b))) (List.range l.nax)

/-- All coordinate lists of a box in visit order: `axes` from the innermost outward with (axis, extent, step). -/
def coordsOf (n : Nat) : List (Nat × Nat × Nat) → List (List Nat)
  | [] => [List.replicate n 0]
  | (a, ext, step) :: t =>
    (coordsOf n t).flatMap fun c => (List.range (ceilDiv ext (max 1 step))).map fun i => c.set a (i * max 1 step)

/-- The unit at local coordinates `j` of box `g` (R244). -/
def Layout.boxUnit (l : Layout) (count : Nat) (g j : List Nat) : Unit :=
  let w := l.fmt.width
  let u := l.unit
  let coord := (List.range l.nax).map fun a => g.getD a 0 * l.box.getD a 1 + j.getD a 0
  let lin := ((List.range l.nax).foldl (fun (p : Nat × Nat) a => (p.1 + j.getD a 0 * p.2, p.2 * l.box.getD a 1)) (0, 1)).1
  let inside := (List.range l.nax).all fun a => decide (coord.getD a 0 < l.lsize a)
  let bit := l.bitPos w coord
  let blk := l.block
  { far := if inside then some (bit / 8) else none
    tile := lin * w / 8, n := u * w / 8, elems := u
    sfar := if blk ≠ 0 && inside then some (l.soff + bit / w / blk) else none
    stile := if blk ≠ 0 then some (16 * l.fmt.elemUnits l.noblk count + lin / blk) else none }

/-- The units of tile `k` of a TENSOR far end, in visit order. -/
def Layout.boxUnits (l : Layout) (k : Nat) : List Unit :=
  let g := ((List.range l.nax).foldl (fun (p : List Nat × Nat) a => (p.1 ++ [p.2 % l.nb a], p.2 / l.nb a)) ([], k)).1
  let axes := l.visit.map fun a => (a, l.box.getD a 1, if a = 0 then l.unit else 1)
  (coordsOf l.nax axes).map fun j => l.boxUnit l.tileCount g j

/-- The units of row `r` of a ROWS tile whose index selects far row `v` (none: out of range) (R248, R249). -/
def Layout.rowUnits (l : Layout) (r : Nat) (v : Option Nat) : List Unit :=
  let w := l.fmt.width
  let u := l.unit
  let len := (l.lowDim 0).elim 0 (·.size)
  let pitch := (l.lowDim 1).elim 0 (·.stride)
  let blk := l.block
  (List.range (len / u)).map fun i =>
    let lin := r * len + i * u
    let e := v.map fun x => x * pitch + i * u
    { far := e.map (· * w / 8), tile := lin * w / 8, n := u * w / 8, elems := u
      sfar := if blk ≠ 0 then e.map fun x => l.soff + x / blk else none
      stile := if blk ≠ 0 then some (16 * l.fmt.elemUnits l.noblk l.tileCount + lin / blk) else none }

/-- The bytes a unit of FILL elements holds in a tile (R242, R244). -/
def Layout.fillUnit (l : Layout) : List Byte :=
  let w := l.fmt.width
  leBytes (l.unit * w / 8) ((List.range l.unit).foldl (fun a i => a + l.fill * 2 ^ (i * w)) 0)

/-- The header an inbound arm writes for a tile it builds (R246). -/
def Layout.header (l : Layout) (ctx epoch : Nat) : Hdr :=
  { fmt := l.fmt, noblk := l.noblk, scale := l.scale, layer := l.layer, epoch := epoch, ctx := ctx
    count := l.tileCount, plen := l.fmt.plen l.noblk l.tileCount }

/-- R246: the block-carrying dim belongs to axis 0 and BOX[0] is a multiple of the unit. -/
def Layout.inboundOk (l : Layout) : Bool :=
  if l.block ≠ 0 then (l.dims[l.baxis]?).elim false (fun d => d.axis == 0) && l.box.getD 0 0 % l.block == 0
  else if l.fmt.width < 8 then l.dims.any (fun d => d.stride == 1 && d.axis == 0) && l.box.getD 0 0 % 32 == 0
  else true

end Sys2Proof
end

