-- ==== Sys2Proof/Machine/Operands.lean ====
section
/-! DEFINITION. The operand forms of tasks: the 256-byte descriptor and its acceptance checks (R107 to R113), the
epilogue operations (R124 to R126), and the translation of Merzar Q1 descriptors (R147, R148). -/

namespace Sys2Proof.Machine

open Sys2Proof

/-! ### Fields of the native descriptor (R108) -/

def opc (d : List Byte) : Nat := num d 0 1
def taskId (d : List Byte) : Nat := num d 2 2
def emask (d : List Byte) : Nat := fld d 4 4 4
def rdMode (d : List Byte) : Bool := flg d 4 3
def accSplit (d : List Byte) : Bool := flg d 4 2
def halfSel (d : List Byte) : Nat := fld d 4 1 1
def accInit (d : List Byte) : Bool := flg d 5 7
def accKeep (d : List Byte) : Bool := flg d 5 6
def histOn (d : List Byte) : Bool := flg d 5 5
def satOn (d : List Byte) : Bool := flg d 5 4
def rndMode (d : List Byte) : Nat := fld d 5 2 2
def recOn (d : List Byte) : Bool := flg d 5 1
def ecount (d : List Byte) : Nat := fld d 6 0 4
def seed (d : List Byte) : Nat := num d 8 4
/-- Wait `i` (0, 1): active, counter, threshold. -/
def waitOf (d : List Byte) (i : Nat) : Bool × Nat × Word := (flg d (12 + i) 7, fld d (12 + i) 0 6, BitVec.ofNat 32 (num d (16 + 4 * i) 4))
/-- Signal `i` (0, 1): active, counter, core, increment. -/
def sigOf (d : List Byte) (i : Nat) : Bool × Nat × Nat × Nat :=
  (flg d (14 + i) 7, fld d (14 + i) 0 6, fld d (24 + 4 * i) 0 10, num d (26 + i) 1)
def atile (d : List Byte) : Nat := num d 32 6
def alayout (d : List Byte) : Nat := num d 38 2
def btile (d : List Byte) : Nat := num d 40 6
def blayout (d : List Byte) : Nat := num d 46 2
def bfmt (d : List Byte) : Nat := fld d 48 4 4
def afmt (d : List Byte) : Nat := fld d 48 0 4
def dimM (d : List Byte) : Nat := fld d 50 0 13
def dimN (d : List Byte) : Nat := fld d 52 0 13
def dimK (d : List Byte) : Nat := fld d 54 0 13
def maskCva (d : List Byte) : Nat := num d 56 6
def maskOut (d : List Byte) : Bool := flg d 62 3
def maskAxis (d : List Byte) : Bool := flg d 62 2
def maskType (d : List Byte) : Nat := fld d 62 0 2
def otile (d : List Byte) : Nat := num d 64 6
def olayout (d : List Byte) : Nat := num d 70 2
def opol (d : List Byte) : Bool := flg d 72 5
def onoblk (d : List Byte) : Bool := flg d 72 4
def ofmt (d : List Byte) : Nat := fld d 72 0 4
def oscale (d : List Byte) : Nat := num d 73 1
def layerOf (d : List Byte) : Nat := fld d 74 0 12
def epochOf (d : List Byte) : Nat := num d 76 2

/-- Opcodes of R107. -/
def isNop (d : List Byte) : Bool := opc d == 0
def isArray (d : List Byte) : Bool := opc d == 1 || opc d == 2
def isConv (d : List Byte) : Bool := opc d == 2
def isDrain (d : List Byte) : Bool := opc d == 3
def isVec (d : List Byte) : Bool := opc d == 4
def isCopy (d : List Byte) : Bool := opc d == 5
def isTblload (d : List Byte) : Bool := opc d == 6
/-- MATMUL, CONV and DRAIN: the tasks that engines run. -/
def onEngines (d : List Byte) : Bool := isArray d || isDrain d
/-- Tasks that run the epilogue chain and write an output tile. -/
def hasChain (d : List Byte) : Bool := onEngines d && !accKeep d || isVec d
def hasOutput (d : List Byte) : Bool := hasChain d || isCopy d

/-! ### The convolution block (R96, R97, R111) -/

structure Conv where
  h : Nat
  wi : Nat
  c : Nat
  kh : Nat
  kw : Nat
  sh : Nat
  sw : Nat
  dh : Nat
  dw : Nat
  pt : Nat
  pb : Nat
  pl : Nat
  px : Nat
  m0 : Nat
  k0 : Nat
  fill : Nat
  deriving DecidableEq, Repr

def Conv.parse (d : List Byte) : Conv :=
  { h := fld d 80 0 13, wi := fld d 82 0 13, c := fld d 84 0 13, kh := fld d 86 0 5, kw := fld d 87 0 5
    sh := fld d 88 0 4, sw := fld d 89 0 4, dh := fld d 90 0 4, dw := fld d 91 0 4
    pt := fld d 92 0 4, pb := fld d 93 0 4, pl := fld d 94 0 4, px := fld d 95 0 4
    m0 := fld d 96 0 25, k0 := fld d 100 0 21, fill := num d 104 2 }

def Conv.cp (v : Conv) : Nat := ceilDiv v.c 32 * 32
def Conv.oh (v : Conv) : Int := ((v.h + v.pt + v.pb : Nat) - (v.dh * (v.kh - 1) : Nat) - 1 : Int) / v.sh + 1
def Conv.ow (v : Conv) : Int := ((v.wi + v.pl + v.px : Nat) - (v.dw * (v.kw - 1) : Nat) - 1 : Int) / v.sw + 1

/-- R96: every parameter in its range, with the task's M and K and the activation format. -/
def Conv.ok (v : Conv) (m k : Nat) (f : Fmt) : Bool :=
  let r (x lo hi : Nat) : Bool := decide (lo ≤ x ∧ x ≤ hi)
  r v.h 1 4096 && r v.wi 1 4096 && r v.c 1 4096 && (f.block == 0 || v.c % 32 == 0) && r v.kh 1 16 && r v.kw 1 16
    && r v.sh 1 8 && r v.sw 1 8 && r v.dh 1 8 && r v.dw 1 8 && r v.pt 0 15 && r v.pb 0 15 && r v.pl 0 15 && r v.px 0 15
    && decide (1 ≤ v.oh) && decide (1 ≤ v.ow) && decide ((v.m0 + m : Nat) ≤ v.oh * v.ow) && v.k0 % 64 == 0
    && decide (v.k0 < v.kh * v.kw * v.cp) && decide (v.k0 + k ≤ v.kh * v.kw * v.cp) && decide (v.fill < 2 ^ f.width)

/-- What the feeder generates for X[m][k] (R97). -/
inductive Feed where
  | absent
  | fill
  | elem (y x c : Nat)
  deriving DecidableEq, Repr

def Conv.feed (v : Conv) (m k : Nat) : Feed :=
  let p := v.m0 + m
  let ow := v.ow.toNat
  let kk := v.k0 + k
  let c := kk % v.cp
  let q := kk / v.cp
  let iy : Int := ((p / ow) * v.sh : Nat) - (v.pt : Int) + ((q / v.kw) * v.dh : Nat)
  let ix : Int := ((p % ow) * v.sw : Nat) - (v.pl : Int) + ((q % v.kw) * v.dw : Nat)
  if v.c ≤ c then .absent
  else if iy < 0 || (v.h : Int) ≤ iy || ix < 0 || (v.wi : Int) ≤ ix then .fill
  else .elem iy.toNat ix.toNat c

/-! ### Epilogue operations and auxiliary slots (R124 to R126) -/

def eop (d : List Byte) (j : Nat) : List Byte := slice d (128 + 8 * j) 8
def eopc (e : List Byte) : Nat := fld e 0 0 6
def eslot (e : List Byte) : Nat := fld e 1 3 2
def esrc (e : List Byte) : Nat := fld e 1 0 3
def etsel (e : List Byte) : Nat := fld e 2 3 1
def epair (e : List Byte) : Nat := fld e 2 0 3
def eimm (e : List Byte) : Word := BitVec.ofNat 32 (num e 4 4)
def aux (d : List Byte) (a : Nat) : List Byte := slice d (224 + 8 * a) 8
def auxCva (x : List Byte) : Nat := num x 0 6
def auxEn (x : List Byte) : Bool := flg x 6 6
def auxOut (x : List Byte) : Bool := flg x 6 5
def auxNoblk (x : List Byte) : Bool := flg x 6 4
def auxFmt (x : List Byte) : Nat := fld x 6 0 4
def auxScale (x : List Byte) : Nat := num x 7 1

/-- The chain of a descriptor. -/
def chain (d : List Byte) : List (List Byte) := (List.range (ecount d)).map (eop d)

/-- An epilogue operation is well formed (R124, R125). -/
def eopOk (e : List Byte) : Bool :=
  let c := eopc e
  let s := esrc e
  let noTab := fld e 2 0 4 == 0
  let noImm := num e 4 4 == 0
  let noSlot := eslot e == 0
  zeroFlds e [(0, 6, 2), (1, 5, 3), (2, 4, 4), (3, 0, 8)] && decide (s ≤ 4) &&
    (if c = 1 || c = 2 || c = 3 || c = 5 || c = 6 || c = 0x0A then
       decide (1 ≤ s) && noTab && (s == 1 || noImm) && (s != 1 || noSlot)
     else if c = 4 then decide (2 ≤ s) && noTab
     else if c = 7 || c = 8 || c = 9 || c = 0x0B || c = 0x0C then s == 0 && noTab && noImm && noSlot
     else if c = 0x10 then s == 0 && noImm && noSlot
     else if c = 0x11 then decide (2 ≤ s) && noImm
     else if c = 0x12 then s == 0 && noTab && noImm
     else false)

/-- The auxiliary slots a chain reads, and those its SAVE operations write. -/
def readSlots (d : List Byte) : List Nat := ((chain d).filter fun e => decide (2 ≤ esrc e)).map eslot
def saveSlots (d : List Byte) : List Nat := ((chain d).filter fun e => eopc e == 0x12).map eslot

/-- The tables a chain names, as `2 * pair + which` (R115, R116 check 8). -/
def chainTables (d : List Byte) : List Nat :=
  ((chain d).filter fun e => eopc e == 0x10 || eopc e == 0x11).map fun e => 2 * epair e + etsel e

/-! ### Acceptance (R109, R110, R113) -/

/-- Array operand formats (R76). -/
def arrayPair (a b : Nat) : Bool :=
  match Fmt.ofCode a, Fmt.ofCode b with
  | some fa, some fb =>
    let fp (f : Fmt) : Bool := f != .fp32 && f != .sf16 && f != .int8
    (fa == .int8 && fb == .int8) || (fp fa && fp fb)
  | _, _ => false

/-- Reserved fields of the layout of R108 itself. -/
def descReservedOk (d : List Byte) : Bool :=
  zeroFlds d [(4, 0, 1), (5, 0, 1), (6, 4, 4), (7, 0, 8), (12, 6, 1), (13, 6, 1), (14, 6, 1), (15, 6, 1), (24, 10, 6), (28, 10, 6),
      (30, 0, 16), (49, 0, 8), (50, 13, 3), (52, 13, 3), (54, 13, 3), (62, 4, 4), (63, 0, 8), (72, 6, 2), (74, 12, 4), (78, 0, 16)]
    && zeroRange d 112 16 && maskType d != 3
    && (List.range 4).all fun a => fld d (230 + 8 * a) 7 1 == 0

/-- Fields that the opcode does not use are zero (R109). -/
def unusedOk (d : List Byte) : Bool :=
  let o := opc d
  let keep := accKeep d
  let z (b : Bool) (fs : List (Nat × Nat × Nat)) : Bool := b || zeroFlds d fs
  let arr := isArray d
  let out := (hasOutput d)
  z (onEngines d) [(4, 4, 4), (4, 1, 2)]
    && z arr [(4, 3, 1), (5, 6, 2), (54, 0, 16), (46, 0, 16), (48, 4, 4), (56, 0, 48), (62, 0, 8)]
    && z (arr || o == 4 || o == 5 || o == 6) [(32, 0, 48)]
    && z (arr || o == 6) [(40, 0, 48)]
    && z (arr || o == 5) [(38, 0, 16)]
    && z (arr || o == 4 || o == 5) [(48, 0, 4)]
    && z (onEngines d) [(50, 0, 16)]
    && z (onEngines d || o == 4) [(52, 0, 16)]
    && z out [(5, 2, 3), (8, 0, 32), (64, 0, 48), (72, 0, 8), (73, 0, 8), (74, 0, 16), (76, 0, 16)]
    && z (out && o != 4) [(70, 0, 16)]
    && z (hasChain d) [(5, 5, 1), (6, 0, 4)]
    && (hasChain d || (zeroRange d 128 128))
    && (o == 2 || o == 5 || o == 6 || zeroRange d 80 32)
    && (!keep || arr)
    && (maskType d != 0 || (num d 56 6 == 0 && !maskOut d && !maskAxis d))
    && (maskType d != 2 || !maskAxis d)

/-- Reserved bytes of the parameter block (R111, R112, R251). -/
def paramReservedOk (d : List Byte) : Bool :=
  if isConv d then
    zeroFlds d [(80, 13, 3), (82, 13, 3), (84, 13, 3), (86, 5, 3), (87, 5, 3), (96, 25, 7), (100, 21, 11)] && zeroRange d 106 6
      && (List.range 8).all fun i => fld d (88 + i) 4 4 == 0
  else if isCopy d then fld d 80 18 14 == 0 && zeroRange d 84 28
  else if isTblload d then fld d 80 3 5 == 0 && fld d 81 2 6 == 0 && fld d 81 0 2 != 0 && zeroRange d 82 30
  else true

/-- A slot that is in use is well formed (R126). -/
def auxOk (x : List Byte) : Bool :=
  if !auxEn x then true
  else match Fmt.ofCode (auxFmt x) with
    | none => false
    | some f => if auxOut x then (!auxNoblk x || f.allowsNoblk) && auxScale x != 255 else !auxNoblk x && auxScale x == 0

/-- Handle 0x0000 is legal for a declared format (R110). -/
def denseOk (code : Nat) (noblk : Bool) (input : Bool) : Bool :=
  match Fmt.ofCode code with
  | none => true
  | some f => if f.allowsNoblk then input || noblk else f.block == 0

/-- A layout a task names in the role R236 gives it. -/
structure LayoutRole where
  nax : Nat
  unitAxis : List Nat        -- some axis of these has a lowest dim of STRIDE 1 (empty: no such rule)
  dense : Bool

/-- The layout meets its role (R236). -/
def LayoutRole.ok (r : LayoutRole) (l : Layout) : Bool :=
  !l.rows && l.nax == r.nax && (r.unitAxis.isEmpty || r.unitAxis.any fun a => (l.lowDim a).elim false fun e => e.stride == 1)
    && (!r.dense || l.dense l.fmt.width)

/-- The layout behind a handle of a context. -/
def Context.layout? (c : Context) (h : Nat) : Option Layout := (Tab.look c.layouts h).map Layout.parse

/-- PERM of a COPY is a permutation of its axes (R251). -/
def permAt (d : List Byte) (a : Nat) : Nat := fld d 80 (3 * a) 3
def permOk (d : List Byte) (nax : Nat) : Bool :=
  (List.range nax).all (fun a => decide (permAt d a < nax) && ((List.range nax).filter fun b => permAt d b == permAt d a).length == 1)
    && (List.range 6).all fun a => decide (a < nax) || permAt d a == 0

/-- Check 7 of R113: handles and blocking axes. -/
def Context.layoutsOk (c : Context) (d : List Byte) : Bool :=
  let use (h : Nat) (code : Nat) (noblk input : Bool) (r : LayoutRole) : Bool :=
    if h = 0 then denseOk code noblk input
    else match c.layout? h with
      | some l => r.ok l
      | none => false
  let naxOf (h : Nat) : Nat := if h = 0 then 1 else ((c.layout? h).map Layout.nax).getD 0
  let outOk := if olayout d = 0 then opol d || denseOk (ofmt d) (onoblk d) false
    else (c.layout? (olayout d)).isSome
  let array := use (alayout d) (afmt d) false true { nax := if isConv d then 3 else 2, unitAxis := [0], dense := false }
    && use (blayout d) (bfmt d) false true { nax := 2, unitAxis := [0, 1], dense := false }
    && (blayout d == 0 ||
      match c.layout? (blayout d) with
      | some l => l.block == 0 ||
          (l.dims[l.baxis]?).elim false fun e => e.axis == (if rdMode d then 0 else 1)
      | none => false)
  let output := outOk && (olayout d == 0 || match c.layout? (olayout d) with
      | some l => ({ nax := 2, unitAxis := [], dense := true } : LayoutRole).ok l
      | none => false)
  if isArray d then array && (accKeep d || output)
  else if isDrain d then output
  else if isCopy d then
    (if alayout d = 0 then denseOk (afmt d) false true else (c.layout? (alayout d)).elim false fun l => !l.rows)
      && outOk && (olayout d == 0 || (c.layout? (olayout d)).elim false fun l => !l.rows && l.dense l.fmt.width)
      && naxOf (alayout d) == naxOf (olayout d) && permOk d (naxOf (olayout d))
  else true

/-- The number of the first acceptance check of R113 that a descriptor fails. -/
def State.acceptCheck (s : State) (ctx : Nat) (c : Context) (form : Nat) (d : List Byte) : Option Nat :=
  let h := ctxPart ctx
  let sigBad (i : Nat) : Bool := let x := sigOf d i; x.1 && !s.coreInPart h x.2.2.1
  let sigRange (i : Nat) : Bool :=
    let x := sigOf d i
    !x.1 || decide (1 ≤ x.2.2.2)
  let eng := onEngines d
  let rows := if accSplit d then 128 else 256
  if !(decide (opc d ≤ 6) && num d 1 1 == form && descReservedOk d && unusedOk d && paramReservedOk d
      && sigRange 0 && sigRange 1 && !(hasOutput d && rndMode d == 3)) then some 1
  else if !(decide (ecount d ≤ 12) && (chain d).all eopOk
      && (List.range 12).all fun j => decide (j < ecount d) || num d (128 + 8 * j) 8 == 0) then some 2
  else if (eng && !(decide (1 ≤ dimM d ∧ dimM d ≤ 4096 ∧ 1 ≤ dimN d ∧ dimN d ≤ 4096)))
      || (isVec d && !(decide (1 ≤ dimN d ∧ dimN d ≤ 4096)))
      || (isArray d && !(decide (1 ≤ dimK d ∧ dimK d ≤ 4096)))
      || (isConv d && !((Conv.parse d).ok (dimM d) (dimK d) ((Fmt.ofCode (afmt d)).getD .fp32))) then some 3
  else if eng && !((let n := popCount 4 (emask d); n == 1 || n == 2 || n == 4) && (accSplit d || halfSel d == 0)) then some 4
  else if (isArray d && !arrayPair (afmt d) (bfmt d)) || ((isVec d || isCopy d) && (Fmt.ofCode (afmt d)).isNone) then some 5
  else if hasOutput d && !(
      (if opol d then ofmt d == 0 && !onoblk d && oscale d == 0
       else match Fmt.ofCode (ofmt d) with
        | none => false
        | some f => (!onoblk d || f.allowsNoblk) && oscale d != 255)) then some 6
  else if !c.layoutsOk d then some 7
  else if eng && (accKeep d || accInit d || isDrain d)
      && !(decide (dimM d ≤ rows) && decide (dimN d ≤ 64 * popCount 4 (emask d))) then some 8
  else if maskType d != 0 && (accInit d || accKeep d) then some 9
  else if sigBad 0 || sigBad 1 then some 10
  else if hasChain d && !(((List.range 4).all fun a => auxOk (aux d a))
      && (readSlots d).all (fun a => auxEn (aux d a) && !auxOut (aux d a))
      && (saveSlots d).all (fun a => auxEn (aux d a) && auxOut (aux d a))
      && (List.range 4).all fun a => !(auxEn (aux d a) && auxOut (aux d a)) || ((saveSlots d).filter (· == a)).length == 1) then some 11
  else none

/-! ### Merzar Q1 descriptors (R147, R148) -/

def qeng (q : List Byte) : Nat := fld q 4 0 12
def qopc (q : List Byte) : Nat := num q 0 1

/-- Operations before the first code 0x00. -/
def qops (q : List Byte) : List (List Byte) := ((List.range 4).map fun j => slice q (64 + 8 * j) 8).takeWhile fun e => num e 0 1 != 0

/-- The Q1 fields that R148 refuses: reserved codes and bits, ELTW and NOP limits, QENG. Bits 7:2 of a QEOP's byte 1 and bits 7:4 of
bytes 102 and 110 count as reserved (log 141: DESIGN CHOICE); a field that R148 ignores is not looked at. -/
def q1Ok (q : List Byte) : Bool :=
  let o := qopc q
  let inF (c : Nat) : Bool := c == 1 || c == 2 || c == 4 || c == 5 || c == 0xB
  let ops := qops q
  let out := o == 3 || ((o == 1 || o == 2) && num q 24 6 != 0)
  decide (o ≤ 3) &&
    zeroFlds q [(1, 3, 5), (4, 12, 4), (7, 7, 1), (14, 0, 16), (22, 0, 16), (31, 0, 8), (32, 13, 3), (34, 13, 3), (36, 13, 3),
      (38, 6, 1), (39, 6, 1), (48, 13, 3), (50, 13, 3), (52, 13, 3), (102, 4, 4), (103, 0, 8), (110, 4, 4), (111, 0, 8)]
    && zeroRange q 112 16 && decide (qeng q < 2304) && (!out || fld q 7 4 2 != 3)
    && (List.range 4).all (fun j => let e := slice q (64 + 8 * j) 8
        decide (num e 0 1 ≤ 5) && fld e 1 2 6 == 0 && num e 2 2 == 0)
    && (o == 0 || inF (fld q 6 0 4)) && (o == 0 || o == 3 || inF (fld q 6 4 4))
    && (!out || inF (fld q 7 0 4) || fld q 7 0 4 == 0)
    && (o == 1 || o == 2 || (num q 24 6 != 0 && !flg q 1 0 && !flg q 1 1))
    && (o != 3 || (fld q 32 0 13 == 0 && fld q 36 0 13 == 0))
    && ops.all fun e => num e 0 1 != 1 && num e 0 1 != 5 || Fmt.ofCode (if num e 0 1 = 1 then fld q 102 0 4 else fld q 110 0 4) != none

/-- One Q1 operation as a native epilogue operation (R148). -/
def q1Eop (e : List Byte) : List Byte :=
  match num e 0 1 with
  | 1 => leBytes 1 0x01 ++ leBytes 1 0x02 ++ leBytes 6 0
  | 2 => leBytes 1 0x03 ++ leBytes 1 0x01 ++ leBytes 2 0 ++ slice e 4 4
  | 3 => leBytes 1 0x10 ++ leBytes 1 0 ++ leBytes 1 (fld e 1 0 2) ++ leBytes 5 0
  | 4 => leBytes 1 0x09 ++ leBytes 7 0
  | _ => leBytes 1 0x01 ++ leBytes 1 (8 + 4) ++ leBytes 6 0

/-- The native descriptor Drover fills from a Q1 descriptor (R148). The tile fields that R109 keeps from an opcode stay zero for it
(log 142: DESIGN CHOICE). -/
def q1Translate (q : List Byte) : List Byte :=
  let o := qopc q
  let array := o == 1 || o == 2
  let core := qeng q / 4
  let keep := array && num q 24 6 == 0
  let out := (array && !keep) || o == 3
  let ops := qops q
  let uses (c : Nat) : Bool := ops.any fun e => num e 0 1 == c
  let sel (b : Bool) (x : Nat) : Nat := if b then x else 0
  leBytes 1 (if o = 3 then 4 else o) ++ leBytes 1 0x12 ++ slice q 2 2
    ++ leBytes 1 (sel array (2 ^ (qeng q % 4) * 16 + b2n (flg q 1 0) * 8 + 4))
    ++ leBytes 1 (sel array (b2n (flg q 1 1) * 128 + b2n keep * 64) + sel out (b2n (flg q 7 6) * 16 + fld q 7 4 2 * 4)
        + b2n (flg q 1 2) * 2)
    ++ leBytes 1 ops.length ++ leBytes 1 0 ++ leBytes 4 (sel out (num q 44 4))
    ++ leBytes 1 (b2n (flg q 38 7) * 128 + fld q 38 0 6) ++ leBytes 1 0
    ++ leBytes 1 (b2n (flg q 39 7) * 128 + fld q 39 0 6) ++ leBytes 1 0
    ++ leBytes 4 (num q 40 4) ++ leBytes 4 0 ++ leBytes 2 core ++ leBytes 1 1 ++ leBytes 5 0
    ++ leBytes 6 (sel (o != 0) (num q 8 6)) ++ leBytes 2 0 ++ leBytes 6 (sel array (num q 16 6)) ++ leBytes 2 0
    ++ leBytes 1 (sel array (fld q 6 4 4) * 16 + sel (o != 0) (fld q 6 0 4)) ++ leBytes 1 0
    ++ leBytes 2 (sel array (fld q 32 0 13)) ++ leBytes 2 (sel (o != 0) (fld q 34 0 13)) ++ leBytes 2 (sel array (fld q 36 0 13))
    ++ leBytes 8 0
    ++ leBytes 6 (sel out (num q 24 6)) ++ leBytes 2 0 ++ leBytes 1 (sel out (fld q 7 0 4)) ++ leBytes 1 (sel out (num q 30 1))
    ++ leBytes 6 0
    ++ (if o = 2 then
          slice q 48 6 ++ slice q 54 2 ++ slice q 56 2 ++ leBytes 1 1 ++ leBytes 1 1 ++ slice q 58 4 ++ leBytes 8 0 ++ slice q 62 2
            ++ leBytes 6 0
        else leBytes 32 0)
    ++ leBytes 16 0
    ++ (ops.flatMap q1Eop ++ leBytes (8 * (12 - ops.length)) 0)
    ++ (if uses 1 then slice q 96 6 ++ leBytes 1 (64 + fld q 102 0 4) ++ leBytes 1 0 else leBytes 8 0)
    ++ (if uses 5 then slice q 104 6 ++ leBytes 1 (64 + fld q 110 0 4) ++ leBytes 1 0 else leBytes 8 0)
    ++ leBytes 16 0

end Sys2Proof.Machine
end

