-- ==== Sys2Proof/Machine/Vector.lean ====
section
/-! DEFINITION. The epilogue chain of the vector unit and the activation tables (R124 to R127, R131, R134, R135). -/

namespace Sys2Proof.Machine

open Sys2Proof

/-- A word of a table image (R131). -/
def imgWord (img : List Byte) (off : Nat) : Word := BitVec.ofNat 32 (num img off 4)

/-- TBLLOAD's requirements on an image (R131). -/
def imageOk (img : List Byte) : Bool :=
  let fin (o : Nat) : Bool := (f32 (imgWord img o)).isFinite
  fin 0 && fin 4 && fin 8 && fin 12 && fin 16 && fin 20 && fin 24 && flt (imgWord img 0) (imgWord img 4)
    && flt 0#32 (imgWord img 8) && num img 28 4 == 0

/-- A table lookup (R134) (log 128: DEDUCED). -/
def tableLookup (img : List Byte) (x : Word) : Word × Flags :=
  let xv := f32 x
  let done (r : Word) (u : Flags) : Word × Flags :=
    (r, { nan := (f32 r).isNaN && !xv.isNaN, ovf := (f32 r).isInf && xv.isFinite, ufl := u.ufl })
  let tail (a b : Word) : Word × Flags :=
    if (f32 a).isZero then done b {} else let r := ffma a x b; done r.1 r.2
  if xv.isNaN then (nan32, {})
  else if flt x (imgWord img 0) then tail (imgWord img 12) (imgWord img 16)
  else if !flt x (imgWord img 4) then tail (imgWord img 20) (imgWord img 24)
  else
    let d := (fsub x (imgWord img 0)).1
    let u0 := f32 (fmul d (imgWord img 8)).1
    let u := if u0.isInf then FVal.fin false 1023 0 else u0
    let i := min u.floorNat 1022
    let f := u.add (.fin true i 0)
    let y0 := imgWord img (32 + 4 * i)
    let g := (fsub (imgWord img (32 + 4 * (i + 1))) y0).1
    let r := finish [] ((f.mul (f32 g)).add (f32 y0))
    done r.1 r.2

/-- What a chain reads beside the running value: its source elements by slot and SRC, its tables. -/
structure ChainEnv where
  source : Nat → Nat → Word × Flags     -- slot, SRC
  table : Nat → List Byte               -- 2 * pair + which

/-- One epilogue operation on the running value (R125); the answer holds the new value, the flags and a SAVE's slot (log 128: DEDUCED). -/
def applyEop (env : ChainEnv) (e : List Byte) (v : Word) : Word × Flags × Option Nat :=
  let s : Word × Flags := if esrc e = 1 then (eimm e, {}) else if 2 ≤ esrc e then env.source (eslot e) (esrc e) else (0#32, {})
  let op (r : Word × Flags) : Word × Flags × Option Nat := (r.1, s.2.or r.2, none)
  match eopc e with
  | 0x01 => op (fadd v s.1)
  | 0x02 => op (fsub v s.1)
  | 0x03 => op (fmul v s.1)
  | 0x04 => op (ffma v s.1 (eimm e))
  | 0x05 => op (fmax v s.1)
  | 0x06 => op (fmin v s.1)
  | 0x07 => op (fabs v)
  | 0x08 => op (fneg v)
  | 0x09 => op (fmax v 0#32)
  | 0x0A => op (fdiv v s.1)
  | 0x0B => op (frecip v)
  | 0x0C => op (fsqrt v)
  | 0x10 => op (tableLookup (env.table (2 * epair e + etsel e)) v)
  | 0x11 =>
    let t := tableLookup (env.table (2 * epair e + etsel e)) s.1
    let r := fmul v t.1
    op (r.1, t.2.or r.2)
  | 0x12 => (v, {}, some (eslot e))
  | _ => (v, {}, none)

/-- A chain on one value: the final value, the flags, and the value each SAVE takes. -/
def runChain (env : ChainEnv) : List (List Byte) → Word → Word × Flags × List (Nat × Word)
  | [], v => (v, {}, [])
  | e :: t, v =>
    let r := applyEop env e v
    let q := runChain env t r.1
    (q.1, r.2.1.or q.2.1, (match r.2.2 with | some a => (a, r.1) :: q.2.2 | none => q.2.2))

end Sys2Proof.Machine
end

