-- ==== Sys2Proof/Machine/TaskOps.lean ====
section
/-! DEFINITION. What tasks do on a core, by shared operations: queue entries, readiness, dispatch checks, passes of the
array, drains, element-wise work, copies, the end of a task (03, 04, 05, 07, 14 R462 to R464). -/

namespace Sys2Proof.Machine

open Sys2Proof

/-! ### Queue entries (R462) -/

/-- Entries a context holds on a core. -/
def Core.held (c : Core) (ctx : Nat) : Nat := (c.queue.filter (·.ctx == ctx)).length

/-- A context may hold one more entry on a core (R462). -/
def State.mayHold (s : State) (core ctx : Nat) : Bool :=
  match s.ctx? ctx with
  | none => false
  | some c =>
    let q := s.core core
    let k := q.held ctx
    let others := (s.partCtxs (ctxPart ctx)).filter fun p => p.1 != ctx
    let qmins := sumNat ((s.partCtxs (ctxPart ctx)).map fun p => p.2.qmin)
    let shared := sumNat (others.map fun p => q.held p.1 - p.2.qmin)
    decide (k < c.qmax) && (decide (k < c.qmin) || decide (k + 1 - c.qmin + shared ≤ 64 - qmins))

/-- A task placed at the tail of its core's queue. -/
def State.enqueue (s : State) (core : Nat) (t : Task) : State := s.modCore core fun c => { c with queue := c.queue ++ [t] }

/-- Entry `i` of a core's queue replaced. -/
def State.setTask (s : State) (core i : Nat) (t : Task) : State := s.modCore core fun c => { c with queue := c.queue.set i t }

/-- Entry `i` of a core's queue removed. -/
def State.dropTask (s : State) (core i : Nat) : State := s.modCore core fun c => { c with queue := c.queue.eraseIdx i }

/-! ### Engines of a task (R86, R101) -/

/-- Present engines of the mask, or the lowest present engine of the core where the mask names absent ones only. -/
def effectiveEngines (c : Core) (d : List Byte) : List Nat :=
  let named := (setBits 4 (emask d)).filter fun e => (c.engine e).present
  if !named.isEmpty then named else ((List.range 4).filter fun e => (c.engine e).present).take 1

/-- Rows of an M-chunk (R88). -/
def chunkRows (d : List Byte) : Nat := if accSplit d then 128 else 256

/-- Chunks of one n-block. -/
def chunksPer (d : List Byte) : Nat := ceilDiv (dimM d) (chunkRows d)

/-- The n-blocks dealt to the engine of rank `r` among `e` (R86). -/
def blocksOf (d : List Byte) (e r : Nat) : List Nat := (List.range (ceilDiv (dimN d) 64)).filter fun j => j % e == r

/-- The n-block and the chunk of ordinal `o` in an engine's share (R87). -/
def chunkAt (d : List Byte) (blocks : List Nat) (o : Nat) : Nat × Nat := (blocks.getD (o / chunksPer d) 0, o % chunksPer d)

/-- First row and rows of chunk `c`. -/
def chunkSpan (d : List Byte) (c : Nat) : Nat × Nat := (c * chunkRows d, min (chunkRows d) (dimM d - c * chunkRows d))

/-- The accumulator entry of the first row of ordinal `o`: the half alternates in split mode (R88). An ordinal whose chunk is wholly
masked takes its turn too (log 135: DESIGN CHOICE). -/
def entryBase (d : List Byte) (o : Nat) : Nat := if accSplit d then 128 * ((halfSel d + o) % 2) else 0

/-- The halves ordinal `o` uses. -/
def halvesOf (d : List Byte) (o : Nat) : List Nat := if accSplit d then [(halfSel d + o) % 2] else [0, 1]

def Eng.half (g : Eng) (h : Nat) : Half := if h = 0 then g.h0 else g.h1
def Eng.setHalf (g : Eng) (h : Nat) (x : Half) : Eng := if h = 0 then { g with h0 := x } else { g with h1 := x }

/-- Passes of a chunk. -/
def passes (d : List Byte) : Nat := ceilDiv (dimK d) 64

/-! ### Weight-gradient masks (R136 to R138) -/

/-- Output entry (m, n) is masked. -/
def maskedAt (d mask : List Byte) (m n : Nat) : Bool :=
  let bit (i : Nat) : Bool := flg mask (i / 8) (i % 8)
  if maskType d = 1 then bit (if maskAxis d then n else m)
  else if maskType d = 2 then bit ((m / 64) * 64 + n / 64)
  else false

/-- Every entry of a chunk of an n-block is masked (R137). -/
def chunkMasked (d mask : List Byte) (j c : Nat) : Bool :=
  maskType d != 0 &&
    let sp := chunkSpan d c
    (List.range sp.2).all fun r => (List.range (min 64 (dimN d - 64 * j))).all fun i => maskedAt d mask (sp.1 + r) (64 * j + i)

/-- The first ordinal not below `o` that is computed, at most `total` (R94, R137) (log 104: DEDUCED). -/
def nextChunk (d mask : List Byte) (blocks : List Nat) (total : Nat) : Nat → Nat → Nat
  | 0, o => o
  | n + 1, o =>
    if o < total && (let p := chunkAt d blocks o; chunkMasked d mask p.1 p.2) then nextChunk d mask blocks total n (o + 1) else o

/-! ### Layouts of a task's operands (R235, R236) -/

def Context.layoutOr (c : Context) (h : Nat) (dense : Layout) : Layout :=
  if h = 0 then dense else (c.layout? h).getD dense

def layoutA (c : Context) (d : List Byte) (h : Hdr) : Layout :=
  c.layoutOr (alayout d) (if isConv d then let v := Conv.parse d; denseMap v.c v.wi v.h h.fmt h.noblk
    else if isCopy d then denseLine h.count h.fmt h.noblk
    else denseRows (dimK d) (dimM d) h.fmt h.noblk)

def layoutB (c : Context) (d : List Byte) (h : Hdr) : Layout :=
  c.layoutOr (blayout d) (if rdMode d then denseRows (dimK d) (dimN d) h.fmt h.noblk else denseRows (dimN d) (dimK d) h.fmt h.noblk)

def layoutO (c : Context) (d : List Byte) (h : Hdr) : Layout :=
  c.layoutOr (olayout d) (if isCopy d then denseLine h.count h.fmt h.noblk else denseRows (dimN d) (dimM d) h.fmt h.noblk)

/-- Coordinates of X[m][k] and of the weight that multiplies it for output column i (R83, R236). -/
def coordB (d : List Byte) (k i : Nat) : List Nat := if rdMode d then [k, i] else [i, k]

/-! ### Readiness (R115, R119, R174, R267) -/

/-- The CVAs of a task's extents that are known before its headers are read. -/
def taskCvas (d : List Byte) : List Nat :=
  (if isArray d || isVec d || isCopy d || (isTblload d && flg d 81 0) then [atile d] else [])
    ++ (if isArray d || (isTblload d && flg d 81 1) then [btile d] else [])
    ++ (if maskType d != 0 then [maskCva d] else [])
    ++ (if hasOutput d then [otile d] else [])
    ++ (if hasChain d then ((List.range 4).filter fun a => auxEn (aux d a)).map fun a => auxCva (aux d a) else [])

/-- The CVAs of a task's extents: a TBLLOAD that Drover placed reads Drover's copies and has none (R149). -/
def Task.cvas (t : Task) : List Nat := if t.images.isSome then [] else taskCvas t.desc

/-- The table pairs a task names: those of its chain, or the pair a TBLLOAD loads (R115). -/
def namedPairs (d : List Byte) : List Nat :=
  if isTblload d then [fld d 80 0 3] else if hasChain d then (chainTables d).map (· / 2) else []

/-- A dispatched task of a context that has not ended names one of some pairs. `loads`: only table loads count. -/
def Core.pairBusy (c : Core) (ctx : Nat) (loads : Bool) (ps : List Nat) : Bool :=
  c.queue.any fun u => u.ctx == ctx && u.stage != .queued && (!loads || isTblload u.desc) && (namedPairs u.desc).any ps.contains

/-- An engine that a task of the queue occupies: running, stopping, or stopped with its state still in the engine. -/
def Core.engineBusy (c : Core) (e : Nat) : Bool :=
  c.queue.any fun t => (t.stage == .running || t.stage == .stopping || t.stage == .stopped) &&
    t.run.elim false fun r => r.pos.any (·.eng == e)

/-- A stopped task of a context has an engine to itself among its context's tasks until it has resumed (R95, R175)
(log 136: DEDUCED). -/
def Core.engineKept (c : Core) (ctx e : Nat) : Bool :=
  c.queue.any fun t => t.ctx == ctx && t.stage == .saved && t.run.elim false fun r => r.pos.any (·.eng == e)

/-- The oldest undispatched task of a context on a core, with its entry number (R114). -/
def Core.oldest (c : Core) (ctx : Nat) : Option (Nat × Task) :=
  ((List.range c.queue.length).zip c.queue).find? fun p => p.2.ctx == ctx && p.2.stage == .queued

/-- The active waits of a task are satisfied (R119). -/
def Context.waitsMet (c : Context) (core : Nat) (d : List Byte) : Bool :=
  [0, 1].all fun i => let w := waitOf d i; !w.1 || waitMet (c.counter core w.2.1) w.2.2

/-- Bytes of the tile at a CVA, as its header has them; at least the header. -/
def State.tileSpan (s : State) (segs : Tab Segment) (cva : Nat) : Nat :=
  (segAt segs cva).elim 16 fun p => max 16 (Hdr.parse (s.rdN (p.2.key cva) 16)).total

/-- A task is ready (R115), with the additions of R174, of step 2 of R267 and of step 1 of R302. A TBLLOAD waits for every dispatched
task that names its pair; a chain waits for a dispatched TBLLOAD of a pair it names, whose contents it sees (R133)
(log 137: DEDUCED). -/
def State.taskReady (s : State) (core : Nat) (t : Task) : Bool :=
  match s.ctx? t.ctx with
  | none => false
  | some c =>
    let q := s.core core
    let res := q.resident.any (·.ctx == t.ctx)
    c.waitsMet core t.desc
      && (!onEngines t.desc || (effectiveEngines q t.desc).all fun e => !q.engineBusy e && !q.engineKept t.ctx e)
      && ((namedPairs t.desc).isEmpty || (res && !q.pairBusy t.ctx (!isTblload t.desc) (namedPairs t.desc)))
      && t.cvas.all fun a => (segAt c.segs a).elim true (fun p => !p.2.mig) && !rangeMeets c.segs s.gradLocks a (s.tileSpan c.segs a)

/-- Contexts that may dispatch on a core now, with the entry of their oldest task (R114, R143, R460). -/
def State.dispatchable (s : State) (core : Nat) : List (Nat × Nat × Task) :=
  s.chip.ctxs.filterMap fun p =>
    if p.2.st == .active && !p.2.estop && s.coreInPart (ctxPart p.1) core then
      match (s.core core).oldest p.1 with
      | some (i, t) => if s.taskReady core t then some (p.1, i, t) else none
      | none => none
    else none

/-- The choice of R464: effective priority, then the oldest last dispatch on this core, then the lower CTX (log 111: DESIGN CHOICE). -/
def State.chooseTask (s : State) (core : Nat) : Option (Nat × Nat × Task) :=
  let prio (x : Nat × Nat × Task) : Nat := if x.2.2.aged then 3 else ((s.ctx? x.1).elim 0 (·.prio))
  let last (x : Nat × Nat × Task) : Nat := Tab.get (s.core core).lastDisp 0 x.1
  (s.dispatchable core).foldl (fun best x => match best with
    | none => some x
    | some b =>
      if prio b < prio x || (prio b == prio x && decide (last x < last b)) then some x else some b) none

/-! ### Dispatch checks (R116, R238, R252) -/

/-- A tile number names a context of partition `h` (check 7 of R57). -/
def State.ctxOk (s : State) (h : Nat) (n : Nat) : Bool := ctxPart n == h && (s.ctx? n).isSome

/-- An input tile of a task: CVA, declared format, and whether it was read. -/
structure InTile where
  cva : Nat
  fmt : Nat
  slot : Option Nat     -- none: A, some 9: B, otherwise the auxiliary slot

def inTiles (d : List Byte) : List InTile :=
  (if isArray d || isVec d || isCopy d then [{ cva := atile d, fmt := afmt d, slot := none }] else [])
    ++ (if isArray d then [{ cva := btile d, fmt := bfmt d, slot := some 9 }] else [])
    ++ (if hasChain d then (((List.range 4).filter fun a => auxEn (aux d a) && !auxOut (aux d a)).map fun a =>
          { cva := auxCva (aux d a), fmt := auxFmt (aux d a), slot := some a }) else [])

/-- A header is read only when its 16 bytes lie in this core's Isle in one segment, aligned, with read permission (R116). -/
def headerKey (segs : Tab Segment) (core cva : Nat) : Option Nat :=
  match segInIsle segs core cva 16 with
  | some p => if cva % 16 == 0 && p.2.rd then some (p.2.key cva) else none
  | none => none

/-- Why a task ends at dispatch: status, DETAIL, fault source (R116). -/
structure Refuse where
  status : Status
  detail : Nat
  fault : Option Occ := none

/-- Output tiles a task will write, with their headers (R139, R140). -/
def outTiles (d : List Byte) (ctx count : Nat) (fmt : Fmt) (noblk : Bool) (scale : Nat) : List (Nat × Hdr × Option Nat) :=
  let mk (f : Fmt) (nb : Bool) (sc : Nat) : Hdr :=
    { fmt := f, noblk := nb, scale := sc, layer := layerOf d, epoch := epochOf d, ctx := ctx, count := count, plen := f.plen nb count }
  if hasOutput d then
    (otile d, mk fmt noblk scale, none) ::
      (if hasChain d then (saveSlots d).map fun a =>
        let x := aux d a
        (auxCva x, mk ((Fmt.ofCode (auxFmt x)).getD .fp32) (auxNoblk x) (auxScale x), some a) else [])
  else []

/-- The resolved format of the main output (R139): fixed, or the per-layer entry; valid or not (check 7). -/
def resolveOut (c : Context) (d : List Byte) : Fmt × Bool × Nat × Bool :=
  if opol d then
    let e := Tab.get c.fmt 0 (layerOf d)
    ((Fmt.ofCode (bitsOf e 0 4)).getD .fp32, bitOf e 4, bitsOf e 8 8, bitOf e 7)
  else ((Fmt.ofCode (ofmt d)).getD .fp32, onoblk d, oscale d, true)

/-- Largest linear index that any of a list of coordinate lists gives, plus one. -/
def maxIndex (l : Layout) (w : Nat) (cs : List (List Nat)) : Nat := cs.foldl (fun a c => max a (l.index w c + 1)) 0

/-- Every coordinate list of extents `ns`. -/
def boxCoords (ns : List Nat) : List (List Nat) := coordsOf ns.length ((List.range ns.length).zip ns |>.map fun p => (p.1, p.2, 1))

/-- The extents an operand's layout must cover (R238). -/
def inputShape (d : List Byte) (slot : Option Nat) : List Nat :=
  match slot with
  | none => if isConv d then let v := Conv.parse d; [v.c, v.wi, v.h] else [dimK d, dimM d]
  | _ => if rdMode d then [dimK d, dimN d] else [dimN d, dimK d]

/-- The coordinates of operand A that a task generates: of a feature map, those that some window element falls on (R97). -/
def coordsA (d : List Byte) : List (List Nat) :=
  if isConv d then
    let v := Conv.parse d
    (List.range (dimM d)).flatMap fun m => (List.range (dimK d)).filterMap fun k => match v.feed m k with
      | .elem y x ch => some [ch, x, y]
      | _ => none
  else boxCoords [dimK d, dimM d]

/-- A layout covers an operand: its extents, and the linear indices of the coordinates that the task generates (R238). -/
def covers (l : Layout) (h : Hdr) (ns : List Nat) (cs : List (List Nat)) : Bool :=
  ((List.range ns.length).zip ns).all (fun p => decide (p.2 ≤ l.lsize p.1)) && decide (maxIndex l h.fmt.width cs ≤ h.limit)

/-- Check 3 of R116 on the sources a chain names. `count` is the output's element count, none where the header that gives it is not
read: what depends on it is passed over with that tile. -/
def sourceOk (d : List Byte) (count : Option Nat) (e : List Byte) (h : Hdr) : Bool :=
  match esrc e with
  | 2 => decide (dimN d ≤ h.count)
  | 3 => if isVec d then count.elim true fun n => decide (ceilDiv n (dimN d) ≤ h.count) else decide (dimM d ≤ h.count)
  | 4 => count.elim true fun n => h.count == n
  | _ => true

/-- What the dispatch checks have found out about a task. -/
structure Dispatch where
  ins : List (InTile × Hdr × Nat)     -- input tiles read, with the keys of their headers
  outs : List (Nat × Hdr × Option Nat)
  maskKey : Option Nat                -- where the mask bitmap that it latches lies
  run : Run

/-- Headers of the input tiles in order: those read, or the check of R57 that one fails (check 1 of R116). -/
def State.readHeaders (s : State) (segs : Tab Segment) (core h : Nat) : List InTile → List (InTile × Hdr × Nat) ⊕ (Nat × Nat)
  | [] => .inl []
  | t :: ts =>
    match headerKey segs core t.cva with
    | none => s.readHeaders segs core h ts
    | some k =>
      let bs := s.rdN k 16
      match hdrCheck (s.ctxOk h) bs with
      | some n => .inr (n, t.cva)
      | none => match s.readHeaders segs core h ts with
        | .inl l => .inl ((t, Hdr.parse bs, k) :: l)
        | .inr e => .inr e

/-- Where the headers lie that check 1 of R116 reads: in order, up to the first that fails. -/
def State.headReads (s : State) (segs : Tab Segment) (core h : Nat) : List InTile → List Nat
  | [] => []
  | t :: ts =>
    match headerKey segs core t.cva with
    | none => s.headReads segs core h ts
    | some k => k :: (if (hdrCheck (s.ctxOk h) (s.rdN k 16)).isSome then [] else s.headReads segs core h ts)

/-- Element count of a task's output (R140); none where A's header gives it and is not read. -/
def outCount (c : Context) (d : List Byte) (ins : List (InTile × Hdr × Nat)) : Option Nat :=
  if onEngines d then some (dimM d * dimN d)
  else if isCopy d && olayout d != 0 then some (((c.layout? (olayout d)).map fun l => prodAxes l.nax l.lsize).getD 0)
  else (ins.find? fun p => p.1.slot == none).map (·.2.1.count)

/-- The in-place forms that R145 and R254 allow. -/
def inPlaceOk (c : Context) (d : List Byte) (a : Hdr) (o : Hdr) (ak ok : Nat) : Bool :=
  if isVec d then otile d == atile d && !opol d && o.fmt == a.fmt && o.noblk == a.noblk
  else
    let la := layoutA c d a
    isCopy d && ak == ok && a.plen == o.plen && la.nax == 2 && fld d 80 0 18 == 1 && la.lsize 0 == la.lsize 1
      && decide ((ak + 16 + 16 * a.plen + 63) / 64 - (ak + 16) / 64 ≤ 1024)

/-- R102 and R103 at a task's dispatch, before check 1 of R116 (log 138: DESIGN CHOICE): no engine of the core is present, or the present
engines cannot hold what the accumulator chain asks for. The fault names engine 0 of a core without engines, else the lowest absent
engine of the mask (log 138: DESIGN CHOICE). -/
def Core.engineRefuse (q : Core) (core ctx : Nat) (d : List Byte) : Option Refuse :=
  let effs := effectiveEngines q d
  if onEngines d && effs.isEmpty then
    some { status := .noResource, detail := 0
           fault := some { src := 0x14, unit := 4 * core, ctx := some ctx, detail := (q.engine 0).cause, info := taskId d } }
  else if onEngines d && (accKeep d || accInit d || isDrain d) && decide (64 * effs.length < dimN d) then
    let e := ((setBits 4 (emask d)).find? fun e => !(q.engine e).present).getD 0
    some { status := .noResource, detail := 0
           fault := some { src := 0x14, unit := 4 * core + e, ctx := some ctx, detail := (q.engine e).cause, info := taskId d } }
  else none

/-- The dispatch checks of R116 in order: what the task latches, or how it ends. The accumulator-ownership fault names context 0xFFFF
where the half carries no tag (log 139: DESIGN CHOICE). -/
def State.dispatchChecks (s : State) (core : Nat) (ctx : Nat) (c : Context) (d : List Byte) (q1 : Bool) : Dispatch ⊕ Refuse :=
  let q := s.core core
  let h := ctxPart ctx
  let effs := effectiveEngines q d
  let tiles := inTiles d
  let tf (n : Nat) (extra : Nat := 0) : Refuse :=
    { status := .integrity, detail := 16 + n
      fault := some { src := 0x11, unit := core, ctx := some ctx, detail := n, info := packInfo 0 [(2, taskId d)] + extra } }
  match q.engineRefuse core ctx d with
  | some f => .inr f
  | none =>
  match s.readHeaders c.segs core h tiles with
  | .inr (n, cva) =>
    .inr { status := .integrity, detail := n
           fault := some { src := 0x10, unit := core, ctx := some ctx, detail := n, info := cva } }
  | .inl ins =>
    let hdrOf (sl : Option Nat) : Option (Hdr × Nat) := (ins.find? fun p => p.1.slot == sl).map (·.2)
    let out := resolveOut c d
    let count := outCount c d ins
    let outs0 := outTiles d ctx (count.getD 0) out.1 out.2.1 out.2.2.1
    let lay (sl : Option Nat) (hd : Hdr) : Layout := if sl == none then layoutA c d hd else layoutB c d hd
    let fmtOk := ins.all fun p =>
      p.2.1.fmt.code == p.1.fmt &&
        (match p.1.slot with
          | none | some 9 =>
            if isVec d then true
            else
              let hdl := if p.1.slot == none then alayout d else blayout d
              if hdl = 0 then p.2.1.fmt.blockOf p.2.1.noblk == 0
              else let l := lay p.1.slot p.2.1; l.stridesOk p.2.1.fmt p.2.1.noblk && l.swizzleOk p.2.1.fmt p.2.1.noblk
          | some _ => true)
    let outFmtOk := !hasOutput d || (opol d && !out.2.2.2) ||
      (if isVec d then true
       else if olayout d = 0 then out.1.blockOf out.2.1 == 0
       else (c.layout? (olayout d)).elim false fun l => l.stridesOk out.1 out.2.1 && l.swizzleOk out.1 out.2.1)
    let shapeIn := ins.all fun p => match p.1.slot with
      | none => if isVec d || isCopy d then true else covers (layoutA c d p.2.1) p.2.1 (inputShape d none) (coordsA d)
      | some 9 => covers (layoutB c d p.2.1) p.2.1 (inputShape d (some 9)) (boxCoords (inputShape d (some 9)))
      | some a => ((chain d).filter fun e => decide (2 ≤ esrc e) && eslot e == a).all fun e => sourceOk d count e p.2.1
    let shapeOut := !hasOutput d || isVec d || olayout d == 0 ||
      ((c.layout? (olayout d)).elim false fun l =>
        (isCopy d || (l.lsize 0 == dimN d && l.lsize 1 == dimM d)) && ((opol d && !out.2.2.2) || l.dense out.1.width))
    let shapeCopy := !isCopy d || (match hdrOf none with
      | none => true
      | some (a, _) =>
        let la := layoutA c d a
        let lo := c.layoutOr (olayout d) (denseLine a.count a.fmt a.noblk)
        decide (maxIndex la a.fmt.width (boxCoords ((List.range la.nax).map la.lsize)) ≤ a.limit)
          && (List.range lo.nax).all (fun x => lo.lsize x == la.lsize (permAt d x)) && decide (1 ≤ count.getD 0 ∧ count.getD 0 ≤ 2 ^ 24))
    if !fmtOk || !outFmtOk then .inr (tf 2)
    else if !shapeIn || !shapeOut || !shapeCopy then .inr (tf 3)
    else
      let keyed (cva n : Nat) : Option Nat :=
        if cva % 16 = 0 then (segInIsle c.segs core cva n).map fun p => p.2.key cva else none
      let imgs := if isTblload d && !q1 then
          (if flg d 81 0 then [atile d] else []) ++ (if flg d 81 1 then [btile d] else []) else []
      let inExt := tiles.map fun t => (t.cva, match ins.find? fun p => p.1.slot == t.slot with
        | some p => p.2.1.total
        | none => 16)
      let maskExt := if maskType d != 0 then [(maskCva d, 512)] else []
      let rdExt := inExt ++ maskExt ++ imgs.map fun a => (a, 4128)
      let wrExt := outs0.map fun o => (o.1, if opol d && !out.2.2.2 && o.2.2 == none then 16 else o.2.1.total)
      let perm (f : Segment → Bool) (x : Nat × Nat) : Bool := (segInIsle c.segs core x.1 x.2).elim false fun p => f p.2
      if !((rdExt ++ wrExt).all fun x => (keyed x.1 x.2).isSome) then .inr { status := .argRange, detail := 20 }
      else if !(rdExt.all (perm (·.rd)) && wrExt.all (perm (·.wr))) then .inr { status := .denied, detail := 21 }
      else
        let sp (x : Nat × Nat) : Nat × Nat := ((keyed x.1 x.2).getD 0, x.2)
        let rs := rdExt.map sp
        let ws := wrExt.map sp
        let main := ws.head?
        let pairsOk := (List.range ws.length).all (fun i => (List.range i).all fun j => !spansMeet (ws.getD i (0, 0)) (ws.getD j (0, 0)))
        let inPlace : Bool := match hdrOf none, outs0.head?, main with
          | some (a, ak), some o, some m => inPlaceOk c d a o.2.1 ak m.1
          | _, _, _ => false
        let meets := ws.all fun w => (List.range rs.length).all fun i =>
          !spansMeet w (rs.getD i (0, 0)) || (inPlace && main == some w && i == 0)
        if !pairsOk || !meets then .inr { status := .argRange, detail := 22 }
        else if hasOutput d && opol d && !out.2.2.2 then .inr { status := .state, detail := 23 }
        else if hasChain d && !((chainTables d).all fun t => (Tab.look c.tables (core * 16 + t)).isSome) then
          .inr { status := .state, detail := 24 }
        else
          let halves := if accInit d || isDrain d then
              effs.flatMap fun e => (halvesOf d 0).map fun x => (e, x) else []
          -- only engines that hold a block of the task are read
          let used := halves.filter fun p => !(blocksOf d effs.length ((List.range effs.length).filter (fun i => effs.getD i 9 == p.1) |>.headD 0)).isEmpty
          match used.find? fun p => let x := (q.engine p.1).half p.2; !(x.valid && x.tag == some ctx) with
          | some (e, x) =>
            .inr { status := .state, detail := 25
                   fault := some { src := 0x13, unit := 4 * core + e, ctx := some ctx, detail := x
                                   info := ((q.engine e).half x).tag.getD 0xFFFF } }
          | none =>
            let total (r : Nat) : Nat := (blocksOf d effs.length r).length * chunksPer d
            let maskKey := if maskType d != 0 then keyed (maskCva d) 512 else none
            let mask := maskKey.elim [] fun k => s.rdN k 512
            let pos := if onEngines d then
                ((List.range effs.length).zip effs).map fun p =>
                  let bl := blocksOf d effs.length p.1
                  if isDrain d then { eng := p.2, chunk := total p.1, pass := 0, drains := List.range (total p.1) }
                  else { eng := p.2, chunk := nextChunk d mask bl (total p.1) (total p.1) 0, pass := 0 }
              else []
            let cvas := if q1 then [] else taskCvas d
            .inl { ins := ins, outs := outs0, maskKey := maskKey
                   run := { segs := c.segs
                            holds := (cvas.filterMap fun a => (segAt c.segs a).map (·.1)).eraseDups
                            a := hdrOf none, b := hdrOf (some 9)
                            aux := ins.filterMap fun p => match p.1.slot with
                              | some a => if a < 4 then some (a, p.2) else none
                              | none => none
                            outs := outs0.map fun o => { hdr := o.2.1, base := (keyed o.1 16).getD 0, slot := o.2.2 }
                            mask := mask, pos := pos, hbase := bitsOf (Tab.get c.fmt 0 (layerOf d)) 16 8 } }

/-! ### Writing outputs (R138, R142) -/

/-- Bytes of element codes from key `base` on, by key: neighbouring bits of a byte that some of the codes fill in part are kept, as the
writing block merges them (R152), and the last element of the tile is followed by zeros up to the end of its byte (R55). `all` is the
number of elements the tile stores. -/
def State.codeBytes (s : State) (base w all : Nat) (cs : List (Nat × Nat)) : List (Nat × Byte) :=
  cs.foldl (fun (t : List (Nat × Byte)) p =>
    let bit := p.1 * w
    let lo := bit % 8
    let wide := if p.1 + 1 = all then roundUp (all * w) 8 - bit else w
    let n := (lo + wide + 7) / 8
    let ks := (List.range n).map (base + bit / 8 + ·)
    let old := leNat (ks.map fun k => (Tab.look t k).getD (s.rd k))
    let new := old - bitsOf old lo wide * 2 ^ lo + (p.2 % 2 ^ w) * 2 ^ lo
    (ks.zip (leBytes n new)).foldl (fun t x => Tab.put t x.1 x.2) t) []

/-- Element codes stored at linear indices and scale bytes at block numbers of an output, as one access: words that they fill whole are
written whole (R152) (log 125: DEDUCED). -/
def State.putCodes (s : State) (core : Nat) (o : OutTile) (cs scales : List (Nat × Nat)) : State × Bool :=
  let h := o.hdr
  s.isleStore core (s.codeBytes (o.base + 16) h.fmt.width (h.fmt.stored h.noblk h.count) cs
    ++ scales.map fun p => (o.base + 16 + 16 * h.fmt.elemUnits h.noblk h.count + p.1, BitVec.ofNat 8 p.2))

/-- What the descriptor supplies to the encode of an output tile (R61, R126). -/
def encOf (d : List Byte) (h : Hdr) : Enc :=
  { fmt := h.fmt, noblk := h.noblk, scale := h.scale, rnd := rndMode d, sat := satOn d, seed := seed d }

/-- The blocks of an output whose real elements are all present, by block number (log 103: DEDUCED). -/
def OutTile.wholeBlocks (o : OutTile) : List Nat :=
  let b := max 1 (o.hdr.fmt.blockOf o.hdr.noblk)
  let bs := (o.vals.map fun p => p.1 / b).eraseDups
  bs.filter fun n => decide (min b (o.hdr.count - n * b) ≤ (o.vals.filter fun p => p.1 / b == n).length)

/-- One whole block of an output encoded (R64): element codes by linear index with the padding of the last block, scale bytes by block,
flags. -/
def encodeOut (d : List Byte) (o : OutTile) (n : Nat) : List (Nat × Nat) × List (Nat × Nat) × Flags :=
  let b := max 1 (o.hdr.fmt.blockOf o.hdr.noblk)
  let scaled := o.hdr.fmt.blockOf o.hdr.noblk != 0
  let xs := o.vals.filter fun p => p.1 / b == n
  let r := encodeBlock (encOf d o.hdr) xs
  let pad := if scaled then ((List.range b).map (n * b + ·)).filter (fun i => decide (o.hdr.count ≤ i)) else []
  ((xs.map (·.1)).zip r.1 ++ pad.map fun i => (i, 0), if scaled then [(n, r.2.1)] else [], r.2.2)

/-- Every whole block of an output encoded and written, in one access (R64); flags of the encodes (log 103: DEDUCED). -/
def State.flushOut (s : State) (core : Nat) (d : List Byte) (o : OutTile) : State × OutTile × Flags × Bool :=
  let b := max 1 (o.hdr.fmt.blockOf o.hdr.noblk)
  let ns := o.wholeBlocks
  let es := ns.map (encodeOut d o)
  let w := s.putCodes core o (es.flatMap (·.1)) (es.flatMap (·.2.1))
  (w.1, { o with vals := o.vals.filter fun p => !ns.contains (p.1 / b) }, es.foldl (fun f e => f.or e.2.2) {}, w.2)

/-- A task's failure: the first one stays. -/
def Run.failWith (r : Run) (bad : Bool) : Run := { r with fail := if bad && r.fail.isNone then some (.integrity, 0) else r.fail }

/-- The pending headers of a task's outputs, before its first payload byte (R142). -/
def State.beginOuts (s : State) (core : Nat) (r : Run) : State × Run :=
  if r.begun then (s, r)
  else
    let x := r.outs.foldl (fun (a : State × Bool) o => let y := a.1.isleWrite core o.base o.hdr.pendingBytes; (y.1, a.2 || y.2)) (s, false)
    (x.1, { r.failWith x.2 with begun := true })

/-- Whole blocks of every output written; a write that met an uncorrectable word fails the task (R163). -/
def State.flushAll (s : State) (core : Nat) (d : List Byte) (r : Run) : State × Run :=
  let b := s.beginOuts core r
  let f := b.2.outs.foldl (fun (a : State × List OutTile × Flags × Bool) o =>
    let x := a.1.flushOut core d o
    (x.1, a.2.1 ++ [x.2.1], a.2.2.1.or x.2.2.1, a.2.2.2 || x.2.2.2)) (b.1, [], {}, false)
  (f.1, { b.2.failWith f.2.2.2 with outs := f.2.1, flags := b.2.flags.or f.2.2.1 })

/-! ### Passes of the array (R67 to R69, R75, R81, R83, R97) -/

/-- The payload reader of a tile whose header lies at key `k`. -/
def State.payload (s : State) (k : Nat) (i : Nat) : Byte := s.rd (k + 16 + i)

/-- One operand of the array: element value without scales, block scale byte, and the payload bytes it lies in. -/
structure Operand where
  val : FVal
  scale : Nat
  keys : List Nat

/-- Element of a tile at a linear index as an array operand. -/
def State.operandAt (s : State) (h : Hdr) (k idx : Nat) : Operand :=
  let w := h.fmt.width
  let rd := s.payload k
  { val := rawElem rd h idx, scale := scaleByte rd h.fmt h.noblk h.count idx
    keys := (List.range ((idx * w % 8 + w + 7) / 8)).map (k + 16 + idx * w / 8 + ·)
      ++ (if h.fmt.blockOf h.noblk = 0 then [] else [k + 16 + 16 * h.fmt.elemUnits h.noblk h.count + idx / h.fmt.blockOf h.noblk]) }

/-- X[m][k], or none for an absent row (R68, R97). -/
def State.operandA (s : State) (c : Context) (d : List Byte) (h : Hdr) (key m k : Nat) : Option Operand :=
  let l := layoutA c d h
  if isConv d then
    let v := Conv.parse d
    match v.feed m k with
    | .absent => none
    | .fill => some { val := h.fmt.codeVal v.fill, scale := 127, keys := [] }
    | .elem y x ch => some (s.operandAt h key (l.index h.fmt.width [ch, x, y]))
  else some (s.operandAt h key (l.index h.fmt.width [k, m]))

/-- Reduction rows of a pass and output lines of an n-block: the cells that a weight block fills (R81). -/
def passK (d : List Byte) (p : Nat) : List Nat := (List.range 64).filter fun k => decide (64 * p + k < dimK d)
def blockI (d : List Byte) (j : Nat) : List Nat := List.range (min 64 (dimN d - 64 * j))

/-- The weight elements of ordinal `o`, pass `p`, by cell in ascending order: cell, reduction row and output line within the block, and
the linear index of the element. Cell (r, n) holds W[r][n] of the block in either read mode (R83). -/
def weightCells (c : Context) (d : List Byte) (h : Hdr) (blocks : List Nat) (o p : Nat) : List (Nat × Nat × Nat × Nat) :=
  let j := (chunkAt d blocks o).1
  let l := layoutB c d h
  let one (k i : Nat) : Nat × Nat × Nat × Nat :=
    (if rdMode d then 64 * i + k else 64 * k + i, k, i, l.index h.fmt.width (coordB d (64 * p + k) (64 * j + i)))
  if rdMode d then (blockI d j).flatMap fun i => (passK d p).map fun k => one k i
  else (passK d p).flatMap fun k => (blockI d j).map fun i => one k i

/-- The weight block of a pass as the Isle holds it, with its scale bytes (R80). -/
def State.weightSet (s : State) (h : Hdr) (key : Nat) (ws : List (Nat × Nat × Nat × Nat)) : WSet :=
  let rd := s.payload key
  { fmt := h.fmt
    cells := ws.filterMap fun x => let v := elemCode rd h.fmt.width x.2.2.2; if v = 0 then none else some (x.1, v)
    scales := if h.fmt.blockOf h.noblk = 0 then []
      else ws.foldl (fun t x => Tab.set t 127 (64 * (x.2.1 / 32) + x.2.2.1) (scaleByte rd h.fmt h.noblk h.count x.2.2.2)) [] }

/-- The weight that meets X[m][k] in output column i of the block, `k` and `i` within it (R83). -/
def WSet.operand (w : WSet) (column : Bool) (k i : Nat) : Operand :=
  let sc := Tab.get w.scales 127 (64 * (k / 32) + i)
  { val := if sc = 255 then .nan else w.fmt.codeVal (Tab.get w.cells 0 (if column then 64 * i + k else 64 * k + i)), scale := sc, keys := [] }

/-- The products of group `g` of pass `p` for output (m, i), `i` within the n-block: pairs of operands whose rows exist. -/
def State.groupPairs (s : State) (c : Context) (d : List Byte) (a : Hdr × Nat) (w : WSet) (p g m i : Nat) : List (Operand × Operand) :=
  ((List.range 32).map (32 * g + ·)).filterMap fun k =>
    if 64 * p + k < dimK d then (s.operandA c d a.1 a.2 m (64 * p + k)).map fun x => (x, w.operand (rdMode d) k i) else none

/-- A floating-point group added into an accumulator entry (R67, R68). -/
def addGroup (a b : Hdr) (ps : List (Operand × Operand)) (acc : Word) : Word × Flags :=
  let sx := (ps.head?.map (·.1.scale)).getD 127
  let sw := (ps.head?.map (·.2.scale)).getD 127
  let adj : Int := (sx : Int) - 127 + ((sw : Int) - 127) + ((a.scale : Int) - 127) + ((b.scale : Int) - 127)
  let g := groupSum (ps.map fun p => p.1.val.mul p.2.val) adj (ps.any fun p => p.1.val.isNaN || p.2.val.isNaN)
  let r := fadd acc g.1
  (r.1, g.2.or r.2)

/-- An INT8 group added into an accumulator entry (R69) (log 100: DEDUCED). -/
def addGroupInt (ps : List (Operand × Operand)) (acc : Word) : Word × Flags :=
  accInt acc ((ps.map fun p => p.1.val.toInt * p.2.val.toInt).foldl (· + ·) 0)

/-- Uncorrectable words among stored words, by word number. -/
def State.badWords (s : State) (k n : Nat) : List Nat := ((s.isleErrs k n).filter fun p => decide (2 ≤ flips p.2)).map (·.1)

/-- An accumulator entry met by a read: one flip corrected and counted, more make it uncorrectable (R165). -/
def State.meetEntry (s : State) (core e ctx tid key : Nat) : State × Bool :=
  let m := Tab.get ((s.core core).engine e).err 0 key
  if m = 0 then (s, false)
  else
    let info := packInfo 0 [(1, key / 64), (1, key % 64)]
    let clr (s : State) : State := s.modCore core fun c => c.setEngine e { c.engine e with err := Tab.set (c.engine e).err 0 key 0 }
    if flips m = 1 then
      ((clr (s.modCore core fun c => { c with ace := satAdd 16 c.ace 1 })).raise
        { src := 0x15, unit := 4 * core + e, ctx := some ctx, info := info }, false)
    else
      ((s.modCore core fun c => { c with aue := satAdd 16 c.aue 1 }).raise
        { src := 0x16, unit := 4 * core + e, ctx := some ctx, info := packInfo 0 [(1, key / 64), (1, key % 64), (2, tid)] }, true)

/-- A half prepared for a task's first write (R89, R116): cleared when another context's tag is on it; it holds no values
from now on. -/
def Eng.take (g : Eng) (ctx h : Nat) (int : Option Nat) : Eng :=
  let x := g.half h
  let lo := 128 * h * 64
  let g1 := if x.tag = some ctx then g
    else { g with acc := g.acc.filter fun p => !(decide (lo ≤ p.1) && decide (p.1 < lo + 8192))
                  err := g.err.filter fun p => !(decide (lo ≤ p.1) && decide (p.1 < lo + 8192)) }
  g1.setHalf h { tag := some ctx, valid := false, int := int }

/-- The flags and the accumulator of one pass of ordinal `o` (R75, R87): every row of the chunk enters once and meets the active weight
set (log 9: DESIGN CHOICE). -/
def State.runPass (s : State) (core e ctx : Nat) (c : Context) (d : List Byte) (a b : Hdr × Nat) (blocks : List Nat) (o p : Nat) :
    State × Flags × Bool :=
  let bc := chunkAt d blocks o
  let sp := chunkSpan d bc.2
  let base := entryBase d o
  let int := a.1.fmt == .int8
  let scales := if int then some (a.1.scale + b.1.scale) else none
  let s0 := if p = 0 then s.modCore core fun q =>
      q.setEngine e ((halvesOf d o).foldl (fun g h => if accInit d then g.setHalf h { (g.half h) with valid := false, int := scales } else g.take ctx h scales) (q.engine e))
    else s
  let cells := (List.range sp.2).flatMap fun r => (List.range (min 64 (dimN d - 64 * bc.1))).map fun i => (r, i)
  let step (st : State × Flags × Bool) (x : Nat × Nat) : State × Flags × Bool :=
    let key := (base + x.1) * 64 + x.2
    let m := sp.1 + x.1
    let fresh := p == 0 && !accInit d
    let chk := if fresh then (st.1, false) else st.1.meetEntry core e ctx (taskId d) key
    let old := if fresh then 0#32 else Tab.get ((chk.1.core core).engine e).acc 0#32 key
    let w := ((chk.1.core core).engine e).active
    let g0 := chk.1.groupPairs c d a w p 0 m x.2
    let g1 := chk.1.groupPairs c d a w p 1 m x.2
    let r0 := if int then addGroupInt g0 old else addGroup a.1 b.1 g0 old
    let r1 := if int then addGroupInt g1 r0.1 else addGroup a.1 b.1 g1 r0.1
    (chk.1.modCore core fun q =>
        q.setEngine e { q.engine e with acc := Tab.set (q.engine e).acc 0#32 key r1.1
                                        err := Tab.set (q.engine e).err 0 key 0 },
      st.2.1.or (r0.2.or r1.2), st.2.2 || chk.2)
  cells.foldl step (s0, {}, false)

/-- Keys of the activation bytes that a pass of a chunk reads. -/
def State.rowKeys (s : State) (c : Context) (d : List Byte) (a : Hdr × Nat) (blocks : List Nat) (o p : Nat) : List Nat :=
  let sp := chunkSpan d (chunkAt d blocks o).2
  (passK d p).flatMap fun k => (List.range sp.2).flatMap fun r =>
    ((s.operandA c d a.1 a.2 (sp.1 + r) (64 * p + k)).map (·.keys)).getD []

/-- The Isle words with flips that a list of keys touches: met, and whether one is uncorrectable (R160, R162). -/
def State.meetKeys (s : State) (core : Nat) (ks : List Nat) : State × Bool :=
  if s.chip.isleErr.isEmpty then (s, false)
  else
    let ws := (ks.map (· / 4)).eraseDups
    let es := s.chip.isleErr.filter fun p => ws.contains p.1
    (es.foldl (fun a p => a.meetWord core 0 p.1 p.2) s, es.any fun p => decide (2 ≤ flips p.2))

/-- The weight block of ordinal `o`, pass `p` loaded into the shadow set of an engine (R80); the answer says whether a word it was read
from is uncorrectable (R162). -/
def State.loadShadow (s : State) (core e : Nat) (c : Context) (d : List Byte) (b : Hdr × Nat) (blocks : List Nat) (o p : Nat) : State × Bool :=
  let ws := weightCells c d b.1 blocks o p
  let met := s.meetKeys core (ws.flatMap fun x => (s.operandAt b.1 b.2 x.2.2.2).keys)
  (met.1.modCore core fun q => q.setEngine e { q.engine e with shadow := s.weightSet b.1 b.2 ws }, met.2)

/-- The shadow set and the active set exchange roles (R80). -/
def State.swapSets (s : State) (core e : Nat) : State :=
  s.modCore core fun q => let g := q.engine e; q.setEngine e { g with active := g.shadow, shadow := g.active }

/-! ### Drains and element-wise work (R70, R124, R138, R141) -/

/-- The counter of the histogram a value goes into (R331). -/
def histCounter (hbase : Nat) (v : Word) : Nat :=
  match f32 v with
  | .fin _ m e =>
    if m = 0 then 0
    else
      let d := ilog2 m e - ((hbase : Int) - 127)
      if d < 0 then 1 else if 60 ≤ d then 62 else 2 + d.toNat
  | _ => 63

/-- The sources and tables of a task's chain at output (m, n) with linear index `i`. -/
def State.chainEnv (s : State) (c : Context) (core : Nat) (r : Run) (m n i : Nat) : ChainEnv :=
  { source := fun slot src => match Tab.look r.aux slot with
      | none => (0#32, {})
      | some (h, k) => decodeElem (s.payload k) h (if src = 2 then n else if src = 3 then m else i)
    table := fun t => (Tab.look c.tables (core * 16 + t)).getD [] }

/-- Keys that the sources of a chain read at output (m, n), index `i`. -/
def State.chainKeys (s : State) (d : List Byte) (r : Run) (m n i : Nat) : List Nat :=
  ((chain d).filter fun e => decide (2 ≤ esrc e)).flatMap fun e => match Tab.look r.aux (eslot e) with
    | none => []
    | some (h, k) => (s.operandAt h k (if esrc e = 2 then n else if esrc e = 3 then m else i)).keys

/-- One output value taken through the chain and laid into the outputs (R124, R126, R138, R141). -/
def State.emitValue (s : State) (c : Context) (core : Nat) (d : List Byte) (r : Run) (m n i : Nat) (v : Word) (f : Flags) : Run :=
  let q := runChain (s.chainEnv c core r m n i) (chain d) v
  let put (o : OutTile) : OutTile := match o.slot with
    | none => { o with vals := Tab.put o.vals i q.1 }
    | some a => match q.2.2.find? (·.1 == a) with
      | some x => { o with vals := Tab.put o.vals i x.2 }
      | none => o
  { r with outs := r.outs.map put, flags := r.flags.or (f.or q.2.1)
           hist := if histOn d then Tab.modify r.hist 0 (histCounter r.hbase q.1) (· + 1) else r.hist }

/-- A masked entry: +0 where MASKOUT or a block-scaled output asks for it, its bytes kept otherwise (R138) (log 103: DEDUCED). -/
def maskValue (d : List Byte) (r : Run) (i : Nat) : Run :=
  { r with outs := r.outs.map fun o =>
      if maskOut d || o.hdr.fmt.blockOf o.hdr.noblk != 0 then { o with vals := Tab.put o.vals i 0#32 } else o }

/-- Linear index of output (m, n). -/
def outIndex (c : Context) (d : List Byte) (r : Run) (m n : Nat) : Nat :=
  match r.outs.head? with
  | none => 0
  | some o => (layoutO c d o.hdr).index o.hdr.fmt.width [n, m]

/-- The drain of chunk ordinal `o` of an engine (R92, R165): each entry through the chain into the outputs. -/
def State.drainChunk (s : State) (core e ctx : Nat) (c : Context) (d : List Byte) (blocks : List Nat) (o : Nat) (r : Run) : State × Run :=
  let bc := chunkAt d blocks o
  let sp := chunkSpan d bc.2
  let base := entryBase d o
  let int := ((s.core core).engine e |>.half ((halvesOf d o).headD 0)).int
  let cells := (List.range sp.2).flatMap fun x => (List.range (min 64 (dimN d - 64 * bc.1))).map fun i => (x, i)
  let step (st : State × Run) (x : Nat × Nat) : State × Run :=
    if st.2.fail.isSome then st
    else
      let m := sp.1 + x.1
      let n := 64 * bc.1 + x.2
      let i := outIndex c d st.2 m n
      if maskedAt d st.2.mask m n then (st.1, maskValue d st.2 i)
      else
        let key := (base + x.1) * 64 + x.2
        let chk := st.1.meetEntry core e ctx (taskId d) key
        let src := chk.1.meetKeys core (chk.1.chainKeys d st.2 m n i)
        if chk.2 || src.2 then (src.1, { st.2 with fail := some (.integrity, 0) })
        else
          let v := Tab.get ((src.1.core core).engine e).acc 0#32 key
          let v1 := match int with
            | some bs => intOut v bs 0
            | none => (v, {})
          (src.1, src.1.emitValue c core d st.2 m n i v1.1 v1.2)
  let p := cells.foldl step (s, r)
  let s1 := p.1.modCore core fun q => q.setEngine e ((halvesOf d o).foldl (fun g h => g.setHalf h { g.half h with valid := false }) (q.engine e))
  s1.flushAll core d p.2

/-- The whole of a VECOP (R107, R124): every element in ascending order; it stops before the first element that a
poisoned word feeds (R162). -/
def State.runVecop (s : State) (core : Nat) (c : Context) (d : List Byte) (r : Run) : State × Run :=
  match r.a with
  | none => (s, r)
  | some (h, k) =>
    let step (st : State × Run) (i : Nat) : State × Run :=
      if st.2.fail.isSome then st
      else
        let m := i / dimN d
        let n := i % dimN d
        let src := st.1.meetKeys core ((s.operandAt h k i).keys ++ st.1.chainKeys d st.2 m n i)
        if src.2 then (src.1, { st.2 with fail := some (.integrity, 0) })
        else
          let v := decodeElem (s.payload k) h i
          (src.1, s.emitValue c core d st.2 m n i v.1 v.2)
    let p := (List.range h.count).foldl step (s, r)
    p.1.flushAll core d p.2

/-! ### Copies (R252 to R254) -/

/-- Input coordinates of the output element with linear index `i` under a dense output layout. -/
def copySource (la lo : Layout) (d : List Byte) (coords : List Nat) : List Nat :=
  (List.range la.nax).map fun x => match (List.range lo.nax).find? fun a => permAt d a == x with
    | some a => coords.getD a 0
    | none => 0

/-- Source linear index of each output linear index, by inverting the dense output layout. -/
def copyMap (c : Context) (d : List Byte) (a o : Hdr) : List (Nat × Nat) :=
  let la := layoutA c d a
  let lo := layoutO c d o
  (boxCoords ((List.range lo.nax).map lo.lsize)).map fun y =>
    (lo.index o.fmt.width y, la.index a.fmt.width (copySource la lo d y))

/-- The element bits move unchanged (R252). -/
def copyRaw (a o : Hdr) : Bool := a.fmt == o.fmt && a.scale == o.scale && a.fmt.blockOf a.noblk == 0 && o.fmt.blockOf o.noblk == 0

/-- Distinct 64-byte lines that hold some elements of a tile whose header lies at key `k`, or their block scale bytes (R253). -/
def linesOf (h : Hdr) (k : Nat) (idx : List Nat) : Nat :=
  let w := h.fmt.width
  let b := h.fmt.blockOf h.noblk
  ((idx.flatMap fun i => [(k + 16 + i * w / 8) / 64, (k + 16 + ((i + 1) * w - 1) / 8) / 64]
    ++ if b = 0 then [] else [(k + 16 + 16 * h.fmt.elemUnits h.noblk h.count + i / b) / 64]).eraseDups).length

/-- The end of the staged block that starts at output index `from`: the limits of R253, rounded down to a whole block. -/
def blockEnd (c : Context) (d : List Byte) (a o : Hdr × Nat) (start : Nat) : Nat :=
  let m := copyMap c d a.1 o.1
  let src (i : Nat) : Nat := ((m.find? fun p => p.1 == i).map (·.2)).getD 0
  let ok (n : Nat) : Bool :=
    let is := (List.range n).map (start + ·)
    decide (linesOf a.1 a.2 (is.map src) ≤ 1024) && decide (linesOf o.1 o.2 is ≤ 1024)
  let most := min 16384 (o.1.count - start)
  let n := ((List.range most).map (most - ·)).find? ok |>.getD most
  let b := max 1 (o.1.fmt.blockOf o.1.noblk)
  if start + n = o.1.count then o.1.count else start + max b (n / b * b)

/-- The end of the next staged block of a COPY: an in-place copy is one block (R253, R254). -/
def copyStop (c : Context) (d : List Byte) (r : Run) (a : Hdr × Nat) (o : OutTile) : Nat :=
  if o.base = a.2 then o.hdr.count else blockEnd c d a (o.hdr, o.base) r.copyAt

/-- Source linear indices of the output indices of a block, in their order. -/
def copyFrom (c : Context) (d : List Byte) (r : Run) (a : Hdr × Nat) (o : OutTile) (stop : Nat) : List Nat :=
  let m := copyMap c d a.1 o.hdr
  (List.range (stop - r.copyAt)).map fun i => ((m.find? fun p => p.1 == r.copyAt + i).map (·.2)).getD 0

/-- The 1 KiB ranges that a phase of a COPY's block touches: one request of the copy channel each (R200) (log 152: DESIGN CHOICE). -/
def State.copyNeeds (s : State) (c : Context) (d : List Byte) (r : Run) : List Nat :=
  match r.a, r.outs.head? with
  | some a, some o =>
    let keys := match r.staged with
      | none => (copyFrom c d r a o (copyStop c d r a o)).flatMap fun i => (s.operandAt a.1 a.2 i).keys
      | some (stop, _) => o.base :: (List.range (stop - r.copyAt)).flatMap fun i => (s.operandAt o.hdr o.base (r.copyAt + i)).keys
    if o.hdr.count ≤ r.copyAt then [] else (keys.map (· / 1024)).eraseDups
  | _, _ => []

/-- The read phase of a staged block: the codes or values that will be written, in index order (R252, R253). -/
def State.copyRead (s : State) (core : Nat) (c : Context) (d : List Byte) (r : Run) (a : Hdr × Nat) (o : OutTile) : State × Run :=
  let stop := copyStop c d r a o
  let src := copyFrom c d r a o stop
  let met := s.meetKeys core (src.flatMap fun i => (s.operandAt a.1 a.2 i).keys)
  if met.2 then (met.1, { r with fail := some (.integrity, 0) })
  else if copyRaw a.1 o.hdr then
    (met.1, { r with staged := some (stop, src.map fun i => BitVec.ofNat 32 (elemCode (s.payload a.2) a.1.fmt.width i)) })
  else
    let vs := src.map fun i => decodeElem (s.payload a.2) a.1 i
    (met.1, { r with staged := some (stop, vs.map (·.1)), flags := vs.foldl (fun f v => f.or v.2) r.flags })

/-- The write phase of a staged block up to output index `stop`: the pending header first, then the staged elements (R142, R253). -/
def State.copyWrite (s : State) (core : Nat) (d : List Byte) (r : Run) (a : Hdr × Nat) (o : OutTile) (stop : Nat) (vs : List Word) : State × Run :=
  let idx := (List.range vs.length).map (r.copyAt + ·)
  let b := s.beginOuts core r
  let nxt (r : Run) : Run := { r with copyAt := stop, staged := none }
  if copyRaw a.1 o.hdr then
    let w := b.1.putCodes core o (idx.zip (vs.map (·.toNat))) []
    (w.1, (nxt b.2).failWith w.2)
  else
    let r1 := { nxt b.2 with outs := b.2.outs.map fun o => { o with vals := idx.zip vs } }
    b.1.flushAll core d r1

/-- Staged elements before staged word `word`: the buffer holds the block in its source format (R166, R167) (log 140: DEDUCED). -/
def stagedBefore (a : Hdr) (word : Nat) : Nat := 32 * word / a.fmt.width

/-- An uncorrectable staged word ends the copy: the pending header and what lies before the word are written (R167, R254). -/
def State.copyCut (s : State) (core : Nat) (d : List Byte) (r : Run) (a : Hdr × Nat) (o : OutTile) (stop : Nat) (vs : List Word) (word : Nat) :
    State × Run :=
  let x := s.copyWrite core d r a o stop (vs.take (stagedBefore a.1 word))
  (x.1, x.2.failWith true)

/-! ### Table loads (R131, R133) -/

/-- A TBLLOAD carried out: both images checked before the pair changes. -/
def State.runTblload (s : State) (core : Nat) (ctx : Nat) (t : Task) (r : Run) : State × Run :=
  let d := t.desc
  let pair := fld d 80 0 3
  let img (which : Nat) (cva : Nat) : List Byte × Nat := match t.images with
    | some (f, g) => (if which = 0 then f else g, 0)
    | none => let k := ((segAt r.segs cva).map fun p => p.2.key cva).getD 0; (s.rdN k 4128, k)
  let want := (if flg d 81 0 then [(0, atile d)] else []) ++ (if flg d 81 1 then [(1, btile d)] else [])
  let met := if t.images.isSome then (s, false)
    else want.foldl (fun (a : State × Bool) p => let x := a.1.isleRead core (img p.1 p.2).2 4128; (x.1, a.2 || x.2)) (s, false)
  if met.2 then (met.1, { r with fail := some (.integrity, 0) })
  else if !(want.all fun p => imageOk (img p.1 p.2).1) then (met.1, { r with fail := some (.argRange, 0) })
  else
    let s1 := met.1.modCtx ctx fun c =>
      { c with tables := want.foldl (fun tb p => Tab.put tb (core * 16 + 2 * pair + p.1) (img p.1 p.2).1) c.tables }
    (s1.modCore core fun q => { q with resident := q.resident.map fun x => if x.ctx = ctx then { x with dirty := true } else x }, r)

/-! ### The end of a task (R120, R142 to R144) -/

/-- CYCLES of a task that ends otherwise than by its own TASK_END: none before its dispatch, else a count that the model, which has no
CCLK, leaves free (R144) (log 145: DESIGN CHOICE). -/
def State.endCycles (s : State) (t : Task) : State × Nat := if t.run.isNone then (s, 0) else s.draw 20

/-- A task of a context ends with a status other than OK, or at a point where nothing more is written: the record, error
stop, the entry freed. `quiet` is an ending that reset or teardown causes (R143). -/
def State.endFailed (s : State) (core i : Nat) (t : Task) (st : Status) (detail cycles : Nat) (quiet : Bool) : State :=
  let f := (t.run.map (·.flags)).getD {}
  let s1 := (s.dropTask core i).stick t.ctx f
  let s2 := s1.post t.ctx (taskRecord (taskId t.desc) st f core (opc t.desc) detail cycles t.ctx) t.origin
  if quiet then s2 else s2.errorStop t.ctx

/-- The bytes that follow an output tile's elements and scale bytes up to its end, as zeros (R55). -/
def State.padOut (s : State) (core : Nat) (o : OutTile) : State × Bool :=
  let h := o.hdr
  let used := ceilDiv (h.fmt.stored h.noblk h.count * h.fmt.width) 8
  let units := 16 * h.fmt.elemUnits h.noblk h.count
  let blocks := h.fmt.blocks h.noblk h.count
  let x := s.isleWrite core (o.base + 16 + used) (leBytes (units - used) 0)
  let y := x.1.isleWrite core (o.base + 16 + units + blocks) (leBytes (16 * h.plen - units - blocks) 0)
  (y.1, x.2 || y.2)

/-- The padding of the output tiles, then their final headers, unless a write dropped bytes (R55, R142, R163). -/
def State.sealOuts (s : State) (core : Nat) (r : Run) : State × Bool :=
  let x := r.outs.foldl (fun (a : State × Bool) o => let y := a.1.padOut core o; (y.1, a.2 || y.2)) (s, false)
  if x.2 then x
  else r.outs.foldl (fun (a : State × Bool) o => let y := a.1.isleWrite core o.base o.hdr.bytes; (y.1, a.2 || y.2)) x

/-- Entries of the chunks that were never computed, because they are wholly masked (R94, R138). -/
def State.fillMasked (s : State) (core : Nat) (c : Context) (d : List Byte) (r : Run) : State × Run :=
  if maskType d = 0 then (s, r)
  else
    let cells := ((List.range (ceilDiv (dimN d) 64)).flatMap fun j => (List.range (chunksPer d)).filterMap fun k =>
      if chunkMasked d r.mask j k then some (j, k) else none).flatMap fun p =>
        let sp := chunkSpan d p.2
        (List.range sp.2).flatMap fun x => (List.range (min 64 (dimN d - 64 * p.1))).map fun i => (sp.1 + x, 64 * p.1 + i)
    s.flushAll core d (cells.foldl (fun r x => maskValue d r (outIndex c d r x.1 x.2)) r)

/-- The active signals of a task set out (R120). -/
def State.sendSignals (s : State) (ctx : Nat) (d : List Byte) : State :=
  let new := [0, 1].filterMap fun i => let g := sigOf d i
    if g.1 then some { ctx := ctx, core := g.2.2.1, idx := g.2.1, inc := g.2.2.2 : Signal } else none
  { s with chip.sigs := s.chip.sigs ++ new }

/-- The outputs of a task that has nothing left to compute: pending headers where none was written, padding, final headers. The answer
carries the failure of a write that dropped bytes (R142, R163). -/
def State.closeOuts (s : State) (core : Nat) (r : Run) : State × Run :=
  let b := s.beginOuts core r
  if b.2.fail.isSome then b
  else
    let x := b.1.sealOuts core b.2
    (x.1, b.2.failWith x.2)

/-- A task ends with OK: values kept in the halves, histogram counts, flags, signals, its record where REC asks for it. -/
def State.endOk (s : State) (core i : Nat) (t : Task) (r : Run) (cycles : Nat) : State :=
  let d := t.desc
  let s2 := if accKeep d then s.modCore core fun q => r.pos.foldl (fun q p =>
      if p.chunk = 0 then q
      else q.setEngine p.eng ((halvesOf d 0).foldl (fun g h => g.setHalf h { g.half h with tag := some t.ctx, valid := true }) (q.engine p.eng))) q
    else s
  let s3 := s2.modCtx t.ctx fun c =>
    { c with hist := r.hist.foldl (fun h p => Tab.modify h 0 (layerOf d * 64 + p.1) fun x => satAdd 32 x p.2) c.hist
             flags := c.flags.or r.flags }
  let s4 := (s3.sendSignals t.ctx d).dropTask core i
  if recOn d then s4.post t.ctx (taskRecord (taskId d) .ok r.flags core (opc d) 0 cycles t.ctx) t.origin else s4

/-- A running task has nothing left to do before its end. -/
def taskDone (d : List Byte) (r : Run) : Bool :=
  if onEngines d then
    r.pos.all fun p =>
      let effs := r.pos.map (·.eng)
      let rank := (List.range effs.length).find? (fun i => effs.getD i 9 == p.eng) |>.getD 0
      decide ((blocksOf d effs.length rank).length * chunksPer d ≤ p.chunk) && p.drains.isEmpty
  else if isCopy d then r.staged.isNone && (r.outs.head?.elim true fun o => decide (o.hdr.count ≤ r.copyAt))
  else true

end Sys2Proof.Machine
end

