-- ==== Sys2Proof/Machine/StreamOps.lean ====
section
/-! DEFINITION. What a stream engine does, by shared operations: the stream descriptor and its checks (R180 to R183), arms
taking effect and ending (R184 to R188, R219 to R221), tiles and their requests (R195 to R200, R242 to R250), tags (R201 to
R203), multicast (R212 to R216). -/

namespace Sys2Proof.Machine

open Sys2Proof

/-! ### Fields of the stream descriptor (R180) -/

def adKind (d : List Byte) : Nat := num d 0 1
def adRemote (d : List Byte) : Bool := flg d 1 7
def adAccum (d : List Byte) : Bool := flg d 1 6
def adVer (d : List Byte) : Bool := flg d 1 5
def adIxfault (d : List Byte) : Bool := flg d 1 4
def adRec (d : List Byte) : Bool := flg d 1 2
def adIdxBytes (d : List Byte) : Nat := if fld d 1 0 2 = 1 then 8 else 4
def adArmid (d : List Byte) : Nat := num d 2 2
def adSid (d : List Byte) : Nat := fld d 4 0 5
def adTagmax (d : List Byte) : Nat := num d 5 1
def adRate (d : List Byte) : Nat := num d 6 2
def adBuf (d : List Byte) : Nat := num d 8 6
def adFarLayout (d : List Byte) : Nat := num d 14 2
def adFar (d : List Byte) : Nat := num d 16 6
def adGroup (d : List Byte) : Nat := fld d 22 0 7
def adRdev (d : List Byte) : Nat := fld d 24 0 15
def adRwin (d : List Byte) : Nat := num d 26 1
def adSlot0 (d : List Byte) : Nat := num d 27 1
def adSlotBytes (d : List Byte) : Nat := 16 * num d 28 2
def adNslot (d : List Byte) : Nat := fld d 30 0 9
def adNtile (d : List Byte) : Nat := num d 32 4
def adStride (d : List Byte) : Nat := num d 36 4
def adIdx (d : List Byte) : Nat := num d 40 6
def adEpoch (d : List Byte) : Nat := num d 46 2
def adSwen (d : List Byte) : Bool := flg d 48 7
def adSwidx (d : List Byte) : Nat := fld d 48 0 6
def adScen (d : List Byte) : Bool := flg d 49 7
def adScidx (d : List Byte) : Nat := fld d 49 0 6
def adDsen (d : List Byte) : Bool := flg d 50 7
def adDsidx (d : List Byte) : Nat := fld d 50 0 6
def adCsen (d : List Byte) : Bool := flg d 51 7
def adCsidx (d : List Byte) : Nat := fld d 51 0 6
def adSwval (d : List Byte) : Word := BitVec.ofNat 32 (num d 52 4)
def adScbase (d : List Byte) : Word := BitVec.ofNat 32 (num d 56 4)
def adDscore (d : List Byte) : Nat := fld d 60 0 10
def adCscore (d : List Byte) : Nat := fld d 62 0 10

/-- STORE and SCATTER are outbound (R181). -/
def adOut (d : List Byte) : Bool := adKind d == 2 || adKind d == 4

/-- GATHER and SCATTER are driven by an index array. -/
def adIndexed (d : List Byte) : Bool := adKind d == 3 || adKind d == 4

/-- MCAST and MRECV name a group. -/
def adMcast (d : List Byte) : Bool := adKind d == 5 || adKind d == 6

def adRingBytes (d : List Byte) : Nat := adNslot d * adSlotBytes d

/-! ### Arm checks (R182, R183, R186, R241, R249, R311, R391) -/

/-- Check 1 of R183: reserved fields, reserved codes, the combinations of R182 and the ranges of R180 (log 52: DEDUCED). -/
def armShapeOk (d : List Byte) : Bool :=
  let k := adKind d
  let z (b : Bool) (fs : List (Nat × Nat × Nat)) : Bool := b || zeroFlds d fs
  zeroFlds d [(1, 3, 1), (4, 5, 3), (22, 7, 9), (24, 15, 1), (30, 9, 7), (48, 6, 1), (49, 6, 1), (50, 6, 1), (51, 6, 1), (60, 10, 6), (62, 10, 6)]
    && decide (1 ≤ k ∧ k ≤ 6) && decide (fld d 1 0 2 ≤ 1)
    && (!adRemote d || ((k == 1 || k == 2) && adFarLayout d == 0 && !adVer d && !adAccum d))
    && z (adRemote d) [(24, 0, 15), (26, 0, 8)]
    && (!adAccum d || k == 2 || k == 4)
    && (!adVer d || k == 1 || k == 3 || k == 5) && z (adVer d) [(46, 0, 16)]
    && z (adIndexed d) [(40, 0, 48), (1, 4, 1), (1, 0, 2)]
    && z (adMcast d) [(22, 0, 7)]
    && z (k != 6) [(16, 0, 48), (14, 0, 16), (36, 0, 32)]
    && (k == 6 || (adFar d % 16 == 0 && (if adFarLayout d = 0 then decide (16 ≤ adStride d) && adStride d % 16 == 0 else adStride d == 0)))
    && decide (1 ≤ adTagmax d ∧ adTagmax d ≤ 64) && decide (adRate d ≤ 4096) && decide (adSlot0 d < adNslot d)
    && decide (1 ≤ adSlotBytes d) && decide (1 ≤ adNslot d ∧ adNslot d ≤ 256) && decide (1 ≤ adNtile d ∧ adNtile d ≤ 2 ^ 24)
    && (adScen d || decide (adNtile d ≤ adNslot d))

/-- A segment may be read by an arm: working copies only under VER (R286). -/
def Segment.canRead (g : Segment) (ver : Bool) : Bool := g.rd || (ver && g.vers.isSome)

/-- The permission a far end needs (check 7 of R183, R241). -/
def farPerm (d : List Byte) (g : Segment) : Bool :=
  if adOut d then g.wr && (!adAccum d || g.rd) else g.canRead (adVer d)

/-- The first and last byte ranges whose ends check 7 looks at: the far region and, for a block format, the scale array. -/
def farEnds (c : Context) (d : List Byte) : List (Nat × Nat) :=
  if adFarLayout d = 0 then [(adFar d, adNtile d * adStride d)]
  else match c.layout? (adFarLayout d) with
    | none => []
    | some l =>
      let w := l.fmt.width
      let pitch := (l.lowDim 1).elim 0 (·.stride)
      let rows := (l.lowDim 1).elim 0 (·.size)
      let n := if l.rows then rows * pitch * w / 8 else l.ext w
      let b := l.block
      let sc := if b = 0 then [] else [(adFar d + l.soff, if l.rows then rows * pitch / b else ceilDiv (l.emax + 1) b)]
      (adFar d, n) :: sc

/-- Check 7 of R183 for a local far end. -/
def State.farCheck (s : State) (c : Context) (d : List Byte) : Option Status :=
  let lay := c.layout? (adFarLayout d)
  let layBad := adFarLayout d != 0 &&
    (match lay with
      | none => true
      | some l => !l.inboundOk || (if adIndexed d then !l.rows || (adIxfault d && decide (256 < l.rpt))
                  else l.rows || l.box.all (· == 0) || decide (l.boxes < adNtile d)))
  let ends := (farEnds c d).flatMap fun r => [r.1, r.1 + r.2 - 1]
  let segs := ends.map (segAt c.segs)
  let accBad := adAccum d && !(match lay with
    | some l => l.fmt == .fp32 || l.fmt == .bf16 || l.fmt == .fp16 || l.fmt == .sf16
    | none => (List.range (adNtile d)).all fun k =>
        match segAt c.segs (adFar d + k * adStride d) with
        | some p => let h := s.rdN (p.2.key (adFar d + k * adStride d)) 16
                    (hdrCheck (fun _ => true) h).isSome || decide (fld h 0 0 4 ≤ 3)
        | none => true)
  let verBad := adVer d && !(match segAt c.segs (adFar d) with
    | some p => (match p.2.vers with
      | some (st, gid) => (s.group? st gid).elim false fun g =>
          p.2.cbase == g.wcva && (farEnds c d).all fun r => decide (g.wcva ≤ r.1) && decide (r.1 + r.2 ≤ g.wcva + g.vsize)
      | none => false)
    | none => false)
  if (adIndexed d && adFarLayout d == 0) || layBad || segs.any Option.isNone || accBad || verBad then some .argRange
  else if segs.any fun p => p.elim true fun q => !farPerm d q.2 then some .denied
  else none

/-- The number of the first check of R183 that an arm fails, with its status (log 52: DEDUCED). -/
def State.armCheck (s : State) (core ctx : Nat) (c : Context) (d : List Byte) : Option (Nat × Status) :=
  let q := s.core core
  let h := ctxPart ctx
  let ring := segInIsle c.segs core (adBuf d) (adRingBytes d)
  let accStack := !adAccum d || c.segs.all fun p => !p.2.arch || !(farEnds c d).any (spansMeet (p.2.cbase, p.2.bytes))
  let grp := Tab.look s.chip.mcast (adGroup d)
  let idxN := match c.layout? (adFarLayout d) with
    | some l => adNtile d * l.rpt * adIdxBytes d
    | none => 0
  let ringOf (x : Nat) (a : Arm) : Option (Nat × Nat) := (s.ctx? x).bind fun cx =>
    (segInIsle cx.segs core (adBuf a.desc) (adRingBytes a.desc)).map fun p => (p.2.key (adBuf a.desc), adRingBytes a.desc)
  let others := (q.slots.filter fun p => p.1 != adSid d).flatMap fun p =>
    (p.2.cur.toList ++ p.2.shadow.toList).filterMap (ringOf p.2.ctx)
  if !armShapeOk d || !accStack then some (1, .argRange)
  else match q.slot? (adSid d) with
    | none => some (2, .state)
    | some sl =>
      if sl.ctx ≠ ctx then some (2, .denied)
      else if (adDsen d && !s.coreInPart h (adDscore d)) || (adCsen d && !s.coreInPart h (adCscore d)) || (adMcast d && !(match grp with
          | none => false
          | some g => g.ctx == ctx && (if adKind d = 5 then g.leader == core else g.leader != core && g.members.contains core))) then
        some (3, .argRange)
      else match ring with
        | none => some (4, .argRange)
        | some (_, g) =>
          let r := (g.key (adBuf d), adRingBytes d)
          if adBuf d % 16 ≠ 0 then some (4, .argRange)
          else if !(if adOut d then g.rd else g.wr) then some (5, .denied)
          else if others.any (spansMeet r) then some (6, .argRange)
          else
            let far := if adKind d = 6 then none
              else if adRemote d then (if s.chip.devid.isNone then some .argRange else none)
              else s.farCheck c d
            match far with
            | some st => some (7, st)
            | none =>
              if adIndexed d && (segOver c.segs (adIdx d) idxN).isNone then some (8, .argRange)
              else if adIndexed d && !((segOver c.segs (adIdx d) idxN).elim false fun p => p.2.rd) then some (8, .denied)
              else if sl.shadow.isSome then some (9, .state)
              else none

/-! ### Slots, waits, slack -/

def State.slot? (s : State) (core sid : Nat) : Option Slot := (s.core core).slot? sid
def State.setSlot (s : State) (core sid : Nat) (x : Slot) : State := s.modCore core fun q => q.setSlot sid x
/-- The current arm of a slot replaced. -/
def State.setArm (s : State) (core sid : Nat) (a : Arm) : State :=
  s.modCore core fun q => { q with slots := Tab.adjust q.slots sid fun x => { x with cur := some a } }

/-- The value of a counter. -/
def State.counterOf (s : State) (ctx core i : Nat) : Word := (s.ctx? ctx).elim 0#32 fun c => c.counter core i

/-- Tile `k` has its slot (R190, R191): a free one inbound, a filled one outbound. -/
def State.slotReady (s : State) (core ctx : Nat) (a : Arm) (k : Nat) : Bool :=
  !adScen a.desc || waitMet (s.counterOf ctx core (adScidx a.desc)) (adScbase a.desc + BitVec.ofNat 32 k)

/-- The consumers have freed the slot of tile `k`, as its next use would see (R190). -/
def State.slotFreed (s : State) (core ctx : Nat) (a : Arm) (k : Nat) : Bool :=
  adScen a.desc && s.slotReady core ctx a (k + adNslot a.desc)

/-- Tiles of an arm that are complete. -/
def Arm.complete (a : Arm) : Nat := a.sig + a.done.length

/-- Slack of a stream (R206): the tiles that the slot keeps of earlier arms count in the same ring. -/
def State.slack (s : State) (core ctx sid : Nat) (a : Arm) : Nat :=
  if adOut a.desc then
    let full := if adScen a.desc then
        ((List.range (adNslot a.desc)).filter fun i =>
          decide (a.sig + i < adNtile a.desc) && s.slotReady core ctx a (a.sig + i) && !a.done.contains (a.sig + i)).length
      else adNtile a.desc - a.complete
    (adNslot a.desc - full) * adSlotBytes a.desc
  else
    let kept := ((s.slot? core sid).map (·.kept)).getD []
    let old := sumNat ((kept.filter fun k => !k.timed || k.waits.any (·.1 == core)).map (·.bytes))
    let own := sumNat ((a.sizes.filter fun p => !s.slotFreed core ctx a p.1).map (·.2))
    a.slacks.foldl (fun m p => min m p.2) (old + own)

/-- Time to empty of a rated stream (R206); an aged background stream counts as 0 (R208). -/
def State.tte (s : State) (core ctx sid : Nat) (a : Arm) : Nat :=
  if adRate a.desc = 0 then 0 else min (s.slack core ctx sid a * 64 / adRate a.desc) (2 ^ 24 - 1)

/-! ### Arms end (R187, R188, R219 to R221, R291) -/

/-- One increment of a counter sent on its way (R120). -/
def State.sendSig (s : State) (ctx core idx inc : Nat) : State :=
  { s with chip.sigs := s.chip.sigs ++ [{ ctx := ctx, core := core, idx := idx, inc := inc }] }

/-- The outstanding-tile count of a version slot lowered (R291). -/
def State.lowerVer (s : State) (v : Option (Nat × Nat × Nat)) (n : Nat) : State :=
  match v with
  | some (st, gid, v) => s.modGroup st gid fun g => g.setSlot v { g.slot v with count := (g.slot v).count - n }
  | none => s

/-- The version slot whose count an arm's tiles raise. -/
def Arm.ver (a : Arm) : Option (Nat × Nat × Nat) := match a.vgrp, a.vslot with
  | some (st, gid), some v => some (st, gid, v)
  | _, _ => none

def State.lowerCount (s : State) (a : Arm) (n : Nat) : State := s.lowerVer a.ver n

/-- Tags that meet a condition abandoned (R203) (log 42: DEDUCED). -/
def State.abandon (s : State) (core : Nat) (p : Nat → Outst → Bool) : State :=
  s.modCore core fun q => { q with tags := q.tags.map fun t => match t.2.req with
    | some o => if p t.1 o then (t.1, { gen := (t.2.gen + 1) % 1024, req := none, quarantine := true }) else t
    | none => t }

/-- The record of an arm that ends. -/
def State.armRecord (s : State) (core sid ctx : Nat) (a : Arm) (st : Status) (detail : Nat) : State :=
  if st == .ok && !adRec a.desc then s
  else s.post ctx (streamRecord (adArmid a.desc) st core detail a.complete sid ctx) a.origin

/-- The slot of a core whose current arm is of a multicast group. -/
def State.mcastSlot (s : State) (core ctx group : Nat) : Option (Nat × Arm) :=
  (s.core core).slots.findSome? fun p => match p.2.cur with
    | some a => if p.2.ctx == ctx && adMcast a.desc && adGroup a.desc == group then some (p.1, a) else none
    | none => none

/-- The other members of the group that an MCAST arm names. -/
def State.others (s : State) (core : Nat) (a : Arm) : List Nat :=
  if adKind a.desc = 5 then ((Tab.look s.chip.mcast (adGroup a.desc)).elim [] fun g => g.members.filter (· != core)) else []

/-- The counter value that frees the slot of tile `k`, where the slot counter does (R190). -/
def Arm.freeWait (a : Arm) (core k : Nat) : Option (Nat × Nat × Word) :=
  if adScen a.desc then some (core, adScidx a.desc, adScbase a.desc + BitVec.ofNat 32 (k + adNslot a.desc)) else none

/-- The ring of an arm covers the bytes of another's (R187). -/
def ringCovers (big small : List Byte) : Bool :=
  decide (adBuf big ≤ adBuf small) && decide (adBuf small + adRingBytes small ≤ adBuf big + adRingBytes big)

/-- The tiles of an arm that completes whose slots are not yet freed: what the ring holds on for (R187, R206, R291). -/
def State.keptTiles (s : State) (core ctx : Nat) (a : Arm) : List KeptTile :=
  if adOut a.desc then []
  else
    let ms := (s.others core a).filterMap fun m => (s.mcastSlot m ctx (adGroup a.desc)).map fun p => (m, p.2)
    (List.range (adNtile a.desc)).filterMap fun k =>
      let ws := (((core, a) :: ms).filterMap fun p => p.2.freeWait p.1 k).filter fun w => !waitMet (s.counterOf ctx w.1 w.2.1) w.2.2
      if adScen a.desc && ws.isEmpty then none
      else some { waits := ws, timed := adScen a.desc, bytes := Tab.get a.sizes 0 k, ver := a.ver
                  group := if adKind a.desc = 5 then some (adGroup a.desc) else none }

/-- Kept tiles let go: their version slots' counts fall (R291). -/
def State.letGo (s : State) (ks : List KeptTile) : State := ks.foldl (fun a k => a.lowerVer k.ver 1) s

/-- A member's ring is released: no kept tile of its leader waits for it any more (R291). -/
def State.memberFreed (s : State) (core ctx group : Nat) : State :=
  match (Tab.look s.chip.mcast group).bind fun g => (s.mcastSlot g.leader ctx group).map fun p => (g.leader, p.1) with
  | none => s
  | some (l, sid) => s.modCore l fun q => { q with slots := Tab.adjust q.slots sid fun x => { x with
      kept := x.kept.map fun k => if k.group = some group then { k with waits := k.waits.filter (·.1 != core) } else k } }

/-- The current arm of a slot ends. With OK: completion signal, ring released unless the shadow arm's ring covers its bytes, the
shadow arm becomes current (R187). Otherwise the shadow arm ends with ABORTED and, unless the end is `quiet`, the context enters
error stop (R221) (log 44: DEDUCED; log 149: DEDUCED). -/
def State.endArm (s : State) (core sid : Nat) (st : Status) (detail : Nat) (quiet : Bool) : State :=
  match s.slot? core sid with
  | none => s
  | some sl =>
    match sl.cur with
    | none => s
    | some a =>
      let covered := st == .ok && sl.shadow.elim false fun b => ringCovers b.desc a.desc
      let new := if covered then s.keptTiles core sl.ctx a else []
      let s0 := if covered then s.lowerCount a (a.opened - a.freed - new.length)
        else ((s.lowerCount a (a.opened - a.freed)).letGo sl.kept)
      let s0 := if !covered && adKind a.desc == 6 then s0.memberFreed core sl.ctx (adGroup a.desc) else s0
      let s1 := s0.armRecord core sid sl.ctx a st detail
      let sl1 := { sl with kept := if covered then sl.kept ++ new else [] }
      if st = .ok then
        let s2 := if adCsen a.desc then s1.sendSig sl.ctx (adCscore a.desc) (adCsidx a.desc) 1 else s1
        let s3 := (s2.others core a).foldl (fun x m => match x.mcastSlot m sl.ctx (adGroup a.desc) with
          | some p => x.setArm m p.1 { p.2 with led := true }
          | none => x) s2
        s3.setSlot core sid { sl1 with cur := sl.shadow, shadow := none }
      else
        let s2 := match sl.shadow with
          | some b => s1.armRecord core sid sl.ctx b .aborted 23
          | none => s1
        let s3 := s2.setSlot core sid { sl1 with cur := none, shadow := none }
        if quiet then s3 else s3.errorStop sl.ctx

/-! ### Failures of arms (R58, R216, R221) -/

/-- The pending header of a multicast tile that was on its way to a member whose arm ends (R216). -/
def State.landHead (s : State) (ctx : Nat) (t : McastTile) : State :=
  match s.mcastSlot t.member ctx t.group with
  | none => s
  | some p =>
    let key := adBuf p.2.desc + (adSlot0 p.2.desc + t.tile) % adNslot p.2.desc * adSlotBytes p.2.desc
    match segAt p.2.segs key with
    | none => s
    | some g => (s.isleWrite t.member (g.2.key key) (slice t.bytes 0 16)).1

/-- The arms of a multicast transfer end with the same status and detail (R213, R216): the leader's and those paired with it, or,
where the leader's has ended before, those that were paired with it. Tiles in progress leave their pending headers. -/
def State.mcastFail (s : State) (ctx group : Nat) (led : Bool) (st : Status) (detail : Nat) : State :=
  match Tab.look s.chip.mcast group with
  | none => s
  | some g =>
    let ms := g.members.filter fun m => (s.mcastSlot m ctx group).elim false fun p => p.2.led == led
    let mine (m : Nat) : Bool := ms.contains m
    let s0 := (s.chip.mtiles.filter fun t => t.group == group && mine t.member && t.head).foldl (fun a t => a.landHead ctx t) s
    let s1 := ms.foldl (fun a m => match a.mcastSlot m ctx group with
      | some p => a.endArm m p.1 st detail false
      | none => a) s0
    { s1 with chip.mtiles := s1.chip.mtiles.filter fun t => !(t.group == group && mine t.member)
              chip.credits := s1.chip.credits.filter fun t => !(t.group == group && mine t.member) }

/-- An arm fails: with its whole transfer when it is a multicast arm. -/
def State.failArm (s : State) (core sid : Nat) (st : Status) (detail : Nat) : State :=
  match s.slot? core sid with
  | none => s
  | some sl =>
    match sl.cur with
    | none => s
    | some a => if adMcast a.desc then s.mcastFail sl.ctx (adGroup a.desc) a.led st detail else s.endArm core sid st detail false

/-- The tile-header fault of a stream engine (R58, R626). -/
def State.headerFault (s : State) (core ctx n cva : Nat) : State :=
  s.raise { src := 0x10, unit := core, ctx := some ctx, detail := n, info := cva }

/-! ### Arms take effect (R185, R221, R267, R302) -/

/-- CVA ranges an arm may touch (R217): ring, index array, far region. -/
def armRanges (c : Context) (d : List Byte) : List (Nat × Nat) :=
  [(adBuf d, adRingBytes d)]
    ++ (if adIndexed d then [(adIdx d, ((c.layout? (adFarLayout d)).map fun l => adNtile d * l.rpt * adIdxBytes d).getD 0)] else [])
    ++ (if adKind d = 6 || adRemote d then [] else farEnds c d)

/-- Segments an arm holds. -/
def armHolds (c : Context) (d : List Byte) : List Nat :=
  (c.segs.filter fun p => (armRanges c d).any fun r => spansMeet r (p.2.cbase, p.2.bytes)).map (·.1)

/-- The current arm of a slot takes effect where nothing holds it back: no error stop, no migration of a segment it would
latch, no lock on gradient tiles it may touch. -/
def State.tryEffect (s : State) (core sid : Nat) : State :=
  match s.slot? core sid with
  | none => s
  | some sl =>
    match sl.cur, s.ctx? sl.ctx with
    | some a, some c =>
      let holds := armHolds c a.desc
      if a.effect || c.estop || c.st == .dead || holds.any (fun i => (Tab.look c.segs i).elim false (·.mig))
          || (armRanges c a.desc).any (fun r => rangeMeets c.segs s.gradLocks r.1 r.2) then s
      else
        let vg := if adVer a.desc then (segAt c.segs (adFar a.desc)).bind fun p => p.2.vers else none
        let gone := if adScen a.desc then [] else sl.kept
        ((s.letGo gone).modCore core fun q => { q with aseqs := Tab.put q.aseqs sid ((Tab.get q.aseqs 0 sid + 1) % 256) }).setSlot core sid { sl with
          kept := if adScen a.desc then sl.kept else []
          cur := some { a with effect := true, segs := c.segs, holds := holds, resolving := adVer a.desc, vgrp := vg, oobr := 0, oobw := 0 } }
    | _, _ => s

/-- An accepted arm becomes current, or the shadow (R184). -/
def State.takeArm (s : State) (core ctx : Nat) (d : List Byte) (origin : Option (Nat × Nat)) : State :=
  match s.slot? core (adSid d), s.ctx? ctx with
  | some sl, some c =>
    let a : Arm := { desc := d, seq := c.armSeq, origin := origin }
    let s1 := s.setCtx ctx { c with armSeq := c.armSeq + 1 }
    s1.setSlot core (adSid d) (if sl.cur.isNone then { sl with cur := some a } else { sl with shadow := some a })
  | _, _ => s

/-- Tiles `from` on whose slots the consumers have freed, up to `n` of them. -/
def State.freedRun (s : State) (core ctx : Nat) (a : Arm) : Nat → Nat → Nat
  | k, 0 => k
  | k, n + 1 => if s.slotFreed core ctx a k then s.freedRun core ctx a (k + 1) n else k

/-- For MCAST a tile's slot is freed once every member has freed it (R291). -/
def State.freedTo (s : State) (core ctx : Nat) (a : Arm) : Nat :=
  let own := s.freedRun core ctx a a.freed (a.opened - a.freed)
  (s.others core a).foldl (fun m x => match s.mcastSlot x ctx (adGroup a.desc) with
    | some p => if p.2.led then m else min m (s.freedRun x ctx p.2 a.freed (a.opened - a.freed))
    | none => m) own

/-- Credit flits of a member for the slots that are free (R214). -/
def State.sendCredits (s : State) (core sid ctx : Nat) : Nat → Arm → State
  | 0, a => s.setArm core sid a
  | n + 1, a =>
    if a.credited < adNtile a.desc && s.slotReady core ctx a a.credited then
      let fl : McastCredit := { group := adGroup a.desc, member := core, tile := a.credited, slack := s.slack core ctx sid a }
      let s1 : State := { s with chip.credits := s.chip.credits ++ [fl] }
      s1.sendCredits core sid ctx n { a with credited := a.credited + 1 }
    else s.setArm core sid a

/-- Kept tiles of a slot whose counters have been reached let go. -/
def State.pokeKept (s : State) (core sid : Nat) : State :=
  match s.slot? core sid with
  | none => s
  | some sl =>
    if sl.kept.isEmpty then s
    else
      let ks := sl.kept.map fun k => { k with waits := k.waits.filter fun w => !waitMet (s.counterOf sl.ctx w.1 w.2.1) w.2.2 }
      let met (k : KeptTile) : Bool := k.timed && k.waits.isEmpty
      (s.letGo (ks.filter met)).setSlot core sid { sl with kept := ks.filter fun k => !met k }

/-- What a slot's current arm does at once when the state around it has changed: it takes effect, its start wait is
satisfied, it returns version counts, it sends credits. A member sends no credit before its arm has started (log 150: DESIGN CHOICE). -/
def State.pokeSlot (s0 : State) (core sid : Nat) : State :=
  let s := (s0.tryEffect core sid).pokeKept core sid
  match s.slot? core sid with
  | none => s
  | some sl =>
    match sl.cur with
    | none => s
    | some a =>
      if !a.effect then s
      else
        let a1 := { a with started := a.started || !adSwen a.desc || waitMet (s.counterOf sl.ctx core (adSwidx a.desc)) (adSwval a.desc) }
        let upTo := if a1.vslot.isSome then s.freedTo core sl.ctx a1 else a1.freed
        let s1 := s.lowerCount a1 (upTo - a1.freed)
        let a2 := { a1 with freed := upTo }
        if adKind a.desc = 6 && a2.started then s1.sendCredits core sid sl.ctx (adNtile a.desc - a2.credited) a2
        else s1.setArm core sid a2

/-- Every slot looked at. -/
def State.pokeAll (s : State) : State :=
  s.chip.cores.foldl (fun a p => p.2.slots.foldl (fun a q => a.pokeSlot p.1 q.1) a) s

/-! ### Addresses (R200, R242) -/

/-- What the latched translations make of one far byte. -/
inductive Xlate where
  | key (k : Nat) (comp : Bool)
  | unmapped
  | noPerm
  deriving DecidableEq, Repr

def Arm.xlate (a : Arm) (cva : Nat) : Xlate :=
  match segAt a.segs cva with
  | none => .unmapped
  | some p => if farPerm a.desc p.2 then .key (p.2.key cva) p.2.comp else .noPerm

/-- The key of a far byte; meaningful once the range has been judged. -/
def Arm.keyOf (a : Arm) (cva : Nat) : Nat := match a.xlate cva with | .key k _ => k | _ => 0

/-- The parts of a range that lie in one 1 KiB each. -/
def kibs (cva n : Nat) : List (Nat × Nat) :=
  (List.range ((cva % 1024 + n + 1023) / 1024)).map fun i =>
    let lo := max cva ((cva / 1024 + i) * 1024)
    (lo, min (cva + n) ((cva / 1024 + i + 1) * 1024) - lo)

/-- How a range fails R242 as a unit: ARG_RANGE for an untranslated byte, DENIED for a missing permission. -/
def Arm.judge (a : Arm) (cva n : Nat) : Option Status :=
  let xs := (kibs cva n).map fun p => a.xlate p.1
  if xs.any (· == .unmapped) then some .argRange else if xs.any (· == .noPerm) then some .denied else none

/-- FAR of an arm, within its resolved version slot (R290). -/
def Arm.farBase (a : Arm) : Nat := adFar a.desc + a.voff

/-- Key of the slot of tile `k` (R189). -/
def Arm.slotKey (a : Arm) (k : Nat) : Nat :=
  let cva := adBuf a.desc + (adSlot0 a.desc + k) % adNslot a.desc * adSlotBytes a.desc
  ((segAt a.segs cva).map fun p => p.2.key cva).getD 0

/-- A request for one part of a far run. `tile` is the offset in the tile. -/
def Arm.mkReq (a : Arm) (kind : ReqKind) (cva n : Nat) (pieces : List (Nat × Nat × Nat)) : Req :=
  if adRemote a.desc then { kind := kind, far := cva, len := n, pieces := pieces }
  else match a.xlate cva with
    | .key k cp => { kind := kind, far := k, dpa := cva, len := n, pieces := pieces, comp := cp }
    | _ => { kind := kind, far := 0, len := n, pieces := pieces }

/-- Runs of consecutive far bytes, each within one 1 KiB, from pieces (far, tile offset, bytes) in visit order. -/
def joinRuns (ps : List (Nat × Nat × Nat)) : List (Nat × Nat × List (Nat × Nat × Nat)) :=
  (ps.foldl (fun (rs : List (Nat × Nat × List (Nat × Nat × Nat))) p => match rs with
    | (c, n, q) :: t =>
      if c + n = p.1 && c / 1024 == p.1 / 1024 then (c, n + p.2.2, q ++ [(n, p.2.2, p.2.1)]) :: t
      else (p.1, p.2.2, [(0, p.2.2, p.2.1)]) :: rs
    | [] => [(p.1, p.2.2, [(0, p.2.2, p.2.1)])]) []).reverse

/-- Pieces cut at 1 KiB boundaries of the far address. -/
def cutPieces (ps : List (Nat × Nat × Nat)) : List (Nat × Nat × Nat) :=
  ps.flatMap fun p => (kibs p.1 p.2.2).map fun q => (q.1, p.2.1 + (q.1 - p.1), q.2)

/-- The requests for units of a far tensor: element bytes in visit order, then scale bytes. `base` is the far base. -/
def Arm.unitReqs (a : Arm) (base : Nat) (us : List Unit) : List Req :=
  let el := us.filterMap fun u => u.far.map fun f => (base + f, u.tile, u.n)
  let sc := us.filterMap fun u => match u.sfar, u.stile with
    | some f, some t => some (base + f, t, 1)
    | _, _ => none
  ((joinRuns (cutPieces el)) ++ (joinRuns (cutPieces sc))).map fun r => a.mkReq .data r.1 r.2.1 r.2.2

/-- A unit is in bounds: its bytes and its scale byte (R242). -/
def Arm.unitOk (a : Arm) (base : Nat) (u : Unit) : Bool :=
  match u.far with
  | none => false
  | some f => (a.judge (base + f) u.n).isNone && (u.sfar.elim true fun g => (a.judge (base + g) 1).isNone)

/-! ### Opening tiles (R195 to R197, R242 to R249, R311) -/

/-- What opening a tile answers: the new state, the tile, or how the arm ends (with its fault already raised). -/
structure Opened where
  s : State
  tile : TileX := {}
  fail : Option (Status × Nat) := none

/-- Bytes written into a ring slot; the answer says whether a partial write was dropped (R163) (log 49: DEDUCED). -/
def State.ringWrite (s : State) (core : Nat) (key off : Nat) (bs : List Byte) : State × Bool := s.isleWrite core (key + off) bs

/-- Pieces (offset in the slot, bytes) written into a ring slot; the answer says whether one dropped bytes (R163). -/
def State.writePieces (s : State) (core key : Nat) (ps : List (Nat × List Byte)) : State × Bool :=
  ps.foldl (fun (a : State × Bool) p => let x := a.1.ringWrite core key p.1 p.2; (x.1, a.2 || x.2)) (s, false)

/-- Pieces laid over the bytes of a tile. -/
def overlayAll (img : List Byte) (ps : List (Nat × List Byte)) : List Byte := ps.foldl (fun b p => overlay b p.1 p.2) img

/-- Fill of a tile built from a tensor: out-of-bounds and edge units (R242, R244). -/
def fillPieces (l : Layout) (us : List Unit) : List (Nat × List Byte) :=
  us.flatMap fun u => (16 + u.tile, l.fillUnit) :: (u.stile.toList.map fun t => (16 + t, leBytes 1 0x7F))

/-- Padding bytes of a tile (R55). -/
def padPieces (h : Hdr) : List (Nat × List Byte) :=
  let used := ceilDiv (h.fmt.stored h.noblk h.count * h.fmt.width) 8
  let units := 16 * h.fmt.elemUnits h.noblk h.count
  let blocks := h.fmt.blocks h.noblk h.count
  [(16 + used, leBytes (units - used) 0), (16 + units + blocks, leBytes (16 * h.plen - units - blocks) 0)]

/-- The headers of a tile set out for the other members of a group, ahead of it (R215, R216). -/
def State.sendHeads (s : State) (core : Nat) (a : Arm) (k : Nat) (h : List Byte) : State :=
  let new := (s.others core a).map fun m => ({ group := adGroup a.desc, member := m, tile := k, bytes := h, head := true } : McastTile)
  { s with chip.mtiles := s.chip.mtiles ++ new }

/-- An inbound tile opened. -/
def State.openIn (s : State) (core ctx : Nat) (c : Context) (a : Arm) (k : Nat) : Opened :=
  let d := a.desc
  if adFarLayout d = 0 then
    let start := a.farBase + k * adStride d
    let n := min (1024 - start % 1024) (adStride d)
    match if adRemote d then none else a.judge start n with
    | some st => { s := s, fail := some (st, 24) }
    | none => { s := s, tile := { reqs := [a.mkReq .head start n [(0, n, 0)]] } }
  else match c.layout? (adFarLayout d) with
    | none => { s := s, fail := some (.state, 0) }
    | some l =>
      let h := l.header ctx (if adVer d then adEpoch d else 0)
      let key := a.slotKey k
      if adSlotBytes d < h.total then { s := s, fail := some (.argRange, 16) }
      else
        let us := if l.rows then [] else l.boxUnits k
        let good := us.filter (a.unitOk a.farBase)
        let fills := us.filter fun u => !a.unitOk a.farBase u
        let lost := sumNat ((fills.filter fun u => u.far.isSome).map (·.elems))
        let ps := (0, h.pendingBytes) :: padPieces h ++ fillPieces l fills
        let w := s.writePieces core key ps
        if w.2 then { s := w.1, fail := some (.integrity, 17) }
        else
          let s1 := (w.1.sendHeads core a k h.bytes).setArm core (adSid d) { a with oobr := satAdd 32 a.oobr lost }
          { s := s1, tile := { hdr := h.bytes, img := overlayAll (List.replicate h.total 0) ps
                               reqs := if l.rows then [] else a.unitReqs a.farBase good, last := !l.rows } }

/-- Elements of an ACCUM request as blocks of the far format (R312). `ps` are pieces (far CVA, offset in the far tile's
element region, bytes); `sc` gives a block's scale address; the first `count` elements have an incoming value. -/
def Arm.accBlocks (a : Arm) (f : Fmt) (stored count : Nat) (sc : Nat → Option Nat) (ps : List (Nat × Nat × Nat)) : List AccBlock :=
  let w := f.width / 8
  ps.flatMap fun p =>
    let e0 := p.2.1 / w
    let es := (List.range (p.2.2 / w)).map (e0 + ·)
    if f.block = 0 then
      [{ keys := es.map fun e => a.keyOf (p.1 + (e - e0) * w), scale := none, adds := ((List.range es.length).zip es).filter fun x => decide (x.2 < count) }]
    else
      ((es.map (· / f.block)).eraseDups).map fun b =>
        let lo := b * f.block
        let n := min f.block (stored - lo)
        { keys := (List.range n).map fun i => a.keyOf (p.1 + (lo + i) * w - e0 * w)
          scale := (sc b).map a.keyOf
          adds := ((es.filter fun e => e / f.block == b && decide (e < count)).map fun e => (e - lo, e)) }

/-- The bytes of its slot that an incoming tile's elements from `e` on lie in, with their scale bytes: pieces as a request
names them. -/
def piecesOf (h : Hdr) (e n : Nat) : List (Nat × Nat × Nat) :=
  let w := h.fmt.width
  let b := h.fmt.blockOf h.noblk
  let m := min n (h.count - e)
  if m = 0 then []
  else
    let lo := e * w / 8
    (0, ceilDiv ((e + m) * w) 8 - lo, 16 + lo) ::
      (if b = 0 then [] else [(0, (e + m - 1) / b + 1 - e / b, 16 + 16 * h.fmt.elemUnits h.noblk h.count + e / b)])

/-- An ACCUM request for one run of far bytes: `h` is the incoming tile's header. -/
def Arm.accReq (a : Arm) (f : Fmt) (base stored : Nat) (h : Hdr) (sc : Nat → Option Nat) (r : Nat × Nat × List (Nat × Nat × Nat)) : Req :=
  let ps := r.2.2.map fun p => (r.1 + p.1, p.2.2, p.2.1)
  let w := f.width / 8
  { a.mkReq .accum r.1 r.2.1 (ps.flatMap fun p => piecesOf h (p.2.1 / w) (p.2.2 / w)) with
    acc := some { aseq := 0, num := 0, layer := h.layer, fmt := f, base := base, blocks := a.accBlocks f stored h.count sc ps } }

/-- ACCUM requests numbered on from `n` (R314): the number follows the tile's place in the arm, so a tile that is issued again under
R226 carries the same numbers (log 151: DEDUCED). -/
def numberReqs (n : Nat) (rs : List Req) : List Req :=
  (rs.foldl (fun (x : Nat × List Req) r => match r.acc with
    | some c => (x.1 + 1, x.2 ++ [{ r with acc := some { c with num := x.1 } }])
    | none => (x.1, x.2 ++ [r])) (n, [])).2

/-- The requests that add a tile's elements into a tensor, for the units in bounds. -/
def Arm.accUnits (a : Arm) (l : Layout) (h : Hdr) (good : List Unit) : List Req :=
  let scaleAt (b : Nat) : Option Nat := (good.find? fun u => u.stile == some (16 * l.fmt.elemUnits l.noblk l.tileCount + b)).bind fun u =>
    u.sfar.map (a.farBase + ·)
  (joinRuns (cutPieces (good.filterMap fun u => u.far.map fun f => (a.farBase + f, u.tile, u.n)))).map
    (a.accReq l.fmt l.scale (l.fmt.stored l.noblk l.tileCount) h scaleAt)

/-- The requests of an outbound tile for units in bounds: stores, or adds. -/
def Arm.outUnits (a : Arm) (l : Layout) (h : Hdr) (good : List Unit) : List Req :=
  if adAccum a.desc then a.accUnits l h good
  else (a.unitReqs a.farBase good).map fun r => { r with pieces := r.pieces.map fun p => (p.1, p.2.1, p.2.2 + 16) }

/-- CVA of the slot of tile `k` (R189). -/
def Arm.slotCva (a : Arm) (k : Nat) : Nat := adBuf a.desc + (adSlot0 a.desc + k) % adNslot a.desc * adSlotBytes a.desc

/-- The header of an outbound tile in its slot: validated under R57, or how the arm ends. -/
def State.outHeader (s : State) (core ctx : Nat) (a : Arm) (k : Nat) : State × (Hdr ⊕ (Status × Nat)) :=
  let key := a.slotKey k
  let rd := s.isleRead core key 16
  if rd.2 then (rd.1, .inr (.integrity, 17))
  else match hdrCheck (s.ctxOk (ctxPart ctx)) (s.rdN key 16) with
    | some n => (rd.1.headerFault core ctx n (a.slotCva k), .inr (.integrity, n))
    | none => (rd.1, .inl (Hdr.parse (s.rdN key 16)))

/-- An outbound tile opened. A whole tile's payload follows its pending header; under ACCUM it follows the NMU's answer to that
header, which brings the far header (R311). -/
def State.openOut (s : State) (core ctx : Nat) (c : Context) (a : Arm) (k : Nat) : Opened :=
  let d := a.desc
  let x := s.outHeader core ctx a k
  match x.2 with
  | .inr f => { s := x.1, fail := some f }
  | .inl h =>
    let s1 := x.1
    if adSlotBytes d < h.total then { s := s1, fail := some (.argRange, 16) }
    else if adFarLayout d = 0 then
      let start := a.farBase + k * adStride d
      let first := if adAccum d then 16 else h.total
      if adStride d < h.total then { s := s1, fail := some (.argRange, 16) }
      else match if adRemote d then none else a.judge start first with
        | some st => { s := s1, fail := some (st, 24) }
        | none =>
          if adAccum d then
            let head : Req := { a.mkReq .pendHead start 16 [] with
              acc := some { aseq := 0, num := 0, layer := h.layer, fmt := h.fmt, base := h.scale, head := some (false, h.count, start) } }
            { s := s1, tile := { hdr := h.bytes, reqs := [head] } }
          else
            let body := (kibs (start + 16) (16 * h.plen)).map fun p => a.mkReq .data p.1 p.2 [(0, p.2, p.1 - start)]
            { s := s1, tile := { hdr := h.bytes, reqs := a.mkReq .pendHead start 16 [] :: body } }
    else match c.layout? (adFarLayout d) with
      | none => { s := s1, fail := some (.state, 0) }
      | some l =>
        if h.fmt != l.fmt || h.noblk != l.noblk || h.scale != l.scale then
          { s := s1.headerFault core ctx 2 (a.slotCva k), fail := some (.integrity, 2) }
        else if h.count != l.tileCount then { s := s1.headerFault core ctx 5 (a.slotCva k), fail := some (.integrity, 5) }
        else if l.rows then { s := s1, tile := { hdr := h.bytes } }
        else
          let us := (l.boxUnits k).filter fun u => u.far.isSome
          let good := us.filter (a.unitOk a.farBase)
          let lost := sumNat ((us.filter fun u => !a.unitOk a.farBase u).map (·.elems))
          let reqs := numberReqs a.accNo (a.outUnits l h good)
          let a1 := { a with oobw := satAdd 32 a.oobw lost, accNo := if adAccum d then a.accNo + reqs.length else a.accNo }
          { s := s1.setArm core (adSid d) a1, tile := { hdr := h.bytes, reqs := reqs, last := true } }

/-- One row of an index-driven tile formed from index value `v` (R248, R249); the answer says whether a fill dropped bytes
(log 48: DEDUCED). -/
def State.openRow (s : State) (core : Nat) (a : Arm) (k : Nat) (t : TileX) (l : Layout) (v : Int) : (State × Bool) × Arm × TileX :=
  let rows := (l.lowDim 1).elim 0 (·.size)
  let r := t.rows
  let h := Hdr.parse t.hdr
  let t1 := { t with rows := r + 1, last := decide (r + 1 = l.rpt) }
  let len := (l.lowDim 0).elim 0 (·.size)
  let out := decide (v < 0) || decide ((rows : Int) ≤ v)
  let us := l.rowUnits r (if out then none else some v.toNat)
  let good := if out then [] else us.filter (a.unitOk a.farBase)
  let bad := if out then us else us.filter fun u => !a.unitOk a.farBase u
  let lost := if out then len else sumNat (bad.map (·.elems))
  if adOut a.desc then
    let reqs := numberReqs a.accNo (a.outUnits l h good)
    ((s, false), { a with oobw := satAdd 32 a.oobw lost, accNo := if adAccum a.desc then a.accNo + reqs.length else a.accNo },
      { t1 with reqs := t1.reqs ++ reqs })
  else
    let ps := fillPieces l bad
    (s.writePieces core (a.slotKey k) ps, { a with oobr := satAdd 32 a.oobr lost },
      { t1 with img := overlayAll t1.img ps, reqs := t1.reqs ++ a.unitReqs a.farBase good })

/-! ### Tiles complete (R187, R192) -/

/-- Per-tile signals performed in tile order. -/
def State.sigRun (s : State) (ctx : Nat) : Nat → Arm → State × Arm
  | 0, a => (s, a)
  | n + 1, a =>
    if a.done.contains a.sig then
      let s1 := if adDsen a.desc then s.sendSig ctx (adDscore a.desc) (adDsidx a.desc) 1 else s
      s1.sigRun ctx n { a with done := a.done.erase a.sig, sig := a.sig + 1 }
    else (s, a)

/-- Tile `k` of `bytes` bytes is complete; the arm completes with its last one. -/
def State.tileDone (s : State) (core sid ctx : Nat) (a : Arm) (k bytes : Nat) : State :=
  let a1 := { a with tiles := Tab.erase a.tiles k, done := a.done ++ [k]
                     sizes := if adOut a.desc then a.sizes else Tab.put a.sizes k bytes }
  let x := s.sigRun ctx a1.done.length a1
  let a2 := { x.2 with sizes := x.2.sizes.filter fun p => !s.slotFreed core ctx a p.1 }
  let s2 := x.1.setArm core sid a2
  if a2.sig = adNtile a.desc then s2.endArm core sid .ok 0 false else s2

/-- An inbound tile whose bytes are all there: its final header; for MCAST the tile leaves for every other member (R215). -/
def State.finishIn (s : State) (core sid ctx : Nat) (a : Arm) (k : Nat) (t : TileX) : State :=
  let h := Hdr.parse t.hdr
  let w := s.ringWrite core (a.slotKey k) 0 t.hdr
  if w.2 then w.1.failArm core sid .integrity 17
  else
    let new := (w.1.others core a).map fun m =>
      ({ group := adGroup a.desc, member := m, tile := k, bytes := overlay (slice t.img 0 h.total) 0 t.hdr } : McastTile)
    ({ w.1 with chip.mtiles := w.1.chip.mtiles ++ new } : State).tileDone core sid ctx a k h.total

/-- A tile with no request left and none outstanding goes on: an outbound tile to its final header, then to its end. -/
def State.tileStep (s : State) (core sid ctx : Nat) (a : Arm) (k : Nat) (t : TileX) : State :=
  if !t.reqs.isEmpty || t.live != 0 then s.setArm core sid { a with tiles := Tab.put a.tiles k t }
  else if adOut a.desc then
    if t.last then s.tileDone core sid ctx a k 0
    else if adFarLayout a.desc ≠ 0 then s.setArm core sid { a with tiles := Tab.put a.tiles k t }
    else
      let start := a.farBase + k * adStride a.desc
      let r0 := a.mkReq .lastHead start 16 []
      let h := Hdr.parse t.hdr
      let fh := Hdr.parse t.far
      let ac : AccReq := { aseq := 0, num := 0, layer := h.layer, fmt := fh.fmt, base := fh.scale, head := some (true, h.count, start) }
      let r := if adAccum a.desc then { r0 with acc := some ac } else r0
      s.setArm core sid { a with tiles := Tab.put a.tiles k { t with reqs := [r], last := true } }
  else if t.last then s.finishIn core sid ctx a k t
  else s.setArm core sid { a with tiles := Tab.put a.tiles k t }

/-- The NMU has made the far header of a whole ACCUM tile pending and returned it: the far tile must lie in its region, and the
requests that add are formed (R195, R217, R311) (log 151: DEDUCED). -/
def State.accBody (s : State) (core sid ctx : Nat) (a : Arm) (k : Nat) (t : TileX) (fh : List Byte) : State :=
  let start := a.farBase + k * adStride a.desc
  let f := Hdr.parse fh
  let h := Hdr.parse t.hdr
  if adStride a.desc < f.total then s.failArm core sid .argRange 16
  else match a.judge start f.total with
    | some st => s.failArm core sid st 24
    | none =>
      let stored := f.fmt.stored f.noblk f.count
      let reqs := numberReqs a.accNo ((kibs (start + 16) (stored * f.fmt.width / 8)).map fun p =>
        a.accReq f.fmt f.scale stored h (fun b => some (start + 16 + 16 * f.fmt.elemUnits f.noblk f.count + b)) (p.1, p.2, [(0, p.2, p.1 - (start + 16))]))
      s.tileStep core sid ctx { a with accNo := a.accNo + reqs.length } k { t with far := fh, reqs := reqs }

/-! ### The next request (R205, R210, R211) -/

/-- What a slot would do next: the state after opening what it must, and the request with its tile. `moved`: it went on
without a request (a tile of fill alone, or an end of the arm). -/
structure Prep where
  s : State
  req : Option (Nat × Req) := none
  moved : Bool := false

/-- Credits of every other member for tile `k` (R214). -/
def State.creditsOk (s : State) (core : Nat) (a : Arm) (k : Nat) : Bool := (s.others core a).all fun m => decide (k < Tab.get a.credits 0 m)

/-- Index elements of an arm. -/
def State.indexTotal (c : Context) (a : Arm) : Nat := ((c.layout? (adFarLayout a.desc)).map fun l => adNtile a.desc * l.rpt).getD 0

/-- The request for index elements: as many as the queue has room for, in one 1 KiB; an element that straddles two such ranges comes
with two requests (R200, R210) (log 48: DEDUCED). -/
def Arm.indexReq (a : Arm) (room total : Nat) : Req :=
  let b := adIdxBytes a.desc
  let cva := adIdx a.desc + a.idxAt
  let n := min (min (room * b - a.idxPart.length) (total * b - a.idxAt)) (1024 - cva % 1024)
  match segAt a.segs cva with
  | some p => { kind := .index, far := p.2.key cva, dpa := cva, len := n, pieces := [], comp := p.2.comp }
  | none => { kind := .index, far := 0, len := n, pieces := [] }

/-- A signed index element. -/
def idxVal (b v : Nat) : Int := if v < 2 ^ (8 * b - 1) then v else (v : Int) - 2 ^ (8 * b)

/-- The next request of a slot whose arm may issue; `n` bounds the tiles and rows that need no request (log 48: DEDUCED). -/
def State.prepare (s : State) (core sid ctx : Nat) (c : Context) : Nat → Prep
  | 0 => { s := s }
  | n + 1 =>
    match (s.slot? core sid).bind (·.cur) with
    | none => { s := s, moved := true }
    | some a =>
      match a.tiles.find? fun p => !p.2.reqs.isEmpty with
      | some (k, t) => { s := s, req := t.reqs.head?.map fun r => (k, r) }
      | none =>
        let lay := c.layout? (adFarLayout a.desc)
        let rowTile := if adIndexed a.desc then a.tiles.find? fun p => !p.2.last else none
        let room := 256 - a.idx.length
        let idxReq : Prep :=
          if adIndexed a.desc && decide (a.idxAt < State.indexTotal c a * adIdxBytes a.desc) && decide (0 < room)
              && (s.core core).tags.all (fun t => t.2.req.elim true fun o => !(o.sid == sid && o.req.kind == .index)) then
            { s := s, req := some (adNtile a.desc, a.indexReq room (State.indexTotal c a)) }
          else { s := s }
        match rowTile, lay with
        | some (k, t), some l =>
          let j := k * l.rpt + t.rows
          match Tab.look a.idx j with
          | none => idxReq
          | some v =>
            let iv := idxVal (adIdxBytes a.desc) v
            let x := s.openRow core a k t l iv
            let a1 := { x.2.1 with idx := Tab.erase x.2.1.idx j }
            if x.1.2 then { s := x.1.1.failArm core sid .integrity 17, moved := true }
            else (x.1.1.tileStep core sid ctx a1 k x.2.2).prepare core sid ctx c n
        | _, _ =>
          let k := a.next
          let idxOk := !adIndexed a.desc || !adIxfault a.desc || (match lay with
            | some l => (List.range l.rpt).all fun i => (Tab.look a.idx (k * l.rpt + i)).isSome
            | none => true)
          let farWait := adAccum a.desc && adFarLayout a.desc == 0 && a.tiles.any fun p => p.2.far.isEmpty
          if adNtile a.desc ≤ k || farWait || !s.slotReady core ctx a k || !s.creditsOk core a k || adKind a.desc == 6 then idxReq
          else if !idxOk then idxReq
          else
            let badIdx := if adIndexed a.desc && adIxfault a.desc then
                lay.bind fun l => ((List.range l.rpt).filterMap fun i => (Tab.look a.idx (k * l.rpt + i)).map (idxVal (adIdxBytes a.desc))).find?
                  fun v => decide (v < 0) || decide (((l.lowDim 1).elim 0 (·.size) : Int) ≤ v)
              else none
            match badIdx with
            | some v =>
              { s := (s.raise { src := 0x33, unit := core, ctx := some ctx, detail := sid, info := (v % 2 ^ 64).toNat }).failArm core sid .argRange 21
                moved := true }
            | none =>
              let o := if adOut a.desc then s.openOut core ctx c a k else s.openIn core ctx c a k
              match o.fail with
              | some (st, dt) => { s := o.s.failArm core sid st dt, moved := true }
              | none =>
                match (o.s.slot? core sid).bind (·.cur) with
                | none => { s := o.s, moved := true }
                | some a1 =>
                  let up := if k + 1 ≤ a1.opened then 0 else 1
                  let s1 := match a1.vgrp, a1.vslot with
                    | some (st, gid), some v => o.s.modGroup st gid fun g => g.setSlot v { g.slot v with count := (g.slot v).count + up }
                    | _, _ => o.s
                  let a2 := { a1 with next := k + 1, opened := max a1.opened (k + 1) }
                  (s1.tileStep core sid ctx a2 k { o.tile with num := a.accNo }).prepare core sid ctx c n

/-! ### Tags and the per-bank cap (R201, R202) -/

/-- The DRAM bank of a memory key (R257, R258): stack, channel, pseudo-channel, bank. -/
def dramBank (k : Nat) : Nat × Nat × Nat × Nat :=
  let a := k % 2 ^ 36
  (k / 2 ^ 36, bitsOf a 11 5 ^^^ bitsOf a 16 5, bitsOf a 10 1, bitsOf a 16 6 ^^^ bitsOf a 22 6)

/-- The row of a memory key. -/
def dramRow (k : Nat) : Nat := bitsOf (k % 2 ^ 36) 22 14

/-- Tags a stream holds. -/
def Core.tagsOf (q : Core) (sid : Nat) : Nat := (q.tags.filter fun t => t.2.req.elim false (·.sid == sid)).length

/-- Tags that are neither used nor in quarantine. -/
def Core.freeTags (q : Core) : List Nat := (List.range 64).filter fun t => (q.tag t).req.isNone && !(q.tag t).quarantine

/-- The COPY channel's place among the streams (R208). -/
def copySid : Nat := 32

/-- The COPY task that the channel serves: the one whose block is on its way, else the oldest that runs. -/
def Core.copyTask (q : Core) : Option (Nat × Task × Run) :=
  let cs := ((List.range q.queue.length).zip q.queue).filterMap fun x => match x.2.run with
    | some r => if isCopy x.2.desc && x.2.stage == .running && r.fail.isNone && !taskDone x.2.desc r then some (x.1, x.2, r) else none
    | none => none
  match cs.find? fun x => x.2.2.staged.isSome || decide (0 < x.2.2.issued) with
  | some x => some x
  | none => cs.head?

/-- Tags kept in reserve for others (R201). -/
def Core.reserve (q : Core) (sid : Nat) : Nat :=
  (q.slots.filter fun p => p.1 != sid && (p.2.cur.elim false (·.effect)) && q.tagsOf p.1 == 0).length
    + (if sid != copySid && (q.queue.any fun t => isCopy t.desc && t.stage == .running) && q.tagsOf copySid == 0 then 1 else 0)

/-- A tag is available to a stream that holds at most `most` (R201). -/
def Core.tagReady (q : Core) (sid most : Nat) : Bool :=
  let held := q.tagsOf sid
  let fr := q.freeTags.length
  decide (held < most) && (if held = 0 then decide (0 < fr) else decide (q.reserve sid < fr))

/-- The per-bank cap allows a request (R202). -/
def State.capReady (s : State) (core ctx : Nat) (remote : Bool) (r : Req) : Bool :=
  remote || decide (archBase ≤ r.far) ||
    decide (((s.core core).tags.filter fun t => t.2.req.elim false fun o =>
      o.port.isNone && decide (o.req.far < archBase) && dramBank o.req.far == dramBank r.far).length < (s.attr (ctxPart ctx)).cap)

/-- The number of a request that adds. -/
def Req.accNum (r : Req) : Option Nat := r.acc.bind fun c => if c.head.isNone then some c.num else none

/-- An ACCUM request lies within 256 of the oldest unacknowledged one (R314). -/
def Core.accReady (q : Core) (sid : Nat) (r : Req) : Bool :=
  r.accNum.elim true fun n => q.tags.all fun t => t.2.req.elim true fun o => o.sid != sid || o.req.accNum.elim true fun m => decide (n < m + 256)

/-! ### Remote requests (12 R394, R396, R404) -/

/-- The CRC-32 of R173. -/
def crc32 (bs : List Byte) : Nat := crcLsb 0xEDB88320 0xFFFFFFFF bs ^^^ 0xFFFFFFFF

/-- A packet: 28 header bytes with its ECRC, and the payload padded to 16 (R394, R396). -/
def mkPacket (head payload : List Byte) : List Byte :=
  head ++ leBytes 4 (crc32 (head ++ payload)) ++ payload ++ leBytes (roundUp payload.length 16 - payload.length) 0

/-- The 28 header bytes that ECRC covers (R394). -/
def packetHead (ptype dpart hops dst src job len flow score tag gen offset rwin flags coll stage ddig : Nat) : List Byte :=
  leBytes 1 ptype ++ leBytes 1 (dpart * 32 + hops) ++ leBytes 2 dst ++ leBytes 2 src ++ leBytes 2 job ++ leBytes 2 len ++ leBytes 2 flow
    ++ leBytes 4 (score * 65536 + tag * 1024 + gen) ++ leBytes 6 offset ++ leBytes 1 rwin ++ leBytes 1 flags
    ++ leBytes 2 (stage * 4096 + ddig) ++ leBytes 2 coll

/-- A packet originated here waits for its route (R399); none sets out after FATAL (R612). -/
def State.originate (s : State) (p : List Byte) : State := if s.chip.hif.fatal then s else { s with chip.orig := s.chip.orig ++ [p] }

/-- The entries of a member table (R392): DEVID, PART, SLOT, FOLD. -/
def tableEntry (t : List Byte) (m : Nat) : Nat × Nat × Nat × Nat :=
  (fld t (8 * m) 0 15, fld t (8 * m + 2) 0 3, fld t (8 * m + 3) 0 3, fld t (8 * m + 4) 0 12)

/-- JOB and DPART of an arm's remote requests: the one pair that the destination's checks can accept, where the member
tables leave one; the spec names no other source for them (log 55: DESIGN CHOICE). -/
def State.remoteTo (s : State) (part rdev rwin : Nat) : Nat × Nat :=
  let cs := s.chip.members.flatMap fun p => if p.2.part = part then
      (List.range p.2.nmem).filterMap fun m =>
        let e := tableEntry p.2.table m
        if e.1 = rdev then some (p.2.job, e.2.1) else none
    else []
  match cs with
  | [x] => x
  | _ => let v := Config.remoteTarget part rdev rwin; (v / 8 % 4096, v % 8)

/-! ### Issue (R200 to R208, R404) -/

/-- The bytes an outbound request takes from the tile's slot at key `key`; the answer says whether a word came back poisoned
(R199) (log 50: DEDUCED). -/
def State.takeBytes (s : State) (core key len : Nat) (ps : List (Nat × Nat × Nat)) : State × Bool × List Byte :=
  let x := ps.foldl (fun (q : State × Bool) p => let y := q.1.isleRead core (key + p.2.2) p.2.1; (y.1, q.2 || y.2)) (s, false)
  (x.1, x.2, ps.foldl (fun b p => overlay b p.1 (s.rdN (key + p.2.2) p.2.1)) (List.replicate len 0))

/-- The bytes a request carries when it leaves: a header comes from the tile in the engine; the payload of a write to an Isle or to
another module is read now, that of a write to a stack is pulled when the NMU admits it (R273). `none`: a word came back poisoned. -/
def State.reqData (s : State) (core : Nat) (a : Arm) (k : Nat) (t : TileX) (r : Req) : State × Option (List Byte) :=
  match r.kind with
  | .pendHead => (s, some (slice t.hdr 0 15 ++ leBytes 1 (255 - num t.hdr 15 1)))
  | .lastHead => (s, some t.hdr)
  | .data =>
    if adOut a.desc && (adRemote a.desc || decide (archBase ≤ r.far)) then
      let x := s.takeBytes core (a.slotKey k) r.len r.pieces
      (x.1, if x.2.1 then none else some x.2.2)
    else (s, some [])
  | _ => (s, some [])

/-- A request under tag `t` recorded in the engine, whose core is awake (R571): the tag, the stream's last issue, the round robin. -/
def State.holdTag (s : State) (core t : Nat) (bg : Bool) (o : Outst) : State :=
  s.modCore core fun q => { q.setTag t { gen := (q.tag t).gen, req := some o, quarantine := false } with
    pst := q.awake.pst
    issueNo := q.issueNo + 1
    rr := if bg then o.sid + 1 else q.rr
    copyLast := if o.sid = copySid then q.issueNo + 1 else q.copyLast
    copyWait := if o.sid = copySid then false else q.copyWait
    slots := Tab.adjust q.slots o.sid fun x => { x with lastIssue := q.issueNo + 1 } }

/-- A request issued under tag `t`: it leaves for a stack, for an Isle, or for another module (log 50: DEDUCED). -/
def State.issueReq (s : State) (core sid ctx : Nat) (a : Arm) (k : Nat) (r : Req) (t : Nat) : State :=
  let tile := (Tab.look a.tiles k).getD {}
  let x := s.reqData core a k tile r
  match x.2 with
  | none => x.1.failArm core sid .integrity 17
  | some data =>
    let g := ((s.core core).tag t).gen
    let a1 : Arm := { a with
      bgWait := false
      idxAt := if r.kind = .index then a.idxAt + r.len else a.idxAt
      tiles := if r.kind = .index then a.tiles else Tab.put a.tiles k { tile with reqs := tile.reqs.drop 1, live := tile.live + 1 } }
    let o : Outst := { ctx := ctx, sid := sid, seq := a.seq, tile := k, req := r, port := if adRemote a.desc then some 16 else none }
    let s1 := (x.1.holdTag core t (adRate a.desc == 0) o).setArm core sid a1
    let write := adOut a.desc && r.kind != .index
    if adRemote a.desc then
      let peer := s.remoteTo (ctxPart ctx) (adRdev a.desc) (adRwin a.desc)
      let hdr := r.kind != .data
      let head := packetHead (if write then 1 else 2) peer.2 0 (adRdev a.desc) (s.chip.devid.getD 0) peer.1 (if write then r.len else 0)
        (core * 32 + sid) core t g r.far (adRwin a.desc) (b2n hdr * 16) 0 0 (if write then 0 else r.len)
      s1.originate (mkPacket head (if write then data else []))
    else
      let stack := decide (r.far < archBase)
      let nr : NReq := { core := core, sid := sid, tag := t, gen := g, ctx := ctx, write := write, addr := r.far, len := r.len, data := data
                         comp := r.comp, accum := r.acc.map fun z => { z with aseq := Tab.get (s.core core).aseqs 0 sid }
                         pull := if stack && write && (r.kind == .data || r.kind == .accum) then some (a.slotKey k, tile.hdr, r.pieces) else none }
      let m : MReq := if stack then { toStack := true, dst := r.far / 2 ^ 36, req := nr }
        else { toStack := false, dst := coreOfDpa r.far, req := nr }
      { s1 with chip.mesh := s1.chip.mesh ++ [m] }

/-- One request of the COPY channel issued under tag `t`: it moves at most 1 KiB between the core's Isle and the staging buffer, and its
answer is on its way (R200, R253) (log 152: DESIGN CHOICE). -/
def State.issueCopy (s : State) (core i t b : Nat) : State :=
  match (s.core core).queue[i]? with
  | none => s
  | some k =>
    let g := ((s.core core).tag t).gen
    let o : Outst := { ctx := k.ctx, sid := copySid, seq := taskId k.desc, tile := 0, req := { kind := .data, far := 1024 * b, len := 1024, pieces := [] } }
    let s1 := (s.holdTag core t true o).setTask core i { k with run := k.run.map fun r => { r with issued := r.issued + 1 } }
    { s1 with chip.resps := s1.chip.resps ++ [{ core := core, sid := copySid, tag := t, gen := g, data := [] }] }

/-- What a leader finds at its members (R213): it waits, it may go on, or a member's NTILE differs. -/
inductive McastWait where
  | wait | go | differ (ntile : Nat)
  deriving DecidableEq, Repr

def State.mcastReady (s : State) (core ctx : Nat) (a : Arm) : McastWait :=
  if adKind a.desc ≠ 5 then .go
  else match Tab.look s.chip.mcast (adGroup a.desc) with
    | none => .wait
    | some _ =>
      let ms := (s.others core a).map fun m => (s.mcastSlot m ctx (adGroup a.desc)).bind fun p => if p.2.effect && !p.2.led then some p.2 else none
      if ms.any Option.isNone then .wait
      else match ms.find? fun x => x.elim false fun b => adNtile b.desc != adNtile a.desc with
        | some (some b) => .differ (adNtile b.desc)
        | _ => .go

/-- Bound on the tiles and rows that one look at a slot may open without a request. -/
def lookBound : Nat := 2 ^ 25

/-- What each slot of a core would issue now (R205): slot number, context, its arm, and what `prepare` found. -/
def State.candidates (s : State) (core : Nat) : List (Nat × Nat × Arm × Prep) :=
  (s.core core).slots.filterMap fun p =>
    match p.2.cur, s.ctx? p.2.ctx with
    | some a, some c =>
      if !a.effect || !a.started || a.resolving || c.st != .active || s.mcastReady core p.2.ctx a == .wait then none
      else some (p.1, p.2.ctx, a, s.prepare core p.1 p.2.ctx c lookBound)
    | _, _ => none

/-- A prepared slot may issue now: its request has its tag, its bank and, for ACCUM, its place in the window. -/
def Prep.eligible (pr : Prep) (core sid ctx : Nat) : Bool :=
  match pr.req, (pr.s.slot? core sid).bind (·.cur) with
  | some (_, r), some a =>
    let q := pr.s.core core
    q.tagReady sid (adTagmax a.desc) && pr.s.capReady core ctx (adRemote a.desc) r && q.accReady sid r
  | _, _ => false

/-- The next request of the COPY channel: queue entry and 1 KiB block, where it has one and a tag for it (R201, R208). -/
def State.copyNext (s : State) (core : Nat) : Option (Nat × Nat) :=
  match (s.core core).copyTask with
  | none => none
  | some (i, t, r) => ((s.ctx? t.ctx).bind fun c => (s.copyNeeds c t.desc r)[r.issued]?).bind fun b =>
    if ((s.core core).staging.isNone || r.staged.isSome) && (s.core core).tagReady copySid 64 then some (i, b) else none

/-- A channel that may issue: its SID, whether it is rated, its time to empty, the number of its last issue, and what it would do. -/
structure Cand where
  sid : Nat
  rated : Bool
  tte : Nat
  last : Nat
  act : (Nat × Prep) ⊕ (Nat × Nat)     -- a slot's context and request, or the COPY channel's

/-- The channels of a core that may issue (R205, R208). -/
def State.cands (s : State) (core : Nat) : List Cand :=
  ((s.candidates core).filter fun x => x.2.2.2.eligible core x.1 x.2.1).map (fun x =>
      { sid := x.1, rated := adRate x.2.2.1.desc != 0 || x.2.2.1.bgWait
        tte := if x.2.2.1.bgWait then 0 else s.tte core x.2.1 x.1 x.2.2.1
        last := ((s.slot? core x.1).map (·.lastIssue)).getD 0, act := .inl (x.2.1, x.2.2.2) })
    ++ (s.copyNext core).toList.map fun x =>
      { sid := copySid, rated := (s.core core).copyWait, tte := 0, last := (s.core core).copyLast, act := .inr x }

/-- The better of two rated channels (R207): smaller TTE, then older issue, then lower SID. -/
def Cand.better (a b : Cand) : Bool :=
  decide (a.tte < b.tte) || (a.tte == b.tte && (decide (a.last < b.last) || (a.last == b.last && decide (a.sid < b.sid))))

/-- The channel that R207 and R208 choose among those that may issue; round robin starts behind the last background issue
(log 111: DESIGN CHOICE). -/
def chooseCand (rr : Nat) (cs : List Cand) : Option Cand :=
  match cs.filter (·.rated) with
  | x :: t => some (t.foldl (fun b y => if y.better b then y else b) x)
  | [] => match cs.find? fun x => decide (rr ≤ x.sid) with
    | some x => some x
    | none => cs.head?

/-- A leader of a core whose members' NTILE differs: its context, its arm, the other NTILE (R213). -/
def State.mcastDiffers (s : State) (core : Nat) : Option (Nat × Arm × Nat) :=
  (s.core core).slots.findSome? fun p => match p.2.cur with
    | some a => if a.effect && a.started then (match s.mcastReady core p.2.ctx a with | .differ n => some (p.2.ctx, a, n) | _ => none) else none
    | none => none

/-- The stream engine issues one request, or a slot moves on without one (R205 to R208, R213). The request takes the lowest free tag
(log 153: DESIGN CHOICE). -/
def State.streamIssue (s : State) (core : Nat) : State :=
  match s.mcastDiffers core with
  | some (ctx, a, n) =>
    (s.raise { src := 0x32, unit := core, ctx := some ctx, detail := adGroup a.desc
               info := packInfo 0 [(4, adNtile a.desc), (4, n)] }).mcastFail ctx (adGroup a.desc) false .state 19
  | none =>
    match (s.candidates core).find? fun x => x.2.2.2.moved && x.2.2.2.req.isNone with
    | some x => x.2.2.2.s
    | none =>
      match chooseCand (s.core core).rr (s.cands core) with
      | none => s
      | some c => match c.act with
        | .inr (i, b) => ((s.core core).freeTags.head?).elim s fun t => s.issueCopy core i t b
        | .inl (ctx, pr) =>
          match pr.req, (pr.s.slot? core c.sid).bind (·.cur), (pr.s.core core).freeTags.head? with
          | some (k, r), some a, some t => pr.s.issueReq core c.sid ctx a k r t
          | _, _, _ => pr.s

/-! ### Responses (R192, R195, R198, R199) -/

/-- A response discarded for its stale generation (R203). -/
def State.staleResp (s : State) (core sid : Nat) : State :=
  s.modCore core fun q => { q with slots := Tab.adjust q.slots sid fun x => { x with stale := satAdd 32 x.stale 1 } }

/-- The first response of a whole inbound tile: its header is checked and its other requests are formed (R195, R196, R242). -/
def State.headResp (s : State) (core sid ctx : Nat) (a : Arm) (k : Nat) (t : TileX) (data : List Byte) : State :=
  let hb := slice data 0 16
  let start := a.farBase + k * adStride a.desc
  match hdrCheck (s.ctxOk (ctxPart ctx)) hb with
  | some n => (s.headerFault core ctx n start).failArm core sid .integrity n
  | none =>
    let h := Hdr.parse hb
    let n := data.length
    if adStride a.desc < h.total || adSlotBytes a.desc < h.total then s.failArm core sid .argRange 16
    else match if adRemote a.desc || decide (h.total ≤ n) then none else a.judge (start + n) (h.total - n) with
      | some st => s.failArm core sid st 24
      | none =>
        let bs := h.pendingBytes ++ (slice data 0 (min n h.total)).drop 16
        let w := s.ringWrite core (a.slotKey k) 0 bs
        if w.2 then w.1.failArm core sid .integrity 17
        else
          let rest := if h.total ≤ n then [] else (kibs (start + n) (h.total - n)).map fun p => a.mkReq .data p.1 p.2 [(0, p.2, p.1 - start)]
          (w.1.sendHeads core a k hb).tileStep core sid ctx a k
            { t with hdr := hb, reqs := rest, last := true, img := overlay (List.replicate h.total 0) 0 bs }

/-- The bytes of a data response written into the tile's slot (log 49: DEDUCED). -/
def State.dataResp (s : State) (core sid ctx : Nat) (a : Arm) (k : Nat) (t : TileX) (r : Req) (data : List Byte) : State :=
  let base := if adFarLayout a.desc = 0 then 0 else 16
  let ps := r.pieces.map fun p => (base + p.2.2, slice data p.1 p.2.1)
  let w := s.writePieces core (a.slotKey k) ps
  if w.2 then w.1.failArm core sid .integrity 17 else w.1.tileStep core sid ctx a k { t with img := overlayAll t.img ps }

/-- Index elements put into the queue (R210); the bytes of one that has arrived in part wait for the rest. -/
def Arm.indexResp (a : Arm) (data : List Byte) : Arm :=
  let b := adIdxBytes a.desc
  let bs := a.idxPart ++ data
  let at0 := (a.idxAt - bs.length) / b
  let n := bs.length / b
  { a with idx := (List.range n).foldl (fun m i => Tab.put m (at0 + i) (num bs (i * b) b)) a.idx, idxPart := bs.drop (n * b) }

/-- An answer to the COPY channel. -/
def State.copyResp (s : State) (core ctx : Nat) : State :=
  match (s.core core).copyTask with
  | some (i, t, r) => if t.ctx = ctx then s.setTask core i { t with run := some { r with acks := r.acks + 1 } } else s
  | none => s

/-- A response that reached the stream engine (R198, R203). -/
def State.takeResp (s : State) (p : Resp) : State :=
  let t := (s.core p.core).tag p.tag
  match t.req with
  | some o =>
    if t.gen ≠ p.gen then s.staleResp p.core p.sid
    else
      let s1 := s.modCore p.core fun q => { q with tags := Tab.set q.tags {} p.tag { gen := t.gen, req := none } }
      if o.sid = copySid then s1.copyResp p.core o.ctx
      else match (s1.slot? p.core o.sid).bind (·.cur) with
      | none => s1
      | some a =>
        if a.seq ≠ o.seq || ((s1.slot? p.core o.sid).elim true fun x => x.ctx != o.ctx) then s1
        else if p.status ≠ .ok then s1.failArm p.core o.sid p.status p.detail
        else if o.req.kind = .index then s1.setArm p.core o.sid (a.indexResp p.data)
        else match Tab.look a.tiles o.tile with
          | none => s1
          | some x =>
            let x1 := { x with live := x.live - 1 }
            match o.req.kind with
            | .head => s1.headResp p.core o.sid o.ctx a o.tile x1 p.data
            | .data => if adOut a.desc then s1.tileStep p.core o.sid o.ctx a o.tile x1 else s1.dataResp p.core o.sid o.ctx a o.tile x1 o.req p.data
            | .pendHead => if adAccum a.desc then s1.accBody p.core o.sid o.ctx a o.tile x1 p.data else s1.tileStep p.core o.sid o.ctx a o.tile x1
            | _ => s1.tileStep p.core o.sid o.ctx a o.tile x1
  | none => s.staleResp p.core p.sid

end Sys2Proof.Machine
end

