-- ==== Sys2Proof/Machine/NmuOps.lean ====
section
/-! DEFINITION. What a stack and its NMU do, by shared operations: sector ECC and the correction log (R277 to R281, R551),
compression units (R269 to R271), the request sorter (R273 to R275), accumulation (R311 to R315), parameter groups and
their kernels (R282 to R301, R304, R307), commit and abort (R308 to R310). -/

namespace Sys2Proof.Machine

open Sys2Proof

/-! ### Sectors and their code (R257, R277 to R281) -/

/-- Symbols in error of a sector's 18 (log 53: DEDUCED). -/
def symbols (mask : Nat) : Nat := popCount 18 mask

/-- Location of a sector as R281 lays it out: the five bytes from ROW to STACK (log 95: DEDUCED). -/
def sectorInfo (sec : Nat) : Nat :=
  let k := 32 * sec
  let b := dramBank k
  dramRow k + 2 ^ 16 * (b.2.2.2 * 1024 + bitsOf k 5 5 * 32 + b.2.1) + 2 ^ 32 * (b.2.2.1 * 128 + b.1)

/-- One correction of a sector: counted and logged; a new log entry, and the first overflow, write a record (R551). -/
def State.correct (s : State) (detail sec mask : Nat) : State :=
  let st := sec / 2 ^ 31
  let n := s.nmu st
  let sym := ((setBits 18 mask).head?).getD 0
  let ce := satAdd 32 n.cetot 1
  let note (x : State) : State := x.raise
    { src := 0x41, unit := st, ctx := if detail = 1 then none else s.ownerAt (32 * sec), detail := detail, info := sectorInfo sec }
  if n.log.any fun e => e.sector == sec % 2 ^ 31 then
    s.setNmu st { n with
      cetot := ce
      log := n.log.map fun e => if e.sector = sec % 2 ^ 31 then { e with count := satAdd 32 e.count 1, symbol := sym } else e }
  else if n.log.length < 256 then
    note (s.setNmu st { n with
      cetot := ce, log := n.log ++ [{ count := 1, sector := sec % 2 ^ 31, symbol := sym, first := s.now / 1000000 }] })
  else
    let s1 := s.setNmu st { n with cetot := ce, ovf := satAdd 32 n.ovf 1 }
    if n.ovf = 0 then note s1 else s1

/-- An uncorrectable sector met (R278) (log 53: DEDUCED). -/
def State.uncorrectable (s : State) (detail sec : Nat) : State :=
  (s.modNmu (sec / 2 ^ 31) fun n => { n with uetot := satAdd 16 n.uetot 1 }).raise
    { src := 0x42, unit := sec / 2 ^ 31, ctx := if detail = 1 then none else s.ownerAt (32 * sec), detail := detail, info := sectorInfo sec }

/-- The symbols in error of every sector that has some: what has flipped since it was last written, and its permanent faults (R280). -/
def State.symErrs (s : State) : List (Nat × Nat) :=
  (s.dramErr.map fun p => (p.1, p.2 ||| Tab.get s.dramHard 0 p.1)) ++ s.dramHard.filter fun p => (Tab.look s.dramErr p.1).isNone

/-- Sectors in error among the bytes `k` to `k + n - 1` (log 53: DEDUCED; log 127: DEDUCED). -/
def State.sectorErrs (s : State) (k n : Nat) : List (Nat × Nat) :=
  s.symErrs.filter fun p => decide (k / 32 ≤ p.1) && decide (32 * p.1 < k + n)

/-- Symbols of stored sectors go wrong. A further error in a symbol already in error leaves that symbol in error (R279); a symbol in the
upper half of the mask is faulty for the life of the part (R280) (log 110: DESIGN CHOICE; log 127: DEDUCED; log 154: DESIGN CHOICE). -/
def State.flipSectors (s : State) (fl : List (Nat × Nat)) : State :=
  { s with
    dramErr := fl.foldl (fun m x => Tab.set m 0 x.1 (Tab.get m 0 x.1 ||| x.2 % 2 ^ 18)) s.dramErr
    dramHard := fl.foldl (fun m x => Tab.set m 0 x.1 (Tab.get m 0 x.1 ||| x.2 / 2 ^ 18 % 2 ^ 18)) s.dramHard }

/-- The sectors of a range stored afresh: a permanent fault stays. -/
def State.fresh (s : State) (k n : Nat) : State :=
  { s with dramErr := s.dramErr.filter fun p => !(decide (k / 32 ≤ p.1) && decide (32 * p.1 < k + n)) }

/-! ### Compression units (R269 to R271) -/

/-- Sectors into which a unit's bytes are stored (log 33: DESIGN CHOICE). -/
def unitSectors (bs : List Byte) : Nat :=
  if bs.all (· == 0#8) then 0
  else
    let c := Config.compressed bs
    if 1 ≤ c ∧ c ≤ 24 then c else 32

/-- Key of the metadata byte of the unit at key `u` (R269) (log 33: DESIGN CHOICE). -/
def State.mdataKey (s : State) (u : Nat) : Option Nat :=
  (s.allSegs.filter fun g => g.comp && !g.mdata.isEmpty).findSome? fun g =>
    (g.frames.find? fun r => decide (stackKey r.stack (r.frame * 4096) ≤ u) && decide (u < stackKey r.stack ((r.frame + r.count) * 4096))).bind fun r =>
      let i := (u - stackKey r.stack (r.frame * 4096)) / 1024
      ((g.mdata.filter (·.stack == r.stack)).foldl (fun (a : Nat × Option Nat) m =>
        (a.1 + m.count * 4096,
          if a.2.isNone && decide (i < a.1 + m.count * 4096) then some (stackKey m.stack (m.frame * 4096) + (i - a.1)) else a.2)) (0, none)).2

/-- The metadata sector of the unit at key `u`. -/
def State.mdataSector (s : State) (u : Nat) : Option Nat := (s.mdataKey u).map (· / 32)

/-- Sectors of the metadata cache of an NMU: 512 KiB (R269). -/
def cacheSectors : Nat := 16384

/-- Sectors in error that an access to a compressed unit touches: its stored sectors and, where the cache misses, its metadata sector,
unless the unit has been written whole since that sector was found bad (R269, R271) (log 155: DESIGN CHOICE). -/
def State.unitErrs (s : State) (u : Nat) : List (Nat × Nat) :=
  let n := s.nmu (u / 2 ^ 36)
  s.sectorErrs u (32 * Tab.get n.mdata 0 (u / 1024)) ++
    (match s.mdataSector u with
      | none => []
      | some m => if n.mcache.contains m || n.mfix.contains (u / 1024) then [] else s.sectorErrs (32 * m) 32)

/-- A metadata sector that has been read is in the cache; the oldest one leaves a full cache (log 155: DESIGN CHOICE). -/
def State.cacheMeta (s : State) (u : Nat) : State :=
  match s.mdataSector u with
  | none => s
  | some m =>
    if (s.sectorErrs (32 * m) 32).any fun e => decide (2 ≤ symbols e.2) then s
    else s.modNmu (u / 2 ^ 36) fun n => if n.mcache.contains m then n else { n with mcache := (m :: n.mcache).take cacheSectors }

/-- The units that a range touches. -/
def unitsOf (k n : Nat) : List Nat := (kibs k n).map fun p => p.1 / 1024 * 1024

/-- Corrections counted, uncorrectable sectors raised: the answer says whether there was one. -/
def State.meetSectors (s : State) (ok bad : Nat) (es : List (Nat × Nat)) : State × Bool :=
  (es.foldl (fun a e => if symbols e.2 = 1 then a.correct ok e.1 e.2 else if symbols e.2 = 0 then a else a.uncorrectable bad e.1) s,
    es.any fun e => decide (2 ≤ symbols e.2))

/-- The code's outcomes for an access to a unit. -/
def State.meetUnit (s : State) (ok bad u : Nat) : State × Bool :=
  let x := s.meetSectors ok bad (s.unitErrs u)
  (x.1.cacheMeta u, x.2)

/-- A stack read: corrected, counted, logged, or poisoned (R278). -/
def State.stackRead (s : State) (k n : Nat) (comp : Bool) : State × Bool :=
  if comp then (unitsOf k n).foldl (fun (a : State × Bool) u => let x := a.1.meetUnit 0 3 u; (x.1, a.2 || x.2)) (s, false)
  else s.meetSectors 0 0 (s.sectorErrs k n)

/-- The metadata byte of a unit written. -/
def State.noteMeta (s : State) (u : Nat) : State :=
  match s.mdataSector u with
  | none => s
  | some m =>
    let st := u / 2 ^ 36
    if (s.nmu st).mcache.contains m then s.fresh (32 * m) 32
    else
      let fixed := ((s.nmu st).mfix.filter (· != u / 1024)) ++ [u / 1024]
      let same := fixed.filter fun v => s.mdataSector (1024 * v) == some m
      if same.length < 32 then s.modNmu st fun n => { n with mfix := fixed }
      else (s.modNmu st fun n => { n with mfix := fixed.filter fun v => !same.contains v }).fresh (32 * m) 32

/-- A unit's sector count brought up to date, in its metadata byte too: through the cache where its sector is there, else with the read
that brings the sector in; an uncorrectable sector is replaced once all of its 32 units have been written whole (R269, R271)
(log 155: DESIGN CHOICE). -/
def State.noteUnit (s : State) (u : Nat) : State :=
  (s.modNmu (u / 2 ^ 36) fun n => { n with mdata := Tab.set n.mdata 0 (u / 1024) (unitSectors (s.rdN u 1024)) }).noteMeta u

/-- A write into one compressed unit. -/
def State.writeUnit (s : State) (k : Nat) (bs : List Byte) : State × Bool :=
  let u := k / 1024 * 1024
  if bs.length = 1024 then (((s.wrN k bs).fresh u 1024).noteUnit u, false)
  else
    let x := s.meetUnit 0 2 u
    if x.2 then (x.1, true) else (((x.1.wrN k bs).fresh u 1024).noteUnit u, false)

/-- A stack write: sectors written whole are replaced; a narrow write drops its bytes in an uncorrectable sector, or in the
whole unit of a compressed segment (R271, R278). The answer says whether bytes were dropped. -/
def State.stackWrite (s : State) (k : Nat) (bs : List Byte) (comp : Bool) : State × Bool :=
  if comp then
    (kibs k bs.length).foldl (fun (a : State × Bool) p => let x := a.1.writeUnit p.1 (slice bs (p.1 - k) p.2); (x.1, a.2 || x.2)) (s, false)
  else
    let es := s.sectorErrs k bs.length
    if es.isEmpty then (s.wrN k bs, false)
    else
      let part := es.filter fun e => !(decide (k ≤ 32 * e.1) && decide (32 * e.1 + 32 ≤ k + bs.length))
      let x := s.meetSectors 0 2 part
      let bad := (part.filter fun e => decide (2 ≤ symbols e.2)).map (·.1)
      let s1 := ((List.range bs.length).zip bs).foldl (fun a p => if bad.contains ((k + p.1) / 32) then a else a.wr (k + p.1) p.2) x.1
      ({ s1 with dramErr := s1.dramErr.filter fun p => bad.contains p.1 || !(decide (k / 32 ≤ p.1) && decide (32 * p.1 < k + bs.length)) }, !bad.isEmpty)

/-! ### Requests at an NMU (R273 to R275) -/

/-- Bytes a request touches: a block format's ACCUM touches whole blocks (R312). -/
def NReq.spans (r : NReq) : List (Nat × Nat) :=
  (r.addr, r.len) :: (match r.accum with
    | some a => a.blocks.flatMap fun b => (b.keys.map fun k => (k, a.fmt.width / 8)) ++ b.scale.toList.map fun k => (k, 1)
    | none => [])

/-- Two requests touch a common byte and one of them writes. -/
def NReq.conflicts (a b : NReq) : Bool := (a.write || b.write) && a.spans.any fun x => b.spans.any (spansMeet x)

/-- A request's answer sets out. -/
def State.reply (s : State) (r : NReq) (st : Status) (detail : Nat) (data : List Byte) : State :=
  let p : Resp := { core := r.core, sid := r.sid, tag := r.tag, gen := r.gen, data := data, status := st, detail := detail }
  { s with chip.resps := s.chip.resps ++ [p] }

/-- The data of a write pulled from its requester as the request is admitted (R273): the bytes of its pieces, or under ACCUM the values
of its elements. None: the engine has abandoned the tag and nothing comes, so the request is dropped. The answer says whether a word
came back poisoned (R199) (log 156: DEDUCED). -/
def State.pull (s : State) (r : NReq) : State × Option NReq × Bool :=
  match r.pull with
  | none => (s, some r, false)
  | some (key, hdr, ps) =>
    let t := (s.core r.core).tag r.tag
    if t.req.isNone || t.gen != r.gen then (s, none, false)
    else
      let x := s.takeBytes r.core key r.len ps
      if x.2.1 then (x.1, none, true)
      else match r.accum with
        | none => (x.1, some { r with data := x.2.2, pull := none }, false)
        | some a =>
          let es := a.blocks.flatMap fun b => b.adds.map (·.2)
          let vals := es.map fun e => (e, (decodeElem (s.payload key) (Hdr.parse hdr) e).1)
          (x.1, some { r with accum := some { a with vals := vals }, pull := none }, false)

/-! ### Accumulation (R311 to R315) -/

/-- The record of an ACCUM request: a new arm sequence resets it (R314). -/
def Ledger.at (l : Ledger) (seq : Nat) : Ledger := if l.seq = seq then l else { seq := seq }

/-- A request number is recorded as applied. -/
def Ledger.applied (l : Ledger) (n : Nat) : Bool := decide (n < l.high) || l.map.contains n

/-- The recorded numbers drawn together. -/
def Ledger.pack : Nat → Ledger → Ledger
  | 0, l => l
  | n + 1, l => if l.map.contains l.high then Ledger.pack n { l with high := l.high + 1, map := l.map.erase l.high } else l

def Ledger.note (l : Ledger) (n : Nat) : Ledger := Ledger.pack (l.map.length + 1) { l with map := l.map ++ [n] }

/-- The far value of an element code under its block's scale byte and the tile's scale (R52, R60). -/
def farValue (f : Fmt) (base : Nat) (scale : Option Nat) (code : Nat) : Word :=
  match scale with
  | some 255 => nan32
  | _ => (decode32 ((f.codeVal code).scale ((scale.getD 127 : Int) - 127 + ((base : Int) - 127)))).1

/-- One block of a far tile with an ACCUM request's values added (R312). The answer carries the flags of the encode and says
whether the block met an uncorrectable sector. -/
def State.accBlock (s : State) (a : AccReq) (comp : Bool) (b : AccBlock) : State × Flags × Bool :=
  let w := a.fmt.width / 8
  let touch := (b.keys.map fun k => (k, w)) ++ b.scale.toList.map fun k => (k, 1)
  let rd := touch.foldl (fun (x : State × Bool) t => let y := x.1.stackRead t.1 t.2 comp; (y.1, x.2 || y.2)) (s, false)
  if rd.2 then (rd.1, {}, true)
  else
    let sc := b.scale.map fun k => (s.rd k).toNat
    let vals := b.keys.map fun k => farValue a.fmt a.base sc (leNat (s.rdN k w))
    let sums := ((List.range vals.length).zip vals).map fun p => match (Tab.look b.adds p.1).bind (Tab.look a.vals) with
      | some x => (p.1, (fadd p.2 x).1)
      | none => p
    let en : Enc := { fmt := a.fmt, noblk := false, scale := a.base, rnd := 0, sat := true, seed := 0 }
    let pick := if b.scale.isSome then sums else sums.filter fun p => (Tab.look b.adds p.1).isSome
    let r := encodeBlock en pick
    let s1 := (pick.zip r.1).foldl (fun x p => ((b.keys[p.1.1]?).map fun k => (x.stackWrite k (leBytes w p.2) comp).1).getD x) rd.1
    let s2 := b.scale.elim s1 fun k => (s1.stackWrite k (leBytes 1 r.2.1) comp).1
    (s2, r.2.2, false)

/-- Accumulate flags of a layer OR-ed with flags (R315). -/
def State.accFlags (s : State) (st layer : Nat) (f : Flags) : State :=
  s.modNmu st fun n => { n with accf := Tab.set n.accf 0 layer (Tab.get n.accf 0 layer ||| f.bits) }

/-- A far header: one that this arm's own tile keeps pending reads as the valid one that it was (R196, R312). -/
def Ledger.header (l : Ledger) (k : Nat) (raw : List Byte) : List Byte :=
  if l.pend.contains k && num raw 15 1 == 255 - crc8 (slice raw 0 15) then withHchk (slice raw 0 15) else raw

/-- The check of R57 that a far header fails for an incoming COUNT (R311): 5 for a COUNT that differs, 2 for a format that no ACCUM adds
into (log 52: DEDUCED). -/
def State.farHdrFail (s : State) (ctx count : Nat) (h : List Byte) : Option Nat :=
  match hdrCheck (s.ctxOk (ctxPart ctx)) h with
  | some n => some n
  | none =>
    let f := Hdr.parse h
    if f.count ≠ count then some 5
    else if f.fmt == .fp32 || f.fmt == .bf16 || f.fmt == .fp16 || f.fmt == .sf16 then none else some 2

/-- The far header of a whole ACCUM tile marked pending or final (R311, R312); the answer to the first brings the header. -/
def State.serveHead (s : State) (r : NReq) (l : Ledger) (fin : Bool) (count cva : Nat) : State :=
  let st := r.addr / 2 ^ 36
  let rd := s.stackRead r.addr 16 r.comp
  if rd.2 then rd.1.reply r .integrity 17 []
  else
    let h := l.header r.addr (s.rdN r.addr 16)
    match s.farHdrFail r.ctx count h with
    | some n => (rd.1.raise { src := 0x10, unit := st, ctx := some r.ctx, detail := n, info := cva, ukind := some 3 }).reply r .integrity n []
    | none =>
      let w := rd.1.stackWrite r.addr (if fin then h else slice h 0 15 ++ leBytes 1 (255 - num h 15 1)) r.comp
      let rest := l.pend.filter (· != r.addr)
      let l1 : Ledger := { l with pend := if fin then rest else rest ++ [r.addr] }
      (w.1.modNmu st fun n => { n with ledger := Tab.put n.ledger (r.core * 32 + r.sid) l1 }).reply r .ok 0 h

/-- An ACCUM request: a far header marked, or values added at most once (R311 to R315). -/
def State.serveAccum (s : State) (r : NReq) (a : AccReq) : State :=
  let st := r.addr / 2 ^ 36
  let key := r.core * 32 + r.sid
  let l := (Tab.get (s.nmu st).ledger {} key).at a.aseq
  match a.head with
  | some (fin, count, cva) => s.serveHead r l fin count cva
  | none =>
    if l.applied a.num then (s.modNmu st fun n => { n with ledger := Tab.put n.ledger key l }).reply r .ok 0 []
    else
      let s1 := s.modNmu st fun n => { n with ledger := Tab.put n.ledger key (l.note a.num) }
      let x := a.blocks.foldl (fun (q : State × Flags × Bool) b =>
        let y := q.1.accBlock a r.comp b
        (y.1, q.2.1.or y.2.1, q.2.2 || y.2.2)) (s1, {}, false)
      let s2 := x.1.accFlags st a.layer x.2.1
      if x.2.2 then s2.reply r .integrity 17 [] else s2.reply r .ok 0 []

/-- Number of a key's bank within its stack. -/
def bankIndex (k : Nat) : Nat := let b := dramBank k; b.2.1 * 128 + b.2.2.1 * 64 + b.2.2.2

/-- The sectors a read touches: of a compressed segment, the first of each unit. -/
def NReq.sectors (r : NReq) : List Nat :=
  if r.comp then (unitsOf r.addr r.len).map (· / 32) else (List.range ((r.addr + r.len + 31) / 32 - r.addr / 32)).map (r.addr / 32 + ·)

/-- A request reads and does not write. -/
def NReq.reads (r : NReq) : Bool := !r.write && r.accum.isNone

/-- The sectors of a read met, but for those that an earlier read has brought (R275): each sector with whether it was uncorrectable. -/
def State.serveRead (s : State) (r : NReq) : State × List (Nat × Bool) :=
  r.sectors.foldl (fun (a : State × List (Nat × Bool)) m => match Tab.look r.met m with
    | some b => (a.1, a.2 ++ [(m, b)])
    | none => let x := a.1.stackRead (32 * m) 32 r.comp; (x.1, a.2 ++ [(m, x.2)])) (s, [])

/-- A read answered from the sectors it got. -/
def State.answerRead (s : State) (r : NReq) (got : List (Nat × Bool)) : State :=
  if got.any (·.2) then s.reply r .integrity 17 [] else s.reply r .ok 0 (s.rdN r.addr r.len)

/-- A read that arrived while an earlier read of the same sectors waited in the window is served from that read's data: it takes over
the sectors, unless a write to them arrived between the two, and it is answered at once when it has them all (R275)
(log 157: DEDUCED). -/
def State.shareRead (s : State) (st : Nat) (r : NReq) (got : List (Nat × Bool)) : State :=
  let n := s.nmu st
  let all := n.window ++ n.ingress
  let gain (p : NReq) : NReq :=
    if p.reads && r.adm < p.arr && p.comp == r.comp then
      let new := got.filter fun g => p.sectors.contains g.1 && (Tab.look p.met g.1).isNone &&
        !all.any fun w => !w.reads && decide (w.arr < p.arr) && w.spans.any (spansMeet (32 * g.1, if r.comp then 1024 else 32))
      { p with met := p.met ++ new }
    else p
  let full (p : NReq) : Bool := p.reads && !p.met.isEmpty && p.sectors.all fun m => (Tab.look p.met m).isSome
  let all1 := all.map gain
  let s1 := s.modNmu st fun m => { m with window := (m.window.map gain).filter fun p => !full p, ingress := (m.ingress.map gain).filter fun p => !full p }
  (all1.filter full).foldl (fun a p => a.answerRead p p.met) s1

/-- One window entry served: it leaves the window and its answer sets out (log 51: DEDUCED). -/
def State.serve (s : State) (st : Nat) (r : NReq) : State :=
  let s1 := s.modNmu st fun n => { n with window := n.window.erase r, open_ := Tab.put n.open_ (bankIndex r.addr) (dramRow r.addr) }
  match r.accum with
  | some a => s1.serveAccum r a
  | none =>
    if r.write then
      let w := s1.stackWrite r.addr r.data r.comp
      if r.acked then w.1 else w.1.reply r (if w.2 then .integrity else .ok) (if w.2 then 17 else 0) []
    else
      let x := s1.serveRead r
      (x.1.answerRead r x.2).shareRead st r x.2

/-- The entries of one window served in the order of admission, `n` at most. -/
def State.serveWindow (st : Nat) : Nat → State → State
  | 0, s => s
  | n + 1, s => match (s.nmu st).window.head? with
    | some r => State.serveWindow st n (s.serve st r)
    | none => s

/-- Every admitted entry served in the order of admission: what an access that passes by the sorter finds done (R273). -/
def State.serveAll (s : State) : State := s.chip.nmus.foldl (fun a p => State.serveWindow p.1 p.2.window.length a) s

/-- A read or write of any key, stack or Isle, by a block that is not the core's own: it finds every write done that an NMU has
acknowledged (R273). -/
def State.anyRead (s : State) (k n : Nat) (comp : Bool) : State × Bool :=
  if k < archBase then s.serveAll.stackRead k n comp else s.isleRead (coreOfDpa k) k n
def State.anyWrite (s : State) (k : Nat) (bs : List Byte) (comp : Bool) : State × Bool :=
  if k < archBase then s.serveAll.stackWrite k bs comp else s.isleWrite (coreOfDpa k) k bs

/-! ### Parameter groups (R284, R287, R298, R299) -/

def Group.kernel (g : Group) : Nat := num g.desc 0 1
def Group.xcopy (g : Group) : Bool := flg g.desc 7 7
def Group.ord (g : Group) : Nat := fld g.desc 7 6 1
def Group.nest (g : Group) : Bool := flg g.desc 7 5
def Group.fmom (g : Group) : Bool := flg g.desc 7 4
def Group.gclr (g : Group) : Bool := flg g.desc 7 3
def Group.nr (g : Group) : Nat := fld g.desc 8 0 25
def Group.nc (g : Group) : Nat := fld g.desc 12 0 25
def Group.tr (g : Group) : Nat := fld g.desc 16 0 13
def Group.tc (g : Group) : Nat := fld g.desc 18 0 13
def Group.wnoblk (g : Group) : Bool := flg g.desc 20 4
def Group.wfmt (g : Group) : Fmt := (Fmt.ofCode (fld g.desc 20 0 4)).getD .fp32
def Group.wscale (g : Group) : Nat := num g.desc 21 1
def Group.wsat (g : Group) : Bool := flg g.desc 22 2
def Group.wrnd (g : Group) : Nat := fld g.desc 22 0 2
def Group.gfmt (g : Group) : Fmt := (Fmt.ofCode (fld g.desc 23 0 4)).getD .fp32
def Group.gseed (g : Group) : Nat := num g.desc 24 4
def Group.gcva (g : Group) : Nat := num g.desc 48 6
def Group.gstride (g : Group) : Nat := num g.desc 56 4
def Group.const (g : Group) (i : Nat) : Word := BitVec.ofNat 32 (num g.desc (64 + 4 * i) 4)
def Group.wstr (g : Group) : Nat := num g.desc 100 4
def Group.xoff (g : Group) : Nat := num g.desc 104 6
def Group.nbr (g : Group) : Nat := ceilDiv g.nr g.tr
def Group.nbc (g : Group) : Nat := ceilDiv g.nc g.tc
def Group.nt (g : Group) : Nat := g.nbr * g.nbc
def Group.elems (g : Group) : Nat := g.tr * g.tc

/-- WSTR, XOFF and VSIZE of a descriptor (R298). -/
def Group.sizes (g : Group) : Nat × Nat × Nat :=
  let wstr := roundUp (16 + 16 * g.wfmt.plen g.wnoblk g.elems) 1024
  let n := g.nt * wstr
  (wstr, if g.xcopy then n else 0, roundUp (if g.xcopy then 2 * n else n) 4096)

/-- State arrays of a group, as element counts (R287); `ns` comes from its program. -/
def Group.arrays (g : Group) (ns : Nat) : List Nat :=
  let n := g.nr * g.nc
  match g.kernel with
  | 0 => [n]
  | 1 => [n, n, n]
  | 2 => [n, n]
  | 3 => [n, n]
  | 4 => [n, g.nr, g.nc] ++ (if g.fmom then [n] else [])
  | _ => n :: List.replicate ns n

/-- Offset of array `i` within a state slot. -/
def arrayOff : List Nat → Nat → Nat
  | n :: t, i + 1 => roundUp (4 * n) 1024 + arrayOff t i
  | _, _ => 0

/-- SSZ of R287. -/
def stateSize (as : List Nat) : Nat := roundUp (sumNat (as.map fun n => roundUp (4 * n) 1024)) 4096

/-- The program a group runs. -/
def State.progOf (s : State) (g : Group) : List Byte := (Tab.look (s.nmu g.stack).progs (g.kernel - 16)).getD []

/-- NS of a group's program. -/
def State.nsOf (s : State) (g : Group) : Nat := fld (s.progOf g) 1 0 2

/-- Key of array `a` of state slot `v` of a group. -/
def State.stateKey (s : State) (g : Group) (v a : Nat) : Nat :=
  let as := g.arrays (s.nsOf g)
  ((s.ctx? g.ctx).bind fun c => (segAt c.segs g.scva).map fun p => p.2.key g.scva).getD 0 + v * stateSize as + arrayOff as a

/-- Key of version slot `v` of a group. -/
def State.copyKey (s : State) (g : Group) (v : Nat) : Nat :=
  ((s.ctx? g.ctx).bind fun c => (segAt c.segs g.wcva).map fun p => p.2.key g.wcva).getD 0 + v * g.vsize

/-- Key of gradient tile `t`, with COMP of its segment. -/
def State.gradKey (s : State) (g : Group) (t : Nat) : Nat × Bool :=
  ((s.ctx? g.ctx).bind fun c => (segAt c.segs g.gcva).map fun p => (p.2.key (g.gcva + t * g.gstride), p.2.comp)).getD (0, false)

/-- The groups of a set, by stack and GID (R302). -/
def State.setGroups (s : State) (part set : Nat) : List (Nat × Nat × Group) :=
  (s.partStacks part).flatMap fun st => ((s.nmu st).groups.filter fun p => p.2.set == set && ctxPart p.2.ctx == part).map fun p => (st, p.1, p.2)

/-- A set. -/
def State.set? (s : State) (part set : Nat) : Option OptSet := Tab.look s.chip.sets (part * 16 + set)
def State.putSet (s : State) (part set : Nat) (x : OptSet) : State := { s with chip.sets := Tab.put s.chip.sets (part * 16 + set) x }
def State.modSet (s : State) (part set : Nat) (f : OptSet → OptSet) : State := { s with chip.sets := Tab.adjust s.chip.sets (part * 16 + set) f }

/-! ### Tiles built by an NMU or a port -/

/-- Element codes packed from the least significant bit on (R55). -/
def packCodes (w : Nat) (cs : List Nat) : Nat := cs.foldr (fun c a => a * 2 ^ w + c) 0

/-- A list cut into pieces of `n`. -/
def chunks {α : Type} (n : Nat) : Nat → List α → List (List α)
  | 0, _ => []
  | k + 1, l => if l.isEmpty then [] else l.take n :: chunks n k (l.drop n)

/-- The payload of a tile of binary32 values, encoded, with the flags of the encode (R55, R63 to R65). -/
def tilePayload (en : Enc) (vals : List Word) : List Byte × Flags :=
  let n := vals.length
  let b := en.fmt.blockOf en.noblk
  let items := (List.range n).zip vals
  let blocks := chunks (if b = 0 then max 1 n else b) (n + 1) items
  let rs := blocks.map (encodeBlock en)
  let stored := en.fmt.stored en.noblk n
  let codes := rs.flatMap (·.1)
  let scales := if b = 0 then [] else rs.map (·.2.1)
  let el := 16 * en.fmt.elemUnits en.noblk n
  let total := 16 * en.fmt.plen en.noblk n
  (leBytes el (packCodes en.fmt.width (codes ++ List.replicate (stored - n) 0))
      ++ (scales.flatMap fun x => leBytes 1 x) ++ leBytes (total - el - scales.length) 0,
    rs.foldl (fun a r => a.or r.2.2) {})

/-- Header and payload of tile `t` of a working copy in element order `ord` for epoch `ep` (R299 to R301); `val` gives w2. -/
def Group.copyTile (g : Group) (ord t ep : Nat) (second : Bool) (val : Nat → Nat → Word) : List Byte × Flags :=
  let b := t / g.nbc
  let c := t % g.nbc
  let at_ (l : Nat) : Nat × Nat := if ord = 0 then (b * g.tr + l / g.tc, c * g.tc + l % g.tc) else (b * g.tr + l % g.tr, c * g.tc + l / g.tr)
  let vals := (List.range g.elems).map fun l => let p := at_ l; if p.1 < g.nr ∧ p.2 < g.nc then val p.1 p.2 else 0#32
  let n := if second then t + g.nt else t
  let seed := (g.gseed ^^^ (ep * 0x85EBCA6B) % 2 ^ 32) ^^^ (n * 0xC2B2AE35) % 2 ^ 32
  let en : Enc := { fmt := g.wfmt, noblk := g.wnoblk, scale := g.wscale, rnd := g.wrnd, sat := g.wsat, seed := seed }
  let p := tilePayload en vals
  let h : Hdr := { fmt := g.wfmt, noblk := g.wnoblk, scale := g.wscale, layer := g.layer, epoch := ep % 65536, ctx := g.ctx
                   count := g.elems, plen := g.wfmt.plen g.wnoblk g.elems }
  (h.bytes ++ p.1, p.2)

/-- A tile written into a version slot: its header pending, the payload, its final header (R142, R299). The answer says whether a write
dropped bytes. -/
def State.putTile (s : State) (k : Nat) (bs : List Byte) : State × Bool :=
  let w := s.stackWrite k (slice bs 0 15 ++ leBytes 1 (255 - num bs 15 1) ++ bs.drop 16) false
  if w.2 then w else w.1.stackWrite k (slice bs 0 16) false

/-- Tile `t` of the working copies written into version slot `v`, with the sticky flags of the encode (R298 to R301, R305). The answer
says whether an uncorrectable sector of the slot kept bytes from being written (R304). -/
def State.writeCopies (s : State) (g : Group) (v t ep : Nat) (val : Nat → Nat → Word) : State × Bool :=
  let base := s.copyKey g v
  let p := g.copyTile g.ord t ep false val
  let w := s.putTile (base + t * g.wstr) p.1
  if w.2 || !g.xcopy then (w.1.stick g.ctx p.2, w.2)
  else
    let q := g.copyTile (1 - g.ord) t ep true val
    let w2 := w.1.putTile (base + g.xoff + t * g.wstr) q.1
    (w2.1.stick g.ctx (p.2.or q.2), w2.2)

/-- A gradient clear (R310) for epoch `ep`. -/
def State.clearGrads (s : State) (g : Group) (ep : Nat) : State :=
  let f := g.gfmt
  let h : Hdr := { fmt := f, noblk := false, scale := 0x7F, layer := g.layer, epoch := ep % 65536, ctx := g.ctx, count := g.elems
                   plen := f.plen false g.elems }
  let el := 16 * f.elemUnits false g.elems
  let nb := f.blocks false g.elems
  let pay := leBytes el 0 ++ List.replicate nb 0x7F#8 ++ leBytes (16 * h.plen - el - nb) 0
  (List.range g.nt).foldl (fun a t => let k := a.gradKey g t; (a.stackWrite k.1 (h.bytes ++ pay) k.2).1) s

/-! ### Kernels (R293 to R297, R307) -/

/-- A binary32 value with the flags of all that led to it. -/
abbrev FW := Word × Flags

def fw (w : Word) : FW := (w, {})
def op1 (f : Word → Word × Flags) (a : FW) : FW := let r := f a.1; (r.1, a.2.or r.2)
def op2 (f : Word → Word → Word × Flags) (a b : FW) : FW := let r := f a.1 b.1; (r.1, (a.2.or b.2).or r.2)
def op3 (f : Word → Word → Word → Word × Flags) (a b c : FW) : FW := let r := f a.1 b.1 c.1; (r.1, ((a.2.or b.2).or c.2).or r.2)

/-- sign(x) of R296. -/
def fsign (a : Word) : Word × Flags :=
  if (f32 a).isNaN then (nan32, {}) else if (f32 a).isZero then (0#32, {})
  else (if a.toNat.testBit 31 then 0xBF800000#32 else 0x3F800000#32, {})

/-- NaN or infinite. -/
def nonFinite (w : Word) : Bool := !(f32 w).isFinite

/-- Registers, outputs and flags while a program runs. -/
structure UState where
  regs : Tab Word := []
  outs : Tab Word := []
  flags : Flags := {}

/-- One instruction of update microcode on the registers (R307): operands by code, outputs by code. Every operation raises its flags,
whatever becomes of its result (R66). -/
def ucodeStep (k : Nat → Word) (src : Nat → Word) (i : List Byte) (st : UState) : UState :=
  let reg (n : Nat) : Word := if n < 16 then Tab.get st.regs 0#32 n else k (n - 16)
  let rd := fld i 1 0 4
  let a := reg (fld i 2 0 5)
  let b := reg (fld i 3 0 5)
  let c := reg (fld i 4 0 5)
  let put (v : Word × Flags) : UState := { st with regs := Tab.put st.regs rd v.1, flags := st.flags.or v.2 }
  match num i 0 1 with
  | 0x01 => put (fadd a b)
  | 0x02 => put (fsub a b)
  | 0x03 => put (fmul a b)
  | 0x04 => put (ffma a b c)
  | 0x05 => put (fdiv a b)
  | 0x06 => put (fsqrt a)
  | 0x07 => put (fmax a b)
  | 0x08 => put (fmin a b)
  | 0x09 => put (fabs a)
  | 0x0A => put (fneg a)
  | 0x0B => put (fsign a)
  | 0x0C => put (if (f32 a).isNaN then nan32 else if a.toNat.testBit 31 then b else c, {})
  | 0x10 => put (src (fld i 2 0 5), {})
  | 0x11 => { st with outs := Tab.put st.outs rd a }
  | _ => st

/-- Outputs W', S1', … of one element under a program, with the flags of the whole of it. -/
def ucodeRun (prog : List Byte) (ns : Nat) (k : Nat → Word) (src : Nat → Word) : List FW :=
  let st := (List.range (num prog 0 1)).foldl (fun st n => ucodeStep k src (slice prog (16 + 8 * n) 8) st) {}
  (List.range (ns + 1)).map fun o => (Tab.get st.outs 0#32 (o + 1), st.flags)

/-- Unused operand fields of an instruction are zero and its sources exist (R307). -/
def ucodeOk (ns : Nat) (i : List Byte) : Bool :=
  let op := num i 0 1
  let z (a b c : Bool) : Bool := (!a || fld i 2 0 5 == 0) && (!b || fld i 3 0 5 == 0) && (!c || fld i 4 0 5 == 0)
  zeroFlds i [(1, 4, 4), (2, 5, 3), (3, 5, 3), (4, 5, 3), (5, 0, 24)] &&
    (if op = 1 ∨ op = 2 ∨ op = 3 ∨ op = 5 ∨ op = 7 ∨ op = 8 then z false false true
     else if op = 4 ∨ op = 0x0C then true
     else if op = 6 ∨ op = 9 ∨ op = 0x0A ∨ op = 0x0B then z false true true
     else if op = 0x10 then z false true true && decide (fld i 2 0 5 ≤ 1 + ns)
     else if op = 0x11 then z false true true && decide (1 ≤ fld i 1 0 4 ∧ fld i 1 0 4 ≤ 1 + ns)
     else false)

/-- A program passes its load checks (R306, R307). -/
def ucodeLoadOk (p : List Byte) : Bool :=
  let n := num p 0 1
  let ns := fld p 1 0 2
  let is := (List.range n).map fun k => slice p (16 + 8 * k) 8
  decide (1 ≤ n ∧ n ≤ 64) && zeroFlds p [(1, 2, 6)] && zeroRange p 2 14 && is.all (ucodeOk ns) &&
    (List.range (ns + 1)).all fun o => (is.filter fun i => num i 0 1 == 0x11 && fld i 1 0 4 == o + 1).length == 1

/-- Constant K[i] of a group under a step block (R292, R293). -/
def kernelConst (g : Group) (step : List Byte) (i : Nat) : Word :=
  if i < 8 then g.const i else BitVec.ofNat 32 (num step (4 * (i - 8)) 4)

/-- Outputs of one element: W', then the other arrays (R296, R297 pass 2, R307). `ins` are the arrays of slot CUR; `vh` is
FAC's second moment. -/
def kernelElem (g : Group) (prog : List Byte) (k : Nat → Word) (gd : FW) (ins : Nat → Word) (vh : FW) : List FW :=
  let c (i : Nat) : FW := fw (k i)
  let gg := op2 fmul gd (c 11)
  let lre := op2 fmul (c 8) (c 6)
  let lrw := op2 fmul lre (c 5)
  let w := fw (ins 0)
  let m := fw (ins 1)
  let decay := op3 ffma (op1 fneg lrw) w w
  match g.kernel with
  | 0 => [w]
  | 1 =>
    let v := fw (ins 2)
    let m1 := op3 ffma (c 0) m (op2 fmul (c 1) gg)
    let v1 := op3 ffma (c 2) v (op2 fmul (c 3) (op2 fmul gg gg))
    let mh := op2 fmul m1 (c 9)
    let vv := op2 fmul v1 (c 10)
    let u := op2 fdiv mh (op2 fadd (op1 fsqrt vv) (c 4))
    [op3 ffma (op1 fneg lre) u decay, m1, v1]
  | 2 =>
    let u := op1 fsign (op3 ffma (c 0) m (op2 fmul (c 1) gg))
    [op3 ffma (op1 fneg lre) u decay, op3 ffma (c 2) m (op2 fmul (c 3) gg)]
  | 3 =>
    let g1 := if (f32 (k 5)).isZero then gg else op3 ffma (c 5) w gg
    let m1 := op3 ffma (c 0) m (op2 fmul (c 1) g1)
    let d := if g.nest then op3 ffma (c 0) m1 g1 else m1
    [op3 ffma (op1 fneg lre) d w, m1]
  | 4 =>
    let u := op2 fdiv gg (op2 fadd (op1 fsqrt vh) (c 7))
    let mm := fw (ins 3)
    let m1 := op3 ffma (c 0) mm (op2 fmul (c 1) u)
    let d := if g.fmom then m1 else u
    [op3 ffma (op1 fneg lre) d decay] ++ (if g.fmom then [m1] else [])
  | _ => (ucodeRun prog (fld prog 1 0 2) k fun i => if i = 0 then gd.1 else ins (i - 1)).map fun o => (o.1, o.2.or gd.2)

/-- An ERR recorded in a set's result; the first one gives status, detail, GID and stack (R305) (log 40: DESIGN CHOICE). -/
def OptSet.noteErr (x : OptSet) (st : Status) (detail gid stack : Nat) : OptSet :=
  if x.err then x else { x with err := true, estatus := st.code, edetail := detail, egid := gid, estack := stack }

/-- Where a kernel stands: the state so far, OVF, BAD, flags, and whether it has ended with ERR. -/
structure KRun where
  s : State
  ovf : Bool := false
  bad : Bool := false
  flags : Flags := {}
  err : Bool := false

/-- A kernel goes on to its next tile (R302 step 2). -/
def KRun.goes (r : KRun) : Bool := !r.ovf && !r.err

/-- A word of an array. -/
def State.word (s : State) (k i : Nat) : Word := BitVec.ofNat 32 (leNat (s.rdN (k + 4 * i) 4))

/-- Gradient element (i, j), decoded under R60 with the flags of the decode (R294). -/
def State.gradAt (s : State) (g : Group) (i j : Nat) : FW :=
  let t := i / g.tr * g.nbc + j / g.tc
  let k := (s.gradKey g t).1
  decodeElem (s.payload k) (Hdr.parse (s.rdN k 16)) (j % g.tc + g.tc * (i % g.tr))

/-- Rows of tile `t` that are visited, in order: row, first column, columns (R294). -/
def Group.rowsOf (g : Group) (t : Nat) : List (Nat × Nat × Nat) :=
  let b := t / g.nbc
  let c := t % g.nbc
  (List.range g.tr).filterMap fun i => if b * g.tr + i < g.nr then some (b * g.tr + i, c * g.tc, min g.tc (g.nc - c * g.tc)) else none

/-- Elements of tile `t` that are visited, in order (R294). -/
def Group.visits (g : Group) (t : Nat) : List (Nat × Nat) := (g.rowsOf t).flatMap fun r => (List.range r.2.2).map fun j => (r.1, r.2.1 + j)

/-- The arrays that a kernel's element outputs go to. -/
def Group.outArrays (g : Group) (n : Nat) : List Nat := if g.kernel = 4 then [0, 3].take n else List.range n

/-- The arrays of slot CUR that a kernel reads for each element. -/
def State.inArrays (s : State) (g : Group) : List Nat :=
  if g.kernel = 4 then (if g.fmom then [0, 3] else [0]) else List.range (g.arrays (s.nsOf g)).length

/-- A group ends with ERR. -/
def State.groupErr (s : State) (part set gid stack : Nat) (st : Status) (detail : Nat) : State :=
  (s.modGroup stack gid fun y => { y with err := true }).modSet part set fun y => y.noteErr st detail gid stack

/-- A group meets an uncorrectable sector (R304); the detail of its ERR is not stated: a free value (log 38: DEDUCED; log 129: DESIGN
CHOICE). -/
def State.sectorErr (s : State) (part set gid stack : Nat) : State :=
  let f := s.draw 19
  f.1.groupErr part set gid stack .integrity (f.2 % 256)

/-- The header of a gradient tile validated before its use (R295): none, or the number that the failure carries. The detail of a FMT or
COUNT that fails the added conditions is not stated: 0 stands for a free value (log 41: DESIGN CHOICE). -/
def State.gradFail (s : State) (g : Group) (epoch t : Nat) : Option Nat :=
  let h := s.rdN (s.gradKey g t).1 16
  let k := Hdr.parse h
  match hdrCheck (s.ctxOk (ctxPart g.ctx)) h with
  | some n => some n
  | none => if 12 < k.fmt.code ∨ k.count ≠ g.elems then some 0 else if k.epoch ≠ epoch % 65536 then some 8 else none

/-- What a kernel does before it uses gradient tile `t`: the tile is read (R304) and its header validated (R295). -/
def KRun.tileIn (r : KRun) (g : Group) (gid stack epoch t : Nat) : KRun :=
  let s := r.s
  let part := ctxPart g.ctx
  let k := s.gradKey g t
  let hd := s.stackRead k.1 16 k.2
  if hd.2 then { r with s := hd.1.sectorErr part g.set gid stack, err := true }
  else match s.gradFail g epoch t with
  | some n0 =>
    let f := if n0 = 0 then hd.1.draw 6 else (hd.1, 0)
    let n := if n0 = 0 then f.2 % 256 else n0
    { r with err := true
             s := (f.1.raise { src := 0x10, unit := stack, ctx := some g.ctx, detail := n, info := g.gcva + t * g.gstride, ukind := some 3 }).groupErr
               part g.set gid stack .integrity n }
  | none =>
    let n := (Hdr.parse (s.rdN k.1 16)).total
    let rd := if k.2 && decide (k.1 / 1024 = (k.1 + n - 1) / 1024) then (hd.1, false) else hd.1.stackRead ((k.1 / 32 + 1) * 32) (k.1 + n - (k.1 / 32 + 1) * 32) k.2
    if rd.2 then { r with s := rd.1.sectorErr part g.set gid stack, err := true } else { r with s := rd.1 }

/-- Ranges of the state space met by a read: the kernel ends with ERR at an uncorrectable one. -/
def KRun.readIn (r : KRun) (g : Group) (gid stack : Nat) (rs : List (Nat × Nat)) : KRun :=
  let x := rs.foldl (fun (a : State × Bool) p => let y := a.1.stackRead p.1 p.2 false; (y.1, a.2 || y.2)) (r.s, false)
  if x.2 then { r with s := x.1.sectorErr (ctxPart g.ctx) g.set gid stack, err := true } else { r with s := x.1 }

/-- Runs of words written into slot 1 − CUR: BAD for one that is not finite, ERR where an uncorrectable sector drops bytes (R304). -/
def KRun.writeOut (r : KRun) (g : Group) (gid stack : Nat) (ws : List (Nat × List Word)) : KRun :=
  let x := ws.foldl (fun (a : State × Bool) p =>
    let y := a.1.stackWrite p.1 (p.2.flatMap fun w => leBytes 4 w.toNat) false; (y.1, a.2 || y.2)) (r.s, false)
  let b := ws.any fun p => p.2.any nonFinite
  if x.2 then { r with s := x.1.sectorErr (ctxPart g.ctx) g.set gid stack, err := true, bad := r.bad || b } else { r with s := x.1, bad := r.bad || b }

/-- Pass 1 of FAC over the tiles below `n`: the row and column sums (R297). -/
def State.facSums (s : State) (g : Group) (k : Nat → Word) (n : Nat) : (Nat → FW) × (Nat → FW) :=
  let c (i : Nat) : FW := fw (k i)
  let q (i j : Nat) : FW := let gg := op2 fmul (s.gradAt g i j) (c 11); op3 ffma gg gg (c 4)
  let seen (i j : Nat) : Bool := decide (i / g.tr * g.nbc + j / g.tc < n)
  (fun i => ((List.range g.nc).filter (seen i)).foldl (fun a j => op2 fadd a (q i j)) (fw 0#32),
    fun j => ((List.range g.nr).filter fun i => seen i j).foldl (fun a i => op2 fadd a (q i j)) (fw 0#32))

/-- What follows pass 1 of FAC: rsn and csn of every row and column, and INVRM (R297). -/
def State.facStats (s : State) (g : Group) (k : Nat → Word) : (Nat → FW) × (Nat → FW) × FW :=
  let c (i : Nat) : FW := fw (k i)
  let one : FW := fw 0x3F800000#32
  let ofNat (n : Nat) : FW := fw (toF32 (.fin false n 0))
  let sums := s.facSums g k g.nt
  let ir := op2 fdiv one (ofNat g.nr)
  let ic := op2 fdiv one (ofNat g.nc)
  let rsn (i : Nat) : FW := op3 ffma (c 2) (fw (s.word (s.stateKey g g.cur 1) i)) (op2 fmul (c 3) (op2 fmul (sums.1 i) ic))
  let csn (j : Nat) : FW := op3 ffma (c 2) (fw (s.word (s.stateKey g g.cur 2) j)) (op2 fmul (c 3) (op2 fmul (sums.2 j) ir))
  let tot := (List.range g.nr).foldl (fun a i => op2 fadd a (rsn i)) (fw 0#32)
  (rsn, csn, op2 fdiv one (op2 fmul tot ir))

/-- Some visited gd of tile `t`, or g, is NaN or infinite (R305). -/
def State.tileOvf (s : State) (g : Group) (k : Nat → Word) (t : Nat) : Bool :=
  (g.visits t).any fun p => let gd := s.gradAt g p.1 p.2; nonFinite gd.1 || nonFinite (fmul gd.1 (k 11)).1

/-- One tile of pass 1 of FAC: the answer counts the tiles taken in. -/
def KRun.pass1 (g : Group) (gid stack epoch : Nat) (k : Nat → Word) (t : Nat) (r : KRun × Nat) : KRun × Nat :=
  if !r.1.goes then r
  else
    let x := r.1.tileIn g gid stack epoch t
    if x.err then (x, r.2) else ({ x with ovf := x.s.tileOvf g k t }, t + 1)

/-- What a kernel reads for tile `t`: the gradient tile, then the state elements of slot CUR (R294, R304). -/
def KRun.inputs (r : KRun) (g : Group) (gid stack epoch t : Nat) : KRun :=
  let r1 := if g.kernel = 0 then r else r.tileIn g gid stack epoch t
  if r1.err then r1
  else r1.readIn g gid stack ((r.s.inArrays g).flatMap fun a => (g.rowsOf t).map fun p => (r.s.stateKey g g.cur a + 4 * (p.1 * g.nc + p.2.1), 4 * p.2.2))

/-- What a kernel computes for tile `t` and writes into slot 1 − CUR, with its flags and OVF (R294, R305). -/
def KRun.outputs (r : KRun) (g : Group) (gid stack : Nat) (step : List Byte) (fac : (Nat → FW) × (Nat → FW) × FW) (t : Nat) : KRun :=
  let s := r.s
  let k := kernelConst g step
  let elem (i j : Nat) : List FW :=
    let gd := if g.kernel = 0 then fw 0#32 else s.gradAt g i j
    let vh := if g.kernel = 4 then op2 fmul (op2 fmul (fac.1 i) (fac.2.1 j)) fac.2.2 else fw 0#32
    kernelElem g (s.progOf g) k gd (fun n => s.word (s.stateKey g g.cur n) (i * g.nc + j)) vh
  let outs := (g.rowsOf t).map fun p => (p, (List.range p.2.2).map fun j => elem p.1 (p.2.1 + j))
  let flags := outs.foldl (fun f x => x.2.foldl (fun f e => e.foldl (fun f o => f.or o.2) f) f) r.flags
  let m := (outs.head?.bind (·.2.head?)).elim 0 (·.length)
  let ws := ((List.range m).zip (g.outArrays m)).flatMap fun o => outs.map fun x =>
    (s.stateKey g (1 - g.cur) o.2 + 4 * (x.1.1 * g.nc + x.1.2.1), x.2.map fun e => (e.getD o.1 (fw 0#32)).1)
  ({ r with flags := flags, ovf := g.kernel != 0 && s.tileOvf g k t } : KRun).writeOut g gid stack ws

/-- The working copies of tile `t` written into version slot `v` (R299, R304). -/
def KRun.copies (r : KRun) (g : Group) (gid stack v ep t : Nat) : KRun :=
  let w := r.s.writeCopies g v t ep fun i j => r.s.word (r.s.stateKey g (1 - g.cur) 0) (i * g.nc + j)
  if w.2 then { r with s := w.1.sectorErr (ctxPart g.ctx) g.set gid stack, err := true } else { r with s := w.1 }

/-- One tile of a group's kernel: its reads, the states of slot 1 − CUR, then the working copies (R294, R299). -/
def KRun.tile (g : Group) (gid stack : Nat) (step : List Byte) (v ep epoch : Nat) (fac : (Nat → FW) × (Nat → FW) × FW) (t : Nat) (r : KRun) : KRun :=
  if !r.goes then r
  else
    let r2 := r.inputs g gid stack epoch t
    if r2.err then r2
    else
      let r3 := r2.outputs g gid stack step fac t
      if r3.err then r3 else r3.copies g gid stack v ep t

/-- The part of FAC before its second pass: pass 1 tile by tile, then RSTAT and CSTAT (R297). A stop within pass 1 leaves the flags of
the tiles that it took in. -/
def KRun.facStart (r : KRun) (g : Group) (gid stack epoch : Nat) (k : Nat → Word) : KRun :=
  let p := (List.range g.nt).foldl (fun a t => KRun.pass1 g gid stack epoch k t a) (r, 0)
  let sums := p.1.s.facSums g k p.2
  let f1 := (List.range g.nc).foldl (fun f j => f.or (sums.2 j).2) ((List.range g.nr).foldl (fun f i => f.or (sums.1 i).2) p.1.flags)
  let r1 := { p.1 with flags := f1 }
  if !r1.goes then r1
  else
    let s := r1.s
    let r2 := r1.readIn g gid stack [(s.stateKey g g.cur 1, 4 * g.nr), (s.stateKey g g.cur 2, 4 * g.nc)]
    if r2.err then r2
    else
      let fac := r2.s.facStats g k
      let f2 := (List.range g.nc).foldl (fun f j => f.or (fac.2.1 j).2) ((List.range g.nr).foldl (fun f i => f.or (fac.1 i).2) (f1.or fac.2.2.2))
      ({ r2 with flags := f2 } : KRun).writeOut g gid stack
        [(s.stateKey g (1 - g.cur) 1, (List.range g.nr).map fun i => (fac.1 i).1), (s.stateKey g (1 - g.cur) 2, (List.range g.nc).map fun j => (fac.2.1 j).1)]

/-- A group's kernel run to its end, or to the tile at which it stops; its flags stick in the owning context (R305). -/
def State.runKernel (s : State) (g : Group) (gid stack : Nat) (step : List Byte) (v ep epoch : Nat) : KRun :=
  let k := kernelConst g step
  let r1 := if g.kernel = 4 then ({ s := s } : KRun).facStart g gid stack epoch k else { s := s }
  let fac := if g.kernel = 4 then r1.s.facStats g k else (fun _ => fw 0#32, fun _ => fw 0#32, fw 0#32)
  let r := (List.range g.nt).foldl (fun a t => KRun.tile g gid stack step v ep epoch fac t a) r1
  { r with s := r.s.stick g.ctx r.flags }

/-! ### Claims and their grant (R302, R303) -/

/-- The version slot an update claims: the one that is not CURRENT; slot 0 when neither is. -/
def Group.target (g : Group) : Nat := if g.v0.st = .current then 1 else 0

/-- A group's claim made: a FREE slot at once, a PRIOR one stops resolving and is granted at count zero. A claim already made is
granted in the same way. -/
def Group.claim (g : Group) (ep : Nat) : Group :=
  let v := g.target
  let x := g.slot v
  match x.st with
  | .prior => if x.count = 0 then g.setSlot v { st := .staging, epoch := ep } else g.setSlot v { x with claimed := true }
  | _ => g.setSlot v { st := .staging, epoch := ep }

/-- Groups of a set changed. -/
def State.modGroups (s : State) (part set : Nat) (f : Group → Group) : State :=
  (s.setGroups part set).foldl (fun a x => a.modGroup x.1 x.2.1 f) s

/-- A state-load or weight-import of a group of a set runs: an update-stage waits for it in step 1 (R316) (log 35: DEDUCED). -/
def State.loading (s : State) (part set : Nat) : Bool :=
  s.chip.hif.running.any fun r => match r.await with
    | .load st gid _ _ => (s.group? st gid).elim false fun g => ctxPart g.ctx == part && g.set == set
    | _ => false

/-- Claims made once no load runs, and granted, in every STAGING set (log 35: DEDUCED). -/
def State.grantClaims (s : State) : State :=
  s.chip.sets.foldl (fun a p =>
    if p.2.st = .staging ∧ !p.2.kernels then
      if a.loading (p.1 / 16) (p.1 % 16) then a else a.modGroups (p.1 / 16) (p.1 % 16) (·.claim ((p.2.epoch + 1) % 2 ^ 32))
    else a) s

/-! ### Commit and abort (R308 to R310) -/

/-- A group after COMMIT to epoch `ep`. -/
def Group.commit (g : Group) : Group :=
  let rot (v : VSlot) : VSlot := match v.st with
    | .current => { v with st := .prior, claimed := false }
    | .staging => { v with st := .current, claimed := false }
    | _ => v
  { g with cur := if g.pend then 1 - g.cur else g.cur, pend := false, v0 := rot g.v0, v1 := rot g.v1, err := false }

/-- A group after ABORT. -/
def Group.abort (g : Group) : Group :=
  let rot (v : VSlot) : VSlot := match v.st with
    | .staging => {}
    | .prior => { v with claimed := false }
    | _ => v
  { g with pend := false, v0 := rot g.v0, v1 := rot g.v1, err := false }

/-- The NMUs apply a decision on a set: slots, flags, gradient clears for the epoch after it. -/
def State.nmuResolve (s : State) (part set : Nat) (commit : Bool) (ep : Nat) : State :=
  let gs := s.setGroups part set
  let layers := gs.map (·.2.2.layer)
  let s1 := gs.foldl (fun a x =>
    let b := a.modGroup x.1 x.2.1 fun g => if commit then g.commit else g.abort
    b.modNmu x.1 fun n => { n with accf := n.accf.filter fun p => !layers.contains p.1 }) s
  gs.foldl (fun a x => if x.2.2.gclr then a.clearGrads x.2.2 ep else a) s1

end Sys2Proof.Machine
end

