-- ==== Sys2Proof/Machine/LinkOps.lean ====
section
/-! DEFINITION. What a Nellon port's link does, by shared operations: lanes and widths (R354, R362, R378 to R380), training and
retraining (R363, R382, R383), flits, acknowledgement and replay (R365 to R373), credits (R374 to R377), messages (R384,
R385). -/

namespace Sys2Proof.Machine

open Sys2Proof

def State.port (s : State) (n : Nat) : Port := Tab.get s.chip.ports {} n
def State.setPort (s : State) (n : Nat) (p : Port) : State := { s with chip.ports := Tab.set s.chip.ports {} n p }
def State.modPort (s : State) (n : Nat) (f : Port → Port) : State := s.setPort n (f (s.port n))

/-! ### Lanes and widths (R378 to R380) -/

def Port.lane (p : Port) (l : Nat) : Lane := p.lanes.getD l {}
def Port.setLane (p : Port) (l : Nat) (x : Lane) : Port := { p with lanes := p.lanes.set l x }

/-- A lane is good: found, locked, and bad in neither direction. -/
def Lane.good (x : Lane) : Bool := x.seen && x.locked && !x.bad

/-- The groups in the order of R380: width code, lowest lane, lanes. -/
def laneGroups : List (Nat × Nat × Nat) := [(3, 0, 8), (2, 0, 4), (2, 4, 4), (1, 0, 2), (1, 2, 2), (1, 4, 2), (1, 6, 2)]

/-- The receive lane that lane `k` of the partner's transmitter feeds (R364). -/
def Port.rxOf (p : Port) (k : Nat) : Nat := ((List.range 8).find? fun l => (p.lane l).seen && (p.lane l).partner == k).getD k

/-- Lane number `k` meets `ok` in the direction received: lane numbers are the transmitter's physical ones (R364). -/
def Port.rxMeets (p : Port) (ok : Lane → Bool) (k : Nat) : Bool :=
  (List.range 8).any fun l => (p.lane l).seen && (p.lane l).partner == k && ok (p.lane l)

/-- The widest group of at most width code `w` whose lane numbers all meet `ok`, the lowest among equals (R380). -/
def Port.widest (_ : Port) (w : Nat) (ok : Nat → Bool) : Option (Nat × Nat × Nat) :=
  (laneGroups.filter fun g => decide (g.1 ≤ w)).find? fun g => (List.range g.2.2).all fun i => ok (g.2.1 + i)

/-- Lane number `k` is good in both directions: this end's pair `k` sends it, and another pair may receive it (R363, R364). -/
def Port.bothGood (p : Port) (k : Nat) : Bool := (p.lane k).good && p.rxMeets Lane.good k

/-- Lanes of a width code. -/
def lanesOf (w : Nat) : Nat := if w = 3 then 8 else if w = 2 then 4 else if w = 1 then 2 else 0

/-- Lane numbers of the group in use. -/
def Port.group (p : Port) : List Nat := (List.range (lanesOf p.width)).map (p.grp + ·)

/-- The pair `l` of this end sends or receives a lane of the group in use. -/
def Port.inGroup (p : Port) (l : Nat) : Bool := p.group.contains l || p.group.any fun k => p.rxOf k == l

/-- LGOOD: bit l, lane l is good (R384, R387). -/
def Port.lgood (p : Port) : Nat := (List.range 8).foldl (fun a l => a + b2n (p.lane l).good * 2 ^ l) 0

/-! ### Transmit equalisation (R354, R362) -/

/-- Range of tap `i`, in hundredths, from c(−3) to c(1). -/
def tapRange (i : Nat) : Int × Int :=
  if i = 0 then (-10, 10) else if i = 1 then (-20, 20) else if i = 2 then (-40, 0) else if i = 3 then (50, 100) else (-25, 0)

/-- Presets 1 and 2. -/
def presetTaps (n : Nat) : List Int := if n = 2 then [0, 0, -15, 75, -10] else [0, 0, 0, 100, 0]

/-- A request for one tap: its new value and its report (R354, R362: 1 updated, 2 at minimum, 3 at maximum). -/
def askTap (taps : List Int) (i req : Nat) : List Int × Nat :=
  let v := taps.getD i 0
  let n := if req = 1 then v + 1 else v - 1
  let new := taps.set i n
  let r := tapRange i
  if r.1 ≤ n ∧ n ≤ r.2 ∧ (new.map Int.natAbs).foldl (· + ·) 0 ≤ 100 then (new, 1)
  else (taps, if req = 1 then 3 else 2)

/-- A control field's requests acted on by the transmitter of the lane; each request once, until the partner holds (R362). -/
def Lane.request (x : Lane) (preset : Nat) (req : Nat → Nat) : Lane :=
  if preset = 1 ∨ preset = 2 then { x with taps := presetTaps preset, sts := [1, 1, 1, 1, 1], held := List.replicate 5 false }
  else (List.range 5).foldl (fun (y : Lane) i =>
    let r := req i
    if r = 0 then { y with held := y.held.set i true, sts := y.sts.set i 0 }
    else if (r = 1 ∨ r = 2) ∧ y.held.getD i true then
      let t := askTap y.taps i r
      { y with taps := t.1, sts := y.sts.set i t.2, held := y.held.set i false }
    else y) x

/-! ### Training frames (R362) -/

/-- A control field with its CHK. -/
def frameField (body : Nat) : Nat := body + 2 ^ 56 * crc8 (leBytes 7 body)

/-- CHK of a received control field holds. -/
def frameOk (ctl : Nat) : Bool := bitsOf ctl 56 8 == crc8 (leBytes 7 ctl)

/-- TSTATE of a port that sends training frames. -/
def tstate : LinkState → Nat
  | .detect => 1
  | .eq => 3
  | _ => 2

/-- Five two-bit fields, c(−3) first in the highest bits. -/
def tapField (l : List Nat) : Nat := l.foldl (fun a v => 4 * a + v % 4) 0

/-- The two bits of tap `i` in a ten-bit field. -/
def tapBits (f i : Nat) : Nat := bitsOf f (2 * (4 - i)) 2

/-- A lane sends training frames: every lane in DETECT, LOCK and EQ, those of the new group in a fast retrain (R362, R382). -/
def Port.frames (p : Port) (l : Nat) : Bool :=
  p.st == .detect || p.st == .lock || p.st == .eq || (p.st == .retrain && p.group.contains l)

/-- The control field a lane sends; only EQ makes requests (log 107: DESIGN CHOICE). -/
def Port.frameOut (p : Port) (l : Nat) : Nat :=
  let x := p.lane l
  frameField (l * 2 ^ 53 + tstate p.st * 2 ^ 49 + b2n x.rdySent * 2 ^ 48 + b2n x.pre * 2 ^ 47
    + (if p.st = .eq then x.ask % 2 ^ 12 * 2 ^ 35 else 0) + tapField x.sts * 2 ^ 25)

/-- Lane `l` sends frames of its present control field; its generator goes on from frame to frame. -/
def State.sendFrame (s : State) (n l : Nat) : State :=
  let p := s.port n
  if p.frames l then
    (s.setPort n (p.setLane l { p.lane l with prbs := Config.prbs13q (p.lane l).prbs })).send (.frame n l (p.frameOut l) (p.lane l).prbs)
  else s

/-- A training state is entered: every lane that sends frames sends them with that state's control field. -/
def State.sendFrames (s : State) (n : Nat) : State := (List.range 8).foldl (fun a l => a.sendFrame n l) s

/-! ### Flits (R365 to R367) -/

/-- CRC-64 of R367. -/
def crc64 (bs : List Byte) : Nat := crcLsb 0xC96C5795D7870F42 0xFFFFFFFFFFFFFFFF bs ^^^ 0xFFFFFFFFFFFFFFFF

/-- A flit with its CRC (log 109: DEDUCED). -/
def mkFlit (ftype seq nak ack crvc crtot vc foff : Nat) (payload : List Byte) : List Byte :=
  let body := leBytes 2 (ftype * 4096 + seq) ++ leBytes 2 (nak * 32768 + ack) ++ leBytes 2 (crvc * 8192 + crtot) ++ leBytes 1 vc
    ++ leBytes 1 foff ++ slice payload 0 240
  body ++ leBytes 8 (crc64 body)

/-- The changing fields of a flit, now, and the port after they have been sent: acknowledgement and one credit count (log 109: DEDUCED). -/
def Port.stamp (p : Port) : (Nat × Nat × Nat × Nat) × Port :=
  ((b2n p.nak, (p.rxX + 4095) % 4096, p.crvc, p.freed.getD p.crvc 0), { p with nak := false, crvc := (p.crvc + 1) % 8 })

/-- SEQ of the last sequenced flit sent. -/
def Port.lastSeq (p : Port) : Nat := (p.txSeq + 4095) % 4096

/-- Bytes of the flit stream in a codeword: 5,120 bits (R359). -/
def cwBytes : Nat := 640

/-- A flit leaves; it joins the flit stream, and a codeword leaves once its part of the stream is whole (R359)
(log 108: DESIGN CHOICE). -/
def State.sendFlit (s : State) (n : Nat) (f : List Byte) : State :=
  let s1 := s.send (.flit n f)
  let p := s1.port n
  let b := p.txBits ++ f
  if b.length < cwBytes then s1.setPort n { p with txBits := b }
  else (s1.setPort n { p with txBits := b.drop cwBytes, txCw := p.txCw + 1 }).send
    (.codeword n (p.txCw % 4096 + p.width * 2 ^ 12) (b.take cwBytes))

/-- A sequenced flit sent and held for replay (R368). -/
def State.sendSequenced (s : State) (n : Nat) (ftype vc foff : Nat) (payload : List Byte) : State :=
  let p := s.port n
  let x := p.stamp
  let f := mkFlit ftype p.txSeq x.1.1 x.1.2.1 x.1.2.2.1 x.1.2.2.2 vc foff payload
  (s.setPort n { x.2 with txSeq := (p.txSeq + 1) % 4096, buf := p.buf ++ [(p.txSeq, f)] }).sendFlit n f

/-- Sequenced flits the replay buffer holds. -/
def replayMax : Nat := 2048

/-- A link message: at once, or once the replay buffer has space and no replay runs (R368, R372). -/
def State.sendMessage (s : State) (n : Nat) (m : List Byte) : State :=
  let p := s.port n
  if p.replayAt.isSome ∨ replayMax ≤ p.buf.length then s.setPort n { p with ctrl := p.ctrl ++ [m] } else s.sendSequenced n 2 0 0 m

/-- A flit that carries no sequence number of its own: IDLE, or CONFIG. -/
def State.sendUnsequenced (s : State) (n : Nat) (ftype : Nat) (payload : List Byte) : State :=
  let p := s.port n
  let x := p.stamp
  (s.setPort n x.2).sendFlit n (mkFlit ftype p.lastSeq x.1.1 x.1.2.1 x.1.2.2.1 x.1.2.2.2 0 0 payload)

/-- A held flit resent with current acknowledgement and credit fields (R372). -/
def State.resend (s : State) (n : Nat) (f : List Byte) : State :=
  let x := (s.port n).stamp
  (s.setPort n x.2).sendFlit n (mkFlit (fld f 0 12 4) (fld f 0 0 12) x.1.1 x.1.2.1 x.1.2.2.1 x.1.2.2.2 (fld f 6 0 3) (num f 7 1) (slice f 8 240))

/-- Credits a transmitter holds on a channel (R376). -/
def Port.credits (p : Port) (v : Nat) : Nat := p.init.getD v 0 - (p.sent.getD v 0 + 4096 - p.crtot.getD v 0) % 4096

/-! ### The byte streams of a channel (R366) -/

/-- Bytes of the packet that starts a stream (R394). -/
def packetBytes (bs : List Byte) : Nat := 32 + roundUp (fld bs 8 0 13) 16

/-- A stream without leading padding units. -/
def skipPad : Nat → List Byte → List Byte
  | 0, l => l
  | n + 1, l => if 16 ≤ l.length ∧ num l 0 16 = 0 then skipPad n (l.drop 16) else l

/-- The whole packets of a stream, and what is left. -/
def splitPackets : Nat → List Byte → List (List Byte) × List Byte
  | 0, l => ([], l)
  | n + 1, l =>
    let b := skipPad (l.length / 16) l
    if b.length < 32 ∨ b.length < packetBytes b then ([], b)
    else let r := splitPackets n (b.drop (packetBytes b)); (b.take (packetBytes b) :: r.1, r.2)

/-! ### Training (R363, R382, R383) -/

/-- Seed of lane `l`'s PRBS13Q generator (R362). -/
def prbsSeed (l : Nat) : Nat := 0x0001 + 0x0100 * l

/-- A lane as a full training begins: nothing learned, preset 1; `keep`, it stays bad (R390). -/
def Lane.fresh (x : Lane) (l : Nat) (keep : Bool) : Lane :=
  { lsym := x.lsym, win := x.win, prbs := prbsSeed l, bad := keep && x.bad }

/-- A port at step 1 of R363. `keep`: the bad lanes stay bad, as after a fast retrain in which a lane became bad (R379, R390). -/
def Port.detect (p : Port) (keep : Bool := false) : Port :=
  { p with st := .detect, fast := false, width := 0, recovering := false, nak := false, replayAt := none, replayFrom := none
           linked := false, crossed := false
           lanes := (p.lanes.zip (List.range 8)).map fun x => x.1.fresh x.2 keep }

/-- DETECT entered: every lane sends training frames. -/
def State.detect (s : State) (n : Nat) (keep : Bool := false) : State := (s.setPort n ((s.port n).detect keep)).sendFrames n

/-- What a lost link leaves behind: nothing held, DOWN until the next ACTIVE (R383). -/
def Port.lose (p : Port) : Port :=
  { p with down := true, downs := satAdd 16 p.downs 1, buf := [], streak := 0, ctrl := [] }

/-- A lost link: the link-down fault with the flits lost, and a full training (R383) (log 96: DEDUCED). -/
def State.loseLink (s : State) (n : Nat) (keep : Bool := false) : State :=
  let p := s.port n
  ((s.raise { src := 0x52, unit := n, info := p.buf.length }).setPort n p.lose).detect n keep

/-- A full-training step failed (step 8 of R363): WAIT, and the fault at the third failure in a row from steps 4 to 6. -/
def State.trainingFails (s : State) (n step : Nat) : State :=
  let p := s.port n
  let f := p.fails + 1
  let p1 := { p with st := .wait, fast := false, fails := f, raised := p.raised || decide (3 ≤ f) }
  let s1 := s.setPort n p1
  if 3 ≤ f ∧ !p.raised then s1.raise { src := 0x50, unit := n, detail := step } else s1

/-- ALIGN entered: the codeword streams of both directions begin (R359). -/
def Port.align (p : Port) : Port := { p with st := .align, cwGood := 0, cwHist := [], spoilt := [], txCw := 0, txBits := [] }

/-- Step 4 of R363: the width, then ALIGN. -/
def State.chooseWidth (s : State) (n : Nat) : State :=
  let p := s.port n
  match p.widest 3 p.bothGood with
  | some g => s.setPort n { p with width := g.1, grp := g.2.1 }.align
  | none => s.trainingFails n 4

/-- Step 5 done: CONFIG; a full training draws the NONCE of the new link (log 107: DESIGN CHOICE). -/
def State.enterConfig (s : State) (n : Nat) : State :=
  let p := s.port n
  if p.fast then s.setPort n { p with st := .config, cfgRx := false, echoed := false }
  else
    let d := s.draw 1
    d.1.setPort n { p with st := .config, cfgRx := false, echoed := false, nonce := d.2 % 2 ^ 32, pnonce := 0 }

/-- A link reset (R383): sequence numbers, replay buffer and credits start afresh; a partly received packet is dropped. -/
def Port.linkReset (p : Port) : Port :=
  { p with txSeq := 0, rxX := 0, buf := [], replayAt := none, replayFrom := none, streak := 0, recovering := false, nak := false
           crvc := 0, sent := List.replicate 8 0, crtot := List.replicate 8 0, freed := List.replicate 8 0, heldBuf := List.replicate 8 0
           inUse := p.alloc, tx := [], txPkt := [], ctrl := []
           rx := p.rx.map fun r => (r.1, (splitPackets r.2.length r.2).1.flatten) }

/-- Flits up to SEQ `a` acknowledged (R371); an `a` outside the window changes nothing. -/
def Port.ack (p : Port) (a : Nat) : Port :=
  if p.buf.any (·.1 == a) then
    let gone := (p.buf.takeWhile (·.1 != a)).length + 1
    { p with buf := p.buf.drop gone, streak := 0
             replayAt := p.replayAt.map fun i => i - gone }
  else p

/-- Replay starts at position `i` of the buffer (R372, R373). -/
def Port.replay (p : Port) (i : Nat) (a : Option Nat) : Port :=
  { p with replayAt := if i < p.buf.length then some i else none, replayFrom := a, replays := satAdd 32 p.replays 1, streak := p.streak + 1 }

/-- ACTIVE reached: after a full training with a link reset, after a fast retrain with a replay (R382, R383). -/
def State.enterActive (s : State) (n ackseq : Nat) : State :=
  let p := s.port n
  if p.fast then
    let p1 := { p with st := .active, fast := false, recovering := false, nak := false }.ack ackseq
    s.setPort n (if p1.buf.isEmpty then p1 else p1.replay 0 (some ackseq))
  else
    s.setPort n { p.linkReset with st := .active, linked := true, down := false, fails := 0, raised := false, fulltrain := satAdd 16 p.fulltrain 1 }

/-- The group a fast retrain of at most width code `w` uses: never wider than the width in use (R380). -/
def Port.remaining (p : Port) (w : Nat) : Option (Nat × Nat × Nat) := p.widest (min w p.width) p.bothGood

/-- A fast retrain's new group: its lanes lock afresh, and what was replayed stops (R382, R390). -/
def Port.retrain (q : Port) (g : Nat × Nat × Nat) : Port :=
  let q1 := { q with
    st := .retrain, fast := true, fretrain := satAdd 16 q.fretrain 1, width := g.1, grp := g.2.1, replayAt := none, replayFrom := none
    degrade := if lanesOf g.1 < lanesOf q.width then satAdd 16 q.degrade 1 else q.degrade }
  { q1 with lanes := (q1.lanes.zip (List.range 8)).map fun x =>
      if q1.group.any fun k => q1.rxOf k == x.2 then { x.1 with locked := false } else x.1 }

/-- A fast retrain at the group of the remaining lanes, of at most width code `w`; without one the port goes DOWN (R379, R380,
R382). It starts in ACTIVE, and in CONFIG where codeword lock is lost (R361). `asked`: the partner's RETRAIN starts it; otherwise
this end sends RETRAIN first, where the link still carries flits and the replay buffer has space (R368), and the partner's own
RETRAIN may have crossed it (log 106: DEDUCED). -/
def State.fastRetrain (s : State) (n : Nat) (asked : Bool) (w : Nat := 3) : State :=
  let p := s.port n
  if p.st ≠ .active ∧ p.st ≠ .config then s
  else match p.remaining w with
    | none => s.loseLink n
    | some g =>
      let s1 := if !asked && p.st == .active && decide (p.buf.length < replayMax) then s.sendSequenced n 2 0 0 (leBytes 1 2 ++ leBytes 1 g.1) else s
      (s1.modPort n fun q => { q.retrain g with crossed := !asked }).sendFrames n

/-- Lanes marked bad. -/
def Port.mark (p : Port) (ls : List Nat) : Port := ls.foldl (fun q l => q.setLane l { q.lane l with bad := true }) p

/-- Lanes of a port become bad: in ACTIVE the lane-degrade event and a fast retrain follow (R378, R379); a fast retrain ends, and
the full training that follows uses the remaining lanes (R390) (log 106: DEDUCED). -/
def State.badLanes (s : State) (n : Nat) (ls : List Nat) : State :=
  let p := s.port n
  let new := ls.filter fun l => !(p.lane l).bad
  if new.isEmpty then s
  else
    let p1 := p.mark new
    if p.fast then (s.setPort n p1).loseLink n true
    else if p.st = .active then
      ((s.setPort n p1).raise { src := 0x51, unit := n, detail := lanesOf (((p1.remaining 3).map (·.1)).getD 0), info := p1.lgood }).fastRetrain n false
    else s

/-- The port is off: transmitters off, flits held are lost (R386). -/
def Port.off (p : Port) : Port :=
  { p with st := .disabled, enabled := false, draining := false, fast := false, width := 0, buf := [], ctrl := [], replayAt := none, replayFrom := none }

/-- A port reaches DISABLED: the commands that wait for it complete (log 45: DEDUCED). -/
def State.portOff (s : State) (n : Nat) : State :=
  (s.modPort n Port.off).answer (fun w => w == .portDrain n) .ok

/-- A port enabled (R386). -/
def State.portOn (s : State) (n : Nat) : State :=
  let p := s.port n
  if p.enabled then s else (s.setPort n { p with enabled := true }).detect n

/-- A port disabled (R386): the answer is whether it is off already. -/
def State.portDisable (s : State) (n : Nat) : State × Bool :=
  let p := s.port n
  if p.st = .active then
    ((s.setPort n { p with draining := true }).sendMessage n (leBytes 1 3 ++ leBytes 1 0), false)
  else (s.portOff n, true)

/-- A full training with the loss of what the port holds, as a block reset or a lane restore runs it (R386, R548). -/
def State.fullTraining (s : State) (n : Nat) : State :=
  let p := s.port n
  if p.buf.isEmpty then s.detect n else s.loseLink n

end Sys2Proof.Machine
end

