-- ==== Sys2Proof/Machine/FabricOps.lean ====
section
/-! DEFINITION. What the packet layer does, by shared operations: packets received and checked (R394 to R397), routes (R399),
windows (R403, R405), the pattern of collectives (R408, R411, R415), chunks and their addition (R412, R413), delivery
(R414), the end of a collective (R417 to R419). -/

namespace Sys2Proof.Machine

open Sys2Proof

/-! ### Fields of a packet (R394) -/

def pkType (p : List Byte) : Nat := num p 0 1
def pkDpart (p : List Byte) : Nat := fld p 1 5 3
def pkHops (p : List Byte) : Nat := fld p 1 0 5
def pkDst (p : List Byte) : Nat := fld p 2 0 15
def pkCls (p : List Byte) : Nat := fld p 4 15 1
def pkSrc (p : List Byte) : Nat := fld p 4 0 15
def pkJob (p : List Byte) : Nat := fld p 6 0 12
def pkLen (p : List Byte) : Nat := fld p 8 0 13
def pkFlow (p : List Byte) : Nat := num p 10 2
def pkScore (p : List Byte) : Nat := fld p 12 16 10
def pkTag (p : List Byte) : Nat := fld p 12 10 6
def pkGen (p : List Byte) : Nat := fld p 12 0 10
def pkOffset (p : List Byte) : Nat := num p 16 6
def pkTile (p : List Byte) : Nat := fld p 16 24 24
def pkChunk (p : List Byte) : Nat := fld p 16 0 24
def pkRwin (p : List Byte) : Nat := num p 22 1
def pkFlags (p : List Byte) : Nat := fld p 23 5 3          -- NANF, OVFF, UFLF from bit 0 up
def pkHdr (p : List Byte) : Bool := flg p 23 4
def pkStatus (p : List Byte) : Nat := fld p 23 0 4
def pkColl (p : List Byte) : Nat := fld p 24 16 16
def pkStage (p : List Byte) : Nat := fld p 24 12 4
def pkDdig (p : List Byte) : Nat := fld p 24 0 12
def pkGlen (p : List Byte) : Nat := fld p 24 0 11
def pkPayload (p : List Byte) : List Byte := slice p 32 (pkLen p)

/-- ECRC holds (R396). -/
def ecrcOk (p : List Byte) : Bool := num p 28 4 == crc32 (slice p 0 28 ++ pkPayload p)

/-- Virtual channel of a packet type and class (R395). -/
def vcOf (ptype cls : Nat) : Nat :=
  if 16 ≤ ptype ∧ ptype < 32 then 6 else if 32 ≤ ptype ∧ ptype < 48 then 7
  else if ptype ≤ 2 then cls else if ptype ≤ 5 then 2 + cls else 4 + cls

/-- PTYPE, reserved fields and LEN meet R394 and R395. -/
def packetShapeOk (p : List Byte) : Bool :=
  let t := pkType p
  let n := pkLen p
  zeroFlds p [(2, 15, 1), (6, 12, 4), (8, 13, 3), (12, 26, 6)] &&
    (match t with
      | 0x01 => decide (16 ≤ n ∧ n ≤ 1024)
      | 0x02 => n == 0 && fld p 24 11 21 == 0 && decide (1 ≤ pkGlen p ∧ pkGlen p ≤ 1024)
      | 0x03 => n == 0
      | 0x04 => decide (1 ≤ n ∧ n ≤ 1024)
      | 0x05 => n == 0
      | 0x06 => n % 4 == 0 && decide (4 ≤ n ∧ n ≤ 4096)
      | 0x07 => n % 4 == 0 && decide (4 ≤ n ∧ n ≤ 4096)
      | 0x08 => n % 4 == 0 && decide (4 ≤ n ∧ n ≤ 4096)
      | 0x09 => n == 0
      | 0x0A => n == 0
      | _ => (decide (16 ≤ t ∧ t ≤ 23) && n == 32) || decide (32 ≤ t ∧ t < 48))

/-! ### Memberships and windows -/

def memberKey (part job : Nat) : Nat := part * 4096 + job
def State.member? (s : State) (part job : Nat) : Option Member := Tab.look s.chip.members (memberKey part job)
def State.modMember (s : State) (part job : Nat) (f : Member → Member) : State :=
  { s with chip.members := Tab.adjust s.chip.members (memberKey part job) f }
def State.window? (s : State) (w : Nat) : Option Window := Tab.look s.chip.wins w

/-- Entry `m` of a membership's table. -/
def Member.entry (x : Member) (m : Nat) : Nat × Nat × Nat × Nat := tableEntry x.table m

/-- Every entry with its index. -/
def Member.entries (x : Member) : List (Nat × Nat × Nat × Nat × Nat) := (List.range x.nmem).map fun m => (m, x.entry m)

/-- This membership's own entry. -/
def Member.own (x : Member) : Nat × Nat × Nat × Nat := x.entry x.midx

/-- Member partitions of a device, ascending. -/
def Member.partsOn (x : Member) (dev : Nat) : List Nat :=
  (List.range 8).filter fun p => x.entries.any fun e => e.2.1 == dev && e.2.2.1 == p

/-! ### Packets received (R395, R396) -/

/-- A counter of a port raised; the mesh has none (R421) (log 118: DEDUCED). -/
def State.portCount (s : State) (n : Nat) (f : Port → Port) : State := if n < 16 then s.modPort n f else s

/-- The packet at the head of a channel of a port, or (port 16) the oldest packet of the mesh for this module there
(log 60: DESIGN CHOICE). -/
def State.headPacket (s : State) (n vc : Nat) : Option (List Byte) :=
  if n < 16 then (splitPackets 1 (Tab.get (s.port n).rx [] vc)).1.head?
  else s.chip.devid.bind fun d => s.chip.orig.find? fun p => pkDst p == d && vcOf (pkType p) (pkCls p) == vc

/-- The head packet taken (log 60: DESIGN CHOICE). -/
def State.takePacket (s : State) (n vc : Nat) (p : List Byte) : State :=
  if n < 16 then s.modPort n fun q => { q with rx := Tab.set q.rx [] vc (splitPackets 1 (Tab.get q.rx [] vc)).2 }
  else { s with chip.orig := s.chip.orig.erase p }

/-- A packet for this module is received: dropped and counted under R396, or handed to `act`. A row takes only packets of its
own type, and those that R396 drops (log 60: DESIGN CHOICE; log 118: DEDUCED). -/
def State.receive (s : State) (n vc : Nat) (types : Nat → Bool) (act : List Byte → State → State) : State :=
  match s.headPacket n vc with
  | none => s
  | some p =>
    if some (pkDst p) ≠ s.chip.devid then s
    else
      let s1 := s.takePacket n vc p
      if !ecrcOk p then s1.portCount n fun q => { q with ecrcerr := satAdd 32 q.ecrcerr 1 }
      else if !packetShapeOk p then s1.portCount n fun q => { q with badpkt := satAdd 32 q.badpkt 1 }
      else if !types (pkType p) then s
      else if pkJob p = 0 ∨ (s.member? (pkDpart p) (pkJob p)).isNone then s1.portCount n fun q => { q with jobdrop := satAdd 32 q.jobdrop 1 }
      else act p s1

/-- A packet set out from this module: class 0, no hop yet. -/
def State.sendPacket (s : State) (ptype dpart dst job flow score tag gen offset rwin flags coll stage ddig : Nat) (payload : List Byte) : State :=
  s.originate (mkPacket (packetHead ptype dpart 0 dst (s.chip.devid.getD 0) job payload.length flow score tag gen offset rwin flags coll stage ddig) payload)

/-- DPART of the answer to a requester: the member partition of its module that holds the requesting core (log 56: DEDUCED). -/
def State.answerPart (s : State) (p : List Byte) : Nat :=
  match s.member? (pkDpart p) (pkJob p) with
  | some x => ((x.partsOn (pkSrc p)).filter fun h => decide (h ≤ eighthOfCore (pkScore p))).foldl max 0
  | none => 0

/-- An answer to a request: SCORE, TAG, GEN and what else the requester's header carried, with a status (R403, R405). -/
def State.answerPacket (s : State) (p : List Byte) (ptype flags : Nat) (payload : List Byte) : State :=
  s.sendPacket ptype (s.answerPart p) (pkSrc p) (pkJob p) (pkFlow p) (pkScore p) (pkTag p) (pkGen p) (pkOffset p) (pkRwin p) flags 0 0 0 payload

/-- A NACK (R403); the port of its route counts it (R421). -/
def State.nack (s : State) (p : List Byte) (status : Nat) : State := s.answerPacket p 0x05 status []

/-- The window checks of R403 on a packet for `len` bytes: the STATUS of the first failure. -/
def State.windowCheck (s : State) (p : List Byte) (len : Nat) : Option Nat :=
  match s.window? (pkRwin p) with
  | none => some 1
  | some w =>
    if pkJob p ≠ w.job ∨ pkDpart p ≠ w.part then some 2
    else if w.wlen < pkOffset p + len ∨ pkOffset p % 16 ≠ 0 then some 3
    else
      let g := (s.ctx? w.ctx).bind fun c => (segOver c.segs (w.cbase + pkOffset p) len).map (·.2)
      let perm := match pkType p with
        | 0x01 => w.pput && g.elim false (·.wr)
        | 0x02 => w.pget && g.elim false (·.rd)
        | _ => w.pcol && g.elim false (·.wr)
      if !perm then some 4
      else if pkType p = 0x01 ∧ pkHdr p ∧
          !(num p 47 1 == crc8 (slice p 32 15) || num p 47 1 == 255 - crc8 (slice p 32 15)) then some 5
      else none

/-- A header whose CTX is rewritten; one that arrived pending stays pending (R59, R405). -/
def arriveHeader (h : List Byte) (ctx : Nat) : List Byte :=
  let good := rewriteCtx h ctx
  if num h 15 1 = crc8 (slice h 0 15) then good
  else if num h 15 1 = 255 - crc8 (slice h 0 15) then slice good 0 15 ++ leBytes 1 (255 - num good 15 1)
  else h

/-- The parts of a CVA range of a context with their segments: offset, bytes, CVA. -/
def cvaParts (c : Context) (cva n : Nat) : List (Nat × Nat × Nat × Segment) :=
  (kibs cva n).filterMap fun p => (segAt c.segs p.1).map fun g => (p.1 - cva, p.2, p.1, g.2)

/-- A DPA in an unmapped range, issued by Drover (R35). -/
def State.unmappedDpa (s : State) (dpa : Nat) : State := s.raise { src := 0x02, detail := 0, info := dpa }

/-- Bytes of a segment read outside the cores: in an unmapped range they read zero and the fault is raised (R35). -/
def State.dpaRead (s : State) (g : Segment) (cva n : Nat) : State × Bool × List Byte :=
  if inTier g.arch (g.dpa cva) n then let y := s.anyRead (g.key cva) n g.comp; (y.1, y.2, y.1.rdN (g.key cva) n)
  else (s.unmappedDpa (g.dpa cva), false, List.replicate n 0)

/-- Bytes of a segment written outside the cores: in an unmapped range the write is dropped and the fault is raised (R35). The answer
says whether an uncorrectable sector or word kept bytes from being written. -/
def State.dpaWrite (s : State) (g : Segment) (cva : Nat) (bs : List Byte) : State × Bool :=
  if inTier g.arch (g.dpa cva) bs.length then s.anyWrite (g.key cva) bs g.comp else (s.unmappedDpa (g.dpa cva), false)

/-- A range of a context's memory written by a port or by Drover; the answer says whether bytes were dropped. -/
def State.writeCva (s : State) (c : Context) (cva : Nat) (bs : List Byte) : State × Bool :=
  (cvaParts c cva bs.length).foldl (fun (a : State × Bool) p => let x := a.1.dpaWrite p.2.2.2 p.2.2.1 (slice bs p.1 p.2.1); (x.1, a.2 || x.2)) (s, false)

/-- A range of a context's memory read by a port or by Drover, with its poison. -/
def State.readCva (s : State) (c : Context) (cva n : Nat) : State × Bool × List Byte :=
  (cvaParts c cva n).foldl (fun (a : State × Bool × List Byte) p => let y := a.1.dpaRead p.2.2.2 p.2.2.1 p.2.1; (y.1, a.2.1 || y.2.1, a.2.2 ++ y.2.2)) (s, false, [])

/-! ### Routes (R399, R400) -/

/-- A port whose partner is this module: its CONFIG named this module's DEVID, or each of two ports holds the other's NONCE
(R388, R402) (log 161: DEDUCED). -/
def State.selfLink (s : State) (n : Nat) : Bool :=
  let q := s.port n
  let r := s.port q.pport
  (q.pvalid && some q.pdevid == s.chip.devid) || (r.linked && r.pport == n && r.nonce == q.pnonce && r.pnonce == q.nonce)

/-- The port a packet takes, and its class there; none: it is dropped. A module without a DEVID forwards nothing (R391). -/
def State.route (s : State) (came : Option Nat) (p : List Byte) : Option (Nat × Nat) :=
  match s.chip.devid.bind fun _ => Tab.look s.chip.routes (pkDst p) with
  | none => none
  | some e =>
    let cs := (setBits 16 (num e 0 2)).filter fun n => (s.port n).st == .active && !s.selfLink n && some n != came
    match cs[pkFlow p % cs.length]? with
    | none => none
    | some n => some (n, if pkCls p = 1 ∨ (num e 2 2).testBit n then 1 else 0)

/-- The port that counts a packet of this module for which there is no route: the lowest of its entry, else P0 (R399, R421)
(log 161: DESIGN CHOICE). -/
def State.lostPort (s : State) (p : List Byte) : Nat :=
  ((Tab.look s.chip.routes (pkDst p)).bind fun e => (setBits 16 (num e 0 2)).head?).getD 0

/-- A packet with other HOPS and CLS and its ECRC made anew (R396). -/
def reheader (p : List Byte) (hops cls : Nat) : List Byte :=
  let h := slice p 0 1 ++ leBytes 1 (pkDpart p * 32 + hops) ++ slice p 2 2 ++ leBytes 2 (cls * 32768 + pkSrc p) ++ slice p 6 22
  mkPacket h (pkPayload p)

/-! ### The pattern of a collective (R408, R411, R415) -/

def cdOp (d : List Byte) : Nat := num d 0 1
def cdRec (d : List Byte) : Bool := flg d 1 0
def cdJob (d : List Byte) : Nat := fld d 2 0 12
def cdColl (d : List Byte) : Nat := num d 4 2
def cdCtx (d : List Byte) : Nat := fld d 6 0 9
def cdSrc (d : List Byte) : Nat := num d 8 6
def cdRwin (d : List Byte) : Nat := num d 14 1
def cdFmt (d : List Byte) : Fmt := (Fmt.ofCode (fld d 15 0 4)).getD .fp32
def cdNt (d : List Byte) : Nat := fld d 16 0 24
def cdTpm (d : List Byte) : Nat := fld d 20 0 24
def cdStride (d : List Byte) : Nat := num d 24 4
def cdTcount (d : List Byte) : Nat := fld d 28 0 24
def cdDoff (d : List Byte) : Nat := num d 32 6
def cdRoot (d : List Byte) : Nat := fld d 38 0 15
def cdEpoch (d : List Byte) : Nat := num d 40 2
def cdSig (d : List Byte) : Nat := fld d 42 0 6
def cdScore (d : List Byte) : Nat := fld d 44 0 10
def cdCtmo (d : List Byte) : Nat := num d 46 2

/-- DDIG of R407. -/
def ddig (d : List Byte) : Nat := crcMsb 16 0x1021 0xFFFF (slice d 0 6 ++ slice d 14 28) % 4096

/-- Payload bytes of a tile of a collective with block scales where its format has them: the most that a tile holds. -/
def cdPayload (d : List Byte) : Nat := 16 * (cdFmt d).plen false (cdTcount d)

/-- Chunks of a tile whose payload is `bytes` long (R413). -/
def cdChunks (d : List Byte) (bytes : Nat) : Nat :=
  match cdFmt d with
  | .sf16 => ceilDiv ((cdFmt d).blocks false (cdTcount d)) 7
  | .fp32 => ceilDiv (cdTcount d) 1024
  | _ => ceilDiv bytes 4096

/-- Bytes of chunk `c` of a tile whose payload is `bytes` long (R413). -/
def cdChunkLen (d : List Byte) (bytes c : Nat) : Nat :=
  match cdFmt d with
  | .sf16 => 16 + 512 * min 7 ((cdFmt d).blocks false (cdTcount d) - 7 * c)
  | .fp32 => 4 * min 1024 (cdTcount d - 1024 * c)
  | _ => min 4096 (bytes - 4096 * c)

/-- TILE, CHUNK and LEN of a RED, DLV or REP are those of a chunk of the collective (R395, R413). -/
def chunkOk (d : List Byte) (t c n : Nat) : Bool :=
  decide (t < cdNt d) && ([false, true].filter fun b => !b || (cdFmt d).allowsNoblk).any fun b =>
    let bytes := 16 * (cdFmt d).plen b (cdTcount d)
    decide (c < cdChunks d bytes) && n == cdChunkLen d bytes c

/-- Fold indexes of the members, ascending. -/
def Member.folds (x : Member) : List Nat := (sortBy (fun a b => decide (a ≤ b)) (x.entries.map (·.2.2.2.2))).eraseDups

/-- Slots of a fold that hold a member. -/
def Member.slotsOf (x : Member) (f : Nat) : List Nat :=
  (List.range 8).filter fun sl => x.entries.any fun e => e.2.2.2.2 == f && e.2.2.2.1 == sl

/-- The device in a slot of a fold, with its lowest member partition. -/
def Member.deviceAt (x : Member) (f sl : Nat) : Option (Nat × Nat) :=
  (x.entries.find? fun e => e.2.2.2.2 == f && e.2.2.2.1 == sl).bind fun e => (x.partsOn e.2.1).head?.map fun p => (e.2.1, p)

/-- The holder of group `g` of level `l` (R411). -/
def holder (slots : List Nat) (t : Nat) : Nat → Nat → Option Nat
  | 0, g => if slots.contains g then some g else none
  | l + 1, g =>
    match holder slots t l (2 * g), holder slots t l (2 * g + 1) with
    | some a, some b => some (if t.testBit l then b else a)
    | some a, none => some a
    | none, b => b

/-- What a member does with a chunk, step by step: it adds what arrives for a stage from a part, sends, or delivers. -/
inductive Step where
  | add (stage from_ : Nat)
  | send (dev part stage : Nat)
  | deliver
  deriving DecidableEq, Repr

/-- Levels 1 to 3 of a module in slot `sl`, and whether it still holds the value afterwards. -/
def levelSteps (x : Member) (f sl t : Nat) : Nat → Nat → List Step × Bool
  | 0, _ => ([], true)
  | n + 1, l =>
    let slots := x.slotsOf f
    let g := sl / 2 ^ l
    match holder slots t l (if g % 2 = 0 then g + 1 else g - 1) with
    | none => levelSteps x f sl t n (l + 1)
    | some o =>
      let keep := holder slots t (l + 1) (g / 2) == some sl
      if keep then let r := levelSteps x f sl t n (l + 1); (.add (l + 1) 0 :: r.1, r.2)
      else match x.deviceAt f o with
        | some dv => ([.send dv.1 dv.2 (l + 1)], false)
        | none => ([], false)

/-- The steps of a member for a chunk of tile `t` (R411). -/
def Member.plan (x : Member) (t : Nat) : List Step :=
  let e := x.own
  let dev := e.1
  let part := e.2.1
  let sl := e.2.2.1
  let f := e.2.2.2
  let ps := x.partsOn dev
  let first := ps.headD part
  if part ≠ first then [.send dev first 0]
  else
    let lv := levelSteps x f sl t 3 0
    let stage0 := (ps.drop 1).map fun p => Step.add 0 p
    if !lv.2 then stage0 ++ lv.1
    else
      let fs := x.folds
      let i := (fs.takeWhile (· != f)).length
      let chain := (if i = 0 then [] else [Step.add 4 0]) ++
        (match fs[i + 1]? with
          | none => [Step.deliver]
          | some f1 => match (holder (x.slotsOf f1) t 3 0).bind (x.deviceAt f1) with
            | some dv => [Step.send dv.1 dv.2 4]
            | none => [])
      stage0 ++ lv.1 ++ chain

/-- Where a replicated chunk goes on to from this module (R415): device, part, stage. `fs`, `ss` are fold and slot of the
supplier; `level` is the level at which this module got it (4: it is the supplier or on the rail). -/
def Member.spread (x : Member) (fs ss level : Nat) : List (Nat × Nat × Nat) :=
  let e := x.own
  let f := e.2.2.2
  let sl := e.2.2.1
  let folds := x.folds
  let i := (folds.takeWhile (· != f)).length
  let nf := folds.getD ((i + 1) % folds.length) f
  let rail := if level = 4 ∧ nf ≠ fs then
      match (holder (x.slotsOf nf) ss 3 0).bind (x.deviceAt nf) with
      | some dv => [(dv.1, dv.2, 6)]
      | none => []
    else []
  let down := ((List.range (level - 1)).reverse.map (· + 1)).filterMap fun l =>
    let g := sl / 2 ^ (l - 1)
    ((holder (x.slotsOf f) ss (l - 1) (if g % 2 = 0 then g + 1 else g - 1)).bind (x.deviceAt f)).map fun dv => (dv.1, dv.2, 7)
  let ps := x.partsOn e.1
  let local_ := (ps.filter (· != e.2.1)).map fun p => (e.1, p, 0)
  rail ++ down ++ local_

/-- The member that owns tile `t` of a REDSCAT, or supplies it otherwise. -/
def cdOwner (d : List Byte) (t : Nat) : Nat := if cdOp d = 3 then cdRoot d else t / max 1 (cdTpm d)

/-- Window offset of tile `t` at a receiver (R408). -/
def cdOffset (d : List Byte) (t : Nat) : Nat := cdDoff d + (if cdOp d = 1 then t % max 1 (cdTpm d) else t) * cdStride d

/-- The tiles a member supplies, each with its source CVA. -/
def cdSupplies (d : List Byte) (m : Nat) : List (Nat × Nat) :=
  match cdOp d with
  | 1 => (List.range (cdNt d)).map fun t => (t, cdSrc d + t * cdStride d)
  | 2 => ((List.range (cdTpm d)).filter fun j => decide (m * cdTpm d + j < cdNt d)).map fun j => (m * cdTpm d + j, cdSrc d + j * cdStride d)
  | 3 => if m = cdRoot d then (List.range (cdNt d)).map fun t => (t, cdSrc d + t * cdStride d) else []
  | _ => []

/-- The tiles a member receives. -/
def cdReceives (d : List Byte) (m : Nat) : List Nat :=
  match cdOp d with
  | 1 => (List.range (cdNt d)).filter fun t => t / max 1 (cdTpm d) == m
  | 2 => List.range (cdNt d)
  | 3 => if m = cdRoot d then [] else List.range (cdNt d)
  | _ => []

/-! ### Chunks (R412, R413) -/

/-- Chunk `c` of a tile's payload. -/
def chunkOf (d : List Byte) (pay : List Byte) (c : Nat) : List Byte :=
  match cdFmt d with
  | .sf16 =>
    let f := cdFmt d
    let n := min 7 (f.blocks false (cdTcount d) - 7 * c)
    slice pay (16 * f.elemUnits false (cdTcount d) + 7 * c) n ++ List.replicate (16 - n) 0#8 ++ slice pay (3584 * c) (512 * n)
  | _ => slice pay (4096 * c) (cdChunkLen d pay.length c)

/-- Where a chunk's bytes lie in the payload: (offset in the chunk, offset in the payload, bytes). -/
def chunkPlaces (d : List Byte) (c : Nat) (len : Nat) : List (Nat × Nat × Nat) :=
  match cdFmt d with
  | .sf16 => let n := (len - 16) / 512; [(16, 3584 * c, 512 * n), (0, 16 * (cdFmt d).elemUnits false (cdTcount d) + 7 * c, n)]
  | _ => [(0, 4096 * c, len)]

/-- The first `n` elements of a block of an SF16 chunk, decoded with a tile scale of 1. -/
def sf16Block (ch : List Byte) (i n : Nat) : List Word :=
  (List.range n).map fun e => farValue .sf16 127 (some (num ch i 1)) (num ch (16 + 512 * i + 2 * e) 2)

/-- Two copies of chunk `c` added, with the flags of the add (R412). The padding of the last block enters nothing and is +0 in the
sum (R55, R56, R64). -/
def addChunks (d : List Byte) (c : Nat) (a b : List Byte) : List Byte × Flags :=
  match cdFmt d with
  | .sf16 =>
    let n := (a.length - 16) / 512
    let rs := (List.range n).map fun i =>
      let k := min 256 (cdTcount d - 256 * (7 * c + i))
      let r := sf16Add 127 true (sf16Block a i k) (sf16Block b i k)
      (r.1 ++ List.replicate (256 - k) 0, r.2)
    ((rs.flatMap fun r => leBytes 1 r.2.1) ++ List.replicate (16 - n) 0#8 ++ rs.flatMap fun r => r.1.flatMap (leBytes 2),
      rs.foldl (fun f r => f.or r.2.2) {})
  | _ =>
    let en : Enc := { fmt := .fp32, noblk := false, scale := 127, rnd := 0, sat := true, seed := 0 }
    let rs := (List.range (a.length / 4)).map fun i =>
      let x := fadd (BitVec.ofNat 32 (num a (4 * i) 4)) (BitVec.ofNat 32 (num b (4 * i) 4))
      let y := encodeBlock en [(i, x.1)]
      (y.1.headD 0, x.2.or y.2.2)
    (rs.flatMap fun r => leBytes 4 r.1, rs.foldl (fun f r => f.or r.2) {})

/-- Flags that decoding a source chunk sets (R412). -/
def chunkFlags (d : List Byte) (pay : List Byte) (c : Nat) : Flags :=
  let h : Hdr := { fmt := cdFmt d, noblk := false, scale := 127, layer := 0, epoch := 0, ctx := 0, count := cdTcount d, plen := (cdFmt d).plen false (cdTcount d) }
  let n := if cdFmt d = .sf16 then 1792 else 1024
  ((List.range n).map fun i => n * c + i).foldl (fun f i => if i < cdTcount d then f.or (decodeElem (fun k => pay.getD k 0) h i).2 else f) {}

/-! ### A collective at a member -/

def collKey (part job coll : Nat) : Nat := memberKey part job * 65536 + coll
def State.coll? (s : State) (part job coll : Nat) : Option Coll := Tab.look s.chip.colls (collKey part job coll)
def State.putColl (s : State) (x : Coll) : State := { s with chip.colls := Tab.put s.chip.colls (collKey x.part x.job (cdColl x.desc)) x }

/-- Ports of a partition, ascending. -/
def State.partPorts (s : State) (h : Nat) : List Nat := (List.range 16).filter (s.portInPart h)

/-- A packet of a collective sent; of these only DLV carries a window (R403) (log 56: DEDUCED; log 57: DEDUCED). -/
def State.sendColl (s : State) (x : Coll) (ptype dev part stage t c flags : Nat) (payload : List Byte) : State :=
  let k := cdColl x.desc
  s.sendPacket ptype part dev x.job ((k * 8 + stage) % 65536) (if stage = 0 then 72 * x.part else 0) 0 0 (t * 2 ^ 24 + c) (if ptype = 0x07 then cdRwin x.desc else 0)
    (flags * 32) k stage (ddig x.desc) payload

/-- The record of a collective that ends (R417). -/
def collRecord (x : Coll) (st : Status) (detail : Nat) : List Byte :=
  leBytes 2 (cdColl x.desc) ++ leBytes 1 st.code ++ leBytes 1 x.flags ++ leBytes 2 x.job ++ leBytes 1 0xF1 ++ leBytes 1 detail
    ++ leBytes 4 x.tiles ++ leBytes 4 (cdCtx x.desc)

/-- A collective ends at this member (R417 to R419): PRU contexts freed, OK signals, the record (log 68: DEDUCED). -/
def State.endColl (s : State) (x : Coll) (st : Status) (detail : Nat) : State :=
  let ctx := cdCtx x.desc
  let s1 : State := { s with
    chip.colls := Tab.erase s.chip.colls (collKey x.part x.job (cdColl x.desc))
    chip.pru := (s.partPorts x.part).foldl (fun m p => Tab.set m 0 p (Tab.get m 0 p - 1)) s.chip.pru }
  let s2 := s1.modMember x.part x.job fun m =>
    { m with ended := m.ended ++ [(cdColl x.desc, s.aon.time)], causes := if st = .ok then m.causes else m.causes ++ [(1, st.code)] }
  let s3 := if st = .ok then s2.sendSig ctx (cdScore x.desc) (cdSig x.desc) 1 else s2
  if st = .ok ∧ !cdRec x.desc then s3 else s3.post ctx (collRecord x st detail) x.origin

/-- A replicated chunk goes on from this module, and to the module's other member partitions (R415). -/
def State.spreadChunk (s : State) (x : Coll) (m : Member) (ptype fs ss level t c : Nat) (payload : List Byte) : State :=
  (m.spread fs ss level).foldl (fun a d => a.sendColl x ptype d.1 d.2.1 d.2.2 t c 0 payload) s

/-- It is the turn of a chunk to be sent: tiles and chunks go in ascending order (R413). -/
def Coll.turn (x : Coll) (key : Nat) : Bool := x.progs.head?.elim false (·.1 == key)

/-- A chunk taken through the steps that are ready and whose turn it is; what waits stays in `progs` (log 57: DEDUCED). -/
def State.advance (s : State) (x : Coll) (m : Member) (t c : Nat) : Nat → State × Coll
  | 0 => (s, x)
  | n + 1 =>
    let key := t * 2 ^ 24 + c
    match Tab.look x.progs key with
    | none => (s, x)
    | some p =>
      match (m.plan t)[p.at_]? with
      | none => (s, { x with progs := Tab.erase x.progs key })
      | some (.add stage from_) =>
        match x.parked.find? fun q => q.1 == key && q.2.1 == stage && q.2.2.1 == from_ with
        | none => (s, x)
        | some q =>
          let r := if cdOp x.desc = 4 then ([], {}) else addChunks x.desc c p.val q.2.2.2.1
          let p1 : Prog := { val := r.1, flags := (p.flags ||| q.2.2.2.2) ||| r.2.bits, at_ := p.at_ + 1 }
          s.advance { x with progs := Tab.put x.progs key p1, parked := x.parked.erase q } m t c n
      | some (.send dev part stage) =>
        if !x.turn key then (s, x)
        else (s.sendColl x (if cdOp x.desc = 4 then 0x09 else 0x06) dev part stage t c p.flags p.val, { x with progs := Tab.erase x.progs key })
      | some .deliver =>
        if !x.turn key then (s, x)
        else if cdOp x.desc = 4 then
          let e := m.own
          (s.spreadChunk x m 0x0A e.2.2.2 0 4 0 0 [], { x with progs := Tab.erase x.progs key, bar := true })
        else
          let e := m.entry (cdOwner x.desc t)
          (s.sendColl x 0x07 e.1 e.2.1 5 t c p.flags p.val, { x with progs := Tab.erase x.progs key })

/-- Chunks taken in ascending order as long as the first can be sent (R413). -/
def State.drive (s : State) (x : Coll) (m : Member) : Nat → State × Coll
  | 0 => (s, x)
  | n + 1 => match x.progs with
    | [] => (s, x)
    | (k, _) :: _ =>
      let r := s.advance x m (k / 2 ^ 24) (k % 2 ^ 24) 16
      if (Tab.look r.2.progs k).isSome then r else r.1.drive r.2 m n

/-- Header bytes of source tile `t` at a member of this module that supplies it in a collective. -/
def State.suppliedHeader (s : State) (x : Coll) (t : Nat) : Option (List Byte) :=
  (s.member? x.part x.job).bind fun m => (cdSupplies x.desc m.midx).findSome? fun p =>
    if p.1 = t then (s.ctx? (cdCtx x.desc)).map fun c => slice (s.readCva c p.2 16).2.2 0 16 else none

/-- The header a receiver builds for tile `t` (R414): that of the source tile with CTX rewritten, where this module holds it; of a
tile that another module supplies, the fields that no packet carries are free values, the same at every receiver (R415)
(log 58: DESIGN CHOICE). -/
def State.deliveredHeader (s : State) (x : Coll) (w : Window) (t : Nat) : List Byte :=
  let d := x.desc
  let here := (s.suppliedHeader x t).or <|
    s.chip.colls.findSome? fun p => if p.2.job = x.job ∧ cdColl p.2.desc = cdColl d ∧ 2 ≤ cdOp d then s.suppliedHeader p.2 t else none
  match here with
  | some h => rewriteCtx h w.ctx
  | none =>
    let f := Config.sourceTile x.job (cdColl d) t
    let nb := (cdFmt d).allowsNoblk && f.testBit 36
    Hdr.bytes { fmt := cdFmt d, noblk := nb, scale := f % 256 % 255, layer := f / 256 % 4096, epoch := f / 2 ^ 20 % 65536
                ctx := w.ctx, count := cdTcount d, plen := (cdFmt d).plen nb (cdTcount d) }

/-- Chunk `c` of tile `t` written at the receiver's window (R414): pending header first, final header last. -/
def State.deliver (s : State) (x : Coll) (w : Window) (t c flags : Nat) (payload : List Byte) : State × Coll :=
  match s.ctx? w.ctx with
  | none => (s, x)
  | some cx =>
    let cva := w.cbase + cdOffset x.desc t
    let o := Tab.look x.rtiles t
    let h := (o.map (·.hdr)).getD (s.deliveredHeader x w t)
    let s1 := if o.isSome then s else (s.writeCva cx cva (slice h 0 15 ++ leBytes 1 (255 - num h 15 1))).1
    let s2 := (chunkPlaces x.desc c payload.length).foldl (fun a p => (a.writeCva cx (cva + 16 + p.2.1) (slice payload p.1 p.2.2)).1) s1
    let got := ((o.map (·.got)).getD []) ++ [c]
    let lay := (Hdr.parse h).layer
    let st := (segAt cx.segs cva).map fun g => g.2.key cva / 2 ^ 36
    let s3 := match st with
      | some k => if k < 32 ∧ cdOp x.desc = 1 then s2.accFlags k lay { nan := flags.testBit 0, ovf := flags.testBit 1, ufl := flags.testBit 2 } else s2
      | none => s2
    let x1 := { x with flags := x.flags ||| flags }
    let x2 := { x1 with rtiles := Tab.put x1.rtiles t { next := got.length, got := got, hdr := h } }
    if got.length = cdChunks x.desc (16 * (Hdr.parse h).plen) then ((s3.writeCva cx cva h).1, { x2 with tiles := x2.tiles + 1 }) else (s3, x2)

/-- A packet of the collective, or a part of one, has not left this module. -/
def State.collQueued (s : State) (x : Coll) : Bool :=
  let mine (p : List Byte) : Bool := decide (6 ≤ pkType p ∧ pkType p ≤ 10) && pkJob p == x.job && pkColl p == cdColl x.desc && some (pkSrc p) == s.chip.devid
  s.chip.orig.any mine || s.chip.ports.any fun q => (q.2.outq.any fun v => v.2.any fun e => mine e.2) ||
    q.2.txPkt.any fun v => mine v.2 && !(Tab.get q.2.tx [] v.1).isEmpty

/-- The first condition of R417 and the second: nothing left to send, everything received. -/
def State.collDone (s : State) (x : Coll) : Bool :=
  match s.member? x.part x.job with
  | none => false
  | some m =>
    x.progs.isEmpty && !s.collQueued x &&
      (if cdOp x.desc = 4 then x.bar else decide (x.tiles = (cdReceives x.desc m.midx).length))

/-- Collectives that have come to their end are ended. -/
def State.endColls (s : State) : State :=
  s.chip.colls.foldl (fun a p => match Tab.look a.chip.colls p.1 with
    | some x => if a.collDone x then a.endColl x .ok 0 else a
    | none => a) s

/-- The collectives of a member end here (R419, R548). -/
def State.cancelColls (s : State) (p : Coll → Bool) : State :=
  s.chip.colls.foldl (fun a q => if p q.2 then a.endColl q.2 .aborted 28 else a) s

end Sys2Proof.Machine
end

