-- ==== Sys2Proof/Machine/CommitOps.lean ====
section
/-! DEFINITION. Local commit groups (R423 to R428), the per-layer format table (R334 to R338), the loss scale (R343, R344) and
the resolution of an optimizer set (R308, R309, R337). -/

namespace Sys2Proof.Machine

open Sys2Proof

/-! ### The per-layer format table (R334, R335) -/

def State.fmtEntry (c : Context) (layer : Nat) : FmtEntry := Tab.get c.fmt 0 layer
def feFmt (e : FmtEntry) : Nat := bitsOf e 0 4
def feNoblk (e : FmtEntry) : Bool := e.testBit 4
def feAuto (e : FmtEntry) : Bool := e.testBit 6
def feValid (e : FmtEntry) : Bool := e.testBit 7
def feScale (e : FmtEntry) : Nat := bitsOf e 8 8
def feHbase (e : FmtEntry) : Nat := bitsOf e 16 8
def feLossq (e : FmtEntry) : Nat := bitsOf e 24 8
def feCand (e : FmtEntry) : Nat := bitsOf e 32 4
def feHead (e : FmtEntry) : Nat := bitsOf e 36 2

/-- Every check of R335 except BUSY. -/
def fmtEntryOk (e : FmtEntry) : Bool :=
  let f := feFmt e
  let cand := feCand e
  decide (e < 2 ^ 40) && !e.testBit 5 && bitsOf e 38 2 == 0 && (Fmt.ofCode f).isSome && (!feNoblk e || decide (6 ≤ f ∧ f ≤ 10))
    && feScale e != 255 && decide (1 ≤ feHbase e ∧ feHbase e ≤ 254)
    && (!feAuto e || ((cand.testBit 2 || cand.testBit 3) && !feNoblk e &&
          ((f == 4 && cand.testBit 0) || (f == 5 && cand.testBit 1) || (f == 1 && cand.testBit 2) || (f == 3 && cand.testBit 3))))

/-- An entry with another format, scale base and window base; NOBLK becomes 0 (R338). -/
def fmtChoose (e : FmtEntry) (f scale hbase : Nat) : FmtEntry :=
  f + b2n (feAuto e) * 64 + b2n (feValid e) * 128 + scale * 256 + hbase * 65536 + bitsOf e 24 16 * 2 ^ 24

/-- Sum of counters 2 + d for `d` below `n`. -/
def histSum (cnt : Nat → Nat) (n : Nat) : Nat := sumNat ((List.range n).map fun d => cnt (2 + d))

/-- The rewrite of one AUTO entry from its layer's counters (R338). -/
def fmtRefresh (e : FmtEntry) (cnt : Nat → Nat) : FmtEntry :=
  let n := cnt 1 + histSum cnt 60 + cnt 62
  let cand := feCand e
  let widest := if cand.testBit 3 then 3 else 1
  let hb := feHbase e
  if n = 0 then e
  else if 0 < cnt 62 then fmtChoose e widest 0x7F (min 254 (hb + 30))
  else if histSum cnt 60 = 0 then fmtChoose e widest 0x7F (max 1 (hb - 30))
  else
    let dmax := ((List.range 60).filter fun d => decide (0 < cnt (2 + d))).foldl max 0
    let emax : Int := (hb : Int) - 127 + dmax
    let hb1 := (clampInt (127 + emax - 50) 1 254).toNat
    let ok (etop s : Int) : Option Nat :=
      let t := emax + feHead e - etop
      if t + 127 < 1 ∨ t + 127 > 254 then none
      else
        let below := (List.range 60).filter fun (d : Nat) => decide ((hb : Int) - 127 + (d : Int) < t + s)
        let lost := cnt 1 + sumNat (below.map fun d => cnt (2 + d))
        if lost * 65536 ≤ feLossq e * n then some (t + 127).toNat else none
    match if cand.testBit 0 then ok 8 (-9) else none with
    | some b => fmtChoose e 4 b hb1
    | none => match if cand.testBit 1 then ok 15 (-16) else none with
      | some b => fmtChoose e 5 b hb1
      | none => fmtChoose e (if cand.testBit 2 then 1 else 3) 0x7F hb1

/-- Step 2 of R337 on one context: every layer's histogram is read and cleared; on COMMIT the AUTO entries are rewritten. -/
def Context.refresh (c : Context) (commit : Bool) : Context :=
  let autos := c.fmt.filter fun p => feAuto p.2
  { c with
    hist := []
    fmt := if commit then
        autos.foldl (fun t p => Tab.set t 0 p.1 (fmtRefresh p.2 fun i => Tab.get c.hist 0 (p.1 * 64 + i))) c.fmt
      else c.fmt }

/-! ### The loss scale (R344) -/

/-- A set's loss scale after a decision (log 105: DEDUCED). -/
def OptSet.scale (x : OptSet) (commit ovf : Bool) : OptSet :=
  if !x.lsdyn then x
  else if ovf then { x with lse := if x.lsmin < x.lse then x.lse - 1 else x.lse, clean := 0 }
  else if !commit then x
  else if x.ngrow ≤ x.clean + 1 then { x with lse := if x.lse < x.lsmax then x.lse + 1 else x.lse, clean := 0 }
  else { x with clean := x.clean + 1 }

/-- A two's-complement byte. -/
def intByte (x : Int) : Nat := (x % 256).toNat

/-- LSDIG of a set (R432). -/
def OptSet.lsdig (x : OptSet) : Nat :=
  crc32 (leBytes 4 x.epoch ++ leBytes 1 (intByte x.lse) ++ leBytes 1 (intByte x.lsmin) ++ leBytes 1 (intByte x.lsmax)
    ++ leBytes 1 (b2n x.lsdyn) ++ leBytes 2 x.ngrow ++ leBytes 2 x.clean)

/-- 2^n in binary32, exact for −126 ≤ n ≤ 127. -/
def pow2f (n : Int) : Nat := ((n + 127).toNat) * 2 ^ 23

/-- The step record of a context (R345). -/
def stepRecord (ctx : Nat) (r : Refresh) : List Byte :=
  let h : Hdr := { fmt := .fp32, noblk := false, scale := 0x7F, layer := 0, epoch := r.epoch % 65536, ctx := ctx, count := 4, plen := 1 }
  h.bytes ++ leBytes 4 (pow2f r.lse) ++ leBytes 4 (pow2f (-r.lse)) ++ leBytes 4 (if r.commit then 0x3F800000 else 0)
    ++ leBytes 4 (if r.ovf then 0x3F800000 else 0)

/-! ### Commit buffers (R423 to R427) -/

def bufKey (part buf : Nat) : Nat := part * 8 + buf
def State.buf (s : State) (part buf : Nat) : CommitBuf := Tab.get s.chip.bufs {} (bufKey part buf)
def State.setBuf (s : State) (part buf : Nat) (b : CommitBuf) : State :=
  { s with chip.bufs := Tab.set s.chip.bufs {} (bufKey part buf) b }

def acKind (a : List Byte) : Nat := num a 0 1
def acCtx (a : List Byte) : Nat := fld a 2 0 9
def acCore (a : List Byte) : Nat := fld a 4 0 10
def acIdx (a : List Byte) : Nat := fld a 4 16 6
def acInc (a : List Byte) : Nat := num a 8 1
def acSeg (a : List Byte) : Nat := fld a 4 0 12
def acLayer (a : List Byte) : Nat := fld a 4 0 12
def acEnable (a : List Byte) : Nat := num a 4 2
def acCva (a : List Byte) : Nat := num a 8 6

/-- What Stage checks of an action (R425). -/
def State.actionOk (s : State) (part : Nat) (a : List Byte) : Bool :=
  let counter := fld a 4 10 6 == 0 && fld a 4 22 10 == 0 && zeroRange a 16 16 && s.coreInPart part (acCore a)
  zeroFlds a [(1, 0, 8), (2, 9, 7)] && ctxPart (acCtx a) == part && (s.ctx? (acCtx a)).isSome &&
    (match acKind a with
      | 1 => counter && num a 12 4 == 0
      | 2 => counter && zeroRange a 9 7 && acInc a != 0
      | 3 => fld a 4 12 4 == 0 && fld a 4 18 14 == 0 && zeroRange a 8 24
      | 4 => fld a 4 12 20 == 0 && zeroRange a 16 16 && fmtEntryOk (num a 8 8)
      | 5 => num a 6 2 == 0 && num a 14 2 == 0 && acCva a % 16 == 0 && acEnable a != 0
      | _ => false)

/-- A context has a queued or dispatched task on a core. -/
def State.busyOn (s : State) (ctx core : Nat) : Bool := (s.core core).queue.any (·.ctx == ctx)

/-- What Apply re-checks of an action (R426): the status of the failure. -/
def State.actionCheck (s : State) (a : List Byte) : Option Status :=
  if !s.liveCtx (acCtx a) then some .state
  else match s.ctx? (acCtx a) with
    | none => some .state
    | some c =>
      match acKind a with
      | 1 => if s.busyOn (acCtx a) (acCore a) then some .state else none
      | 3 => match Tab.look c.segs (acSeg a) with
        | none => some .argRange
        | some g => if g.vers.isSome then some .argRange else none
      | 5 => match segOver c.segs (acCva a) 16 with
        | none => some .argRange
        | some (_, g) => if g.vers.isSome || g.mig then some .argRange else if g.wr then none else some .denied
      | _ => none

/-- The effect of an action (R424) (log 130: DEDUCED). -/
def State.applyAction (s : State) (a : List Byte) : State :=
  let n := acCtx a
  match acKind a with
  | 1 => s.modCtx n fun c => { c with cnt := Tab.set c.cnt 0#32 (acCore a * 64 + acIdx a) (BitVec.ofNat 32 (num a 8 4)) }
  | 2 => s.signal n (acCore a) (acIdx a) (acInc a)
  | 3 => s.modCtx n fun c => { c with segs := Tab.adjust c.segs (acSeg a) fun g => { g with rd := flg a 4 17, wr := flg a 4 16 } }
  | 4 => s.modCtx n fun c => { c with fmt := Tab.set c.fmt 0 (acLayer a) (num a 8 8) }
  | 5 =>
    match s.ctx? n with
    | none => s
    | some c => (setBits 16 (acEnable a)).foldl (fun q i => (q.writeCva c (acCva a + i) (slice a (16 + i) 1)).1) s
  | _ => s

/-- A buffer applied (R426, R427): the failing status and index, or every effect in ascending order (log 65: DEDUCED; log 130: DEDUCED). -/
def State.applyBuf (s : State) (part buf : Nat) : State × Option (Status × Nat) :=
  let acts := (s.buf part buf).acts
  match ((List.range acts.length).zip acts).findSome? fun p => (s.actionCheck p.2).map fun st => (st, p.1) with
  | some f => (s, some f)
  | none => (acts.foldl State.applyAction s.serveAll, none)

/-- Buffers bound to a set, at its resolution (R428). -/
def State.resolveBufs (s : State) (part set : Nat) (commit : Bool) : State :=
  (List.range 8).foldl (fun a b =>
    let x := a.buf part b
    if x.bound = some set then
      if commit then
        let r := a.applyBuf part b
        match r.2 with
        | none => r.1.setBuf part b { status := 0, failed := 0 }
        | some (st, i) =>
          (r.1.setBuf part b { status := st.code, failed := i }).raise
            { src := 0x61, part := some part, detail := b, info := packInfo 0 [(1, st.code), (1, i)] }
      else a.setBuf part b { x with acts := [], bound := none }
    else a) s

/-! ### The resolution of a set (R308, R309, step 1 of R337) -/

/-- Contexts bound to a set, ascending, with their bindings (R336). -/
def State.boundCtxs (s : State) (part set : Nat) : List (Nat × Binding) :=
  (s.partCtxs part).filterMap fun p => p.2.bind.bind fun b => if b.set = set then some (p.1, b) else none

/-- COMMIT or ABORT of a set: the NMUs apply it, the loss scale follows, bound commit buffers apply, and the refresh of the
bound contexts waits its turn. `ovf` is the overflow flag of the decision (log 39: DEDUCED; log 105: DEDUCED). -/
def State.resolveSet (s : State) (part set : Nat) (commit ovf : Bool) : State :=
  match s.set? part set with
  | none => s
  | some x =>
    let ep := if commit then (x.epoch + 1) % 2 ^ 32 else x.epoch
    let s1 := s.serveAll.nmuResolve part set commit ep
    let floor := x.lsdyn && ovf && !decide (x.lsmin < x.lse)
    let z := x.scale commit ovf
    let r : Refresh := { no := s.chip.resolutions, commit := commit, ovf := ovf, epoch := ep, lse := z.lse, binds := s.boundCtxs part set }
    let y := { z with st := .idle, kernels := false, epoch := ep, refresh := x.refresh ++ [r] }
    let s2 : State := { s1.putSet part set y with chip.resolutions := s.chip.resolutions + 1 }
    let s3 := if floor then s2.raise { src := 0x60, part := some part, detail := set, info := intByte x.lse } else s2
    s3.resolveBufs part set commit

/-- An earlier resolution, of another set, has started a refresh of one of the contexts that has not run (R337). -/
def State.refreshWaits (s : State) (r : Refresh) : Bool :=
  s.chip.sets.any fun p => p.2.refresh.any fun q => decide (q.no < r.no) && q.binds.any fun b => r.binds.any (·.1 == b.1)

/-- Steps 2 to 4 of R337 for the oldest resolution of a set whose refresh has not run, over the contexts that were bound when it was
resolved (log 39: DEDUCED). -/
def State.refreshSet (s : State) (part set : Nat) : State :=
  match (s.set? part set).bind (·.refresh.head?) with
  | none => s
  | some r =>
    if s.refreshWaits r then s
    else
      let s1 := r.binds.foldl (fun a b => a.modCtx b.1 (·.refresh r.commit)) s
      let s2 := r.binds.foldl (fun a b => match a.ctx? b.1, b.2.rcva with
        | some c, some k => (a.writeCva c k (stepRecord b.1 r)).1
        | _, _ => a) s1
      let s3 := r.binds.foldl (fun a b => a.sendSig b.1 b.2.score b.2.sig 1) s2
      s3.modSet part set fun y => { y with refresh := y.refresh.drop 1 }

end Sys2Proof.Machine
end

