-- ==== Sys2Proof/Machine/CtxOps.lean ====
section
/-! DEFINITION. What happens to a whole context: stop and resume (R465 to R468), reset (R461), teardown (R223, R471, R475). -/

namespace Sys2Proof.Machine

open Sys2Proof

/-! ### Endings (R123, R221) -/

/-- Every task of a context on a core that meets `p` ends with ABORTED and sets no error stop. -/
def State.abortTasks (s : State) (core ctx : Nat) (p : Task → Bool) : Nat → State
  | 0 => s
  | n + 1 =>
    let q := (s.core core).queue
    match ((List.range q.length).zip q).find? fun x => x.2.ctx == ctx && p x.2 with
    | none => s
    | some (i, t) =>
      let y := s.endCycles t
      (y.1.endFailed core i t .aborted 0 y.2 true).abortTasks core ctx p n

/-- Every arm of a context on a core ends with ABORTED, detail 23, and its tags are abandoned. -/
def State.abortArms (s : State) (core ctx : Nat) : State :=
  let s1 := s.abandon core fun _ o => o.ctx == ctx
  (s1.core core).slots.foldl (fun a p => if p.2.ctx = ctx then a.endArm core p.1 .aborted 23 true else a) s1

/-- Accumulator halves of a core tagged to a context that meet `p` hold no values any more. -/
def Core.releaseHalves (q : Core) (ctx : Nat) : Core :=
  (List.range 4).foldl (fun a e =>
    let g := a.engine e
    let drop (h : Half) : Half := if h.tag = some ctx then {} else h
    a.setEngine e { g with h0 := drop g.h0, h1 := drop g.h1 }) q

/-- A context's cores. -/
def State.ctxCores (s : State) (ctx : Nat) : List Nat := s.partCores (ctxPart ctx)

/-- Halves of a context that evict releases (R469). -/
def State.evictHalves (s : State) (ctx : Nat) : State := (s.ctxCores ctx).foldl (fun a k => a.modCore k (·.releaseHalves ctx)) s

/-! ### Stop and resume -/

/-- Step 1 of R466: STOPPING, and every array task of the context receives the stop request. -/
def State.stopCtx (s : State) (ctx : Nat) : State :=
  let s1 := s.modCtx ctx fun c => { c with st := .stopping }
  (s1.ctxCores ctx).foldl (fun a k => a.modCore k fun q => { q with
    queue := q.queue.map fun t => if t.ctx = ctx ∧ t.stage = .running ∧ onEngines t.desc then { t with stage := .stopping } else t }) s1

/-- A context holds a running task. -/
def Core.runs (q : Core) (ctx : Nat) : Bool := q.queue.any fun t => t.ctx == ctx && (t.stage == .running || t.stage == .stopping)

/-- A context holds a tag. -/
def Core.holdsTag (q : Core) (ctx : Nat) : Bool := q.tags.any fun t => t.2.req.elim false (·.ctx == ctx)

/-- The condition of step 3 of R466. -/
def State.quiet (s : State) (ctx : Nat) : Bool := (s.ctxCores ctx).all fun k => !(s.core k).runs ctx && !(s.core k).holdsTag ctx

/-- STOPPED: the waiting stops complete. -/
def State.becomeStopped (s : State) (ctx : Nat) : State :=
  (s.modCtx ctx fun c => { c with st := .stopped }).answer (fun w => w == .stop ctx) .ok

/-- A task that works in place (R145, R254): it is never abandoned. -/
def Task.inPlace (t : Task) : Bool :=
  (isVec t.desc || isCopy t.desc) && t.run.elim false fun r => match r.a with
    | some a => r.outs.any fun o => o.base == a.2
    | none => false

/-- A block of a COPY that is staged when its task is to be abandoned is written out first (R167). -/
def State.writeOut (s : State) (core ctx : Nat) : State :=
  (s.core core).queue.foldl (fun a t =>
    if t.ctx = ctx ∧ t.stage = .running ∧ !t.inPlace then
      match t.run with
      | some r => match r.staged, r.a, r.outs.head? with
        | some (stop, vs), some i, some o => (a.copyWrite core t.desc r i o stop vs).1
        | _, _, _ => a
      | none => a
    else a) s

/-- What the preemption deadline does on one core (R467): tags abandoned, VECOP, COPY and TBLLOAD back to their queue
entries, in-place work run on with the preemption-overrun event. -/
def State.deadlineOn (s : State) (ctx core : Nat) : State :=
  let s1 := (s.abandon core fun _ o => o.ctx == ctx && !(o.sid == copySid && (s.core core).copyTask.elim false fun x => x.2.1.inPlace)).writeOut core ctx
  let late := (s1.core core).queue.filter fun t => t.ctx == ctx && t.stage == .running && t.inPlace
  let s2 := s1.modCore core fun q => { q with
    staging := if q.staging = some ctx ∧ !late.any (fun t => isCopy t.desc) then none else q.staging
    queue := q.queue.map fun t =>
      if t.ctx = ctx ∧ t.stage = .running ∧ !t.inPlace ∧ !onEngines t.desc then { t with stage := .queued, run := none } else t }
  late.foldl (fun a t => a.raise { src := 0x18, unit := core, ctx := some ctx, detail := opc t.desc, info := taskId t.desc }) s2

/-- An arm continues from its first incomplete tile (R226): what was in progress is formed again. A member's arm issues nothing, and
keeps the tiles that have reached it out of order. -/
def State.rewindArm (s : State) (ctx : Nat) (a : Arm) : Arm :=
  let rpt := ((s.ctx? ctx).bind fun c => (c.layout? (adFarLayout a.desc)).map (·.rpt)).getD 0
  let first := (Tab.look a.tiles a.sig).map (·.num)
  if adKind a.desc = 6 then a
  else { a with next := a.sig, tiles := [], done := [], idx := [], idxPart := [], idxAt := a.sig * rpt * adIdxBytes a.desc
                accNo := (if adAccum a.desc then first else none).getD a.accNo }

/-- Resume (R468): stopped tasks run on or end where an engine of theirs is gone, arms go back to their first incomplete tile. -/
def State.resumeCtx (s : State) (ctx : Nat) : State :=
  let s1 := s.modCtx ctx fun c => { c with st := .active }
  (s1.ctxCores ctx).foldl (fun a k =>
    let q := a.core k
    let gone (t : Task) : Bool := t.run.elim false fun r => r.pos.any fun p => !(q.engine p.eng).present
    let lost := ((List.range q.queue.length).zip q.queue).filter fun x =>
      x.2.ctx == ctx && (x.2.stage == .stopped || x.2.stage == .saved) && gone x.2
    let b := lost.reverse.foldl (fun b x => let y := b.endCycles x.2; y.1.endFailed k x.1 x.2 .noResource 0 y.2 false) a
    b.modCore k fun q => { q with
      queue := q.queue.map fun t =>
        if t.ctx = ctx ∧ t.stage = .stopped then
          { t with stage := .running, run := t.run.map fun r => { r with pos := r.pos.map fun p => { p with halted := false, loaded := false } } }
        else t
      slots := q.slots.map fun p => if p.2.ctx = ctx then (p.1, { p.2 with cur := p.2.cur.map fun x => if x.effect then s1.rewindArm ctx x else x }) else p }) s1

/-! ### Reset (R461) -/

/-- Queued tasks and arms end with ABORTED, stopped array tasks are discarded with their saved halves, ESTOP clears. -/
def State.resetCtx (s : State) (ctx : Nat) : State :=
  let s1 := (s.ctxCores ctx).foldl (fun a k =>
    let b := a.abortTasks k ctx (fun t => t.stage == .queued) 64
    let c := b.modCore k fun q => { q with
      queue := q.queue.filter fun t => !(t.ctx == ctx && (t.stage == .stopped || t.stage == .saved)) }
    c.abortArms k ctx) s
  s1.modCtx ctx fun c => { c with estop := false }

/-! ### Teardown (R471) -/

/-- What a context holds on one core is let go (log 27: DESIGN CHOICE). -/
def State.teardownCore (s : State) (ctx core : Nat) : State :=
  let s1 := (s.abortTasks core ctx (fun _ => true) 64).abortArms core ctx
  s1.modCore core fun q => { q.releaseHalves ctx with
    slots := q.slots.filter fun p => p.2.ctx != ctx
    resident := q.resident.filter fun r => r.ctx != ctx
    lastDisp := Tab.erase q.lastDisp ctx
    staging := if q.staging = some ctx then none else q.staging }

/-- A running command is about a context's own objects. -/
def Await.ofCtx (w : Await) (ctx : Nat) (owns : Nat → Nat → Bool) : Bool :=
  match w with
  | .newSeg c _ _ => c == ctx
  | .stop c => c == ctx
  | .migrate c _ _ _ => c == ctx
  | .delete c _ => c == ctx
  | .evict c _ _ => c == ctx
  | .restore c _ _ => c == ctx
  | .hostCopy c _ _ _ _ => c == ctx
  | .load st gid _ _ => owns st gid
  | _ => false

/-- The parameter groups a context owns, deleted; a set that is STAGING or STAGED then carries ERR (R285) (log 40: DESIGN CHOICE). -/
def State.dropGroups (s : State) (ctx : Nat) : State :=
  s.chip.nmus.foldl (fun a n =>
    n.2.groups.foldl (fun a g =>
      if g.2.ctx ≠ ctx then a
      else
        let part := ctxPart ctx
        let b := a.modNmu n.1 fun m => { m with groups := Tab.erase m.groups g.1 }
        match b.set? part g.2.set with
        | some x =>
          if x.st = .staging ∨ x.st = .staged then
            let f := b.draw 4
            f.1.putSet part g.2.set (if x.err then x else { x with err := true, estatus := f.2 % 256, edetail := f.2 / 256 % 256, egid := g.1, estack := n.1 })
          else b
        | none => b) a) s

/-- The count a client gains when a teardown begins (R472, R475). -/
def State.countTeardown (s : State) (client : Nat) (clean : Bool) : State :=
  { s with chip.clients := Tab.adjust s.chip.clients client fun c =>
      if clean then { c with completed := satAdd 32 c.completed 1 } else { c with faulted := satAdd 32 c.faulted 1 } }

/-- Teardown of a context begins: DEAD at once, everything it holds is let go, and nothing else changes. `destroy`: by
CTX_DESTROY. The number is freed by TEARDOWN_COMPLETE (log 27: DESIGN CHOICE; log 68: DEDUCED). -/
def State.teardown (s : State) (ctx : Nat) (destroy : Bool) : State :=
  match s.ctx? ctx with
  | none => s
  | some c =>
    if c.st = .dead then s
    else
      let part := ctxPart ctx
      let s1 := (s.countTeardown c.client (destroy && !c.estop)).setCtx ctx { c with st := .dead }
      let s2 := (s1.ctxCores ctx).foldl (fun a k => a.teardownCore ctx k) s1
      let own (g : Nat) : Bool := (Tab.look s2.chip.mcast g).elim false fun x => x.ctx == ctx
      let s3 : State := { s2 with
        chip.sigs := s2.chip.sigs.filter fun x => x.ctx != ctx
        chip.sets := s2.chip.sets.map fun p => (p.1, { p.2 with refresh := p.2.refresh.map fun r => { r with binds := r.binds.filter (·.1 != ctx) } })
        chip.mtiles := s2.chip.mtiles.filter fun x => !own x.group
        chip.credits := s2.chip.credits.filter fun x => !own x.group
        chip.mcast := s2.chip.mcast.filter fun p => p.2.ctx != ctx }
      let s4 := s3.chip.colls.foldl (fun a p => if cdCtx p.2.desc = ctx ∧ p.2.part = part then a.endColl p.2 .aborted 28 else a) s3
      let owns (st gid : Nat) : Bool := (s4.group? st gid).elim false fun g => g.ctx == ctx
      let s5 := s4.answer (fun w => w.ofCtx ctx owns) .aborted
      let s6 : State := { s5.dropGroups ctx with chip.wins := s5.chip.wins.filter fun p => p.2.ctx != ctx }
      let s7 := s6.modCtx ctx fun x => { x with
        segs := [], layouts := [], tables := [], cnt := [], hist := [], fmt := [], bind := none, reserved := [], estop := false }
      { s7 with chip.members := s7.chip.members.map fun p =>
          if p.2.part = part then (p.1, { p.2 with causes := p.2.causes ++ [(4, Status.aborted.code)] }) else p }

/-- A teardown completes: the number is free and RUNNING falls (R457, R475) (log 27: DESIGN CHOICE). -/
def State.teardownDone (s : State) (ctx : Nat) : State :=
  match s.ctx? ctx with
  | none => s
  | some c =>
    if c.st ≠ .dead then s
    else
      let s1 : State := { s with
        chip.ctxs := Tab.erase s.chip.ctxs ctx
        chip.clients := Tab.adjust s.chip.clients c.client fun k => { k with running := k.running - 1 } }
      s1.answer (fun w => w == .teardown ctx) .ok

end Sys2Proof.Machine
end

