-- ==== Sys2Proof/Machine/TreeOps.lean ====
section
/-! DEFINITION. The job-wide step commit: the tree (R436), messages (R438), votes and decisions (R431 to R434), faults of a job
and restart (R441 to R447), job records (R451). -/

namespace Sys2Proof.Machine

open Sys2Proof

/-! ### The tree (R436) -/

/-- The slot of the bellwether of the fold of rank `i`. -/
def Member.bell (x : Member) (elig : List Byte) (i : Nat) : Option Nat :=
  (x.slotsOf (x.folds.getD i 0)).find? fun sl => flg elig i sl

/-- The module of the bellwether of the fold of rank `i`, with its lowest member partition. -/
def Member.bellAt (x : Member) (elig : List Byte) (i : Nat) : Option (Nat × Nat) :=
  (x.bell elig i).bind (x.deviceAt (x.folds.getD i 0))

/-- The parent of the bellwether of rank `i` among the `n` of a level whose ranks are `stride` folds apart. -/
def Member.above (x : Member) (elig : List Byte) (fan : Nat) : Nat → Nat → Nat → Nat → Option (Nat × Nat)
  | 0, _, _, _ => none
  | fuel + 1, n, i, stride =>
    if n ≤ 1 then none
    else if i % fan = 0 then x.above elig fan fuel (ceilDiv n fan) (i / fan) (stride * fan)
    else x.bellAt elig ((i - i % fan) * stride)

/-- The parent of the module in slot `sl` of the fold of rank `i`; none at the root. -/
def Member.parentOf (x : Member) (elig : List Byte) (fan i sl : Nat) : Option (Nat × Nat) :=
  match x.bell elig i with
  | none => none
  | some b =>
    if sl = b then x.above elig fan 16 x.folds.length i 1 else x.deviceAt (x.folds.getD i 0) b

/-- Rank of a fold. -/
def Member.rank (x : Member) (f : Nat) : Nat := (x.folds.takeWhile (· != f)).length

/-- The modules whose parent is `me`. -/
def Member.childrenOf (x : Member) (elig : List Byte) (fan : Nat) (me : Nat × Nat) : List (Nat × Nat) :=
  (List.range x.folds.length).flatMap fun i =>
    (x.slotsOf (x.folds.getD i 0)).filterMap fun sl =>
      if x.parentOf elig fan i sl = some me then x.deviceAt (x.folds.getD i 0) sl else none

/-- The lowest member partition on this membership's module, with its device. -/
def Member.me (x : Member) : Nat × Nat := let e := x.own; (e.1, (x.partsOn e.1).headD e.2.1)

/-- This module is a bellwether of the tree. -/
def Member.isBell (x : Member) (elig : List Byte) : Bool := let e := x.own; x.bell elig (x.rank e.2.2.2) == some e.2.2.1

/-! ### Messages (R438) -/

def fFail : Nat := 128
def fRoll : Nat := 64
def fDis : Nat := 32
def fLate : Nat := 16
def fErr : Nat := 8
def fBad : Nat := 4
def fOvf : Nat := 2
def fAbort : Nat := 1

def JobMsg.has (m : JobMsg) (f : Nat) : Bool := m.flags &&& f != 0
def JobMsg.set (m : JobMsg) (f : Nat) (b : Bool) : JobMsg := if b then { m with flags := m.flags ||| f } else m

/-- The 32-byte body. -/
def JobMsg.body (m : JobMsg) (tdig seq : Nat) : List Byte :=
  leBytes 4 tdig ++ leBytes 4 m.epoch ++ leBytes 4 seq ++ leBytes 4 m.lsdig ++ leBytes 2 m.ncount ++ leBytes 2 m.nlow ++ leBytes 2 m.nstg
    ++ leBytes 1 m.flags ++ leBytes 1 m.code ++ leBytes 4 m.ephi ++ leBytes 2 m.origin ++ leBytes 2 0

def jbTdig (b : List Byte) : Nat := num b 0 4
def jbSeq (b : List Byte) : Nat := num b 8 4

/-- The message a body carries. -/
def JobMsg.parse (b : List Byte) : JobMsg :=
  { epoch := num b 4 4, lsdig := num b 12 4, ncount := num b 16 2, nlow := num b 18 2, nstg := num b 20 2, flags := num b 22 1
    code := num b 23 1, ephi := num b 24 4, origin := fld b 28 0 15 }

def State.tree? (s : State) (job : Nat) : Option Tree := Tab.look s.chip.trees job
def State.putTree (s : State) (job : Nat) (t : Tree) : State := { s with chip.trees := Tab.put s.chip.trees job t }
def State.modTree (s : State) (job : Nat) (f : Tree → Tree) : State := { s with chip.trees := Tab.adjust s.chip.trees job f }

/-- This module's memberships of a job, ascending. -/
def State.jobMembers (s : State) (job : Nat) : List Member := (s.chip.members.map (·.2)).filter (·.job == job)

/-- A job-control message sent to a module. -/
def State.sendJob (s : State) (ptype : Nat) (peer : Nat × Nat) (job tdig seq : Nat) (m : JobMsg) : State :=
  s.sendPacket ptype peer.2 peer.1 job 0 0 0 0 0 0 0 0 0 0 (m.body tdig seq)

/-- A message sent to every child. -/
def State.sendDown (s : State) (ptype job seq : Nat) (t : Tree) (m : JobMsg) : State :=
  t.children.foldl (fun a c => a.sendJob ptype c job t.tdig seq m) s

/-! ### Job records (R451) -/

/-- The committed epoch of a membership: that of its bound sets. -/
def State.memEpoch (s : State) (m : Member) : Nat := ((m.sets.head?.bind fun k => s.set? m.part k).map (·.epoch)).getD 0

/-- A job record with its signal. -/
def State.jobRecord (s : State) (m : Member) (event seq status flags code : Nat) : State :=
  let body := leBytes 2 seq ++ leBytes 1 status ++ leBytes 1 flags ++ leBytes 2 m.job ++ leBytes 1 0xF2 ++ leBytes 1 event
    ++ leBytes 4 (s.memEpoch m) ++ leBytes 4 (code * 8 + m.part)
  (s.post m.nctx body none).sendSig m.nctx m.score m.sig 1

/-- A job record whose status the spec does not give (log 69: DESIGN CHOICE). -/
def State.jobRecordFree (s : State) (m : Member) (event seq flags code : Nat) : State :=
  let f := s.draw 5
  f.1.jobRecord m event seq (f.2 % 256) flags code

/-! ### Forming the tree (R437) -/

/-- What a membership's bound sets are: the first one's epoch and digest, and whether they disagree. -/
def State.memDigest (s : State) (m : Member) : Nat × Nat × Bool :=
  let xs := m.sets.filterMap fun k => s.set? m.part k
  let e := (xs.head?.map (·.epoch)).getD 0
  let l := (xs.head?.map OptSet.lsdig).getD 0
  (e, l, xs.any fun x => x.epoch != e || x.lsdig != l)

/-- Messages combined upward: counts added, flags OR-ed, DIS where epoch or digest differs from this module's own. -/
def combine (own : Nat × Nat) (ms : List JobMsg) : JobMsg :=
  ms.foldl (fun a m =>
    ({ a with ncount := a.ncount + m.ncount, flags := a.flags ||| m.flags } : JobMsg).set fDis (m.epoch != own.1 || m.lsdig != own.2))
    { epoch := own.1, lsdig := own.2 }

/-- This module's own epoch and digest in a job: those of its first membership. -/
def State.ownDigest (s : State) (job : Nat) : Nat × Nat :=
  ((s.jobMembers job).head?.map fun m => let d := s.memDigest m; (d.1, d.2.1)).getD (0, 0)

/-- The HELLOs of this module's own memberships. -/
def State.ownHellos (s : State) (job : Nat) : List JobMsg :=
  (s.jobMembers job).map fun m => let d := s.memDigest m; ({ epoch := d.1, lsdig := d.2.1, ncount := 1 } : JobMsg).set fDis d.2.2

/-- A tree-form of a job waits. -/
def isTreeOf (job : Nat) (w : Await) : Bool := match w with
  | .tree _ j => j == job
  | _ => false

/-- A TREE_OK is acted on: forwarded, and the tree-form ends (log 66: DEDUCED). -/
def State.treeOk (s : State) (job : Nat) (t : Tree) (m : JobMsg) : State :=
  let s1 := s.sendDown 0x11 job 0 t m
  if m.has fFail then ({ s1 with chip.trees := Tab.erase s1.chip.trees job }).answer (isTreeOf job) .state m.code
  else
    let s2 := (s.jobMembers job).foldl (fun a x => a.modMember x.part job fun y => { y with st := .normal, causes := [] }) s1
    (s2.putTree job { t with formed := true }).answer (isTreeOf job) .ok

/-- Every child has sent its HELLO: it goes up, or the root checks it. -/
def State.tryHello (s : State) (job : Nat) (t : Tree) : State :=
  if t.formed || t.helloSent || !t.children.all (fun c => t.hellos.any fun h => h.1 == c.1) then s
  else
    let all := combine (s.ownDigest job) (s.ownHellos job ++ t.hellos.map (·.2))
    let s1 := s.putTree job { t with helloSent := true }
    match t.parent with
    | some p => s1.sendJob 0x10 p job t.tdig 0 all
    | none =>
      let n := ((s.jobMembers job).head?.map (·.nmem)).getD 0
      let m : JobMsg := { epoch := all.epoch }
      let r := if all.has fDis then { m with flags := fFail, code := 4 } else if all.ncount ≠ n then { m with flags := fFail, code := 1 } else m
      s1.treeOk job { t with helloSent := true } r

/-! ### Votes and decisions (R431, R433, R434, R439) -/

/-- Bound sets of a membership. -/
def State.memSets (s : State) (m : Member) : List OptSet := m.sets.filterMap fun k => s.set? m.part k

/-- The vote of a membership; `late`: VTMO has passed since its round opened. -/
def State.memVote (s : State) (t : Tree) (m : Member) (late : Bool) : JobMsg :=
  let xs := s.memSets m
  let live := xs.filter fun x => x.st != .idle
  let unst := xs.any fun x => x.st != .staged
  let bad := live.any (·.bad)
  let err := live.any (·.err)
  let ovf := live.any (·.ovf)
  let d := s.memDigest m
  let v : JobMsg := { epoch := (d.1 + 1) % 2 ^ 32, lsdig := d.2.1, ncount := 1 }
  ((((((v.set fDis d.2.2).set fOvf ovf).set fBad bad).set fErr err).set fLate (late && unst)).set fAbort
    (bad || err || (ovf && t.skipovf) || (late && unst)))

/-- A decision applied to one bound set of a membership (step 3 of R434). -/
def State.decideSet (s : State) (part set : Nat) (commit ovf : Bool) : State :=
  match s.set? part set with
  | none => s
  | some x =>
    match x.st with
    | .staged => s.resolveSet part set commit ovf
    | .staging => s.resolveSet part set false ovf
    | .idle => if commit then s else s.resolveSet part set false ovf
    | .resolving => s

/-- A DECIDE acted on: forwarded, recorded, every bound set of a NORMAL membership resolved, DSEQ advanced, job records. -/
def State.applyDecide (s : State) (job : Nat) (t : Tree) (m : JobMsg) : State :=
  let commit := !m.has fAbort
  let ovf := m.has fOvf
  let s1 := s.sendDown 0x13 job t.dseq t m
  let ms := (s.jobMembers job).filter fun x => x.st == .normal
  let s2 := ms.foldl (fun a x =>
    let b := a.modMember x.part job fun y => { y with lastDec := some (t.dseq, m.epoch, commit, ovf) }
    x.sets.foldl (fun c k => c.decideSet x.part k commit ovf) b) s1
  let s3 := s2.putTree job { t with dseq := (t.dseq + 1) % 2 ^ 32, votes := [], voted := false }
  ms.foldl (fun a x => a.jobRecord x (if commit then 1 else 2) (t.dseq % 2 ^ 16) 0 (b2n ovf) 0) s3

/-- The combined vote of the round leaves for the parent, or the root decides (R433). -/
def State.sendVote (s : State) (job : Nat) (t : Tree) (late : Bool) : State :=
  let own := s.ownDigest job
  let c := combine ((own.1 + 1) % 2 ^ 32, own.2) (t.votes.map (·.2))
  let v := if late then { c with flags := c.flags ||| (fLate + fAbort) } else c
  match t.parent with
  | some p => (s.putTree job { t with voted := true }).sendJob 0x12 p job t.tdig t.dseq v
  | none =>
    let n := ((s.jobMembers job).head?.map (·.nmem)).getD 0
    let commit := v.ncount == n && !v.has fAbort && !v.has fDis
    let s1 := if v.has fDis then s.raise { src := 0x62, detail := job, info := t.dseq } else s
    let m : JobMsg := { epoch := v.epoch, flags := v.flags &&& fOvf }
    s1.applyDecide job { t with voted := true } (m.set fAbort (!commit))

/-- Every vote of the round is in: this module's memberships' and every child's. -/
def State.votesIn (s : State) (job : Nat) (t : Tree) : Bool :=
  (s.jobMembers job).all (fun m => t.votes.any fun v => v.1 == 2 ^ 15 + m.part) && t.children.all fun c => t.votes.any fun v => v.1 == c.1

/-- Votes of NORMAL memberships whose bound sets are all STAGED formed (R431), and the combined vote sent once it is complete. -/
def State.tryVotes (s : State) (job : Nat) (t : Tree) : State :=
  if !t.formed || t.voted || t.restarting then s
  else
    let ready := (s.jobMembers job).filter fun m => m.st == .normal && !m.sets.isEmpty && (s.memSets m).all (fun x => x.st == .staged)
      && !t.votes.any fun v => v.1 == 2 ^ 15 + m.part
    let t1 := { t with votes := t.votes ++ ready.map fun m => (2 ^ 15 + m.part, s.memVote t m false) }
    let s1 := if ready.isEmpty then s else s.putTree job t1
    if s.votesIn job t1 then s1.sendVote job t1 false else s1

/-! ### Faults and restart (R441 to R447) -/

/-- A RESTART acted on: forwarded; every membership enters RESTARTING (step 1 of R443). -/
def State.enterRestart (s : State) (job : Nat) (t : Tree) (attempt : Nat) : State :=
  let s1 := s.sendDown 0x15 job attempt t {}
  let t1 := { t with attempt := attempt, faultSent := false, restarting := true, stopped := false, reported := false, rpts := [], rptSent := false }
  (s.jobMembers job).foldl (fun a m =>
    (a.modMember m.part job fun y => { y with st := .restarting, causes := [] }).jobRecordFree m 4 (attempt % 2 ^ 16) 0 0) (s1.putTree job t1)

/-- A RESUME acted on (step 6 of R443, R445, R447): forwarded; STAGED sets resolved and DSEQ taken over, or LOST on FAIL. -/
def State.applyResume (s : State) (job : Nat) (t : Tree) (m : JobMsg) : State :=
  let s1 := s.sendDown 0x17 job t.attempt t m
  let seq := t.attempt % 2 ^ 16
  if m.has fFail then
    (s.jobMembers job).foldl (fun a x => (a.modMember x.part job fun y => { y with st := .lost }).jobRecordFree x 6 seq 0 m.code)
      (s1.putTree job { t with restarting := false })
  else
    let roll := m.has fRoll
    let ovf := roll && m.has fOvf
    let s2 := (s.jobMembers job).foldl (fun a x => x.sets.foldl (fun b k =>
      if (b.set? x.part k).elim false (·.st == .staged) then b.resolveSet x.part k roll ovf else b) a) s1
    let s3 := s2.putTree job { t with restarting := false, faultSent := false, dseq := m.ephi, votes := [], voted := false }
    (s.jobMembers job).foldl (fun a x =>
      (a.modMember x.part job fun y => { y with st := .normal, nextColl := 0, causes := [] }).jobRecord x 5 seq 0
        (b2n roll * 2 + b2n (m.has fOvf)) 0) s3

/-- The root starts an attempt; a fourth one within RSTMO ends the restart with RESUME FAIL, CODE 3 (R442, R446). -/
def State.startRestart (s : State) (job : Nat) (t : Tree) : State :=
  let recent := t.starts.filter fun x => decide (s.aon.time < x + t.rstmo * 100000)
  if 3 ≤ recent.length then
    (s.raise { src := 0x63, detail := job, info := t.attempt + 1 }).applyResume job { t with starts := recent } { flags := fFail, code := 3 }
  else s.enterRestart job { t with starts := recent ++ [s.aon.time] } (t.attempt + 1)

/-- A cause of R441 at a membership: FAULTED; one FAULT per attempt goes to the root, which starts a restart itself (log 68: DEDUCED). -/
def State.jobCause (s : State) (m : Member) (code status : Nat) : State :=
  let s1 := s.modMember m.part m.job fun y => { y with causes := [] }
  if m.st = .faulted ∨ m.st = .lost then s1
  else
    let code1 := if m.st = .restarting then 5 else code
    let s2 := s1.modMember m.part m.job fun y => { y with st := .faulted }
    match s.tree? m.job with
    | none => s2
    | some t =>
      if !t.formed then s2
      else match t.parent with
        | none => s2.startRestart m.job t
        | some _ =>
          if t.faultSent then s2
          else
            let f : JobMsg := { code := code1, origin := s.chip.devid.getD 0 }
            let s3 := (s2.putTree m.job { t with faultSent := true }).sendJob 0x14 t.root m.job t.tdig t.attempt f
            if code1 = 1 ∨ code1 = 2 then s3.jobRecord m 3 (t.attempt % 2 ^ 16) status 0 code1 else s3.jobRecordFree m 3 (t.attempt % 2 ^ 16) 0 code1

/-- Causes that have arisen are acted on. -/
def State.jobCauses (s : State) : State :=
  s.chip.members.foldl (fun a p => match (a.member? p.2.part p.2.job).bind fun m => m.causes.head?.map fun c => (m, c) with
    | some (m, c) => a.jobCause m c.1 c.2
    | none => a) s

/-- Contexts of the member partitions of a job on this module. -/
def State.jobCtxs (s : State) (job : Nat) : List (Nat × Context) :=
  s.chip.ctxs.filter fun p => (s.jobMembers job).any fun m => m.part == ctxPart p.1

/-- Step 2 of R443: once no refresh of a bound set runs, every context that is not stopped yet stops. -/
def State.tryStops (s : State) (job : Nat) (t : Tree) : State :=
  if !t.restarting || t.stopped || (s.jobMembers job).any (fun m => (s.memSets m).any fun x => !x.refresh.isEmpty) then s
  else (s.jobCtxs job).foldl (fun a p => if p.2.st = .active then a.stopCtx p.1 else a) (s.putTree job { t with stopped := true })

/-- The report of a membership (step 4 of R443). -/
def State.memReport (s : State) (m : Member) : JobMsg :=
  let xs := s.memSets m
  let lo := (xs.map (·.epoch)).foldl min ((xs.head?.map (·.epoch)).getD 0)
  let hi := (xs.map (·.epoch)).foldl max 0
  let stg := !xs.isEmpty && xs.all fun x => x.st == .staged
  let d := m.lastDec
  ({ epoch := lo, ephi := hi, ncount := 1, nlow := b2n (!stg), nstg := b2n stg } : JobMsg).set fOvf (d.elim false fun x => x.2.2.2)

/-- Reports combined: counts added, lowest and highest epoch, NLOW of those at the lower epoch, OVF of the highest EPHI. -/
def combineReports (ms : List JobMsg) : JobMsg :=
  match ms with
  | [] => {}
  | o :: rest => rest.foldl (fun a m =>
      let low := if a.epoch < m.epoch then a.nlow else if m.epoch < a.epoch then m.nlow else a.nlow + m.nlow
      ({ epoch := min a.epoch m.epoch, ephi := max a.ephi m.ephi, ncount := a.ncount + m.ncount, nlow := low, nstg := a.nstg + m.nstg
         flags := if a.ephi < m.ephi then m.flags &&& fOvf else a.flags &&& fOvf } : JobMsg)) o

/-- Reports that this module holds, its own first. -/
def State.reportOf (s : State) (job : Nat) (t : Tree) : JobMsg :=
  combineReports ((s.jobMembers job).map s.memReport ++ t.rpts.map (·.2))

/-- The combined report goes up once this module and every child have reported. -/
def State.tryReport (s : State) (job : Nat) (t : Tree) : State :=
  match t.parent with
  | none => s
  | some p =>
    if t.restarting && t.reported && !t.rptSent && t.children.all (fun c => t.rpts.any fun r => r.1 == c.1) then
      (s.putTree job { t with rptSent := true }).sendJob 0x16 p job t.tdig t.attempt (s.reportOf job t)
    else s

/-- Everything that a tree does at once when the state around it has changed. -/
def State.pokeTree (s : State) (job : Nat) : State :=
  let step (f : State → Nat → Tree → State) (a : State) : State := match a.tree? job with
    | some t => f a job t
    | none => a
  step State.tryReport (step State.tryStops (step State.tryVotes (step State.tryHello s)))

def State.pokeTrees (s : State) : State := if s.chip.hif.fatal then s else s.chip.trees.foldl (fun a p => a.pokeTree p.1) s.jobCauses

end Sys2Proof.Machine
end

