-- ==== Sys2Proof/Machine/ResetOps.lean ====
section
/-! DEFINITION. Resets: the chip reset (R592, R594), the loss of the main conversion (R566), the release of a reset (R588, R590),
block resets (R548). -/

namespace Sys2Proof.Machine

open Sys2Proof

/-! ### Firmware writes cut short (R601, R608) -/

def flashKey (kind copy : Nat) : Nat := 2 * kind + copy

/-- A firmware write that a reset or a power loss ends: the copy under programming stays as its erase left it, invalid; before the
header has passed, no copy has been touched (R601) (log 84: DEDUCED). -/
def State.cutWrite (s : State) : State := { s with aon.fw := none }

/-! ### Chip reset -/

/-- An ACTIVE port sends DOWN with body 1, after what is left of a replay (R372); a full replay buffer lets none out (R368). -/
def State.portDown (s : State) (n : Nat) : State :=
  let p := s.port n
  if p.st = .active ∧ p.buf.length < replayMax then
    ((p.replayAt.elim [] p.buf.drop).foldl (fun a f => a.resend n f.2) s).sendSequenced n 2 0 0 (leBytes 1 3 ++ leBytes 1 1)
  else s

/-- Every ACTIVE port sends DOWN (R592). -/
def State.allDown (s : State) : State := (List.range 16).foldl State.portDown s

/-- A chip reset begins: everything outside the always-on block returns to reset; stacked memory keeps its bytes, the Isles
are zeroed. Without a pin cause it holds for 1 ms. -/
def State.chipReset (s : State) : State :=
  let s1 := s.allDown.cutWrite
  { s1 with
    mem := s1.mem.filter fun p => decide (p.1 < archBase)
    chip := {}
    aon := { s1.aon with mb := {}, capture := false, holding := s1.aon.pins.resetN && s1.aon.pins.perstN } }

/-- A chip reset by a C reaction; the third in a row that ends a start-up before READY puts the module in HALT (R594). -/
def State.reactReset (s : State) : State :=
  let early := s.chip.boot != .ready
  let n := if early then s.aon.cRst + 1 else s.aon.cRst
  let s1 := s.chipReset
  if 3 ≤ n ∧ early then { s1 with aon := { s1.aon with halt := true, cRst := n, holding := false }.faultN 0x76 }
  else { s1 with aon.cRst := n }

/-- The rails go off (R566): what stands outside the always-on block is lost. `again`: only a cycle of PWR_EN restarts
(log 91: DEDUCED). -/
def State.mainOff (s : State) (again : Bool) : State :=
  let s1 := s.cutWrite
  { s1 with
    mem := [], dramErr := [], chip := {}
    aon := { s1.aon with mainOn := false, starting := false, pgood := false, stby := true, holding := false, capture := false, mb := {}
                         needCycle := again || s1.aon.needCycle } }

/-- The chip reset is released where nothing holds it (R588 to R590, R592): straps latched, SMBus address taken, PLL enabled. -/
def State.tryRelease (s : State) : State :=
  let a := s.aon
  if a.pgood && a.pins.resetN && a.pins.perstN && !a.halt && !a.holding && s.chip.boot == .held then
    { s with
      aon := { a with resetAt := a.time, mgrL := a.pins.mgr, slotL := a.pins.slot, foldL := a.pins.fold, addr := some (0x60 + a.pins.slot) }
      chip.boot := .pll, chip.elig := a.pins.mgr }
  else s

/-! ### Block resets (R548) -/

/-- A context holds something on a core or in its Isle. -/
def State.onCore (s : State) (ctx core : Nat) (c : Context) : Bool :=
  (s.core core).queue.any (·.ctx == ctx) || (s.core core).slots.any (fun p => p.2.ctx == ctx) ||
    c.segs.any fun p => p.2.arch && decide (p.2.dbase < isleBase core + isleBytes) && decide (isleBase core < p.2.dbase + p.2.bytes)

/-- A context owns frames of a stack, or a parameter group there. -/
def State.onStack (s : State) (ctx st : Nat) (c : Context) : Bool :=
  c.segs.any (fun p => (p.2.frames ++ p.2.mdata).any (·.stack == st)) || c.reserved.any (·.stack == st) || (s.nmu st).groups.any fun g => g.2.ctx == ctx

/-- A block reset begins: its contexts are torn down, a port's collectives end and it trains again (log 98: DEDUCED). -/
def State.startBlock (s : State) (ukind unit : Nat) : State :=
  if s.chip.fc.blk.contains (ukind, unit) then s
  else
    let s1 : State := { s with chip.fc.blk := s.chip.fc.blk ++ [(ukind, unit)] }
    let kill (p : Nat → Context → Bool) : State :=
      s1.chip.ctxs.foldl (fun a q => if p q.1 q.2 then a.teardown q.1 false else a) s1
    match ukind with
    | 1 => kill fun n c => s1.onCore n unit c
    | 2 => kill fun n c => s1.onCore n (unit / 4) c
    | 3 => kill fun n c => s1.onStack n unit c
    | 4 =>
      let part := partOf s1.chip.start (eighthOfPort unit)
      let s2 := s1.cancelColls fun x => x.part == part
      ({ s2 with chip.pru := Tab.erase s2.chip.pru unit }).fullTraining unit
    | _ => s1

/-! ### What every step ends with -/

/-- Reactions B and C of the faults of this step (R547, R564): a chip reset supersedes block resets. -/
def State.react (s : State) : State :=
  if s.chip.fc.todoC.isSome then s.reactReset
  else
    let todo := s.chip.fc.todoB
    todo.foldl (fun a p => a.startBlock p.1 p.2) { s with chip.fc.todoB := [] }

/-- What happens at once when the state has changed: streams, claims, collectives, job trees, and reactions to faults. -/
def State.settle (s : State) : State :=
  s.react.pokeAll.grantClaims.endColls.pokeTrees.react

end Sys2Proof.Machine
end

