-- ==== Sys2Proof/Machine/PowerOps.lean ====
section
/-! DEFINITION. Power domains, their states and latencies (R568 to R573), dividers (R577), the power status (R582). -/

namespace Sys2Proof.Machine

open Sys2Proof

/-! ### Dividers (R577) -/

def Pwr.thermDiv (p : Pwr) (h : Nat) : Nat := Tab.get p.therm 6 h
/-- The divider in force on eighth `h`. -/
def Pwr.inForce (p : Pwr) (h : Nat) : Nat := Tab.get p.div 6 h

/-- The effective divider of eighth `h`. -/
def State.effDiv (s : State) (h : Nat) : Nat :=
  let p := s.chip.pwr
  max (max (s.attr (partOf s.chip.start h)).div (p.thermDiv h)) (max p.capDiv (if p.fast then 16 else 6))

/-- Every eighth of a partition runs at its effective divider. -/
def State.dividersSet (s : State) (part : Nat) : Bool :=
  (List.range 8).all fun h => !s.inPart part h || s.chip.pwr.inForce h == s.effDiv h

/-! ### Temperatures (R580): in 0.125 °C -/

/-- Junction readings of an eighth: each tile's 36 sensors in order of their blocks of 2 x 2 cores, 18 to an eighth. -/
def Pwr.eighthT (p : Pwr) (h : Nat) : List Int := (p.junction.drop (18 * h)).take 18
/-- A junction sensor of the eighth at 105 °C or above. -/
def Pwr.hot (p : Pwr) (h : Nat) : Bool := (p.eighthT h).any fun x => decide (840 ≤ x)
/-- Every junction sensor of the eighth at 100 °C or below. -/
def Pwr.cool (p : Pwr) (h : Nat) : Bool := (p.eighthT h).all fun x => decide (x ≤ 800)

/-! ### Latencies against tolerances (R568, R572): exit latencies in units of 1/96 ns -/

/-- The smallest tolerance of the partitions that hold the eighths. -/
def State.ltolOf (s : State) (hs : List Nat) : Nat :=
  (hs.map fun h => (s.attr (partOf s.chip.start h)).ltol).foldl min 10000000

def allowed (ltol exit96 : Nat) : Bool := decide (exit96 ≤ 96 * ltol)

/-- Exit latency of `n` CCLK on eighth `h`. -/
def State.cclk96 (s : State) (h n : Nat) : Nat := n * s.chip.pwr.inForce h * 10

def State.coreLtol (s : State) (core : Nat) : Nat := s.ltolOf [eighthOfCore core]
/-- A core may stay in the state of depth `d`. -/
def State.coreStateOk (s : State) (core d : Nat) : Bool :=
  d == 0 || d == 3 || allowed (s.coreLtol core) (if d = 1 then s.cclk96 (eighthOfCore core) 8 else 5000 * 96)
/-- A bank may stay in RET (1) or OFF (2). -/
def State.bankStateOk (s : State) (core d : Nat) : Bool :=
  d == 0 || allowed (s.coreLtol core) (s.cclk96 (eighthOfCore core) (if d = 1 then 20 else 576))
/-- A tile mesh may be IDLE: 4 FCLK at 2.4 GHz. -/
def State.meshIdleOk (s : State) (tile : Nat) : Bool := allowed (s.ltolOf [2 * tile, 2 * tile + 1]) 160
def State.straitIdleOk (s : State) : Bool := allowed (s.ltolOf (List.range 8)) (200 * 96)
/-- NMU logic may be IDLE: 32 MCLK at 1.2 GHz. -/
def State.nmuIdleOk (s : State) (st : Nat) : Bool := allowed (s.ltolOf [eighthOfStack st]) 2560
def State.srOk (s : State) (st : Nat) : Bool := allowed (s.ltolOf [eighthOfStack st]) (2000 * 96)

/-- Every domain whose state exceeds its tolerance is woken to the deepest one allowed (R573). -/
def State.wakeForLtol (s : State) : State :=
  let s1 := (List.range 576).foldl (fun a k =>
    let q := a.core k
    if q = {} then a
    else a.setCore k { q with
      pst := if a.coreStateOk k q.pst then q.pst else if q.pst = 2 ∧ a.coreStateOk k 1 then 1 else 0
      banks := q.banks.filterMap fun b => if a.bankStateOk k b.2 then some b else if b.2 = 2 ∧ a.bankStateOk k 1 then some (b.1, 1) else none }) s
  let s2 := (List.range 32).foldl (fun a st => a.modNmu st fun n => { n with
      pst := if n.pst = 1 ∧ !a.nmuIdleOk st then 0 else n.pst
      dram := if n.dram = 1 ∧ !a.srOk st then 0 else n.dram }) s1
  let p := s2.chip.pwr
  { s2 with chip.pwr := { p with mesh := p.mesh.filter fun m => s2.meshIdleOk m.1, strait := if s2.straitIdleOk then p.strait else [] } }

/-! ### What a domain that is OFF loses (R568, R569) -/

/-- Every byte of a bank of an Isle is zero. -/
def State.zeroBank (s : State) (core bank : Nat) : State :=
  let base := isleBase core
  let inBank (k : Nat) : Bool := decide (base ≤ k) && decide (k < base + isleBytes) && (k - base) / 64 % 48 == bank
  { s with mem := s.mem.filter (fun p => !inBank p.1), chip.isleErr := s.chip.isleErr.filter fun p => !inBank (4 * p.1) }

/-- A granted byte lies in the bank. -/
def State.bankGranted (s : State) (core bank : Nat) : Bool :=
  let lo := isleBase core
  s.chip.ctxs.any fun c => c.2.segs.any fun g =>
    g.2.arch &&
      (let a := max g.2.dbase lo
       let b := min (g.2.dbase + g.2.bytes) (lo + isleBytes)
       decide (a < b) && (decide (48 * 64 ≤ b - a) || (List.range ((b - a) / 64 + 2)).any fun i => let k := a / 64 * 64 + 64 * i; decide (k < b) && (k - lo) / 64 % 48 == bank))

/-- A core with everything it holds gone, but what force and presence say and the counters that only a chip reset clears
(R568, R168, R164). -/
def State.clearCore (s : State) (core : Nat) : State :=
  (s.modCore core fun q => { pst := q.pst, force := q.force, patrol := q.patrol
                             ice := q.ice, iue := q.iue, ace := q.ace, aue := q.aue, sce := q.sce, sue := q.sue
                             ubank := q.ubank, urow := q.urow, uword := q.uword
                             eng := q.eng.map fun e => (e.1, { e.2 with h0 := {}, h1 := {}, acc := [], err := [] }) }).zero (isleBase core) isleBytes

/-- A stack with every byte zero. -/
def State.clearStack (s : State) (st : Nat) : State := s.zero (stackKey st 0) (2 ^ 36)

/-! ### Power status (R582) -/

/-- Port `p` is powered (R413). -/
def State.portPowered (s : State) (p : Nat) : Bool :=
  !((s.port p).force == some false && (s.port p).st == .disabled) || decide (0 < Tab.get s.chip.pru 0 p)

/-- Sixteen bits of a signed value. -/
def int16 (x : Int) : Nat := (x % 65536).toNat

/-- The highest of some readings, 0 where none has been taken. -/
def highest : List Int → Int
  | [] => 0
  | [x] => x
  | x :: t => max x (highest t)

/-- The 64 bytes of POWER_STATUS. -/
def State.powerStatus (s : State) : List Byte :=
  let p := s.chip.pwr
  leBytes 4 s.aon.vin ++ leBytes 4 s.aon.iin ++ leBytes 2 p.pin ++ leBytes 2 p.cap ++ leBytes 1 (b2n p.fast * 2 + b2n (decide (6 < p.capDiv)))
    ++ leBytes 3 0 ++ (List.range 8).flatMap (fun h => leBytes 1 (s.effDiv h))
    ++ leBytes 1 ((List.range 8).foldl (fun a h => a + b2n (decide (6 < p.thermDiv h)) * 2 ^ h) 0)
    ++ leBytes 1 ((List.range 8).foldl (fun a h => a + b2n (s.chip.cores.any fun c => eighthOfCore c.1 == h && c.2.force.isSome) * 2 ^ h) 0)
    ++ leBytes 2 0 ++ (List.range 4).flatMap (fun t => leBytes 2 (int16 (highest ((p.junction.drop (36 * t)).take 36)))) ++ leBytes 2 (int16 (highest p.stackT)) ++ leBytes 2 0
    ++ leBytes 4 ((List.range 32).foldl (fun a st => a + b2n ((s.nmu st).dram == 1) * 2 ^ st) 0)
    ++ leBytes 2 ((List.range 16).foldl (fun a n => a + b2n (s.portPowered n) * 2 ^ n) 0) ++ leBytes 2 0
    ++ leBytes 8 (s.aon.energy / 10 ^ 8 % 2 ^ 64) ++ leBytes 8 0

end Sys2Proof.Machine
end

