-- ==== Sys2Proof/Machine/HostOps.lean ====
section
/-! DEFINITION. Operations of the host interface that several families share: fetching (R489, R492), keys erased (R536), Function
Level Reset (R512), FATAL (R561). -/

namespace Sys2Proof.Machine

open Sys2Proof

/-- A function that the host can reach (R479, R480). -/
def State.fnLive (s : State) (fn : Nat) : Bool :=
  s.chip.hif.configReady && (fn == 0 || (s.chip.hif.vfEnable && decide (fn ≤ s.chip.hif.numVFs)))

/-! ### Fetching -/

/-- Commands of a function fetched and not yet answered (R492); those whose response is discarded take no slot. -/
def State.unanswered (s : State) (fn : Nat) : Nat :=
  ((s.fn fn).mb.fetched.filter fun f => !f.mute).length + (s.chip.hif.running.filter fun r => r.caller.fn == fn && !r.mute).length

/-- The next command entry is read while it may be (R480, R487, R492). -/
def State.pumpMailbox (s : State) (fn : Nat) : State :=
  let m := (s.fn fn).mb
  if s.serving && m.en && !m.err && !m.reading && m.cprod != m.chead
      && decide ((m.rtail + 2 ^ 32 - m.rcons) % 2 ^ 32 + s.unanswered fn < 2 ^ m.logn) then
    let size := 256 + s.sealBytes fn
    (s.modFn fn fun f => { f with mb.reading := true }).emit fn (.hostRead fn (m.cbase + (m.chead % 2 ^ m.logn) * size) size)
  else s

/-- The next entry of a submission ring is read once the one before it has been taken. -/
def State.pumpRing (s : State) (fn ring : Nat) : State :=
  match Tab.look (s.fn fn).sub ring with
  | none => s
  | some r =>
    if s.serving && !r.err && !r.reading && r.head.isNone && r.prod != r.cons then
      let size := (if r.q1 then 144 else 272) + s.sealBytes fn
      (s.modFn fn fun f => { f with sub := Tab.put f.sub ring { r with reading := true } }).emit fn
        (.hostRead fn (r.base + (r.cons % 2 ^ r.logn) * size) size)
    else s

/-- Every mailbox and ring read as far as it may be. -/
def State.pumpAll (s : State) : State :=
  (List.range 9).foldl (fun a fn => (a.fn fn).sub.foldl (fun b r => b.pumpRing fn r.1) (a.pumpMailbox fn)) s

/-! ### Keys (R533 to R536) -/

def keyIndex (part handle : Nat) : Nat := part * 16 + handle

/-- Partition of a stack. -/
def State.stackPart (s : State) (st : Nat) : Nat := partOf s.chip.start (eighthOfStack st)

/-- W of slot CUR of a group zeroed (R317, R536). -/
def State.zeroW (s : State) (st gid : Nat) : State :=
  match s.group? st gid with
  | some g => s.zero (s.stateKey g g.cur 0) (4 * g.nr * g.nc)
  | none => s

/-- A key leaves the NMUs of its partition; an import that runs with it ends (R536). -/
def State.unloadKey (s : State) (part handle : Nat) : State :=
  let s1 := (List.range 32).foldl (fun a st => if a.stackPart st = part then a.modNmu st fun n => { n with keys := n.keys.filter (· != handle) } else a) s
  let uses (w : Await) : Bool := match w with
    | .load st _ k _ => k == some handle && s.stackPart st == part
    | _ => false
  let s2 := s1.chip.hif.running.foldl (fun a r => match r.await with
    | .load st gid _ _ => if uses r.await then a.zeroW st gid else a
    | _ => a) s1
  s2.answer uses .aborted

/-- A key erased from the enclave and from every NMU. -/
def State.eraseKey (s : State) (part handle : Nat) : State :=
  ({ s with chip.enc.keys := Tab.erase s.chip.enc.keys (keyIndex part handle) } : State).unloadKey part handle

/-- Every key that meets `p` erased. -/
def State.eraseKeys (s : State) (p : Nat → HeldKey → Bool) : State :=
  s.chip.enc.keys.foldl (fun a k => if p k.1 k.2 then a.eraseKey (k.1 / 16) (k.1 % 16) else a) s

/-- A measurement has changed: the keys with REVOKE that bind it are erased (R536) (log 82: DEDUCED). -/
def State.measured (s : State) (index : Nat) : State := s.eraseKeys fun _ k => k.revoke && k.mmask.testBit index

/-- A command that may change a measurement: what it leaves as it was erases nothing (log 82: DEDUCED). -/
def State.measuredIf (s : State) (index : Nat) (changed : Bool) : State := if changed then s.measured index else s

/-! ### Function Level Reset (R512) -/

/-- One function's part of a reset: its rings, mailbox, session and confidential mode; what runs ends without response
(log 71: DEDUCED; log 117: DEDUCED). -/
def State.resetFn (s : State) (fn : Nat) : State :=
  let s1 := s.setFn fn {}
  { s1 with
    chip.hif.running := s1.chip.hif.running.map fun r => if r.caller.fn = fn then { r with caller.fn := 9 } else r
    chip.enc.sessions := s1.chip.enc.sessions.filter fun x => x.1 != fn
    chip.enc.exports := s1.chip.enc.exports.filter fun x => x.1 / 2 ^ 32 != fn
    chip.enc.conns := Tab.erase s1.chip.enc.conns fn }

/-- FLR of a virtual function (log 71: DEDUCED). -/
def State.flrVf (s : State) (fn : Nat) : State :=
  match s.boundPart fn with
  | none => s.resetFn fn
  | some p =>
    let s1 := ((s.partCtxs p).foldl (fun a c => a.teardown c.1 false) s).resetFn fn
    let s2 := s1.eraseKeys fun k _ => k / 16 == p
    (List.range 32).foldl (fun a st => if a.stackPart st = p then a.modNmu st fun n => { n with keys := [] } else a) s2

/-- FLR of the physical function, hot reset, link down (log 71: DEDUCED). -/
def State.flrPf (s : State) : State :=
  let s1 := (List.range 8).foldl (fun a i => a.flrVf (i + 1)) s
  let s2 := s1.chip.ctxs.foldl (fun a c => a.teardown c.1 false) s1
  let s3 := (s2.eraseKeys fun _ _ => true).resetFn 0
  { s3 with chip.hif.numVFs := 0, chip.hif.vfEnable := false
            chip.nmus := s3.chip.nmus.map fun p => (p.1, { p.2 with keys := [] }) }

/-! ### FATAL (R484, R485, R558, R561) -/

/-- Drover stops serving: FATAL on every function, its cause set, the heartbeat stopped. -/
def State.fatal (s : State) : State :=
  if s.chip.hif.fatal then s
  else (List.range 9).foldl (fun a fn => a.setIsr fn isrFatal) { s with chip.hif.fatal := true, chip.hif.fatalAt := s.aon.time }

end Sys2Proof.Machine
end

