-- ==== Sys2Proof/Machine/RegOps.lean ====
section
/-! DEFINITION. The registers of the host BAR (R481 to R488) and of the sideband (R554, R573, R582, R597 to R599): what each reads
as, and what a write stores. -/

namespace Sys2Proof.Machine

open Sys2Proof

def State.step_ (s : State) : Nat := if s.nv.b0 then 0x10 else 0

/-! ### BAR (R482) -/

/-- MSI-X table entries of a function. -/
def msixEntries (fn : Nat) : Nat := if fn = 0 then 64 else 16

/-- HIF_STS (R484). -/
def State.hifSts (s : State) (fn : Nat) : Nat :=
  let b := s.boundPart fn
  b2n (s.fn fn).conf.isSome * 2 ^ 11 + b2n s.chip.hif.fatal * 2 ^ 10 + b2n (fn == 0 || b.isSome) * 2 ^ 9 + b.getD 0 * 32 + b2n s.chip.hif.ready

/-- HIF_HBEAT (R485). -/
def State.hbeat (s : State) : Nat :=
  let h := s.chip.hif
  if h.ready then ((if h.fatal then h.fatalAt else s.aon.time) - h.readyAt) / 1000 % 2 ^ 32 else 0

/-- What a BAR register reads as; none for an offset that is not implemented (log 120: DESIGN CHOICE). -/
def State.barReg (s : State) (fn off : Nat) : Option Nat :=
  let f := s.fn fn
  let m := f.mb
  if off % 4 ≠ 0 then none
  else if off = 0 then some (s.step_ * 2 ^ 24 + 2 ^ 16 + (if fn = 0 then 0x2304 else 0x2305))
  else if off = 4 then some (s.hifSts fn)
  else if off = 8 then some s.hbeat
  else if off = 0x10 then some f.isr
  else if off = 0x14 then some f.imask
  else if off = 0x20 then some (b2n m.en * 2 ^ 31 + b2n m.err * 2 ^ 30 + m.logn * 2 ^ 12)
  else if off = 0x24 then some (m.cbase % 2 ^ 32)
  else if off = 0x28 then some (m.cbase / 2 ^ 32)
  else if off = 0x2C then some (m.rbase % 2 ^ 32)
  else if off = 0x30 then some (m.rbase / 2 ^ 32)
  else if off = 0x34 then some (m.shad % 2 ^ 32)
  else if off = 0x38 then some (m.shad / 2 ^ 32)
  else if 0x1000 ≤ off ∧ off < 0x1100 then some 0
  else if 0x1200 ≤ off ∧ off < 0x1240 then some 0
  else if off = 0x1300 ∨ off = 0x1304 then some 0
  else if 0x8000 ≤ off ∧ off < 0x8000 + 16 * msixEntries fn then some (f.msixWord ((off - 0x8000) / 4)).toNat
  else if off = 0x9000 ∨ off = 0x9004 then
    some ((List.range 32).foldl (fun a i => a + b2n (f.pending.contains (8 * (off - 0x9000) + i)) * 2 ^ i) 0)
  else none

/-- A doorbell or mailbox-configuration write is refused (R487, R488). -/
def State.dberr (s : State) (fn : Nat) : State := s.setIsr fn isrDberr

/-- One half of a 64-bit address register written. -/
def setHalfWord (x : Nat) (hi : Bool) (v : Nat) : Nat :=
  if hi then x % 2 ^ 32 + v * 2 ^ 32 else x / 2 ^ 32 * 2 ^ 32 + v / 4096 * 4096

/-- Vector control written: unmasking a vector whose pending bit is set sends the held message (R507). -/
def State.vectorControl (s : State) (fn v value : Nat) : State :=
  let s1 := s.modFn fn fun f => { f with msix := Tab.put f.msix (4 * v + 3) (BitVec.ofNat 32 value) }
  if value % 2 = 0 ∧ (s1.fn fn).pending.contains v then
    (s1.modFn fn fun f => { f with pending := f.pending.filter (· != v) }).emit fn (.msix fn v)
  else s1

/-- A write to a BAR register without a row of its own (R14, R486, R487, R507) (log 72: DEDUCED). -/
def State.barWrite (s : State) (fn off v : Nat) : State :=
  let base (p : Mailbox → Mailbox) : State := s.modFn fn fun f => if f.mb.en then f else { f with mb := p f.mb }
  if off = 0x10 then s.modFn fn fun f => { f with isr := f.isr &&& (0x7F - v % 128) }
  else if off = 0x14 then s.modFn fn fun f => { f with imask := v % 128 }
  else if off = 0x24 ∨ off = 0x28 then base fun m => { m with cbase := setHalfWord m.cbase (off == 0x28) v }
  else if off = 0x2C ∨ off = 0x30 then base fun m => { m with rbase := setHalfWord m.rbase (off == 0x30) v }
  else if off = 0x34 ∨ off = 0x38 then base fun m => { m with shad := setHalfWord m.shad (off == 0x38) v }
  else if 0x8000 ≤ off ∧ off < 0x8000 + 16 * msixEntries fn ∧ off % 4 = 0 then
    let i := (off - 0x8000) / 4
    if i % 4 = 3 then s.vectorControl fn (i / 4) v else s.modFn fn fun f => { f with msix := Tab.put f.msix i (BitVec.ofNat 32 v) }
  else s

/-! ### Sideband (R597) -/

/-- SB_STS (R598). -/
def State.sbSts (s : State) : Nat :=
  let a := s.aon
  s.chip.enc.dbg * 2 ^ 10 + b2n a.pecErr * 2 ^ 9 + b2n a.halt * 2 ^ 8 + b2n (s.chip.boot == .recovery) * 2 ^ 7 + b2n a.eoff * 2 ^ 6
    + b2n a.ttrip * 2 ^ 5 + b2n a.stby * 2 ^ 4 + b2n a.pgood * 2 ^ 3 + b2n s.chip.hif.fatal * 2 + b2n s.chip.hif.ready

/-- SB_STRAP (R598). -/
def State.sbStrap (s : State) : Nat :=
  let a := s.aon
  b2n a.mgrL * 2 ^ 31 + a.slotL * 2 ^ 28 + a.foldL * 2 ^ 16 + b2n a.pins.mgr * 2 ^ 15 + a.pins.slot * 2 ^ 12 + a.pins.fold

/-- Words still to move (R599) (log 120: DESIGN CHOICE). -/
def State.sbCnt (s : State) : Nat :=
  let m := s.aon.mb
  if !m.busy then 0
  else match s.aon.fw with
    | some w => if w.host.isNone then (w.len - w.bytes.length) / 4 else m.data.length
    | none => m.data.length

/-- PMU_LTOL[h] (R573). -/
def State.pmuLtol (s : State) (h : Nat) : Nat := if startsPart s.chip.start h then min (s.attr h).ltol 0xFFFFFF else 0

/-- What a sideband register reads as; none for an offset that is not listed (log 120: DESIGN CHOICE). -/
def State.sbReg (s : State) (off : Nat) : Option Nat :=
  let a := s.aon
  let m := a.mb
  if off % 4 ≠ 0 then none
  else if off = 0 then some (s.step_ * 2 ^ 24 + 2 ^ 16 + 0x2304)
  else if off = 4 then some s.sbSts
  else if off = 8 then some s.sbStrap
  else if off = 0x10 then some a.evt
  else if off = 0x14 then some a.emask
  else if off = 0x20 then some (m.arg * 256 + m.op)
  else if off = 0x24 then some m.len
  else if off = 0x28 then some (b2n m.busy * 2 ^ 31 + b2n m.done * 2 ^ 30 + m.status * 2 ^ 16 + m.detail)
  else if off = 0x2C then some s.sbCnt
  else if off = 0x30 then some m.data_.toNat
  else if off = 0x400 then some (b2n a.fnMode * 2 ^ 31 + a.fnPw)
  else if off = 0x404 then some (b2n a.fnOn * 2 ^ 31 + a.lastSrc * 2 ^ 16 + a.fnCount * 256 + b2n a.hold)
  else if 0x800 ≤ off ∧ off < 0xC00 then some (s.faultCfg ((off - 0x800) / 4))
  else if 0xC00 ≤ off ∧ off < 0xC40 then some (num s.powerStatus (off - 0xC00) 4)
  else if 0xC40 ≤ off ∧ off < 0xC60 then some (s.pmuLtol ((off - 0xC40) / 4))
  else none

/-- The sideband answers (R595) (log 74: DESIGN CHOICE). -/
def Aon.answers (a : Aon) : Bool := a.up && a.addr.isSome

/-- A sideband write whose PEC or byte count is wrong is discarded (R595). -/
def State.sbWrite (s : State) (ok : Bool) (act : State) : State :=
  if !s.aon.answers then s else if ok then act else { s with aon.pecErr := true }

/-- MBERR (R599) (log 73: DEDUCED). -/
def State.mbErr (s : State) : State := { s with aon.evt := s.aon.evt ||| 16 }

/-- The end of a sideband operation: BUSY clears, DONE and MBDONE (R599) (log 126: DEDUCED). -/
def State.sbEnd (s : State) (st : Status) (detail : Nat := 0) : State :=
  { s with aon := { s.aon with evt := s.aon.evt ||| 1, mb := { s.aon.mb with busy := false, done := true, status := st.code, detail := detail, data := [] } } }

/-- What every GO starts with (R599, R600): where an operation runs the write is ignored and sets MBERR, else OP and ARG are stored
(log 73: DEDUCED; log 126: DEDUCED). -/
def State.sbGo (s : State) (ok : Bool) (op arg : Nat) (act : State → State) : State :=
  s.sbWrite ok (if s.aon.mb.busy then s.mbErr
    else
      let s1 : State := { s with aon.mb := { s.aon.mb with op := op, arg := arg, busy := true, data := [] } }
      if s.chip.boot = .recovery ∧ op ≠ 1 ∧ op ≠ 6 then s1.sbEnd .state else act s1)

/-- A write to a sideband register without a row of its own (log 72: DEDUCED). -/
def State.sbRegWrite (s : State) (off v : Nat) : State :=
  if off = 4 then { s with aon.pecErr := s.aon.pecErr && !v.testBit 9 }
  else if off = 0x14 then { s with aon.emask := v % 32 }
  else if off = 0x20 then
    let op := v % 256
    let arg := v / 256 % 256
    if v.testBit 30 then s
    else if v.testBit 31 then
      if 1 ≤ op ∧ op ≤ 6 then s else s.sbGo true op arg fun a => a.sbEnd .unsupported
    else { s with aon.mb := { s.aon.mb with op := op, arg := arg } }
  else if off = 0x28 then { s with aon.mb := { s.aon.mb with done := s.aon.mb.done && !v.testBit 30 } }
  else if off = 0x400 then
    { s with aon := { s.aon with fnMode := v.testBit 31, fnPw := if v % 65536 < 10 then 10 else if 10000 < v % 65536 then 10000 else v % 65536 } }
  else s

end Sys2Proof.Machine
end

