-- ==== Sys2Proof/Machine/Settle.lean ====
section
/-! DEFINITION. The end of a command: what happens at once, and the next state. -/

namespace Sys2Proof.Machine

/-- A command's last word: everything that its effect sets off at once, then the next state (log 12: DESIGN CHOICE). -/
def done (s : State) : Host.Outcome State Fault Refusal := .next s.settle

end Sys2Proof.Machine
end

