-- ==== Sys2Proof/Machine/MbOps.lean ====
section
/-! DEFINITION. What the mailbox command families share: who may issue a command (R454, R494), commands that need not wait for
others (R476, R517), places for several segments (R263, R628). -/

namespace Sys2Proof.Machine

open Sys2Proof

/-- An unbound virtual function may issue only the commands that every function may (R454, R498). -/
def State.chkBound (s : State) (c : Caller) : Bool × Status × Nat := (c.fn != 0 && (s.boundPart c.fn).isNone, .denied, 3)

/-- Check 3 of R494 on a context number. -/
def State.chkCtxPart (s : State) (c : Caller) (n : Nat) : Bool × Status × Nat := s.chkPart c (ctxPart n)

/-- Check 3 of R494 on a stack, and its number (log 18: DEDUCED). -/
def State.chkStack (s : State) (c : Caller) (st : Nat) : List (Bool × Status × Nat) :=
  [(!(s.mayAct c.fn (s.stackPart st) && (c.fn == 0 || decide (st < 32))), .denied, 3), (decide (32 ≤ st), .argRange, 0)]

/-- Check 3 of R494 on a core, and that it lies in the partition of the context (log 18: DEDUCED). -/
def State.chkCore (s : State) (c : Caller) (ctx core : Nat) : List (Bool × Status × Nat) :=
  [(c.fn != 0 && !s.coreInPart (ctxPart ctx) core, .denied, 3)]

/-- A core outside the partition of the context that the command names (log 18: DEDUCED). -/
def State.chkCoreIn (s : State) (ctx core : Nat) : Bool × Status × Nat := (!s.coreInPart (ctxPart ctx) core, .argRange, 0)

/-- A context is in state `st`. -/
def State.ctxIs (s : State) (n : Nat) (st : CtxState) : Bool := (s.ctx? n).elim false (·.st == st)

/-- A command may start although commands that meet `past` run (log 11: DEDUCED). -/
def State.mayStartPast (s : State) (past : Running → Bool) (c : Caller) (opc : Nat) (objs : List Obj) : Bool :=
  s.mayStart c opc [] && ({ s with chip.hif.running := s.chip.hif.running.filter fun r => !past r } : State).mayStart c opc objs

/-- A command that may begin although commands that meet `past` run (log 11: DEDUCED; log 16: DEDUCED). -/
def State.mboxPast (s : State) (past : Running → Bool) (c : Caller) (opc : Nat) (objs : List Obj)
    (checks : List (Bool × Status × Nat)) (body : Cmd → State → State) : State :=
  if s.mayStartPast past c opc objs then s.mbox c opc [] 0 checks body else s

/-- Places for several segments, each after the ones before it; none where one finds no room. -/
def State.placeAll (s : State) (part ctx : Nat) : List (Nat × Segment) → Option (List (Nat × Segment))
  | [] => some []
  | (id, g) :: t =>
    match s.place part s.grants g with
    | none => none
    | some n => ((s.run { caller := { fn := 9 }, opc := 0, seq := 0 } [] (.newSeg ctx id n)).placeAll part ctx t).map ((id, n) :: ·)

/-- A segment's MIG bit set. -/
def State.markMig (s : State) (ctx seg : Nat) : State :=
  s.modCtx ctx fun x => { x with segs := Tab.adjust x.segs seg fun g => { g with mig := true } }

/-- A segment of a context. -/
def State.seg? (s : State) (ctx seg : Nat) : Option Segment := (s.ctx? ctx).bind fun c => Tab.look c.segs seg

/-- A new segment enters a context's table, zeroed unless it is a view of others (R263, R264) (log 28: DEDUCED). -/
def State.addSegment (s : State) (ctx id : Nat) (g : Segment) : State :=
  let s1 := if g.fixed then s else s.serveAll.zeroAll (g.keyRuns ++ g.metaRuns)
  s1.modCtx ctx fun x => { x with segs := Tab.put x.segs id { g with created := x.segSeq }, segSeq := (x.segSeq + 1) % 2 ^ 32 }

/-- A host copy holds a segment: a command about the segment need not wait for it to start (R517). -/
def isCopyOn (ctx seg : Nat) (r : Running) : Bool :=
  match r.await with
  | .hostCopy c g _ _ _ => c == ctx && g == seg
  | _ => false

end Sys2Proof.Machine
end

