-- ==== Sys2Proof/Machine/MbDevice.lean ====
section
/-! DEFINITION. Mailbox commands of the device and of partitions and contexts (R452 to R476, R498 to R500). -/

namespace Sys2Proof.Machine

open Sys2Proof

/-! ### Device -/

def execNop (c : Caller) (value : Nat) (s : State) : Host.Outcome State Fault Refusal :=
  done (s.mbox c 0x0100 [] 0 [] fun m a => a.respond m .ok 0 value)

/-- The two status bytes of engine `e` of a core (R104). -/
def State.engineStatus (s : State) (core e : Nat) : List Byte :=
  let g := (s.core core).engine e
  let f := Tab.get s.nv.repair (0, 0) (4 * core + e)
  leBytes 1 (b2n g.present * 128 + g.cause * 32) ++ leBytes 1 (f.1 * 64 + f.2 * 16 + g.srow * 4 + g.scol)

/-- The engine-present map (R105). -/
def State.presentMap (s : State) : List Byte :=
  (List.range 288).map fun b => BitVec.ofNat 8 ((List.range 8).foldl (fun a i =>
    a + b2n ((s.core ((8 * b + i) / 4)).engine ((8 * b + i) % 4)).present * 2 ^ i) 0)

/-- The first 64 bytes of DEVICE_INFO (R499). -/
def State.deviceHead (s : State) (fn : Nat) : List Byte :=
  let id := s.chip.devid
  leBytes 2 0x1F4C ++ leBytes 2 (if fn = 0 then 0x2304 else 0x2305) ++ leBytes 1 s.step_ ++ leBytes 1 1 ++ leBytes 1 s.chip.start
    ++ leBytes 1 (b2n s.chip.elig) ++ leBytes 4 ((Tab.look s.chip.enc.images 2).elim 0 (·.version))
    ++ leBytes 2 (b2n id.isSome * 2 ^ 15 + id.getD 0) ++ leBytes 2 s.aon.slotL ++ leBytes 2 s.aon.foldL
    ++ leBytes 2 ((List.range 16).foldl (fun a p => a + b2n (s.port p).enabled * 2 ^ p) 0)
    ++ leBytes 4 ((List.range 32).foldl (fun a st => a + b2n (s.nmu st).avail * 2 ^ st) 0) ++ leBytes 40 0

def State.deviceInfo (s : State) (fn : Nat) : List Byte :=
  s.deviceHead fn ++ (List.range 576).flatMap (fun k => (List.range 4).flatMap (s.engineStatus k)) ++ s.presentMap

def execDeviceInfo (c : Caller) (s : State) : Host.Outcome State Fault Refusal :=
  done (s.mbox c 0x0101 [] 4960 [s.chkResp c 4960] fun m a => a.respond m .ok 0 0 (a.deviceInfo c.fn))

/-! ### Partitions (R455, R456) -/

/-- Partitions of layout `x` that layout `y` does not hold with the same size. -/
def changedParts (x y : Nat) : List Nat := (partsOf x).filter fun h => !(y.testBit h && partSize x h == partSize y h)

/-- A partition holds something that forbids a change of the layout (check 2 of R455). -/
def State.partHolds (s : State) (h : Nat) : Bool :=
  !(s.partCtxs h).isEmpty || s.chip.members.any (fun m => m.2.part == h) || s.chip.wins.any (fun w => w.2.part == h)
    || s.chip.sets.any fun x => x.1 / 16 == h

/-- The module serves a bellwether role for a job that has a member on one of these partitions (check 3 of R455). -/
def State.servesBell (s : State) (hs : List Nat) : Bool :=
  s.chip.trees.any fun t => t.2.bell && (s.jobMembers t.1).any fun m => hs.contains m.part

/-- An accepted layout: programs and keys of the changed partitions are erased, they take the default attributes, and the
zeroing of their eighths begins (log 24: DEDUCED). -/
def State.newLayout (s : State) (start : Nat) : State :=
  let old := changedParts s.chip.start start
  let s1 := s.eraseKeys fun k _ => old.contains (k / 16)
  let s2 := old.foldl (fun a h => (a.partStacks h).foldl (fun b st => b.modNmu st fun n => { n with progs := [], keys := [] }) a) s1
  let s3 : State := { s2 with
    chip.start := start
    chip.attr := s2.chip.attr.filter fun p => !(old ++ changedParts start s.chip.start).contains p.1
    chip.bufs := s2.chip.bufs.filter fun p => !old.contains (p.1 / 8) }
  (s3.measuredIf 8 (old.any fun h => (s.partStacks h).any fun st => !(s.nmu st).progs.isEmpty)).measuredIf 7 (s.chip.start != start)

/-- Isles, accumulators, staging buffers and table sets of the eighths of the partitions that changed are zeroed (R169). -/
def State.zeroEighth (s : State) (e : Nat) : State :=
  (List.range 72).foldl (fun a i =>
    let k := 72 * e + i
    (a.modCore k fun q => { q with
      eng := q.eng.map fun p => (p.1, { p.2 with h0 := {}, h1 := {}, acc := [], err := [] })
      resident := [], staging := none, stageErr := [] }).zero (isleBase k) isleBytes) s

/-- The eighths of some partitions, as a bit map. -/
def eighthMask (start : Nat) (hs : List Nat) : Nat :=
  hs.foldl (fun x h => x + (List.range (partSize start h)).foldl (fun y i => y + 2 ^ (h + i)) 0) 0

def execPartLayout (c : Caller) (start : Nat) (s : State) : Host.Outcome State Fault Refusal :=
  let old := changedParts s.chip.start start
  done (s.mbox c 0x0200 [.partitions] 0
    [chkPF c, (!legalStart start, .argRange, 5), (old.any s.partHolds, .state, 6),
      (s.servesBell (old ++ changedParts start s.chip.start), .state, 7)]
    fun m a => (a.newLayout start).run m [.partitions] (.newLayout (eighthMask s.chip.start old)))

def execPartConfig (c : Caller) (part pdl age lo hi : Nat) (s : State) : Host.Outcome State Fault Refusal :=
  done (s.mbox c 0x0201 [.partitions] 0
    [chkPF c, s.chkStart part, (decide (pdl < 2 ∨ 1000 < pdl ∨ age < 1 ∨ 1000 < age ∨ hi < lo), .argRange, 0)]
    fun m a => ({ a with chip.attr := Tab.modify a.chip.attr {} part fun x =>
      { x with pdl := pdl, age := age, clientLo := lo, clientHi := hi } } : State).respond m .ok)

/-! ### Contexts -/

/-- What Drover reserves for a context (check 6 of R459, R628): a save area a core, histogram table, format table. -/
def State.ctxReserve (s : State) (part : Nat) : Option (List Reservation) :=
  reserveAll s.grants (s.availStacks part) (List.replicate (72 * partSize s.chip.start part) 335872 ++ [2 ^ 20, 32768])

/-- The control records of a new context's save areas cleared: no table set is saved (R173) (log 146: DEDUCED). -/
def State.clearRecords (s : State) (rs : List Reservation) (part : Nat) : State :=
  (rs.take (72 * partSize s.chip.start part)).foldl (fun a r => a.zero (stackKey r.stack (r.frame * 4096)) 4096) s

/-- The lowest free context number of a partition. -/
def State.freeCtx (s : State) (part : Nat) : Option Nat := (lowest 64 fun i => (s.ctx? (64 * part + i)).isNone).map (64 * part + ·)

/-- Clients that may run one context more. -/
def State.quotaOk (s : State) (client : Nat) : Bool :=
  (Tab.look s.chip.clients client).elim true fun k => decide (k.running < k.quota)

/-- Room for another context (check 5 of R459). -/
def State.ctxRoom (s : State) (part client qmin : Nat) : Bool :=
  (s.freeCtx part).isSome && decide (sumNat ((s.partCtxs part).map fun p => p.2.qmin) + qmin ≤ 64)
    && ((Tab.look s.chip.clients client).isSome || decide (s.chip.clients.length < 1024))

/-- A core of a partition is forced OFF (R574) (log 25: DEDUCED). -/
def State.coreForcedOff (s : State) (part : Nat) : Bool := (s.partCores part).any fun k => (s.core k).force == some false

def execCtxCreate (c : Caller) (d : List Byte) (s : State) : Host.Outcome State Fault Refusal :=
  let part := fld d 0 0 3
  let client := num d 2 2
  let dtmo := num d 4 2
  let qmin := num d 6 1
  let qmax := num d 7 1
  let resv := s.ctxReserve part
  let attr := s.attr part
  done (s.mbox c 0x0202 [.partitions, .client client] 0
    [(!(zeroFlds d [(0, 3, 5), (1, 2, 6)] && zeroRange d 8 8), .argRange, 2), s.chkBound c,
      (decide (10000 < dtmo ∨ 64 < qmin ∨ qmax < 1 ∨ 64 < qmax ∨ qmax < qmin), .argRange, 5),
      (!startsPart s.chip.start part || !s.mayAct c.fn part, .denied, 6),
      (c.fn != 0 && !(decide (attr.clientLo ≤ client) && decide (client ≤ attr.clientHi)), .denied, 7),
      (!s.quotaOk client, .quota, 8), (!s.ctxRoom part client qmin, .noResource, 9), (resv.isNone, .noResource, 10),
      (s.coreForcedOff part, .state, 0)]
    fun m a =>
      let n := (a.freeCtx part).getD (64 * part)
      let x : Context := { st := .active, prio := fld d 1 0 2, client := client, dtmo := if dtmo = 0 then 100 else dtmo, qmin := qmin
                           qmax := qmax, reserved := resv.getD [] }
      let k := Tab.get a.chip.clients {} client
      let b : State := { (a.setCtx n x).clearRecords x.reserved part with
        chip.clients := Tab.put a.chip.clients client { k with submitted := satAdd 32 k.submitted 1, running := k.running + 1 } }
      b.respond m .ok 0 n)

/-- A command about one context: what every one of them starts with. -/
def State.ctxCmd (s : State) (c : Caller) (opc n : Nat) (checks : List (Bool × Status × Nat)) (body : Cmd → State → State) : State :=
  s.mbox c opc [.partitions, .ctx n] 0 ([s.chkBound c, s.chkCtxPart c n] ++ s.chkCtx n ++ checks) body

/-- A stop, an evict or a host copy of a context runs: a destroy need not wait for it (R476, R517). -/
def isStopOf (n : Nat) (r : Running) : Bool :=
  match r.await with
  | .stop k => k == n
  | .evict k _ _ => k == n
  | .hostCopy k _ _ _ _ => k == n
  | _ => false

def execCtxDestroy (c : Caller) (n : Nat) (s : State) : Host.Outcome State Fault Refusal :=
  let objs : List Obj := [.partitions, .ctx n]
  done (s.mboxPast (isStopOf n) c 0x0203 objs ([s.chkBound c, s.chkCtxPart c n] ++ s.chkCtx n)
    fun m a => (a.teardown n true).run m objs (.teardown n))

/-- A choice of reading (log 23: DEDUCED). -/
def execCtxStop (c : Caller) (n : Nat) (s : State) : Host.Outcome State Fault Refusal :=
  let objs : List Obj := [.partitions, .ctx n]
  done (s.mboxPast (fun r => r.await == .stop n) c 0x0204 objs ([s.chkBound c, s.chkCtxPart c n] ++ s.chkCtx n)
    fun m a =>
      if a.ctxIs n .active then (a.stopCtx n).run m objs (.stop n)
      else if a.ctxIs n .stopping then a.run m objs (.stop n)
      else a.respond m .ok)

def execCtxResume (c : Caller) (n : Nat) (s : State) : Host.Outcome State Fault Refusal :=
  done (s.ctxCmd c 0x0205 n [(!s.ctxIs n .stopped, .state, 0)] fun m a => (a.resumeCtx n).respond m .ok)

def execCtxReset (c : Caller) (n : Nat) (s : State) : Host.Outcome State Fault Refusal :=
  done (s.ctxCmd c 0x0206 n [(s.ctxIs n .stopping, .state, 0)] fun m a => (a.resetCtx n).respond m .ok)

/-- Nothing of a context keeps it from being evicted (R469). -/
def State.evictable (s : State) (n : Nat) : Bool :=
  s.ctxIs n .stopped && !(s.ctxCores n).any (fun k =>
      (s.core k).slots.any (fun p => p.2.ctx == n && (p.2.cur.isSome || p.2.shadow.isSome)) ||
        (s.core k).queue.any fun t => t.ctx == n && t.stage != .queued)
    && !s.chip.wins.any fun w => w.2.ctx == n

/-- The stacked places an evict reserves. -/
def State.evictPlaces (s : State) (n : Nat) : Option (List (Nat × Segment)) :=
  match s.ctx? n with
  | none => none
  | some x => s.placeAll (ctxPart n) n ((x.segs.filter fun p => p.2.arch).map fun p =>
      (p.1, { p.2 with arch := false, comp := false, ilv := 0, fixed := false, pref := 0xFFFF, dbase := 0, mdata := [] }))

def execCtxEvict (c : Caller) (n : Nat) (s : State) : Host.Outcome State Fault Refusal :=
  let places := s.evictPlaces n
  done (s.ctxCmd c 0x0207 n [(!s.evictable n, .state, 0), (places.isNone, .noResource, 0)] fun m a =>
    match places.getD [] with
    | [] => ((a.modCtx n fun x => { x with st := .evicted }).evictHalves n).respond m .ok
    | (id, g) :: t => (a.markMig n id).run m [.partitions, .ctx n] (.evict n ((id, g) :: t) 0))

/-- The Archipelago places a restore reserves. -/
def State.restorePlaces (s : State) (n : Nat) : Option (List (Nat × Segment)) :=
  match s.ctx? n with
  | none => none
  | some x => s.placeAll (ctxPart n) n (x.segs.filterMap fun p => p.2.former.map fun k =>
      (p.1, { p.2 with arch := true, comp := false, ilv := 0, fixed := false, pref := k, dbase := 0, mdata := [], former := none }))

def execCtxRestore (c : Caller) (n : Nat) (s : State) : Host.Outcome State Fault Refusal :=
  let places := s.restorePlaces n
  done (s.ctxCmd c 0x0208 n [(!s.ctxIs n .evicted, .state, 0), (places.isNone, .noResource, 0)] fun m a =>
    match places.getD [] with
    | [] => (a.modCtx n fun x => { x with st := .stopped }).respond m .ok
    | (id, g) :: t => (a.markMig n id).run m [.partitions, .ctx n] (.restore n ((id, g) :: t) 0))

/-- Tasks of a context in queues and at ring heads (R500). -/
def State.queuedOf (s : State) (n : Nat) : Nat :=
  sumNat ((s.ctxCores n).map fun k => ((s.core k).queue.filter (·.ctx == n)).length)
    + sumNat (s.chip.hif.fns.map fun f => (f.2.sub.filter fun r => r.2.ctx == n && r.2.checked.isSome).length)

/-- The current arms of a context. -/
def State.armsOf (s : State) (n : Nat) : List Arm :=
  (s.ctxCores n).flatMap fun k => (s.core k).slots.filterMap fun p => if p.2.ctx = n then p.2.cur else none

/-- The number of a state (R500). -/
def CtxState.code : CtxState → Nat
  | .active => 0 | .stopping => 1 | .stopped => 2 | .evicted => 3 | .dead => 4

/-- The 64 bytes of CTX_STATUS (R500). -/
def State.ctxStatus (s : State) (n : Nat) (x : Context) : List Byte :=
  let arms := s.armsOf n
  leBytes 2 n ++ leBytes 1 x.st.code ++ leBytes 1 (b2n x.estop * 8 + x.flags.bits) ++ leBytes 2 x.client ++ leBytes 2 x.segs.length
    ++ leBytes 6 (satAdd 48 (sumNat (arms.map (·.oobr))) 0) ++ leBytes 2 x.layouts.length
    ++ leBytes 6 (satAdd 48 (sumNat (arms.map (·.oobw))) 0) ++ leBytes 2 0 ++ leBytes 4 (s.queuedOf n) ++ leBytes 4 x.lost ++ leBytes 32 0

def execCtxStatus (c : Caller) (n : Nat) (s : State) : Host.Outcome State Fault Refusal :=
  done (s.mbox c 0x0209 [.partitions, .ctx n] 64 ([s.chkBound c, s.chkCtxPart c n, s.chkResp c 64] ++ s.chkCtx n) fun m a =>
    match a.ctx? n with
    | none => a.respond m .argRange
    | some x => (a.setCtx n { x with flags := {} }).respond m .ok 0 0 (a.ctxStatus n x))

/-! ### Clients (R472 to R475) -/

/-- A caller may query a client. -/
def State.mayAsk (s : State) (fn client : Nat) : Bool :=
  fn == 0 || (s.boundPart fn).elim false fun h => let a := s.attr h; decide (a.clientLo ≤ client) && decide (client ≤ a.clientHi)

/-- The 16 bytes of a client query (log 26: DEDUCED). -/
def Client.bytes (k : Client) : List Byte := leBytes 4 k.submitted ++ leBytes 4 k.completed ++ leBytes 4 k.faulted ++ leBytes 4 k.running

def execClientQuery (c : Caller) (client : Nat) (s : State) : Host.Outcome State Fault Refusal :=
  let k := (Tab.look s.chip.clients client).getD {}
  done (s.mbox c 0x020A [.partitions, .client client] 16 [(!s.mayAsk c.fn client, .denied, 3), s.chkResp c 16]
    fun m a => a.respond m .ok 0 k.quota k.bytes)

def execClientSetQuota (c : Caller) (client quota : Nat) (s : State) : Host.Outcome State Fault Refusal :=
  let k := (Tab.look s.chip.clients client).getD {}
  done (s.mbox c 0x020A [.partitions, .client client] 0
    [chkPF c, (decide (512 < quota), .argRange, 0),
      ((Tab.look s.chip.clients client).isNone && decide (1024 ≤ s.chip.clients.length), .noResource, 0)]
    fun m a => ({ a with chip.clients := Tab.put a.chip.clients client { k with quota := quota } } : State).respond m .ok 0 (k.running - quota))

def execClientClear (c : Caller) (client : Nat) (s : State) : Host.Outcome State Fault Refusal :=
  let k := (Tab.look s.chip.clients client).getD {}
  done (s.mbox c 0x020A [.partitions, .client client] 0 [chkPF c, (k.running != 0, .state, 0)]
    fun m a => ({ a with chip.clients := Tab.erase a.chip.clients client } : State).respond m .ok)

end Sys2Proof.Machine
end

