-- ==== Sys2Proof/Machine/HostRegs.lean ====
section
/-! DEFINITION. What the host does at the PCIe endpoint: registers, doorbells, interrupts, configuration, resets of functions, Bus
Master Enable, completions of the device's reads (R477 to R494, R507 to R512, R516). -/

namespace Sys2Proof.Machine

open Sys2Proof

/-- What every row about a function starts with: a function the host can reach. -/
def State.atFn (s : State) (fn : Nat) (act : State) : State := if s.fnLive fn then act else s

/-! ### Registers -/

/-- A register write: `space` 0 to 8 a function's BAR, 9 the sideband (code 0x01), where `ok` says that PEC and count hold
(log 72: DEDUCED). -/
def execRegisterWrite (space off value : Nat) (ok : Bool) (s : State) : Host.Outcome State Fault Refusal :=
  done (if space = 9 then s.sbWrite ok (if (s.sbReg off).isSome then s.sbRegWrite off (value % 2 ^ 32) else s)
    else s.atFn space (s.barWrite space off (value % 2 ^ 32)))

/-- An access that names no register, or that is no aligned 32-bit access: reads zero, drops the write, raises 0x01 (R15, R481,
R597). -/
def State.unmapped (s : State) (space off bytes : Nat) (write : Bool) : State :=
  if space = 9 then
    if !s.aon.answers || (s.sbReg off).isSome then s
    else
      let s1 := s.raise { src := 0x01, unit := 0, info := off % 2 ^ 16 + 2 ^ 16 }
      if write then s1 else s1.send (.smbus (leBytes 4 0))
  else if (s.barReg space off).isSome ∧ bytes = 4 then s
  else
    let s1 := s.raise { src := 0x01, unit := space, info := off }
    if write then s1 else s1.send (.mmio space 0)

def execUnmappedRegisterAccess (space off bytes : Nat) (write : Bool) (s : State) : Host.Outcome State Fault Refusal :=
  done (if space = 9 then s.unmapped space off bytes write else s.atFn space (s.unmapped space off bytes write))

/-! ### Mailbox service (R487) -/

/-- EN = 1 written, with a LOGN that counts only while EN is 0. -/
def State.mailboxEnable (s : State) (fn logn : Nat) : State :=
  let m := (s.fn fn).mb
  let n := if m.en then m.logn else logn % 16
  if n < 4 ∨ 12 < n then (s.modFn fn fun f => { f with mb.logn := n }).dberr fn
  else s.modFn fn fun f => { f with mb := { f.mb with
    en := true, err := false, logn := n, cprod := 0, chead := 0, rtail := 0, rcons := 0, reading := false } }

def execMailboxEnable (fn logn : Nat) (s : State) : Host.Outcome State Fault Refusal := done (s.atFn fn (s.mailboxEnable fn logn))

/-- EN = 0 written: fetching stops at once, and the responses of what was accepted are discarded, whenever it ends; LOGN is stored only
where EN was 0. -/
def State.mailboxDisable (s : State) (fn logn : Nat) : State :=
  let s1 := s.modFn fn fun f => { f with mb := { f.mb with
    en := false, reading := false, logn := if f.mb.en then f.mb.logn else logn % 16
    fetched := f.mb.fetched.map fun x => { x with mute := true } } }
  { s1 with chip.hif.running := s1.chip.hif.running.map fun r => if r.caller.fn = fn then { r with mute := true } else r }

def execMailboxDisable (fn logn : Nat) (s : State) : Host.Outcome State Fault Refusal := done (s.atFn fn (s.mailboxDisable fn logn))

/-! ### Doorbells (R488) -/

/-- `a - b` modulo 2^32. -/
def behind (a b : Nat) : Nat := (a + 2 ^ 32 - b % 2 ^ 32) % 2 ^ 32

/-- The mailbox or a ring in ERROR by a doorbell: DBERR and RINGERR. -/
def State.badBell (s : State) (fn : Nat) : State := (s.dberr fn).setIsr fn isrRingerr

def State.mailboxDoorbell (s : State) (fn index : Nat) : State :=
  let m := (s.fn fn).mb
  if !m.en then s.dberr fn
  else if 2 ^ m.logn < behind index m.chead then (s.modFn fn fun f => { f with mb.err := true }).badBell fn
  else (s.modFn fn fun f => { f with mb.cprod := index % 2 ^ 32 }).pumpMailbox fn

def execMailboxDoorbell (fn index : Nat) (s : State) : Host.Outcome State Fault Refusal := done (s.atFn fn (s.mailboxDoorbell fn index))

def State.responseDoorbell (s : State) (fn index : Nat) : State :=
  let m := (s.fn fn).mb
  if !m.en then s.dberr fn
  else if behind m.rtail m.rcons < behind index m.rcons then (s.modFn fn fun f => { f with mb.err := true }).badBell fn
  else (s.modFn fn fun f => { f with mb.rcons := index % 2 ^ 32 }).pumpMailbox fn

def execMailboxResponseDoorbell (fn index : Nat) (s : State) : Host.Outcome State Fault Refusal := done (s.atFn fn (s.responseDoorbell fn index))

def State.submissionDoorbell (s : State) (fn ring index : Nat) : State :=
  match Tab.look (s.fn fn).sub ring with
  | none => s.dberr fn
  | some r =>
    if 2 ^ r.logn < behind index r.cons then (s.modFn fn fun f => { f with sub := Tab.put f.sub ring { r with err := true } }).badBell fn
    else (s.modFn fn fun f => { f with sub := Tab.put f.sub ring { r with prod := index % 2 ^ 32 } }).pumpRing fn ring

def execSubmissionDoorbell (fn ring index : Nat) (s : State) : Host.Outcome State Fault Refusal :=
  done (s.atFn fn (s.submissionDoorbell fn ring index))

def State.completionDoorbell (s : State) (fn ring index : Nat) : State :=
  match Tab.look (s.fn fn).cpl ring with
  | none => s.dberr fn
  | some r =>
    if behind r.prod r.cons < behind index r.cons then (s.modFn fn fun f => { f with cpl := Tab.put f.cpl ring { r with err := true } }).badBell fn
    else (s.modFn fn fun f => { f with cpl := Tab.put f.cpl ring { r with cons := index % 2 ^ 32 } }).drainHeld fn ring 4096

def execCompletionDoorbell (fn ring index : Nat) (s : State) : Host.Outcome State Fault Refusal :=
  done (s.atFn fn (s.completionDoorbell fn ring index))

/-! ### Interrupts (R507) -/

/-- ITIME has passed since the first record after the last message. -/
def State.interruptTimer (s : State) (fn ring : Nat) : State :=
  match Tab.look (s.fn fn).cpl ring with
  | none => s
  | some r =>
    if r.since = 0 then s else (s.modFn fn fun f => { f with cpl := Tab.put f.cpl ring { r with since := 0 } }).msix fn r.vector

def execCompletionInterruptTimer (fn ring : Nat) (s : State) : Host.Outcome State Fault Refusal := done (s.atFn fn (s.interruptTimer fn ring))

def execMsixVectorUnmask (fn vector : Nat) (s : State) : Host.Outcome State Fault Refusal :=
  done (s.atFn fn (if vector < msixEntries fn then s.vectorControl fn vector 0 else s))

/-! ### Configuration (R478 to R480) -/

/-- What the SR-IOV capability reports, by offset in it: VF Enable, InitialVFs and TotalVFs, NumVFs, First VF Offset and VF Stride, VF
Device ID, supported page sizes (R478, R479) (log 7: PRESUMED). -/
def State.sriovReg (s : State) : Nat → Option Nat
  | 0x08 => some (b2n s.chip.hif.vfEnable)
  | 0x0C => some (8 * 2 ^ 16 + 8)
  | 0x10 => some s.chip.hif.numVFs
  | 0x14 => some (2 ^ 16 + 1)
  | 0x18 => some (0x2305 * 2 ^ 16)
  | 0x1C => some 1
  | _ => none

/-- A configuration register the spec gives a value: offset to value (log 7: PRESUMED). -/
def State.configReg (s : State) (fn off : Nat) : Option Nat :=
  match off with
  | 0x00 => some ((if fn = 0 then 0x2304 else 0x2305) * 2 ^ 16 + 0x1F4C)
  | 0x08 => some (0x12_0000 * 256 + s.step_)
  | 0x2C => some (2 ^ 16 + 0x1F4C)
  | 0x3C => some 0
  | _ => if fn = 0 ∧ Config.sriovCap ≤ off then s.sriovReg (off - Config.sriovCap) else none

/-- A configuration request: retry status before the image is loaded; then an answer, with the first one the readiness message.
The enclave answers in recovery (R522). A virtual function that is not enabled answers nothing (log 70: DEDUCED). Registers the spec gives no value read as a free value (log 70: DEDUCED). -/
def State.configRequest (s : State) (fn off : Nat) (write : Bool) : State :=
  if s.chip.boot = .held ∨ s.chip.boot = .encHalt ∨ 8 < fn then s
  else if !s.chip.hif.configReady ∧ s.chip.boot ≠ .recovery then s.send (.retryStatus fn)
  else if fn ≠ 0 ∧ !s.fnLive fn then s
  else
    let s1 : State := if s.chip.hif.drs then s else ({ s with chip.hif.drs := true } : State).send (.drs fn)
    if write then s1
    else match s1.configReg fn off with
      | some v => s1.send (.config fn off v)
      | none => let d := s1.draw 7; d.1.send (.config fn off (d.2 % 2 ^ 32))

def execConfigRequest (fn off : Nat) (write : Bool) (s : State) : Host.Outcome State Fault Refusal := .next (s.configRequest fn off write)

/-- Drover has loaded the configuration image (log 14: DEDUCED). -/
def execConfigImageLoaded (s : State) : Host.Outcome State Fault Refusal :=
  .next (if s.chip.boot = .init then { s with chip.hif.configReady := true } else s)

/-! ### Virtual functions and resets (R479, R512) -/

def execVfEnableSet (numVFs : Nat) (s : State) : Host.Outcome State Fault Refusal :=
  done (s.atFn 0 (if s.chip.hif.vfEnable ∨ numVFs = 0 ∨ 8 < numVFs then s
    else ({ s with chip.hif.vfEnable := true, chip.hif.numVFs := numVFs } : State).measuredIf 7 (decide (s.chip.hif.numVFs ≠ numVFs))))

/-- Clearing VF Enable acts as a Function Level Reset of every virtual function (R479); NumVFs keeps its value. -/
def execVfEnableClear (s : State) : Host.Outcome State Fault Refusal :=
  done (s.atFn 0 (if !s.chip.hif.vfEnable then s
    else
      let s1 := (List.range s.chip.hif.numVFs).foldl (fun a i => a.flrVf (i + 1)) s
      { s1 with chip.hif.vfEnable := false }))

def execVfFlr (fn : Nat) (s : State) : Host.Outcome State Fault Refusal :=
  done (if fn = 0 ∨ 8 < fn then s else s.atFn fn (s.flrVf fn))

def execPfFlr (s : State) : Host.Outcome State Fault Refusal := done (s.atFn 0 s.flrPf)
def execPcieHotReset (s : State) : Host.Outcome State Fault Refusal := done (s.atFn 0 s.flrPf)
def execPcieLinkDown (s : State) : Host.Outcome State Fault Refusal := done (s.atFn 0 s.flrPf)

/-! ### Host copies and Bus Master Enable (R508 to R511) -/

/-- What HOST_COPY's argument names (R508). -/
def hcDir (a : List Byte) : Nat := fld a 2 0 1
def hcSen (a : List Byte) : Bool := flg a 3 7
def hcSidx (a : List Byte) : Nat := fld a 3 0 6
def hcScore (a : List Byte) : Nat := fld a 4 0 10
def hcCva (a : List Byte) : Nat := num a 8 6
def hcHaddr (a : List Byte) : Nat := num a 16 8
def hcLen (a : List Byte) : Nat := num a 24 5

/-- Entry `i` of the external list that follows the argument: address and bytes. -/
def hcEntry (a : List Byte) (i : Nat) : Nat × Nat := (num a (32 + 16 * i) 8, num a (40 + 16 * i) 4)

/-- The host ranges of a copy that moves `n` bytes of host memory. -/
def hcRanges (a : List Byte) (n : Nat) : List (Nat × Nat) :=
  if a.length ≤ 32 then [(hcHaddr a, n)] else (List.range ((a.length - 32) / 16)).map (hcEntry a)

/-- Host bytes that carry `n` plaintext bytes: in confidential mode, those of the records (R515). -/
def State.hostBytes (s : State) (fn n : Nat) : Nat := if (s.fn fn).conf.isSome then n + 32 * ceilDiv n 65536 else n

/-- A copy sends its read requests (DIR 0). -/
def State.copyReads (s : State) (fn : Nat) (a : List Byte) : State :=
  (hcRanges a (s.hostBytes fn (hcLen a))).foldl (fun b r => b.emit fn (.hostRead fn r.1 r.2)) s

/-- The part of host ranges from byte `o` on, `n` bytes long. -/
def rangesFrom (ranges : List (Nat × Nat)) (o n : Nat) : List (Nat × Nat) :=
  match ranges with
  | [] => []
  | (a, b) :: t =>
    if n = 0 then []
    else if b ≤ o then rangesFrom t (o - b) n
    else (a + o, min n (b - o)) :: rangesFrom t 0 (n - min n (b - o))

/-- One data record: header, ciphertext and tag at offset `o` of the host ranges, under the next counter of channel 0x06 (R515). -/
def State.writeHostRecord (s : State) (fn : Nat) (ranges : List (Nat × Nat)) (o : Nat) (bs : List Byte) : State :=
  match (s.fn fn).conf with
  | none => s
  | some cf =>
    if s.sealSpent fn 0x06 0 then s
    else (s.emit fn (.hostSealed fn 0x06 0 (s.sealCounter fn 0x06 0) (rangesFrom ranges o (bs.length + 32)) (dataKey cf.secret) bs)).countSeal fn 0x06 0

/-- Plaintext of a device-to-host transfer laid over the host ranges; in data records, end to end, where the function is confidential
(R515). -/
def State.writeHost (s : State) (fn : Nat) (ranges : List (Nat × Nat)) (bs : List Byte) : State :=
  if (s.fn fn).conf.isSome then
    (List.range (ceilDiv bs.length 65536)).foldl (fun b i =>
      b.writeHostRecord fn ranges (65568 * i) (slice bs (65536 * i) (min 65536 (bs.length - 65536 * i)))) s
  else (ranges.foldl (fun (x : State × Nat) r => (x.1.emit fn (.hostWrite fn r.1 (slice bs x.2 r.2)), x.2 + r.2)) (s, 0)).1

/-- The end of a copy with OK: its signal and its response (R509). -/
def State.copyDone (s : State) (seq ctx : Nat) (a : List Byte) : State :=
  let s1 := if hcSen a then s.sendSig ctx (hcScore a) (hcSidx a) 1 else s
  s1.answerRun (fun r => r.seq == seq && r.opc == 0x030A) .ok

/-- A device-to-host copy: read, written to the host, answered; a poisoned or uncorrectable source ends it with INTEGRITY. -/
def State.copyOut (s : State) (seq fn ctx : Nat) (a : List Byte) : State :=
  match s.ctx? ctx with
  | none => s
  | some c =>
    let x := s.readCva c (hcCva a) (hcLen a)
    if x.2.1 then x.1.answerRun (fun r => r.seq == seq && r.opc == 0x030A) .integrity
    else (x.1.writeHost fn (hcRanges a (x.1.hostBytes fn (hcLen a))) x.2.2).copyDone seq ctx a

/-- A copy that runs begins to move bytes, once Bus Master Enable is set; `dir` 2 and 3 mark copies that have not begun. -/
def State.copyBegin (s : State) (r : Running) : State :=
  match r.await with
  | .hostCopy ctx seg dir left arg =>
    if dir < 2 ∨ !(s.fn r.caller.fn).bme then s
    else if dir = 3 then s.copyOut r.seq r.caller.fn ctx arg
    else
      let s1 : State := { s with chip.hif.running := s.chip.hif.running.map fun q => if q = r then { q with await := .hostCopy ctx seg 0 left arg } else q }
      s1.copyReads r.caller.fn arg
  | _ => s

def execBusMasterEnableClear (fn : Nat) (s : State) : Host.Outcome State Fault Refusal :=
  done (s.atFn fn (s.modFn fn fun f => { f with bme := false }))

/-- Bus Master Enable set: everything that waited goes out, and copies begin. -/
def State.setBme (s : State) (fn : Nat) : State :=
  let w := (s.fn fn).waiting
  let s1 : State := { s.modFn fn (fun f => { f with bme := true, waiting := [] }) with out := s.out ++ w }
  (s1.chip.hif.running.filter fun r => r.caller.fn == fn).foldl (fun a r => a.copyBegin r) s1

def execBusMasterEnableSet (fn : Nat) (s : State) : Host.Outcome State Fault Refusal := done (s.atFn fn (s.setBme fn))

/-- A copy of a function, by its command's SEQ. -/
def isCopyOf (fn seq : Nat) (r : Running) : Bool :=
  r.caller.fn == fn && r.seq == seq && (match r.await with | .hostCopy _ _ _ _ _ => true | _ => false)

/-- A copy has waited 1 s on a clear Bus Master Enable. -/
def execHostCopyBmeTimeout (fn seq : Nat) (s : State) : Host.Outcome State Fault Refusal :=
  done (if (s.fn fn).bme then s else s.answerRun (isCopyOf fn seq) .timeout)

/-! ### Completions of the device's reads (R489 to R494, R510, R516) -/

/-- A field of an inline argument: bytes and the bits that its value uses (R493). -/
abbrev ArgField := Nat × Nat

/-- A field all of whose bits are used. -/
def argBytes (n : Nat) : ArgField := (n, 8 * n)

/-- Fields that hold a number: the bits that the highest number of its kind needs (log 132: DEDUCED). -/
def argCtx : ArgField := (2, 9)
def argCore : ArgField := (2, 10)
def argPart : ArgField := (1, 3)
def argStack : ArgField := (1, 5)
def argSeg : ArgField := (2, 12)
def argGid : ArgField := (2, 10)
def argJob : ArgField := (2, 12)
def argSet : ArgField := (1, 4)
def argBuf : ArgField := (1, 3)
def argGroup : ArgField := (1, 7)
def argKey : ArgField := (1, 4)
def argProg : ArgField := (1, 4)
def argPair : ArgField := (1, 3)
def argIdx : ArgField := (1, 6)
def argCva : ArgField := (8, 48)

/-- The inline argument of a command, field by field, and the unit of its external argument, 0 without one (R498). -/
def cmdShape (opc sub : Nat) : Option (List ArgField × Nat) :=
  let b := argBytes 1
  let h := argBytes 2
  let w := argBytes 4
  let d := argBytes 8
  match opc, sub with
  | 0x0100, 0 => some ([d], 0) | 0x0101, 0 => some ([], 0) | 0x0200, 0 => some ([b], 0) | 0x0201, 0 => some ([argPart, h, h, h, h], 0)
  | 0x0202, 0 => some ([argBytes 16], 0) | 0x0203, 0 => some ([argCtx], 0) | 0x0204, 0 => some ([argCtx], 0)
  | 0x0205, 0 => some ([argCtx], 0) | 0x0206, 0 => some ([argCtx], 0) | 0x0207, 0 => some ([argCtx], 0)
  | 0x0208, 0 => some ([argCtx], 0) | 0x0209, 0 => some ([argCtx], 0)
  | 0x020A, 0 => some ([h, h], 0) | 0x020A, 1 => some ([h, h], 0) | 0x020A, 2 => some ([h, h], 0)
  | 0x0300, 0 => some ([argBytes 32, argCtx], 0) | 0x0301, 0 => some ([argCtx, argSeg], 0) | 0x0302, 0 => some ([argCtx, argSeg, (1, 2)], 0)
  | 0x0303, 0 => some ([argCtx, argSeg, b, h, h], 0) | 0x0304, 0 => some ([argCtx, argSeg, h], 0) | 0x0305, 0 => some ([argBytes 128], 0)
  | 0x0305, 1 => some ([argStack, argGid], 0) | 0x0306, 0 => some ([argPart, argStack, argProg], 1)
  | 0x0306, 1 => some ([argPart, argStack, argProg], 0) | 0x0307, 0 => some ([argStack, argGid, w, argCva], 0)
  | 0x0308, 0 => some ([argStack, argGid, d], 0) | 0x0309, 0 => some ([argStack, argGid, argKey, argCva, d], 0)
  | 0x030A, 0 => some ([argBytes 32], 16)
  | 0x0400, 0 => some ([argCtx, b, b, d, d], 0) | 0x0400, 1 => some ([b, b, h, h, d, d], 0) | 0x0400, 2 => some ([b, b], 0)
  | 0x0400, 3 => some ([b, b], 0) | 0x0400, 4 => some ([argCtx, b], 0) | 0x0401, 0 => some ([argCtx, argCore, argIdx, w], 0)
  | 0x0402, 0 => some ([argCtx, argCore, b], 0) | 0x0402, 1 => some ([argCtx, argCore, b], 0)
  | 0x0403, 0 => some ([argCtx, argCore, argBytes 64], 0) | 0x0404, 0 => some ([argCtx, argCore, b], 0)
  | 0x0405, 0 => some ([argCtx, argCore, b], 0) | 0x0406, 0 => some ([argPart, b], 0) | 0x0407, 0 => some ([argPart, h], 0)
  | 0x0408, 0 => some ([argCtx, argCore], 72) | 0x0408, 1 => some ([argGroup], 0) | 0x0409, 0 => some ([argCtx, argBytes 128], 0)
  | 0x0409, 1 => some ([argCtx, h], 0) | 0x040A, 0 => some ([argCtx, h, h], 0) | 0x040A, 1 => some ([argCtx, h, h], 0)
  | 0x040B, 0 => some ([argCtx, h, h], 8) | 0x040B, 1 => some ([argCtx, h, h], 0) | 0x040C, 0 => some ([argCtx, argPair, argCva, argCva], 0)
  | 0x0500, 0 => some ([h], 0) | 0x0501, 0 => some ([argPart, argJob, h, w], 8) | 0x0502, 0 => some ([argPart, argJob], 0)
  | 0x0503, 0 => some ([h, h], 8) | 0x0504, 0 => some ([argBytes 32], 0) | 0x0505, 0 => some ([b], 0) | 0x0506, 0 => some ([argBytes 48], 0)
  | 0x0507, 0 => some ([argPart, argJob, h], 0) | 0x0508, 0 => some ([b, b, argBytes 16], 0)
  | 0x0600, 0 => some ([(1, 1)], 0) | 0x0601, 0 => some ([argPart, h], 0) | 0x0601, 1 => some ([argPart, argSet], 0)
  | 0x0601, 2 => some ([argPart, argSet], 0) | 0x0602, 0 => some ([argPart, argSet, argBytes 32], 0)
  | 0x0603, 0 => some ([argPart, argSet, b], 0) | 0x0604, 0 => some ([argCtx, argSet, argIdx, argCore, argCva], 0)
  | 0x0605, 0 => some ([argPart, argSet, b, b, b, b, h], 0) | 0x0605, 1 => some ([argPart, argSet, b, b, b, b, h], 0)
  | 0x0606, 0 => some ([argPart, argBuf, argSet], 32) | 0x0606, 1 => some ([argPart, argBuf, argSet], 0)
  | 0x0606, 2 => some ([argPart, argBuf, argSet], 0) | 0x0606, 3 => some ([argPart, argBuf, argSet], 0)
  | 0x0606, 4 => some ([argPart, argBuf, argSet], 0) | 0x0607, 0 => some ([argPart, argJob, h, argCtx, argIdx, argCore], 0)
  | 0x0607, 1 => some ([argPart, argJob, h, argCtx, argIdx, argCore], 0)
  | 0x0608, 0 => some ([argJob, b, b, h, h, h], 1) | 0x0609, 0 => some ([argPart, argJob], 0)
  | 0x0700, 0 => some ([], 1) | 0x0701, 0 => some ([w], 0) | 0x0701, 1 => some ([], 0) | 0x0701, 2 => some ([], 0)
  | 0x0702, 0 => some ([b, argPart, argKey], 0) | 0x0702, 1 => some ([b, argPart, argKey], 0)
  | 0x0702, 2 => some ([b, argPart, argKey], 0) | 0x0703, 0 => some ([], 0)
  | 0x0703, 1 => some ([], 256) | 0x0800, 0 => some ([b, h, b], 0) | 0x0800, 1 => some ([b, h], 0) | 0x0800, 2 => some ([argPart, b], 0)
  | 0x0801, 0 => some ([argPart, w], 0) | 0x0802, 0 => some ([h], 0) | 0x0803, 0 => some ([], 0)
  | 0x0900, 0 => some ([b, w], 0) | 0x0900, 1 => some ([], 0) | 0x0900, 2 => some ([b, h], 0) | 0x0900, 3 => some ([], 0)
  | 0x0900, 4 => some ([w, h], 0) | 0x0900, 5 => some ([b, h, b, h], 0) | 0x0900, 6 => some ([h], 0) | 0x0901, 0 => some ([w, h], 0)
  | 0x0901, 1 => some ([w, h], 0) | 0x0902, 0 => some ([], 0) | 0x0903, 0 => some ([argStack], 0) | 0x0904, 0 => some ([], 0)
  | 0x0905, 0 => some ([], 0) | 0x0A00, 0 => some ([b], 1) | 0x0A00, 1 => some ([], 0) | 0x0A01, 0 => some ([w, w], 0)
  | 0x0A02, 0 => some ([], 0) | 0x0A02, 1 => some ([], 0)
  | _, _ => none

/-- Offsets past the fields of an inline argument (R493). -/
def argLen (fs : List ArgField) : Nat := fs.foldl (fun o f => roundUp o (max 1 (min f.1 16)) + f.1) 0

/-- The bytes between the fields of an inline argument, from offset `o` of the argument on, and the unused bits of the fields are zero
(R16, R493) (log 121: DEDUCED; log 132: DEDUCED). -/
def restZero (e : List Byte) : Nat → List ArgField → Bool
  | _, [] => true
  | o, f :: fs =>
    let at_ := roundUp o (max 1 (min f.1 16))
    zeroRange e (32 + o) (at_ - o) && decide (num e (32 + at_) f.1 < 2 ^ f.2) && restZero e (at_ + f.1) fs

/-- Check 2 of R494 on the entry itself (log 21: DEDUCED; log 121: DEDUCED). -/
def entryShapeOk (e : List Byte) (fs : List ArgField) (xunit tag : Nat) : Bool :=
  let alen := num e 6 1
  let xlen := num e 16 4
  zeroFlds e [(5, 2, 6), (7, 0, 8)] && alen == argLen fs && restZero e 0 fs && zeroRange e (32 + alen) (224 - alen)
    && decide (xlen ≤ 2 ^ 24) && decide (num e 20 4 ≤ 2 ^ 24) && num e 8 8 % 16 == 0 && num e 24 8 % 16 == 0
    && (if xlen = 0 then num e 8 8 == 0 else decide (0 < xunit) && decide (tag < xlen) && (xlen - tag) % xunit == 0)
    && (num e 20 4 != 0 || num e 24 8 == 0)

/-- SET_RESOLVE and PORT_CONTROL have a command for each value of DECISION and ACTION; the refusal of any other value (R627)
(log 122: DEDUCED). -/
def State.noSuchValue (s : State) (c : Caller) (e : List Byte) : Option (Status × Nat) :=
  let n := num e 32 1
  if num e 0 2 = 0x0603 ∧ 2 ≤ num e 34 1 then firstFail [s.chkPart c n, s.chkStart n, (true, .argRange, 0)]
  else if num e 0 2 = 0x0508 ∧ 4 ≤ num e 33 1 then
    firstFail [(c.fn != 0 && !((s.boundPart c.fn).elim false fun h => s.portInPart h n), .denied, 3), (true, .argRange, 0)]
  else none

/-- A command entry arrives (R489, R494): it is accepted, or refused by the first two checks of R494
(log 21: DEDUCED; log 122: DEDUCED). -/
def State.mailboxEntry (s : State) (fn : Nat) (e : List Byte) : State :=
  let m := (s.fn fn).mb
  let chead := (m.chead + 1) % 2 ^ 32
  let seq := s.chip.hif.seq
  let s1 := (({ s with chip.hif.seq := (seq + 1) % 2 ^ 32 } : State).countSeal fn 0x01 0).modFn fn fun f => { f with mb := { f.mb with chead := chead, reading := false } }
  let s2 := s1.emit fn (.hostWrite fn m.shad (leBytes 4 chead))
  let c : Caller := { fn := fn, ctag := num e 2 2, noirq := flg e 5 1, rlen := num e 20 4, rbuf := num e 24 8 }
  let ctr := s.sealCounter fn 0x01 0
  let cmd : Cmd := { caller := c, opc := num e 0 2, seq := seq, ctr := ctr }
  let s3 := match cmdShape (num e 0 2) (num e 4 1) with
    | none => s2.respond cmd .unsupported 1
    | some (fs, xunit) =>
      if entryShapeOk e fs xunit (s.sealBytes fn) then
        match s.noSuchValue c e with
        | some (st, d) => s2.respond cmd st d
        | none =>
        let x := decide (0 < num e 16 4)
        let f : Fetched := { seq := seq, ctag := num e 2 2, opc := num e 0 2, fence := flg e 5 0, xwait := x, noirq := flg e 5 1, ctr := ctr }
        let s4 := s2.modFn fn fun g => { g with mb.fetched := g.mb.fetched ++ [f] }
        if x then s4.emit fn (.hostRead fn (num e 8 8) (num e 16 4)) else s4
      else s2.respond cmd .argRange 2
  s3.pumpMailbox fn

/-- The mailbox in ERROR by a read error (R510). -/
def State.mailboxError (s : State) (fn : Nat) : State :=
  (s.modFn fn fun f => { f with mb := { f.mb with err := true, reading := false } }).setIsr fn isrRingerr

/-- A submission ring in ERROR by a read error (R510). -/
def State.ringError (s : State) (fn ring : Nat) (r : SubRing) : State :=
  (s.modFn fn fun f => { f with sub := Tab.put f.sub ring { r with err := true, reading := false } }).setIsr fn isrRingerr

/-- The confidential-integrity fault (R516): channel, ring and its counter. -/
def State.sealFault (s : State) (fn chan ring : Nat) : State :=
  s.raise { src := 0x09, unit := fn, detail := chan, info := packInfo 0 [(1, ring), (8, s.sealCounter fn chan ring)] }

/-- A fetched command whose external argument cannot be read ends before it starts (check 2 of R494, R510, R516) (log 22: DEDUCED). -/
def State.endFetched (s : State) (fn : Nat) (f : Fetched) (st : Status) : State :=
  let s1 := s.modFn fn fun g => { g with mb.fetched := g.mb.fetched.erase f }
  s1.respond { caller := { fn := fn, ctag := f.ctag, noirq := f.noirq }, opc := f.opc, seq := f.seq, ctr := f.ctr, mute := f.mute } st 2

/-- Data of a copy to the device arrives, in order (R509); bytes dropped at an uncorrectable word end it with INTEGRITY (R163, R278)
(log 124: DEDUCED). -/
def State.copyIn (s : State) (r : Running) (ctx seg left : Nat) (arg bs : List Byte) (ok : Bool) : State :=
  match s.ctx? ctx with
  | none => s
  | some c =>
    let n := min bs.length left
    if s.sealSpent r.caller.fn 0x05 0 then s
    else if !ok ∨ ((s.fn r.caller.fn).conf.isSome ∧ (n ≠ bs.length ∨ n = 0 ∨ n % 16 ≠ 0 ∨ 65536 < n)) then s.answerRun (· == r) .integrity
    else
      let x := (s.countSeal r.caller.fn 0x05 0).writeCva c (hcCva arg + (hcLen arg - left)) (bs.take n)
      if x.2 then x.1.answerRun (· == r) .integrity
      else if n = left then x.1.copyDone r.seq ctx arg
      else { x.1 with chip.hif.running := x.1.chip.hif.running.map fun q => if q = r then { q with await := .hostCopy ctx seg 0 (left - n) arg } else q }

/-- A completion with data: `kind` 0 a mailbox entry, 1 an entry of ring `which`, 2 the external argument of the command with
CTAG `which`, 3 data of the copy with SEQ `which`. `bytes` are the plaintext; `ok`: in confidential mode, its tag and counter
hold (log 21: DEDUCED). -/
def State.readDone (s : State) (fn kind which : Nat) (bytes : List Byte) (ok : Bool) : State :=
  let good := ok || (s.fn fn).conf.isNone
  match kind with
  | 0 =>
    if !(s.fn fn).mb.reading then s
    else if s.sealSpent fn 0x01 0 then s
    else if good then s.mailboxEntry fn (slice bytes 0 256)
    else ((s.respond { caller := { fn := fn, ctag := 0xFFFF }, opc := 0, seq := 0 } .integrity 1).mailboxError fn).sealFault fn 0x01 0
  | 1 =>
    match Tab.look (s.fn fn).sub which with
    | none => s
    | some r =>
      if !r.reading || s.sealSpent fn 0x03 which then s
      else if good then
        (s.countSeal fn 0x03 which).modFn fn fun f => { f with sub := Tab.put f.sub which { r with
          reading := false, head := some (slice bytes 0 (if r.q1 then 144 else 272)) } }
      else (s.ringError fn which r).sealFault fn 0x03 which
  | 2 =>
    match (s.fn fn).mb.fetched.find? fun f => f.ctag == which && f.xwait with
    | none => s
    | some f =>
      if good then s.modFn fn fun g => { g with mb.fetched := g.mb.fetched.map fun x => if x = f then { x with xwait := false } else x }
      else s.endFetched fn f .integrity
  | _ =>
    match s.chip.hif.running.find? (isCopyOf fn which) with
    | none => s
    | some r =>
      match r.await with
      | .hostCopy ctx seg 0 left arg => s.copyIn r ctx seg left arg bytes good
      | _ => s

def execHostReadCompletion (fn kind which : Nat) (bytes : List Byte) (ok : Bool) (s : State) : Host.Outcome State Fault Refusal :=
  done (s.atFn fn (s.readDone fn kind which bytes ok))

/-- A read ends in Completion Timeout (`late`), or in Unsupported Request, Completer Abort or poison (R510, R563) (log 22: DEDUCED). -/
def State.readFailed (s : State) (fn kind which : Nat) (late : Bool) : State :=
  let st := if late then Status.timeout else .aborted
  match kind with
  | 0 => if (s.fn fn).mb.reading then (s.mailboxError fn).raise { src := 0x08, unit := fn, detail := 0 } else s
  | 1 =>
    match Tab.look (s.fn fn).sub which with
    | some r => if r.reading then (s.ringError fn which r).raise { src := 0x08, unit := fn, detail := 1, info := which } else s
    | none => s
  | 2 =>
    match (s.fn fn).mb.fetched.find? fun f => f.ctag == which && f.xwait with
    | some f => (s.endFetched fn f st).raise { src := 0x08, unit := fn, detail := 2 }
    | none => s
  | _ => s.answerRun (isCopyOf fn which) st

def execHostReadError (fn kind which : Nat) (late : Bool) (s : State) : Host.Outcome State Fault Refusal :=
  done (s.atFn fn (s.readFailed fn kind which late))

end Sys2Proof.Machine
end

