-- ==== Sys2Proof/Machine/EnclaveOps.lean ====
section
/-! DEFINITION. The enclave by shared operations: measurements (R526 to R528), identity and alias keys and their certificates (R525),
the SPDM responder and its signed report (R529 to R532). -/

namespace Sys2Proof.Machine

open Sys2Proof

/-! ### Measurements (R526 to R528) -/

/-- The running image of a kind. -/
def State.image (s : State) (kind : Nat) : RunImage :=
  (Tab.look s.chip.enc.images kind).getD { version := 0, svn := 0, minsvn := 0, digest := 0 }

/-- Who asks for measurements: the module's view of the physical function and of MCTP, or that of a virtual function. -/
inductive View where
  | whole
  | function (fn : Nat)
  deriving DecidableEq, Repr

/-- The view of a transport. -/
def viewOf (transport : Nat) : View := if transport = 0 ∨ transport = 9 then .whole else .function transport

/-- Partitions in view: the asking function's own, or every one (R528). -/
def State.viewParts (s : State) : View → List Nat
  | .whole => partsOf s.chip.start
  | .function fn => (s.boundPart fn).toList

/-- What index 8 hashes: every loaded program in view in ascending partition, stack and program number (R528). -/
def State.progData (s : State) (v : View) : List Byte :=
  (s.viewParts v).flatMap fun h => (s.partStacks h).flatMap fun st =>
    (s.nmu st).progs.flatMap fun p => leBytes 1 h ++ leBytes 1 st ++ leBytes 1 p.1 ++ p.2

/-- VIEW of index 7: 0xFF for the physical function; no rule gives it for a function without a partition (R527)
(log 163: DESIGN CHOICE). -/
def State.viewByte (s : State) : View → Nat
  | .whole => 0xFF
  | .function fn => (s.boundPart fn).getD (Config.freeValue 23 fn)

/-- Measurement blocks in a view (R526, R527) (log 82: DEDUCED). -/
def State.measurementOf (s : State) (v : View) (i : Nat) : List Byte :=
  let im := s.image
  match i with
  | 1 => beBytes 48 Config.romDigest
  | 2 => beBytes 48 (im 1).digest
  | 3 => beBytes 48 (im 2).digest
  | 4 => beBytes 48 (im 3).digest
  | 5 => leBytes 1 s.nv.keyrev ++ leBytes 1 (b2n s.nv.dbgdis) ++ (List.range 3).flatMap (fun k => leBytes 1 (s.nv.svn.getD k 0)) ++ leBytes 3 0
  | 6 => leBytes 1 s.chip.enc.dbg ++ leBytes 1 (b2n (s.chip.enc.unz != 0)) ++ leBytes 2 0 ++ leBytes 4 s.chip.enc.unz
  | 7 =>
    let asks := match v with
      | .whole => 0
      | .function fn => fn
    leBytes 1 s.chip.start ++ leBytes 1 (s.viewByte v) ++ leBytes 1 s.chip.hif.numVFs ++ leBytes 1 (b2n (s.fn asks).conf.isSome)
      ++ leBytes 2 (b2n s.chip.devid.isSome * 32768 + s.chip.devid.getD 0) ++ leBytes 2 0
  | 8 => beBytes 48 (sha384 (s.progData v))
  | 9 => (List.range 3).flatMap (fun k => leBytes 4 (im (k + 1)).version) ++ (List.range 3).flatMap (fun k => leBytes 1 (im (k + 1)).svn)
      ++ leBytes 1 s.step_
  | _ => []

/-- Measurement blocks as the physical function sees them. -/
def State.measurement (s : State) (i : Nat) : List Byte := s.measurementOf .whole i

/-- The digest of the bound measurements, in ascending index (R533, check 5 of R534). -/
def State.policyDigest (s : State) (mmask : Nat) : Nat := sha384 ((setBits 10 mmask).flatMap s.measurement)

/-! ### Identity (R525, R539, R540) -/

/-- The private key that a secret and an info string give (R525). -/
def keyFrom (secret : Nat) (info : List Byte) : Nat := Config.privateKey (hkdf (beBytes 48 secret) info 48)

/-- The device identity key of a secret. -/
def identityKey (secret : Nat) : Nat := keyFrom secret (ascii "quasor devid")

/-- DEVUID: the first 16 bytes of SHA-384 over the device identity public key (R540). -/
def devuid : Nat := sha384 (keyBytes (publicKey (identityKey Config.uds))) / 2 ^ 256

/-- The secret every key is derived from: at debug level 2 a fixed one in place of UDS (R539). -/
def State.rootSecret (s : State) : Nat := if s.chip.enc.dbg = 2 then Config.debugSecret else Config.uds

/-- Measurements 2, 3, 4 and the debug level: what the alias key and its certificate are bound to (R525). -/
def State.aliasData (s : State) : List Byte := s.measurement 2 ++ s.measurement 3 ++ s.measurement 4 ++ leBytes 1 s.chip.enc.dbg

/-- The alias key derived, and its certificate issued under the device identity key, whose private part is kept no longer (R525)
(log 162: DESIGN CHOICE). -/
def State.deriveAlias (s : State) : State :=
  let k := keyFrom s.rootSecret (ascii "quasor alias" ++ s.aliasData)
  let body := Config.aliasBody (publicKey k) s.aliasData
  let d := s.draw 20
  { d.1 with
    chip.enc.aliasKey := some k
    chip.enc.aliasCert := Config.certificate body (ecdsaSign (sha384 body) (identityKey s.rootSecret) d.2) }

/-- Certificate slot 0: length, digest of the root, and the chain (R525), in the form of DSP0274 (log 164: PRESUMED). -/
def State.certChain (s : State) : List Byte :=
  let certs := Config.certificates.2 ++ s.chip.enc.aliasCert
  leBytes 2 (52 + certs.length) ++ leBytes 2 0 ++ beBytes 48 Config.certificates.1 ++ certs

/-! ### The SPDM responder (R529 to R532) -/

/-- Sessions of a transport. -/
def State.sessionsOn (s : State) (t : Nat) : Nat := (s.chip.enc.sessions.filter fun x => x.1 == t).length

/-- Key of a session among the export secrets. -/
def sessionKey (t n : Nat) : Nat := t * 2 ^ 32 + n

/-- Sessions that meet `p` end, with their secrets. -/
def State.dropSessions (s : State) (p : Nat × Nat → Bool) : State :=
  { s with
    chip.enc.sessions := s.chip.enc.sessions.filter fun x => !p x
    chip.enc.exports := s.chip.enc.exports.filter fun x => !p (x.1 / 2 ^ 32, x.1 % 2 ^ 32) }

/-- What a message does to the sessions of its transport: it may establish one, at most two at a time, and may end one; the export
master secret of a new one is a free value (log 77: DESIGN CHOICE). -/
def State.spdmSessions (s : State) (t : Nat) (opens ends : Option Nat) : State :=
  let s1 := ends.elim s fun n => s.dropSessions fun x => x == (t, n)
  opens.elim s1 fun n =>
    if s1.sessionsOn t < 2 ∧ !s1.chip.enc.sessions.contains (t, n) then
      let d := s1.draw 22
      { d.1 with
        chip.enc.sessions := s1.chip.enc.sessions ++ [(t, n)]
        chip.enc.exports := Tab.put s1.chip.enc.exports (sessionKey t n) d.2 }
    else s1

/-- Length of an answer that the spec gives by the standards alone (log 77: DESIGN CHOICE). -/
def State.answerLen (s : State) : Nat := Config.freeValue 8 s.free % 65536 + 1

/-- Such an answer (log 77: DESIGN CHOICE). -/
def State.answerBytes (s : State) : State × List Byte :=
  let n := s.answerLen
  let d := (s.draw 8).1.draw 9
  (d.1, leBytes n d.2)

/-- Codes of DSP0274 (log 164: PRESUMED). -/
def spdmGetVersion : Nat := 0x84
def spdmKeyExchange : Nat := 0xE4
def spdmGetMeasurements : Nat := 0xE0

/-- Requests that are not supported: pre-shared keys, encapsulated requests, SET_CERTIFICATE, GET_CSR, chunking (R530)
(log 164: PRESUMED). -/
def spdmUnsupported : List Nat := [0xE6, 0xE7, 0xEA, 0xEB, 0xEE, 0xED, 0x85, 0x86]

/-- An ERROR of the responder. -/
def spdmError (ver code data : Nat) : List Byte := leBytes 1 ver ++ leBytes 1 0x7F ++ leBytes 1 code ++ leBytes 1 data

/-- DMTF value type of a measurement, bit 7 set for the raw ones (R526) (log 164: PRESUMED). -/
def dmtfType (i : Nat) : Nat :=
  if i = 1 then 0x00 else if i = 2 ∨ i = 3 then 0x01 else if i = 4 then 0x02 else if i = 5 ∨ i = 7 then 0x83 else if i = 6 then 0x85
  else if i = 8 then 0x03 else 0x86

/-- A measurement block in the DMTF format (R526) (log 164: PRESUMED). -/
def State.measurementBlock (s : State) (v : View) (i : Nat) : List Byte :=
  let b := s.measurementOf v i
  leBytes 1 i ++ leBytes 1 1 ++ leBytes 2 (3 + b.length) ++ leBytes 1 (dmtfType i) ++ leBytes 2 b.length ++ b

/-- What the responder signs: the version's prefix, the context, the digest of the transcript (log 164: PRESUMED). -/
def spdmToSign (ver : Nat) (transcript : List Byte) : List Byte :=
  let v := if ver = 0x13 then ascii "dmtf-spdm-v1.3.*" else ascii "dmtf-spdm-v1.2.*"
  v ++ v ++ v ++ v ++ List.replicate 6 0#8 ++ ascii "responder-measurements signing" ++ beBytes 48 (sha384 transcript)

/-- A signature of the responder, made with the alias key (R525). -/
def State.spdmSign (s : State) (ver : Nat) (transcript : List Byte) : State × List Byte :=
  let d := s.draw 20
  (d.1, keyBytes (ecdsaSign (sha384 (spdmToSign ver transcript)) (s.chip.enc.aliasKey.getD 0) d.2))

/-- MEASUREMENTS: the number of blocks, one, or all of them (index 0xFF), with the responder's nonce; with a signature over the
transcript where the request asks for one: the attestation report (R532) (log 164: PRESUMED). Without an alias key, which an unlock
drops until the next derivation, a signed request is an SPDM error, Unspecified (log 162: DESIGN CHOICE). -/
def State.measurements (s : State) (t : Nat) (msg : List Byte) : State × List Byte :=
  let ver := num msg 0 1
  let i := num msg 3 1
  let is := if i = 0 then [] else if i = 0xFF then (List.range 9).map (· + 1) else [i]
  let sig := flg msg 2 0
  if 9 < i ∧ i ≠ 0xFF then (s, spdmError ver 0x01 0)
  else if sig && s.chip.enc.aliasKey.isNone then (s, spdmError ver 0x05 0)
  else
    let rec_ := is.flatMap (s.measurementBlock (viewOf t))
    let d := s.draw 21
    let body := leBytes 1 ver ++ leBytes 1 0x60 ++ leBytes 1 (if i = 0 then 9 else 0) ++ leBytes 1 0 ++ leBytes 1 is.length
      ++ leBytes 3 rec_.length ++ rec_ ++ leBytes 32 d.2 ++ leBytes 2 0 ++ (if ver = 0x13 then slice msg (if sig then 37 else 4) 8 else [])
    let c := Tab.get d.1.chip.enc.conns {} t
    let all := c.measured ++ msg ++ body
    if sig then
      let g := d.1.spdmSign ver (c.agreed ++ all)
      ({ g.1 with chip.enc.conns := Tab.put g.1.chip.enc.conns t { c with measured := [] } }, body ++ g.2)
    else ({ d.1 with chip.enc.conns := Tab.put d.1.chip.enc.conns t { c with measured := all } }, body)

/-- A portion of the certificate chain of slot 0 (log 164: PRESUMED). -/
def State.certificate (s : State) (msg : List Byte) : List Byte :=
  let c := s.certChain
  let off := num msg 4 2
  let n := min (num msg 6 2) (c.length - off)
  if 0 < num msg 2 1 % 16 ∨ c.length ≤ off then spdmError (num msg 0 1) 0x01 0
  else leBytes 1 (num msg 0 1) ++ leBytes 1 0x02 ++ leBytes 1 0 ++ leBytes 1 0 ++ leBytes 2 n ++ leBytes 2 (c.length - off - n) ++ slice c off n

/-- An answer that the spec gives by the standards alone; the messages that agree a connection enter its transcript, and any other
message starts the measurement messages afresh (log 77: DESIGN CHOICE; log 164: PRESUMED). -/
def State.plainAnswer (s : State) (t : Nat) (msg : List Byte) : State × List Byte :=
  let code := num msg 1 1
  let r := s.answerBytes
  let c := Tab.get s.chip.enc.conns {} t
  let agrees := code == spdmGetVersion || code == 0xE1 || code == 0xE3
  let old := if code = spdmGetVersion then [] else c.agreed
  ({ r.1 with chip.enc.conns := Tab.put r.1.chip.enc.conns t { agreed := if agrees then old ++ msg ++ r.2 else c.agreed } }, r.2)

/-- The responder's answer to a message of a transport. A message whose first byte is no SPDM version is one inside a session, and
its answer goes by the standards (R529 to R532) (log 77: DESIGN CHOICE; log 164: PRESUMED). -/
def State.spdmAnswer (s : State) (t : Nat) (msg : List Byte) : State × List Byte :=
  let ver := num msg 0 1
  let code := num msg 1 1
  if ver / 16 ≠ 1 ∨ msg.length < 2 then s.answerBytes
  else if code ≠ spdmGetVersion ∧ ver ≠ 0x12 ∧ ver ≠ 0x13 then (s, spdmError ver 0x41 0)
  else if spdmUnsupported.contains code then (s, spdmError ver 0x07 code)
  else if code = spdmKeyExchange ∧ 2 ≤ s.sessionsOn t then (s, spdmError ver 0x0A 0)
  else if code = spdmGetMeasurements then s.measurements t msg
  else if code = 0x81 then (s, leBytes 1 ver ++ leBytes 1 0x01 ++ leBytes 1 0 ++ leBytes 1 1 ++ beBytes 48 (sha384 s.certChain))
  else if code = 0x82 then (s, s.certificate msg)
  else s.plainAnswer t msg

end Sys2Proof.Machine
end

