-- ==== Sys2Proof/Machine/MbStream.lean ====
section
/-! DEFINITION. Mailbox commands of the tasks, streams and tables group (0x0401 to 0x040C): counters, stream slots and arms,
bank cap and tag timeout, multicast groups, layouts, histograms, format tables, Q1 table loads. -/

namespace Sys2Proof.Machine

open Sys2Proof

/-- Names every command about a context on one core carries (log 46: DEDUCED). -/
def State.ctxCoreChecks (s : State) (c : Caller) (ctx core : Nat) : List (Bool × Status × Nat) :=
  [s.chkCtxPart c ctx] ++ s.chkCore c ctx core ++ s.chkCtx ctx ++ [s.chkCoreIn ctx core]

def execCounter (c : Caller) (ctx core idx value : Nat) (s : State) : Host.Outcome State Fault Refusal :=
  done (s.mbox c 0x0401 [.ctx ctx] 0
    (s.ctxCoreChecks c ctx core ++ [(decide (64 ≤ idx), .argRange, 0), (s.busyOn ctx core, .state, 0)])
    fun m a => ((a.modCtx ctx fun x =>
      { x with cnt := Tab.set x.cnt 0#32 (core * 64 + idx) (BitVec.ofNat 32 value) }).pokeAll).respond m .ok)

/-! ### Stream slots and arms (R177, R183, R188, R501) -/

/-- The slot a SID argument names: itself, or for 0xFF the lowest free one. -/
def State.slotNamed (s : State) (core sid : Nat) : Option Nat :=
  if sid = 0xFF then lowest 32 fun i => (s.slot? core i).isNone else some sid

def execStreamSlotAllocate (c : Caller) (ctx core sid : Nat) (s : State) : Host.Outcome State Fault Refusal :=
  let n := s.slotNamed core sid
  done (s.mbox c 0x0402 [.ctx ctx] 0
    (s.ctxCoreChecks c ctx core ++
      [(decide (32 ≤ sid) && sid != 0xFF, .argRange, 0), (sid != 0xFF && (s.slot? core sid).isSome, .state, 0), (n.isNone, .noResource, 0)])
    fun m a => (a.setSlot core (n.getD 0) { ctx := ctx }).respond m .ok 0 (n.getD 0))

/-- A slot that another context holds, or that is free (R177) (log 46: DEDUCED). -/
def State.slotChecks (s : State) (ctx core sid : Nat) : List (Bool × Status × Nat) :=
  let sl := s.slot? core sid
  [(decide (32 ≤ sid), .argRange, 0), (sl.elim false (·.ctx != ctx), .denied, 0), (sl.isNone, .state, 0)]

def execStreamSlotFree (c : Caller) (ctx core sid : Nat) (s : State) : Host.Outcome State Fault Refusal :=
  let held := (s.slot? core sid).elim false fun x => x.cur.isSome || x.shadow.isSome
  done (s.mbox c 0x0402 [.ctx ctx] 0 (s.ctxCoreChecks c ctx core ++ s.slotChecks ctx core sid ++ [(held, .state, 0)])
    fun m a => (a.modCore core fun q => { q with slots := Tab.erase q.slots sid }).respond m .ok)

def execStreamArm (c : Caller) (ctx core : Nat) (d : List Byte) (s : State) : Host.Outcome State Fault Refusal :=
  let f := (s.ctx? ctx).bind fun x => s.armCheck core ctx x d
  done (s.mbox c 0x0403 [.ctx ctx] 0
    (s.ctxCoreChecks c ctx core ++ [(f.isSome, (f.map (·.2)).getD .ok, 4 + (f.map (·.1)).getD 0)])
    fun m a => (a.takeArm core ctx d none).respond m .ok)

def execStreamCancel (c : Caller) (ctx core sid : Nat) (s : State) : Host.Outcome State Fault Refusal :=
  done (s.mbox c 0x0404 [.ctx ctx] 0 (s.ctxCoreChecks c ctx core ++ s.slotChecks ctx core sid)
    fun m a => ((a.abandon core fun _ o => o.ctx == ctx && o.sid == sid).endArm core sid .aborted 23 true).respond m .ok)

/-- The 32 bytes of STREAM_STATUS (R501) (log 46: DEDUCED). -/
def State.streamStatus (s : State) (core sid : Nat) (x : Slot) : List Byte :=
  let n (f : Arm → Nat) : Nat := x.cur.elim 0 f
  leBytes 1 (b2n x.shadow.isSome * 2 + b2n x.cur.isSome) ++ leBytes 1 ((s.core core).tagsOf sid) ++ leBytes 2 (n fun a => adArmid a.desc)
    ++ leBytes 4 (n (·.sig)) ++ leBytes 4 (satAdd 32 (n (·.oobr)) 0) ++ leBytes 4 (satAdd 32 (n (·.oobw)) 0) ++ leBytes 4 (satAdd 32 x.stale 0)
    ++ leBytes 12 0

def execStreamStatus (c : Caller) (ctx core sid : Nat) (s : State) : Host.Outcome State Fault Refusal :=
  done (s.mbox c 0x0405 [.ctx ctx] 32
    ([s.chkCtxPart c ctx] ++ s.chkCore c ctx core ++ [s.chkResp c 32] ++ s.chkCtx ctx ++ [s.chkCoreIn ctx core] ++ s.slotChecks ctx core sid)
    fun m a => a.respond m .ok 0 0 (((a.slot? core sid).map (a.streamStatus core sid)).getD []))

/-! ### Attributes of a partition (R202, R204) -/

/-- A partition named by its lowest eighth. -/
def State.partChecks (s : State) (c : Caller) (part : Nat) : List (Bool × Status × Nat) := [s.chkPart c part, s.chkStart part]

def execBankCap (c : Caller) (part cap : Nat) (s : State) : Host.Outcome State Fault Refusal :=
  done (s.mbox c 0x0406 [] 0 (s.partChecks c part ++ [(decide (cap < 2 ∨ 16 < cap), .argRange, 0)])
    fun m a => ({ a with chip.attr := Tab.modify a.chip.attr {} part fun x => { x with cap := cap } } : State).respond m .ok)

def execTagtmo (c : Caller) (part tmo : Nat) (s : State) : Host.Outcome State Fault Refusal :=
  done (s.mbox c 0x0407 [] 0 (s.partChecks c part ++ [(decide (tmo < 1 ∨ 1000 < tmo), .argRange, 0)])
    fun m a => ({ a with chip.attr := Tab.modify a.chip.attr {} part fun x => { x with tagTmo := tmo } } : State).respond m .ok)

/-! ### Multicast groups (R212) -/

/-- Groups that contexts of a partition own. -/
def State.groupsIn (s : State) (part : Nat) : Nat := (s.chip.mcast.filter fun p => ctxPart p.2.ctx == part).length

def execMcastGroupCreate (c : Caller) (ctx leader : Nat) (bits : List Byte) (s : State) : Host.Outcome State Fault Refusal :=
  let ms := setBits 576 (leNat bits)
  let n := freeKey 128 s.chip.mcast
  let h := ctxPart ctx
  done (s.mbox c 0x0408 [.ctx ctx] 0
    ([(bits.length != 72, .argRange, 2), s.chkCtxPart c ctx] ++ s.chkCtx ctx ++
      [(!(ms.all (s.coreInPart h)) || !ms.contains leader, .argRange, 0),
        (decide (16 * partSize s.chip.start h ≤ s.groupsIn h) || n.isNone, .noResource, 0)])
    fun m a => ({ a with chip.mcast := Tab.put a.chip.mcast (n.getD 0) { ctx := ctx, members := ms, leader := leader } } : State).respond m .ok 0 (n.getD 0))

/-- A current or shadow arm of context `ctx` meets `p`. -/
def State.anyArm (s : State) (ctx : Nat) (p : List Byte → Bool) : Bool :=
  (s.ctxCores ctx).any fun k => (s.core k).slots.any fun x =>
    x.2.ctx == ctx && (x.2.cur.elim false (fun a => p a.desc) || x.2.shadow.elim false (fun a => p a.desc))

def execMcastGroupDelete (c : Caller) (group : Nat) (s : State) : Host.Outcome State Fault Refusal :=
  let g := Tab.look s.chip.mcast group
  let ctx := g.elim 0 (·.ctx)
  done (s.mbox c 0x0408 (g.elim [] fun x => [.ctx x.ctx]) 0
    [(g.elim (s.boundPart c.fn).isNone (fun x => !s.mayAct c.fn (ctxPart x.ctx)) && c.fn != 0, .denied, 3), (g.isNone, .argRange, 0),
      (s.anyArm ctx fun d => adMcast d && adGroup d == group, .state, 0)]
    fun m a => ({ a with chip.mcast := Tab.erase a.chip.mcast group } : State).respond m .ok)

/-! ### Layouts (R228, R234) -/

def execLayoutCreate (c : Caller) (ctx : Nat) (d : List Byte) (s : State) : Host.Outcome State Fault Refusal :=
  let ls := ((s.ctx? ctx).map (·.layouts)).getD []
  let h := (lowest 1025 fun i => (Tab.look ls (i + 1)).isNone).map (· + 1)
  done (s.mbox c 0x0409 [.ctx ctx] 0
    ([(!layoutReservedOk d, .argRange, 2), s.chkCtxPart c ctx] ++ s.chkCtx ctx ++
      [(!layoutOk d, .argRange, 4 + (layoutFail d).getD 0), (decide (1024 ≤ ls.length), .noResource, 0)])
    fun m a => (a.modCtx ctx fun x => { x with layouts := Tab.put x.layouts (h.getD 1) d }).respond m .ok 0 (h.getD 1))

/-- A task descriptor names a layout handle. -/
def namesLayout (d : List Byte) (h : Nat) : Bool := alayout d == h || blayout d == h || olayout d == h

/-- A task or arm of a context names a layout handle (R228). -/
def State.layoutUsed (s : State) (ctx h : Nat) : Bool :=
  ((s.ctxCores ctx).any fun k => (s.core k).queue.any fun t => t.ctx == ctx && namesLayout t.desc h)
    || s.anyArm ctx fun d => adFarLayout d == h

def execLayoutDelete (c : Caller) (ctx h : Nat) (s : State) : Host.Outcome State Fault Refusal :=
  done (s.mbox c 0x0409 [.ctx ctx] 0
    ([s.chkCtxPart c ctx] ++ s.chkCtx ctx ++
      [(((s.ctx? ctx).bind fun x => Tab.look x.layouts h).isNone, .argRange, 0), (s.layoutUsed ctx h, .state, 0)])
    fun m a => (a.modCtx ctx fun x => { x with layouts := Tab.erase x.layouts h }).respond m .ok)

/-! ### Histograms (R333) -/

/-- FIRST and COUNT lie in the 4,096 layers. -/
def layersBad (first count : Nat) : Bool × Status × Nat := (decide (count = 0 ∨ 4096 < first + count), .argRange, 0)

/-- The 256 bytes of one layer's counters. -/
def Context.layerHist (x : Context) (l : Nat) : List Byte := (List.range 64).flatMap fun i => leBytes 4 (Tab.get x.hist 0 (l * 64 + i))

def execHistogramRead (c : Caller) (ctx first count : Nat) (s : State) : Host.Outcome State Fault Refusal :=
  done (s.mbox c 0x040A [.ctx ctx] (256 * count)
    ([s.chkCtxPart c ctx, s.chkResp c (256 * count)] ++ s.chkCtx ctx ++ [layersBad first count])
    fun m a => a.respond m .ok 0 0 ((List.range count).flatMap fun i => (a.ctx? ctx).elim [] (·.layerHist (first + i))))

def execHistogramClear (c : Caller) (ctx first count : Nat) (s : State) : Host.Outcome State Fault Refusal :=
  done (s.mbox c 0x040A [.ctx ctx] 0 ([s.chkCtxPart c ctx] ++ s.chkCtx ctx ++ [layersBad first count])
    fun m a => (a.modCtx ctx fun x =>
      { x with hist := x.hist.filter fun p => !(decide (64 * first ≤ p.1) && decide (p.1 < 64 * (first + count))) }).respond m .ok)

/-! ### The per-layer format table (R335) -/

/-- Entries of the external argument. -/
def fmtArg (es : List Byte) (i : Nat) : FmtEntry := num es (8 * i) 8

/-- A refresh of the context is running: a resolution of a set that it was bound to has not been carried to its end (R337). -/
def State.refreshing (s : State) (ctx : Nat) : Bool := s.chip.sets.any fun p => p.2.refresh.any fun r => r.binds.any (·.1 == ctx)

def execFormatTableWrite (c : Caller) (ctx first count : Nat) (es : List Byte) (s : State) : Host.Outcome State Fault Refusal :=
  done (s.mbox c 0x040B [.ctx ctx] 0
    ([(es.length != 8 * count, .argRange, 2), s.chkCtxPart c ctx] ++ s.chkCtx ctx ++
      [layersBad first count, (!(List.range count).all fun i => fmtEntryOk (fmtArg es i), .argRange, 0),
        (s.refreshing ctx, .busy, 0)])
    fun m a => (a.modCtx ctx fun x =>
      { x with fmt := (List.range count).foldl (fun t i => Tab.set t 0 (first + i) (fmtArg es i)) x.fmt }).respond m .ok)

def execFormatTableRead (c : Caller) (ctx first count : Nat) (s : State) : Host.Outcome State Fault Refusal :=
  done (s.mbox c 0x040B [.ctx ctx] (8 * count)
    ([s.chkCtxPart c ctx, s.chkResp c (8 * count)] ++ s.chkCtx ctx ++ [layersBad first count])
    fun m a => a.respond m .ok 0 0 ((List.range count).flatMap fun i => (a.ctx? ctx).elim [] fun x => leBytes 8 (State.fmtEntry x (first + i))))

/-! ### Q1 table loads (R149) -/

/-- The TBLLOAD that Drover places: both tables of a pair (log 47: DESIGN CHOICE). -/
def tblloadDesc (pair fcva dcva : Nat) : List Byte :=
  leBytes 1 6 ++ leBytes 1 0x12 ++ List.replicate 30 0#8 ++ leBytes 6 fcva ++ leBytes 2 0 ++ leBytes 6 dcva ++ List.replicate 34 0#8
    ++ leBytes 1 pair ++ leBytes 1 3 ++ List.replicate 174 0#8

/-- Why an image is refused (log 47: DESIGN CHOICE). -/
def State.imageFail (s : State) (ctx cva : Nat) : Option Status :=
  match (s.ctx? ctx), ((s.ctx? ctx).bind fun x => segOver x.segs cva 4128) with
  | some x, some (_, g) =>
    if cva % 16 ≠ 0 then some .argRange
    else if !g.rd then some .denied
    else
      let r := s.readCva x cva 4128
      if r.2.1 then some .integrity else if imageOk r.2.2 then none else some .argRange
  | _, _ => some .argRange

def execQ1Tblload (c : Caller) (ctx pair fcva dcva : Nat) (s : State) : Host.Outcome State Fault Refusal :=
  let b := s.serveAll
  let bad (v : Nat) : Bool × Status × Nat := ((b.imageFail ctx v).isSome, (b.imageFail ctx v).getD .ok, 0)
  done (s.mbox c 0x040C [.ctx ctx] 0
    ([s.chkCtxPart c ctx] ++ s.chkCtx ctx ++
      [(decide (8 ≤ pair), .argRange, 0), bad fcva, bad dcva, (!(s.ctxCores ctx).all fun k => s.mayHold k ctx, .busy, 0)])
    fun m a =>
      let a1 := a.serveAll
      let rd (q : State) (v : Nat) : State × List Byte := (q.ctx? ctx).elim (q, []) fun x => let r := q.readCva x v 4128; (r.1, r.2.2)
      let f := rd a1 fcva
      let g := rd f.1 dcva
      ((a.ctxCores ctx).foldl (fun q k => q.enqueue k { ctx := ctx, desc := tblloadDesc pair fcva dcva, images := some (f.2, g.2) }) g.1).respond m .ok)

end Sys2Proof.Machine
end

