-- ==== Sys2Proof/Machine/MbJob.lean ====
section
/-! DEFINITION. Mailbox commands of the jobs and collectives group (0x0500 to 0x0508): device ID, memberships, routes, windows,
collectives, ports. -/

namespace Sys2Proof.Machine

open Sys2Proof

def execDeviceId (c : Caller) (devid : Nat) (s : State) : Host.Outcome State Fault Refusal :=
  done (s.mbox c 0x0500 [] 0
    [chkPF c, (decide (32767 < devid), .argRange, 0), (!s.chip.members.isEmpty || !s.chip.wins.isEmpty, .state, 0)]
    fun m a => (({ a with chip.devid := some devid } : State).measuredIf 7 (s.chip.devid != some devid)).respond m .ok)

/-! ### Memberships (R392, R393) -/

/-- The entries of a member table, as R392 lays them out. -/
def tableOf (nmem : Nat) (t : List Byte) : List (Nat × Nat × Nat × Nat) := (List.range nmem).map fun m => tableEntry t m

/-- Reserved fields of a member table are zero. -/
def tableZero (nmem : Nat) (t : List Byte) : Bool :=
  (List.range nmem).all fun m => zeroFlds (slice t (8 * m) 8) [(0, 15, 1), (2, 3, 5), (3, 3, 5), (4, 12, 4), (6, 0, 16)]

/-- Check 3 of R393: no two entries share a partition, a slot holds one module, a fold at most eight. -/
def tableApart (es : List (Nat × Nat × Nat × Nat)) : Bool :=
  es.Pairwise (fun a b => !(a.1 == b.1 && a.2.1 == b.2.1) && (!(a.2.2 == b.2.2) || a.1 == b.1)) &&
    es.all fun e => decide (((es.filter fun x => x.2.2.2 == e.2.2.2).map (·.1)).eraseDups.length ≤ 8)

/-- What a join reserves: the member table in the partition's stacks, and at the first membership 64 parking buffers of 4 MiB a
port in the stacks of the port's eighth (R392, R413, R628) (log 61: DEDUCED). -/
def State.joinReserve (s : State) (part nmem : Nat) : Option (List Reservation) × Option (List Reservation) :=
  let first := !s.chip.members.any fun p => p.2.part == part
  let table := reserveAll s.grants (s.availStacks part) [8 * nmem]
  let park := (s.partPorts part).foldl (fun (acc : Option (List Reservation)) p => acc.bind fun rs =>
    let sts := ((List.range 4).map (4 * eighthOfPort p + ·)).filter fun st => (s.nmu st).avail
    (reserveAll (rs ++ table.getD [] ++ s.grants) sts (List.replicate 64 (2 ^ 22))).map (rs ++ ·)) (some [])
  (table, if first then park else some [])

def execJobJoin (c : Caller) (part job midx nmem : Nat) (t : List Byte) (s : State) : Host.Outcome State Fault Refusal :=
  let es := tableOf nmem t
  let own := es.getD midx (0, 0, 0, 0)
  let r := s.joinReserve part nmem
  let obj : Obj := .member part job
  done (s.mbox c 0x0501 [obj] 0
    ([(t.length != 8 * nmem, .argRange, 2)] ++ s.partChecks c part ++
      [(decide (job < 1 ∨ 4095 < job ∨ nmem < 1 ∨ 32768 < nmem ∨ nmem ≤ midx) || !tableZero nmem t, .argRange, 5),
        (!(some own.1 == s.chip.devid && own.2.1 == part && own.2.2.1 == s.aon.slotL && own.2.2.2 == s.aon.foldL), .argRange, 6),
        (!tableApart es, .argRange, 7), ((s.member? part job).isSome, .state, 8), (decide (64 ≤ s.chip.members.length), .noResource, 9),
        (r.2.isNone, .noResource, 10), (r.1.isNone, .noResource, 0)])
    fun m a =>
      let mem : Member := { part := part, job := job, midx := midx, nmem := nmem, table := t }
      let resv := (r.1.getD []).map (fun x => (obj, x)) ++ (r.2.getD []).map fun x => (Obj.member part 0, x)
      (({ a with chip.members := Tab.put a.chip.members (memberKey part job) mem, chip.otherResv := a.chip.otherResv ++ resv } : State)).respond m .ok)

/-- A membership ends: its sets are unbound, its reservations released, the job's tree here goes with the last membership
(log 61: DEDUCED; log 62: DEDUCED). -/
def State.dropMember (s : State) (part job : Nat) : State :=
  let s1 := (((s.member? part job).map (·.sets)).getD []).foldl (fun a k => a.modSet part k fun x => { x with job := none }) s
  let mems := Tab.erase s1.chip.members (memberKey part job)
  let gone (o : Obj) : Bool := o == .member part job || (o == .member part 0 && !mems.any fun p => p.2.part == part)
  { s1 with
    chip.members := mems
    chip.otherResv := s1.chip.otherResv.filter fun r => !gone r.1
    chip.trees := if mems.any fun p => p.2.job == job then s1.chip.trees else Tab.erase s1.chip.trees job }

def execJobLeave (c : Caller) (part job : Nat) (s : State) : Host.Outcome State Fault Refusal :=
  let busy := s.chip.colls.any (fun p => p.2.part == part && p.2.job == job) || s.chip.wins.any fun p => p.2.job == job
  done (s.mbox c 0x0502 [.member part job] 0 (s.partChecks c part ++ [((s.member? part job).isNone, .argRange, 0), (busy, .state, 0)])
    fun m a => (a.dropMember part job).respond m .ok)

/-! ### Routes (R398) -/

def execRoute (c : Caller) (first count : Nat) (es : List Byte) (s : State) : Host.Outcome State Fault Refusal :=
  let e (i : Nat) : List Byte := slice es (8 * i) 8
  done (s.mbox c 0x0503 [] 0
    [(es.length != 8 * count, .argRange, 2),
      (!(List.range count).all fun i => zeroFlds (e i) [(4, 0, 7), (5, 0, 24)], .argRange, 2), chkPF c,
      (decide (count = 0 ∨ 32768 < first + count), .argRange, 0)]
    fun m a => ({ a with chip.routes := (List.range count).foldl (fun t i =>
      if flg (e i) 4 7 then Tab.put t (first + i) (e i) else Tab.erase t (first + i)) a.chip.routes } : State).respond m .ok)

/-! ### Windows (R403, R405) -/

def execWindowOpen (c : Caller) (d : List Byte) (s : State) : Host.Outcome State Fault Refusal :=
  let ctx := fld d 18 0 9
  let rwin := num d 20 1
  let job := fld d 16 0 12
  let w : Window := { part := ctxPart ctx, ctx := ctx, job := job, cbase := num d 0 6, wlen := num d 8 5
                      pget := flg d 21 2, pput := flg d 21 1, pcol := flg d 21 0 }
  let g := ((s.ctx? ctx).bind fun x => segOver x.segs w.cbase w.wlen).map (·.2)
  done (s.mbox c 0x0504 [.ctx ctx, .window rwin, .member (ctxPart ctx) job] 0
    ([(!(zeroFlds d [(16, 12, 4), (18, 9, 7), (21, 3, 5)] && num d 6 2 == 0 && num d 13 3 == 0 && zeroRange d 22 10), .argRange, 2),
        s.chkCtxPart c ctx] ++ s.chkCtx ctx ++
      [(decide (w.wlen = 0) || w.wlen % 4096 != 0 || job == 0 || !(w.pget || w.pput || w.pcol), .argRange, 0),
        ((s.member? (ctxPart ctx) job).isNone, .denied, 0), (g.elim true (·.vers.isSome), .argRange, 0),
        (g.elim false fun x => (w.pget && !x.rd) || ((w.pput || w.pcol) && !x.wr), .denied, 0), ((s.window? rwin).isSome, .state, 0)])
    fun m a => ({ a with chip.wins := Tab.put a.chip.wins rwin w } : State).respond m .ok)

/-- A request is served whole at its arrival, so that no accepted request waits for its answer here (log 63: DEDUCED). -/
def execWindowClose (c : Caller) (rwin : Nat) (s : State) : Host.Outcome State Fault Refusal :=
  let w := s.window? rwin
  done (s.mbox c 0x0505 [.window rwin] 0
    [s.chkBound c, (w.elim false fun x => !s.mayAct c.fn x.part, .denied, 3), (w.isNone, .state, 0)]
    fun m a => ({ a with chip.wins := Tab.erase a.chip.wins rwin } : State).respond m .ok)

/-! ### Collectives (R407 to R410, R419) -/

/-- Reserved fields of a collective descriptor. -/
def collZero (d : List Byte) : Bool :=
  zeroFlds d [(1, 1, 7), (2, 12, 4), (6, 9, 7), (15, 4, 4), (38, 15, 1), (42, 6, 2), (44, 10, 6)]
    && num d 19 1 == 0 && num d 23 1 == 0 && num d 31 1 == 0 && num d 43 1 == 0

/-- Check 1 of R409 (log 64: DEDUCED). -/
def collShapeOk (d : List Byte) (nmem : Nat) : Bool :=
  let op := cdOp d
  let fmt := Fmt.ofCode (fld d 15 0 4)
  collZero d && decide (1 ≤ op ∧ op ≤ 4) && decide (1 ≤ cdJob d) && decide (num d 46 2 ≤ 10000) &&
    (if op = 4 then zeroRange d 8 6 && zeroRange d 14 28
     else fmt.isSome && (op != 1 || fld d 15 0 4 == 0 || fld d 15 0 4 == 3) && decide (1 ≤ cdNt d ∧ 1 ≤ cdTpm d ∧ 1 ≤ cdTcount d)
       && cdStride d % 16 == 0 && decide (16 + cdPayload d ≤ cdStride d) && cdDoff d % 16 == 0
       && decide (cdNt d ≤ cdTpm d * nmem) && (op != 3 || decide (cdRoot d < nmem)))

/-- Check 5 of R409: the status of the first source tile that fails (log 64: DEDUCED). -/
def State.sourceFail (s : State) (d : List Byte) (midx : Nat) : Option Status :=
  (cdSupplies d midx).findSome? fun p =>
    match segOver (((s.ctx? (cdCtx d)).map (·.segs)).getD []) p.2 (16 + cdPayload d) with
    | none => some .argRange
    | some (_, g) => if g.arch then some .argRange else if g.rd then none else some .denied

/-- Check 6 of R409: the window that receives the tiles (log 64: DEDUCED). -/
def State.targetFail (s : State) (d : List Byte) (part midx : Nat) : Option Status :=
  let ts := cdReceives d midx
  if ts.isEmpty then none
  else match s.window? (cdRwin d) with
    | none => some .argRange
    | some w =>
      if w.job ≠ cdJob d ∨ w.part ≠ part ∨ !w.pcol then some .denied
      else
        let stack := ((s.ctx? w.ctx).bind fun x => segAt x.segs w.cbase).elim false fun p => !p.2.arch
        if (ts.all fun t => decide (cdOffset d t + 16 + cdPayload d ≤ w.wlen)) && (cdOp d != 1 || stack) then none else some .argRange

/-- Every port of a partition has a PRU context free (check 7 of R409). -/
def State.pruFree (s : State) (part : Nat) : Bool := (s.partPorts part).all fun p => decide (Tab.get s.chip.pru 0 p < 64)

/-- R410 on one source tile: the detail of the failure. -/
def State.sourceCheck (s : State) (d h : List Byte) : Option Nat :=
  match hdrCheck (s.ctxOk (ctxPart (cdCtx d))) h with
  | some n => some n
  | none =>
    let x := Hdr.parse h
    if x.fmt = cdFmt d ∧ x.count = cdTcount d ∧ (cdOp d = 1 → x.scale = 0x7F ∧ x.epoch = cdEpoch d) then none else some 26

/-- The chunks of the source tiles of a collective: tile, chunk, payload of the tile (R413). -/
def State.sourceChunks (s : State) (cx : Context) (d : List Byte) (src : List (Nat × Nat)) : List (Nat × Nat × List Byte) :=
  src.flatMap fun p =>
    let n := (Hdr.parse (s.readCva cx p.2 16).2.2).total
    let pay := (s.readCva cx (p.2 + 16) (n - 16)).2.2
    (List.range (cdChunks d pay.length)).map fun k => (p.1, k, pay)

/-- The chunks of a reduction set out (R413). -/
def State.startReduce (s : State) (x : Coll) (m : Member) (chunks : List (Nat × Nat × List Byte)) : State :=
  let d := x.desc
  let x1 := chunks.foldl (fun (y : Coll) q =>
    { y with progs := Tab.put y.progs (q.1 * 2 ^ 24 + q.2.1) { val := chunkOf d q.2.2 q.2.1, flags := (chunkFlags d q.2.2 q.2.1).bits } }) x
  let r := s.drive x1 m chunks.length
  r.1.putColl r.2

/-- The chunks of a gather or a broadcast set out; a tile that the member itself receives is delivered (R415). -/
def State.startSpread (s : State) (x : Coll) (m : Member) (chunks : List (Nat × Nat × List Byte)) : State :=
  let d := x.desc
  let e := m.own
  let home := (cdReceives d m.midx).contains
  let r := chunks.foldl (fun (a : State × Coll) q =>
    let ch := chunkOf d q.2.2 q.2.1
    let b := a.1.spreadChunk a.2 m 0x08 e.2.2.2 e.2.2.1 4 q.1 q.2.1 ch
    match home q.1, b.window? (cdRwin d) with
    | true, some w => b.deliver a.2 w q.1 q.2.1 0 ch
    | _, _ => (b, a.2)) (s, x)
  r.1.putColl r.2

/-- The header fault of source tile `p` of a collective, at the port of its PRU (R410, R626). -/
def State.sourceFault (s : State) (x : Coll) (p : Nat × Nat) (n : Nat) : State :=
  let ports := s.partPorts x.part
  s.raise { src := 0x10, unit := ports.getD (p.1 % ports.length) 0, ctx := some (cdCtx x.desc), detail := n, info := p.2, ukind := some 4 }

/-- The first source tile that fails R410, with the detail of its failure. -/
def State.badSource (s : State) (cx : Context) (d : List Byte) (src : List (Nat × Nat)) : Option ((Nat × Nat) × Nat) :=
  src.findSome? fun p => (s.sourceCheck d (s.readCva cx p.2 16).2.2).map fun n => (p, n)

/-- The source tiles of a collective read whole (R410, R160). -/
def State.readSources (s : State) (cx : Context) (src : List (Nat × Nat)) : State × Bool :=
  let total (p : Nat × Nat) : Nat := (Hdr.parse (s.readCva cx p.2 16).2.2).total
  (src.foldl (fun a p => (a.readCva cx p.2 (total p)).1) s, src.any fun p => (s.readCva cx p.2 (total p)).2.1)

/-- The tiles of a collective at a member with the source tiles `src`: each is validated, then every chunk sets out (R410, R413, R415). -/
def State.startTiles (s : State) (cx : Context) (x : Coll) (m : Member) (src : List (Nat × Nat)) : State :=
  match s.badSource cx x.desc src with
  | some (p, n) => if n ≤ 7 then (s.endColl x .integrity n).sourceFault x p n else s.endColl x .integrity n
  | none =>
    let r := s.readSources cx src
    if r.2 then r.1.endColl x .integrity 0
    else if cdOp x.desc = 1 then r.1.startReduce x m (s.sourceChunks cx x.desc src)
    else r.1.startSpread x m (s.sourceChunks cx x.desc src)

/-- A collective begins at a member: a barrier with a chunk of no bytes (R416), any other with its source tiles. -/
def State.startColl (s : State) (x : Coll) (m : Member) : State :=
  match s.ctx? (cdCtx x.desc) with
  | none => s
  | some cx =>
    if cdOp x.desc = 4 then
      let r := s.drive { x with progs := Tab.put [] 0 { val := [], flags := 0 } } m 1
      r.1.putColl r.2
    else s.startTiles cx x m (cdSupplies x.desc m.midx)

def execCollective (c : Caller) (d : List Byte) (s : State) : Host.Outcome State Fault Refusal :=
  let ctx := cdCtx d
  let part := ctxPart ctx
  let job := cdJob d
  let mem := s.member? part job
  let midx := (mem.map (·.midx)).getD 0
  let old := (cdColl d + 32768) % 65536
  let recent := mem.elim false fun x => x.ended.any fun p => p.1 == old && decide (s.aon.time < p.2 + 33000)
  done (s.mbox c 0x0506 [.ctx ctx, .member part job] 0
    ([s.chkCtxPart c ctx] ++ s.chkCtx ctx ++
      [(!collShapeOk d ((mem.map (·.nmem)).getD 32768), .argRange, 5), (mem.isNone || !s.coreInPart part (cdScore d), .denied, 6),
        (mem.elim false fun x => x.nextColl != cdColl d, .state, 7), (recent, .busy, 8),
        ((s.sourceFail d midx).isSome, (s.sourceFail d midx).getD .ok, 9), ((s.targetFail d part midx).isSome, (s.targetFail d part midx).getD .ok, 10),
        (!s.pruFree part, .noResource, 11)])
    fun m a => match a.member? part job with
      | none => a.respond m .argRange
      | some x =>
        let a1 := a.modMember part job fun y => { y with
          nextColl := (cdColl d + 1) % 65536, ended := y.ended.filter fun p => decide (a.aon.time < p.2 + 33000) }
        let a2 : State := { a1 with chip.pru := (a1.partPorts part).foldl (fun t p => Tab.set t 0 p (Tab.get t 0 p + 1)) a1.chip.pru }
        let k : Coll := { part := part, job := job, desc := d }
        ((a2.putColl k).serveAll.startColl k x).respond m .ok)

def execCollCancel (c : Caller) (part job coll : Nat) (s : State) : Host.Outcome State Fault Refusal :=
  let x := s.coll? part job coll
  done (s.mbox c 0x0507 [.member part job] 0
    (s.partChecks c part ++ [((s.member? part job).isNone, .argRange, 0), (x.isNone, .state, 0)])
    fun m a => (x.elim a fun k => a.endColl k .aborted 28).respond m .ok)

/-! ### Ports (R386) -/

/-- Who may act on a port, and its number. -/
def State.portChecks (s : State) (c : Caller) (port : Nat) : List (Bool × Status × Nat) :=
  [s.chkBound c, (c.fn != 0 && !((s.boundPart c.fn).elim false fun h => s.portInPart h port), .denied, 3), (decide (16 ≤ port), .argRange, 0)]

def execPortEnable (c : Caller) (port : Nat) (s : State) : Host.Outcome State Fault Refusal :=
  done (s.mbox c 0x0508 [.port port] 0 (s.portChecks c port) fun m a => (a.portOn port).respond m .ok)

def execPortDisable (c : Caller) (port : Nat) (s : State) : Host.Outcome State Fault Refusal :=
  done (s.mbox c 0x0508 [.port port] 0 (s.portChecks c port) fun m a =>
    let r := a.portDisable port
    if r.2 then r.1.respond m .ok else r.1.run m [.port port] (.portDrain port))

def execPortLaneRestore (c : Caller) (port : Nat) (s : State) : Host.Outcome State Fault Refusal :=
  done (s.mbox c 0x0508 [.port port] 0 (s.portChecks c port ++ [(decide ((s.port port).st ≠ .active), .state, 0)])
    fun m a => (a.fullTraining port).respond m .ok)

/-- INIT: eight channels of two bytes, each at least 16, together at most 4,096 (R374, R384). -/
def allocOk (init : List Nat) : Bool := init.length == 8 && init.all (fun n => decide (16 ≤ n)) && decide (sumNat init ≤ 4096)

def execPortCreditAllocation (c : Caller) (port : Nat) (init : List Nat) (s : State) : Host.Outcome State Fault Refusal :=
  done (s.mbox c 0x0508 [.port port] 0 (s.portChecks c port ++ [(!allocOk init, .argRange, 0)])
    fun m a => (a.modPort port fun p => { p with alloc := init }).respond m .ok)

end Sys2Proof.Machine
end

