-- ==== Sys2Proof/Machine/MbCommit.lean ====
section
/-! DEFINITION. Mailbox commands of the commit and epochs group (0x0600 to 0x0609): eligibility, optimizer sets, updates and their
resolution, step bindings, the loss scale, commit buffers, the binding of sets to a job, job trees. -/

namespace Sys2Proof.Machine

open Sys2Proof

/-- ROLE (R42): what the module already has is set with OK also while it serves (log 148: DESIGN CHOICE). -/
def execRole (c : Caller) (elig : Nat) (s : State) : Host.Outcome State Fault Refusal :=
  let serves := s.chip.trees.any fun t => t.2.bell
  done (s.mbox c 0x0600 [] 0 [chkPF c, (decide (1 < elig), .argRange, 0), (serves && s.chip.elig != (elig == 1), .state, 0)]
    fun m a => ({ a with chip.elig := elig == 1 } : State).respond m .ok)

/-! ### Optimizer sets (R283, R305) -/

def execOptSetCreate (c : Caller) (part stmo : Nat) (s : State) : Host.Outcome State Fault Refusal :=
  let n := lowest 16 fun k => (s.set? part k).isNone
  done (s.mbox c 0x0601 [] 0 (s.partChecks c part ++ [(decide (10000 < stmo), .argRange, 0), (n.isNone, .noResource, 0)])
    fun m a => (a.putSet part (n.getD 0) { stmo := if stmo = 0 then 100 else stmo }).respond m .ok 0 (n.getD 0))

/-- Names of a partition and a set. -/
def State.setChecks (s : State) (c : Caller) (part set : Nat) : List (Bool × Status × Nat) :=
  s.partChecks c part ++ [(decide (16 ≤ set) || (s.set? part set).isNone, .argRange, 0)]

def execOptSetDelete (c : Caller) (part set : Nat) (s : State) : Host.Outcome State Fault Refusal :=
  let busy := (s.set? part set).elim false (fun x => x.st != .idle) || !(s.setGroups part set).isEmpty || !(s.boundCtxs part set).isEmpty
  done (s.mbox c 0x0601 [.set part set] 0 (s.setChecks c part set ++ [(busy, .state, 0)])
    fun m a =>
      let j := (a.set? part set).bind (·.job)
      let b := j.elim a fun k => a.modMember part k fun y => { y with sets := y.sets.filter (· != set) }
      ({ b with chip.sets := Tab.erase b.chip.sets (part * 16 + set) } : State).respond m .ok)

def SetState.code : SetState → Nat
  | .idle => 0 | .staging => 1 | .staged => 2 | .resolving => 3

/-- The 16 bytes of a set query (R305). -/
def OptSet.bytes (x : OptSet) : List Byte :=
  let e (n : Nat) : Nat := if x.err then n else 0
  leBytes 1 x.st.code ++ leBytes 1 (b2n x.err * 4 + b2n x.bad * 2 + b2n x.ovf) ++ leBytes 1 (e x.estatus) ++ leBytes 1 (e x.edetail)
    ++ leBytes 4 x.epoch ++ leBytes 2 (e x.egid) ++ leBytes 1 (e x.estack) ++ leBytes 5 0

def execOptSetQuery (c : Caller) (part set : Nat) (s : State) : Host.Outcome State Fault Refusal :=
  done (s.mbox c 0x0601 [.set part set] 16 ([s.chkPart c part, s.chkResp c 16] ++ s.setChecks c part set)
    fun m a => a.respond m .ok 0 0 (((a.set? part set).map OptSet.bytes).getD []))

/-! ### An update and its resolution (R292, R302, R429) -/

/-- The step constants are finite, and those of programs zero where the set has a group of a fixed kernel (R292) (log 37: DEDUCED). -/
def State.stepOk (s : State) (part set : Nat) (b : List Byte) : Bool :=
  let k (i : Nat) : Word := BitVec.ofNat 32 (num b (4 * i) 4)
  (List.range 8).all (fun i => (f32 (k i)).isFinite) &&
    (!(s.setGroups part set).any (fun g => decide (g.2.2.kernel < 16)) || zeroRange b 16 16)

/-- A bound set takes no update: its job has no formed tree, or its membership is FAULTED or LOST (R430, R441) (log 37: DEDUCED). -/
def State.jobHolds (s : State) (part set : Nat) : Bool :=
  match (s.set? part set).bind (·.job) with
  | none => false
  | some j => !((s.tree? j).elim false (·.formed)) || (s.member? part j).elim true fun m => m.st != .normal

/-- Step 1 of R302: the set enters STAGING with a fresh result, every group claims a version slot, gradient tiles are locked.
Where a load of one of its groups runs, the claims are made when it ends (R316) (log 35: DEDUCED). -/
def State.stageSet (s : State) (part set : Nat) (b : List Byte) : State :=
  match s.set? part set with
  | none => s
  | some x =>
    let y := { x with st := .staging, kernels := false, step := b, ovf := false, bad := false, err := false, estatus := 0, edetail := 0, egid := 0, estack := 0 }
    (s.putSet part set y).modGroups part set fun g => { (if s.loading part set then g else g.claim ((x.epoch + 1) % 2 ^ 32)) with err := false }

def execUpdateStage (c : Caller) (part set : Nat) (b : List Byte) (s : State) : Host.Outcome State Fault Refusal :=
  let idle := (s.set? part set).elim false (·.st == .idle)
  done (s.mbox c 0x0602 [.set part set] 0
    (s.setChecks c part set ++ [(!s.stepOk part set b, .argRange, 0), (!idle || s.jobHolds part set, .state, 0)])
    fun m a => (a.stageSet part set b).respond m .ok)

def execSetResolveCommit (c : Caller) (part set : Nat) (s : State) : Host.Outcome State Fault Refusal :=
  let x := s.set? part set
  let ok := x.elim false fun y => y.st == .staged && !y.err && y.job.isNone
  done (s.mbox c 0x0603 [.set part set] 0 (s.setChecks c part set ++ [(!ok, .state, 0)])
    fun m a => (a.resolveSet part set true (x.elim false (·.ovf))).respond m .ok)

def execSetResolveAbort (c : Caller) (part set : Nat) (s : State) : Host.Outcome State Fault Refusal :=
  let x := s.set? part set
  let ok := x.elim false fun y => (y.st == .staging || y.st == .staged) && y.job.isNone
  done (s.mbox c 0x0603 [.set part set] 0 (s.setChecks c part set ++ [(!ok, .state, 0)])
    fun m a => (a.resolveSet part set false (x.elim false (·.ovf))).respond m .ok)

/-! ### Step binding (R336) -/

/-- The step record lies 16-byte aligned in one stack-local segment of the context with WR. -/
def State.recordOk (s : State) (ctx rcva : Nat) : Bool :=
  rcva % 16 == 0 && ((s.ctx? ctx).bind fun x => segOver x.segs rcva 32).elim false fun p => !p.2.arch && p.2.ilv == 0 && p.2.wr

def execStepBind (c : Caller) (ctx set sig score rcva : Nat) (s : State) : Host.Outcome State Fault Refusal :=
  let part := ctxPart ctx
  done (s.mbox c 0x0604 [.ctx ctx, .set part set] 0
    ([s.chkCtxPart c ctx] ++ s.chkCore c ctx score ++ s.chkCtx ctx ++
      [(decide (16 ≤ set ∨ 64 ≤ sig) || (s.set? part set).isNone || !s.coreInPart part score || (rcva != 0 && !s.recordOk ctx rcva), .argRange, 0)])
    fun m a => (a.modCtx ctx fun x => { x with
      bind := some { set := set, sig := sig, score := score, rcva := if rcva = 0 then none else some rcva } }).respond m .ok)

/-! ### The loss scale (R343) -/

/-- The value of a signed byte. -/
def sByte (n : Nat) : Int := if n < 128 then n else (n : Int) - 256

def execLossScaleSet (c : Caller) (part set dyn lse lsmin lsmax ngrow : Nat) (s : State) : Host.Outcome State Fault Refusal :=
  let l := sByte lse
  let lo := sByte lsmin
  let hi := sByte lsmax
  let rng := decide (dyn ≤ 1 ∧ -64 ≤ lo ∧ hi ≤ 63 ∧ lo ≤ l ∧ l ≤ hi ∧ 1 ≤ ngrow ∧ ngrow ≤ 65535)
  done (s.mbox c 0x0605 [.set part set] 0
    (s.setChecks c part set ++ [((s.set? part set).elim false (·.st != .idle), .state, 0), (!rng, .argRange, 0)])
    fun m a => (a.modSet part set fun x =>
      { x with lsdyn := dyn == 1, lse := l, lsmin := lo, lsmax := hi, ngrow := ngrow, clean := 0 }).respond m .ok)

/-- The 16 bytes of a loss-scale query (R343). -/
def OptSet.scaleBytes (x : OptSet) : List Byte :=
  leBytes 1 (b2n x.lsdyn) ++ leBytes 1 (intByte x.lse) ++ leBytes 1 (intByte x.lsmin) ++ leBytes 1 (intByte x.lsmax)
    ++ leBytes 2 x.ngrow ++ leBytes 2 x.clean ++ leBytes 8 0

def execLossScaleQuery (c : Caller) (part set : Nat) (s : State) : Host.Outcome State Fault Refusal :=
  done (s.mbox c 0x0605 [.set part set] 16 ([s.chkPart c part, s.chkResp c 16] ++ s.setChecks c part set)
    fun m a => a.respond m .ok 0 0 (((a.set? part set).map OptSet.scaleBytes).getD []))

/-! ### Commit buffers (R423 to R428) -/

/-- Names of a partition and a buffer. -/
def State.bufChecks (s : State) (c : Caller) (part buf : Nat) : List (Bool × Status × Nat) := s.partChecks c part ++ [(decide (8 ≤ buf), .argRange, 0)]

def execCommitGroupStage (c : Caller) (part buf : Nat) (acts : List Byte) (s : State) : Host.Outcome State Fault Refusal :=
  let n := acts.length / 32
  let new := (List.range n).map fun i => slice acts (32 * i) 32
  let b := s.buf part buf
  done (s.mbox c 0x0606 [.buf part buf] 0
    ([(acts.length % 32 != 0, .argRange, 2)] ++ s.bufChecks c part buf ++
      [(decide (n = 0 ∨ 64 < b.acts.length + n) || !new.all (s.actionOk part), .argRange, 0), (b.bound.isSome, .state, 0)])
    fun m a => (a.setBuf part buf { b with acts := b.acts ++ new }).respond m .ok)

def execCommitGroupApply (c : Caller) (part buf : Nat) (s : State) : Host.Outcome State Fault Refusal :=
  let b := s.buf part buf
  done (s.mbox c 0x0606 [.buf part buf] 0 (s.bufChecks c part buf ++ [(b.acts.isEmpty || b.bound.isSome, .state, 0)])
    fun m a =>
      let r := a.applyBuf part buf
      match r.2 with
      | none => (r.1.setBuf part buf {}).respond m .ok
      | some (st, i) => (r.1.setBuf part buf { status := st.code, failed := i }).respond m st)

def execCommitGroupBind (c : Caller) (part buf set : Nat) (s : State) : Host.Outcome State Fault Refusal :=
  let b := s.buf part buf
  done (s.mbox c 0x0606 [.buf part buf, .set part set] 0
    (s.bufChecks c part buf ++ [(decide (16 ≤ set) || (s.set? part set).isNone, .argRange, 0), (b.acts.isEmpty || b.bound.isSome, .state, 0)])
    fun m a => (a.setBuf part buf { b with bound := some set }).respond m .ok)

def execCommitGroupDiscard (c : Caller) (part buf : Nat) (s : State) : Host.Outcome State Fault Refusal :=
  done (s.mbox c 0x0606 [.buf part buf] 0 (s.bufChecks c part buf)
    fun m a => let b := a.buf part buf; (a.setBuf part buf { b with acts := [], bound := none }).respond m .ok)

/-- What a query of a buffer returns: actions, binding (0x80 and the set), status and failed index of the last application
(log 65: DEDUCED). -/
def CommitBuf.bytes (b : CommitBuf) : List Byte :=
  leBytes 1 b.acts.length ++ leBytes 1 (b.bound.elim 0 (128 + ·)) ++ leBytes 1 b.status ++ leBytes 1 b.failed ++ leBytes 12 0

def execCommitGroupQuery (c : Caller) (part buf : Nat) (s : State) : Host.Outcome State Fault Refusal :=
  done (s.mbox c 0x0606 [.buf part buf] 16 ([s.chkPart c part, s.chkResp c 16] ++ s.bufChecks c part buf)
    fun m a => a.respond m .ok 0 0 (a.buf part buf).bytes)

/-! ### Sets bound to a job (R430) -/

/-- A membership is in neither of the states that let a tree be replaced: FAULTED, LOST (R430, R435). -/
def Member.keepsTree (m : Member) : Bool := m.st != .faulted && m.st != .lost

/-- The job has a formed tree on this module. -/
def State.formed (s : State) (job : Nat) : Bool := (s.tree? job).elim false (·.formed)

def execJobStepBind (c : Caller) (part job sets nctx sig score : Nat) (s : State) : Host.Outcome State Fault Refusal :=
  let mem := s.member? part job
  let ks := setBits 16 sets
  let all := (ks ++ (mem.map (·.sets)).getD []).filterMap (s.set? part)
  let other := ks.any fun k => (s.set? part k).elim false fun x => x.st != .idle || (x.job.isSome && x.job != some job)
  done (s.mbox c 0x0607 ([.member part job, .ctx nctx] ++ ks.map (Obj.set part)) 0
    (s.partChecks c part ++
      [(mem.isNone || decide (65536 ≤ sets) || ks.any (fun k => (s.set? part k).isNone) || ctxPart nctx != part || !s.liveCtx nctx
          || decide (64 ≤ sig) || !s.coreInPart part score, .argRange, 0),
        (other, .state, 0), (all.any fun x => x.epoch != (all.head?.map (·.epoch)).getD 0, .state, 0), (s.formed job, .state, 0)])
    fun m a =>
      let a1 := ks.foldl (fun b k => b.modSet part k fun x => { x with job := some job }) a
      (a1.modMember part job fun y => { y with
        sets := (List.range 16).filter fun k => y.sets.contains k || ks.contains k, nctx := nctx, sig := sig, score := score }).respond m .ok)

def execJobStepUnbind (c : Caller) (part job sets : Nat) (s : State) : Host.Outcome State Fault Refusal :=
  let mem := s.member? part job
  let ks := setBits 16 sets
  done (s.mbox c 0x0607 ([.member part job] ++ ks.map (Obj.set part)) 0
    (s.partChecks c part ++
      [(mem.isNone || !ks.all (fun k => mem.elim false (·.sets.contains k)), .argRange, 0), (s.formed job && mem.elim false Member.keepsTree, .state, 0)])
    fun m a =>
      let a1 := ks.foldl (fun b k => b.modSet part k fun x => { x with job := none }) a
      (a1.modMember part job fun y => { y with sets := y.sets.filter fun k => !ks.contains k }).respond m .ok)

/-! ### The bellwether tree (R435 to R437) -/

/-- The tree that a module computes (R436) (log 66: DEDUCED). -/
def Member.treeOf (x : Member) (fan skipovf vtmo dectmo rstmo : Nat) (elig : List Byte) : Tree :=
  let args := leBytes 1 fan ++ leBytes 2 vtmo ++ leBytes 2 dectmo ++ leBytes 2 rstmo ++ leBytes 1 skipovf ++ elig
  let e := x.own
  { fan := fan, vtmo := vtmo, dectmo := dectmo, rstmo := rstmo, skipovf := skipovf == 1, elig := elig, tdig := crc32 (x.table ++ args)
    parent := x.parentOf elig fan (x.rank e.2.2.2) e.2.2.1, children := x.childrenOf elig fan x.me, root := (x.bellAt elig 0).getD x.me
    bell := x.isBell elig }

/-- HELLOs that came before the tree-form, handed to the tree (log 66: DEDUCED). -/
def State.takeHellos (s : State) (job : Nat) (t : Tree) : State :=
  let mine := s.chip.hellos.filter fun h => h.1 == job && t.children.any fun k => k.1 == h.2.1
  let hs := mine.map fun h => (h.2.1, if jbTdig h.2.2 = t.tdig then JobMsg.parse h.2.2 else (JobMsg.parse h.2.2).set fDis true)
  ({ s with chip.hellos := s.chip.hellos.filter fun h => h.1 != job } : State).putTree job { t with hellos := hs }

def execTreeForm (c : Caller) (job fan skipovf vtmo dectmo rstmo : Nat) (elig : List Byte) (s : State) : Host.Outcome State Fault Refusal :=
  let mems := s.jobMembers job
  let x := mems.head?
  let folds := (x.map (·.folds)).getD []
  let own := x.elim false fun m => let e := m.own; flg elig (m.rank e.2.2.2) e.2.2.1 == s.chip.elig
  let here := x.elim [] fun m => m.partsOn m.own.1
  let bound := here.all fun p => (s.member? p job).elim false fun m => !m.sets.isEmpty
  let t := x.map fun m => m.treeOf fan skipovf vtmo dectmo rstmo elig
  let many := t.elim false (·.bell) && decide (64 ≤ (s.chip.trees.filter fun p => p.1 != job && p.2.bell).length)
  let objs := mems.map fun m => Obj.member m.part job
  done (s.mbox c 0x0608 objs 0
    [s.chkBound c, (c.fn != 0 && !mems.isEmpty && !mems.any (fun m => s.mayAct c.fn m.part), .denied, 3), (mems.isEmpty, .argRange, 0),
      ((s.tree? job).isSome && mems.any Member.keepsTree, .state, 0),
      (decide (fan < 2 ∨ 64 < fan ∨ 1 < skipovf ∨ vtmo < 1 ∨ 1000 < vtmo ∨ dectmo < 1 ∨ 10000 < dectmo ∨ rstmo < 1 ∨ 600 < rstmo)
        || elig.length != folds.length || !((List.range folds.length).all fun i => x.elim false fun m => (m.bell elig i).isSome), .argRange, 5),
      (!own, .argRange, 6), (!bound, .state, 7), (many, .noResource, 8)]
    fun m a => match t with
      | some u => (a.takeHellos job u).run m objs (.tree ((x.map (·.part)).getD 0) job)
      | none => a.respond m .argRange)

def execJobFault (c : Caller) (part job : Nat) (s : State) : Host.Outcome State Fault Refusal :=
  done (s.mbox c 0x0609 [.member part job] 0 (s.partChecks c part ++ [((s.member? part job).isNone, .argRange, 0)])
    fun m a => (a.modMember part job fun y => { y with causes := y.causes ++ [(3, 0)] }).respond m .ok)

end Sys2Proof.Machine
end

