-- ==== Sys2Proof/Machine/MbSecurity.lean ====
section
/-! DEFINITION. The enclave as commands reach it: SPDM (R531), weight keys (R533 to R536),
confidential mode (R537, R538), debug unlock (R540 to R542). -/

namespace Sys2Proof.Machine

open Sys2Proof

/-! ### SPDM (R531) -/

def execSpdm (c : Caller) (msg : List Byte) (opens ends : Option Nat) (s : State) : Host.Outcome State Fault Refusal :=
  let n := (s.spdmAnswer c.fn msg).2.length
  done (s.mbox c 0x0700 [] n
    [(decide (msg.length = 0 ∨ 65536 < msg.length), .argRange, 2), s.chkResp c n]
    fun m a =>
      let r := a.spdmAnswer c.fn msg
      (r.1.spdmSessions c.fn opens ends).respond m .ok 0 r.2.length r.2)

def execSpdmSessionTimeout (transport session : Nat) (s : State) : Host.Outcome State Fault Refusal :=
  .next (s.dropSessions fun x => x == (transport, session))

/-! ### Keys of a key server (R533, R534) -/

/-- A key message inside a session of a transport: its answer goes back inside the session. The enclave serves it once it runs
(log 79: DEDUCED). -/
def State.keyMessage (s : State) (transport session code : Nat) (d : List Byte) (shapeOk : Bool) (more : List (Bool × Status)) (act : State → State)
    (tail : State → List Byte) : State :=
  let part := fld d 1 0 3
  let own := transport == 0 || transport == 9 || s.boundPart transport == some part
  let checks := [(!s.chip.enc.sessions.contains (transport, session), Status.denied), (!shapeOk || num d 0 1 != code, .argRange),
    (!startsPart s.chip.start part || !own, .denied)] ++ more
  let answer (a : State) (st : Status) (t : List Byte) : State :=
    a.send (.secured transport session (leBytes 1 code ++ leBytes 1 st.code ++ leBytes 2 0 ++ t))
  match checks.find? (·.1) with
  | some (_, st) => answer s st []
  | none => let a := act s; answer a .ok (tail a)

/-- Held and released handles of a partition. -/
def State.heldMap (s : State) (part : Nat) (p : HeldKey → Bool) : Nat :=
  (List.range 16).foldl (fun a h => a + b2n ((Tab.look s.chip.enc.keys (keyIndex part h)).elim false p) * 2 ^ h) 0

/-- The reserved fields of a KEY_DELIVER, and its MMASK. -/
def deliverOk (d : List Byte) : Bool :=
  d.length == 88 && zeroFlds d [(1, 3, 5), (2, 4, 4), (3, 2, 6), (4, 10, 6), (4, 0, 1), (6, 0, 16)] && fld d 4 1 9 != 0

def execKeyDeliver (transport session : Nat) (d : List Byte) (s : State) : Host.Outcome State Fault Refusal :=
  let part := fld d 1 0 3
  let h := fld d 2 0 4
  let mmask := fld d 4 0 10
  let pol := beNat (slice d 8 48)
  let k : HeldKey := { mmask := mmask, poldig := pol, revoke := flg d 3 1, key := beNat (slice d 56 32) }
  done (s.keyMessage transport session 1 d (deliverOk d)
    [((Tab.look s.chip.enc.keys (keyIndex part h)).isSome && !flg d 3 0, .state), (pol != s.policyDigest mmask, .denied)]
    (fun a => let b := a.unloadKey part h; { b with chip.enc.keys := Tab.put b.chip.enc.keys (keyIndex part h) k }) fun _ => [])

/-- The 8 bytes of KEY_ERASE and KEY_QUERY. -/
def shortKeyOk (d : List Byte) : Bool := d.length == 8 && zeroFlds d [(1, 3, 5), (2, 4, 4)] && zeroRange d 3 5

def execKeyErase (transport session : Nat) (d : List Byte) (s : State) : Host.Outcome State Fault Refusal :=
  done (s.keyMessage transport session 2 d (shortKeyOk d) [] (fun a => a.eraseKey (fld d 1 0 3) (fld d 2 0 4)) fun _ => [])

def execKeyQuery (transport session : Nat) (d : List Byte) (s : State) : Host.Outcome State Fault Refusal :=
  let part := fld d 1 0 3
  done (s.keyMessage transport session 3 d (shortKeyOk d) [] id
    fun a => leBytes 2 (a.heldMap part fun _ => true) ++ leBytes 2 (a.heldMap part (·.released)))

/-! ### Releasing keys (R535, R536) -/

/-- Names of a partition and a key handle. -/
def State.keyChecks (s : State) (c : Caller) (part h : Nat) : List (Bool × Status × Nat) := s.partChecks c part ++ [(decide (16 ≤ h), .argRange, 0)]

def execKeyRelease (c : Caller) (part h : Nat) (s : State) : Host.Outcome State Fault Refusal :=
  let k := Tab.look s.chip.enc.keys (keyIndex part h)
  done (s.mbox c 0x0702 [] 0
    (s.keyChecks c part h ++ [(k.isNone, .state, 0), (k.elim false fun x => x.poldig != s.policyDigest x.mmask, .denied, 0)])
    fun m a =>
      let b := (a.partStacks part).foldl (fun q st => q.modNmu st fun n => { n with keys := if n.keys.contains h then n.keys else n.keys ++ [h] }) a
      ({ b with chip.enc.keys := Tab.adjust b.chip.enc.keys (keyIndex part h) fun x => { x with released := true } } : State).respond m .ok)

def execKeyReleaseErase (c : Caller) (part h : Nat) (s : State) : Host.Outcome State Fault Refusal :=
  done (s.mbox c 0x0702 [] 0 (s.keyChecks c part h) fun m a => (a.eraseKey part h).respond m .ok)

def execKeyReleaseQuery (c : Caller) (part h : Nat) (s : State) : Host.Outcome State Fault Refusal :=
  done (s.mbox c 0x0702 [] 4 ([s.chkPart c part, s.chkResp c 4] ++ s.keyChecks c part h)
    fun m a => a.respond m .ok 0 0 (leBytes 2 (a.heldMap part fun _ => true) ++ leBytes 2 (a.heldMap part (·.released))))

/-! ### Confidential mode (R513, R537, R538) -/

/-- A function has a ring, or a running command. -/
def State.confBusy (s : State) (fn : Nat) : Bool :=
  !(s.fn fn).sub.isEmpty || !(s.fn fn).cpl.isEmpty || s.chip.hif.running.any fun r => r.caller.fn == fn

def execConfModeEnter (c : Caller) (session : Nat) (s : State) : Host.Outcome State Fault Refusal :=
  done (s.mbox c 0x0701 [] 0
    [s.chkBound c, (s.confBusy c.fn, .state, 0), (!s.chip.enc.sessions.contains (c.fn, session), .state, 0)]
    fun m a => ((a.measuredIf 7 (s.fn c.fn).conf.isNone).respond m .ok).modFn c.fn fun f =>
      { f with conf := some { session := session, secret := bounceSecret (Tab.get a.chip.enc.exports 0 (sessionKey c.fn session)) } })

/-- A choice of reading (log 80: DEDUCED). -/
def execConfModeLeave (c : Caller) (s : State) : Host.Outcome State Fault Refusal :=
  done (s.mbox c 0x0701 [] 0 [s.chkBound c, (s.confBusy c.fn, .state, 0)]
    fun m a => ((a.measuredIf 7 (s.fn c.fn).conf.isSome).respond m .ok).modFn c.fn fun f => { f with conf := none })

/-- An entry of a submission ring has not been fetched yet. -/
def SubRing.unfetched (r : SubRing) : Bool := (r.prod + 2 ^ 32 - r.cons) % 2 ^ 32 != (if r.head.isSome || r.checked.isSome then 1 else 0)

/-- A copy or an export of a function runs (R538). -/
def State.copying (s : State) (fn : Nat) : Bool := s.chip.hif.running.any fun r => r.caller.fn == fn && (r.opc == 0x030A || r.opc == 0x0308)

def execConfModeKeyUpdate (c : Caller) (s : State) : Host.Outcome State Fault Refusal :=
  let f := s.fn c.fn
  done (s.mbox c 0x0701 [] 64
    [s.chkBound c, s.chkResp c 64, (f.conf.isNone, .state, 0), (f.sub.any (fun r => r.2.unfetched) || s.copying c.fn, .busy, 0)]
    fun m a =>
      let b := f.cpl.foldl (fun q r => q.drainHeld c.fn r.1 4096) a
      let idx := (List.range 16).flatMap fun i => leBytes 4 ((Tab.look (b.fn c.fn).cpl i).elim 0 (·.prod))
      (b.respond m .ok 0 0 idx).modFn c.fn fun g => { g with conf := g.conf.map fun x => { x with secret := updatedSecret x.secret, counters := [] } })

/-! ### Debug unlock (R540 to R542) -/

def execDebugUnlockChallenge (c : Caller) (s : State) : Host.Outcome State Fault Refusal :=
  done (s.mbox c 0x0703 [] 48 [chkPF c, s.chkResp c 48] fun m a =>
    let d := a.draw 10
    let n := d.2 % 2 ^ 256
    let b : State := { d.1 with chip.enc.nonce := some n }
    b.respond m .ok 0 0 (beBytes 16 devuid ++ beBytes 32 n))

/-- Check 4 of R540. -/
def State.tokenOk (s : State) (t : List Byte) : Bool :=
  sha384 (slice t 64 96) == Config.debugHash (fld t 1 0 1) && beNat (slice t 16 16) == devuid
    && s.chip.enc.nonce == some (beNat (slice t 32 32))
    && ecdsaOk (sha384 (slice t 0 160)) (beNat (slice t 64 48)) (beNat (slice t 112 48)) (beNat (slice t 160 48)) (beNat (slice t 208 48))

/-- Step 1 of R541: keys, sessions and the alias private key are gone (log 81: DEDUCED). -/
def State.dropSecrets (s : State) : State :=
  let s1 := s.eraseKeys fun _ _ => true
  { s1.dropSessions (fun _ => true) with chip.enc.aliasKey := none, chip.enc.conns := [], chip.nmus := s1.chip.nmus.map fun p => (p.1, { p.2 with keys := [] }) }

def execDebugUnlock (c : Caller) (t : List Byte) (s : State) : Host.Outcome State Fault Refusal :=
  let held := !s.chip.ctxs.isEmpty || !s.chip.members.isEmpty || !s.chip.wins.isEmpty || s.chip.hif.fns.any fun f => f.2.conf.isSome
  let s1 := s.mbox c 0x0703 [] 0
    [(t.length != 256, .argRange, 2), chkPF c, (s.nv.dbgdis, .denied, 5),
      (!(zeroFlds t [(1, 1, 7)] && zeroRange t 2 14 && (num t 0 1 == 1 || num t 0 1 == 2)), .argRange, 6), (held, .state, 7),
      (!s.tokenOk t, .denied, 8), (decide (num t 0 1 ≤ s.chip.enc.dbg), .state, 9)]
    fun m a => a.dropSecrets.run m [] (.zeroise (num t 0 1))
  done (if s.mayStart c 0x0703 [] then { s1 with chip.enc.nonce := none } else s1)

/-- The unlock that waits for zeroing ends. -/
def State.zeroiseEnds (s : State) (st : Status) : State := s.answer (fun w => match w with | .zeroise _ => true | _ => false) st

def execDebugZeroiseTimeout (s : State) : Host.Outcome State Fault Refusal := done (s.zeroiseEnds .timeout)

/-- Isles, accumulators and staging buffers as at chip reset, every available stack zeroed (R541, R542). -/
def State.zeroAllMemory (s : State) : State :=
  let off := (List.range 32).filter fun st => !(s.nmu st).avail
  { s with
    mem := s.mem.filter fun p => off.contains (p.1 / 2 ^ 36)
    dramErr := s.dramErr.filter fun p => off.contains (p.1 * 32 / 2 ^ 36)
    chip.isleErr := []
    chip.nmus := s.chip.nmus.map fun p => (p.1, { p.2 with mdata := [], mcache := [], mfix := [] })
    chip.cores := s.chip.cores.map fun p => (p.1, { p.2 with stageErr := [], eng := p.2.eng.map fun e => (e.1, { e.2 with h0 := {}, h1 := {}, acc := [], err := [] }) }) }

/-- Steps 2 to 4 of R541 end: the alias key is derived again, and the level opens (log 81: DEDUCED). -/
def State.openDebug (s : State) (level : Nat) : State :=
  let unz := (List.range 32).foldl (fun a st => a + b2n (!(s.nmu st).avail) * 2 ^ st) 0
  let s1 := s.zeroAllMemory
  (({ s1 with chip.enc.dbg := level, chip.enc.unz := unz, nv.unlocked := true } : State).measured 6).deriveAlias.zeroiseEnds .ok

end Sys2Proof.Machine
end

