-- ==== Sys2Proof/Machine/FwOps.lean ====
section
/-! DEFINITION. Signed images (R520 to R522), firmware writes (R601), crash captures and logs (R600, R603, R604), releases of
FAULT_N (R555). -/

namespace Sys2Proof.Machine

open Sys2Proof

/-! ### Images -/

/-- Most bytes of a body of an image kind (R520). -/
def bodyLimit (kind : Nat) : Nat := if kind = 1 then 2 ^ 20 else if kind = 2 then 6 * 2 ^ 20 else 2 ^ 16

/-- Checks 1 to 3 of R521 on a header: the number of the one that fails, 0 where all pass (log 83: DEDUCED). -/
def State.headFails (s : State) (kind : Nat) (h : List Byte) : Nat :=
  let len := num h 16 4
  let key := num h 6 1
  if num h 0 4 ≠ 0x4941515A ∨ num h 4 1 ≠ 1 ∨ num h 5 1 ≠ kind ∨ len % 16 ≠ 0 ∨ bodyLimit kind < len then 1
  else if !(zeroFlds h [(7, 2, 6)] && zeroRange h 10 2 && zeroRange h 20 12 && zeroRange h 224 32) then 1
  else if !flg h 7 (b2n s.nv.b0) then 2
  else if 4 ≤ key ∨ s.nv.keyrev.testBit key ∨ sha384 (slice h 32 96) ≠ Config.rootHash key then 3
  else 0

/-- The bytes that the signature and the digest of an image cover (R520). -/
def signedBytes (img : List Byte) : List Byte := slice img 0 128 ++ (img.drop 256).take (num img 16 4)

/-- Every check of R521 on an image: the number of the one that fails, 0 where it is accepted. -/
def State.imageFails (s : State) (kind : Nat) (img : List Byte) : Nat :=
  let n := s.headFails kind img
  if n ≠ 0 then n
  else if !ecdsaOk (sha384 (signedBytes img)) (beNat (slice img 32 48)) (beNat (slice img 80 48)) (beNat (slice img 128 48)) (beNat (slice img 176 48)) then 4
  else if num img 8 1 < s.nv.svn.getD (kind - 1) 0 then 5
  else if num img 8 1 < num img 9 1 then 6
  else 0

/-- What an image with which the module was delivered shows. -/
def factory (kind : Nat) : RunImage :=
  let f := Config.factoryImage kind
  { version := f.1, svn := f.2.1, minsvn := f.2.2.1, digest := f.2.2.2 }

/-- A copy of the boot flash under R521: the failed check, or the image. -/
def State.copyOf (s : State) (kind copy : Nat) : Nat × RunImage :=
  match Tab.get s.nv.flash .factory (flashKey kind copy) with
  | .factory => let f := factory kind; (if f.svn < s.nv.svn.getD (kind - 1) 0 then 5 else 0, f)
  | .written img => (s.imageFails kind img, { version := num img 12 4, svn := num img 8 1, minsvn := num img 9 1, digest := sha384 (signedBytes img) })
  | .invalid => (1, { version := 0, svn := 0, minsvn := 0, digest := 0 })

/-! ### Firmware writes (R601) -/

/-- A length in bytes that a firmware write may have (R520, R600). -/
def fwLenOk (kind len : Nat) : Bool := decide (256 ≤ len) && decide (len ≤ 256 + bodyLimit kind) && decide (len % 16 = 0)

def fwKindOk (kind : Nat) : Bool := decide (1 ≤ kind) && decide (kind ≤ 3)

/-- A firmware write ends with its status (R601) (log 17: DEDUCED). -/
def State.fwEnd (s : State) (w : FwWrite) (st : Status) (detail : Nat) : State :=
  let s1 : State := { s with aon.fw := none }
  match w.host with
  | none => s1.sbEnd st detail
  | some seq => s1.answerRun (fun r => r.seq == seq && r.await == .flash w.kind) st detail

/-- Words have arrived: at the end of the header checks 1 to 3 run, then copy B is erased (R601) (log 17: DEDUCED). -/
def State.fwMore (s : State) (w : FwWrite) (bs : List Byte) : State :=
  let w1 : FwWrite := { w with bytes := w.bytes ++ bs }
  let s1 : State := { s with aon.fw := some w1 }
  if w.bytes.length < 256 ∧ 256 ≤ w1.bytes.length then
    let n := s.headFails w.kind w1.bytes
    if n ≠ 0 then s1.fwEnd w1 .integrity n
    else { s1 with nv.flash := Tab.put s1.nv.flash (flashKey w.kind 1) .invalid }
  else s1

/-- Steps 2 and 3, or step 4, of R601 end (log 84: DEDUCED). -/
def State.fwStep (s : State) (w : FwWrite) : State :=
  if w.bytes.length < w.len then s
  else if w.copyA then ({ s with nv.flash := Tab.put s.nv.flash (flashKey w.kind 0) (.written w.bytes) } : State).fwEnd w .ok 0
  else
    let n := s.imageFails w.kind w.bytes
    if n ≠ 0 then ({ s with nv.flash := Tab.put s.nv.flash (flashKey w.kind 1) .invalid } : State).fwEnd w .integrity n
    else
      { s with
        nv.flash := Tab.put (Tab.put s.nv.flash (flashKey w.kind 1) (.written w.bytes)) (flashKey w.kind 0) .invalid
        aon.fw := some { w with copyA := true } }

/-! ### Logs and dumps: their content forms no part of the interface (R600, R604) -/

/-- `n` bytes of content the spec does not state (log 1: DESIGN CHOICE). -/
def State.freeBytes (s : State) (place n : Nat) : State × List Byte := let d := s.draw place; (d.1, leBytes n d.2)

/-- A crash capture begins (R604). -/
def State.startCapture (s : State) : State := { s with aon.capture := true }

/-- A second expiry of Drover's watchdog, or an uncorrectable word of the control SRAM: FATAL and the capture (R558, R561, R604). -/
def State.droverStops (s : State) : State := s.fatal.startCapture

/-! ### FAULT_N releases (R555) -/

/-- Voltage, current and thermal sources whose condition is still present, with F enabled. -/
def State.presentSources (s : State) : List Nat :=
  [(0x70, s.aon.vlow), (0x71, decide (s.aon.vin < 58000) || decide (82000 < s.aon.vin)), (0x72, decide (120000 < s.aon.iin)),
    (0x73, (List.range 8).any s.chip.pwr.hot || s.chip.nmus.any (·.2.half)), (0x74, s.aon.ttrip && s.aon.sensorHot),
    (0x75, !s.aon.pins.eoffN), (0x77, s.chip.pwr.fast)].filterMap
    fun p => if p.2 && (cfgReact (s.faultCfg p.1)).testBit 4 then some p.1 else none

/-- A held FAULT_N released; a source whose condition is still present asserts it again. -/
def State.releaseFaultN (s : State) : State :=
  if s.aon.hold then
    let s1 : State := { s with aon := { s.aon with hold := false, fnOn := false } }
    s.presentSources.foldl (fun a src => { a with aon := a.aon.faultN src }) s1
  else s

end Sys2Proof.Machine
end

