-- ==== Sys2Proof/Machine/MbPower.lean ====
section
/-! DEFINITION. Mailbox commands of power, clocks and thermal control (R572 to R574, R578, R582). -/

namespace Sys2Proof.Machine

open Sys2Proof

/-! ### Forced states (R574) -/

/-- Units of a kind: cores, stacks, ports. -/
def unitCount (kind : Nat) : Nat := if kind = 0 then 576 else if kind = 1 then 32 else 16

/-- The eighth that holds a unit of a kind. -/
def unitEighth (kind unit : Nat) : Nat :=
  if kind = 0 then eighthOfCore unit else if kind = 1 then eighthOfStack unit else eighthOfPort unit

/-- A force of the domain is running. -/
def State.forcing (s : State) (kind unit : Nat) : Bool :=
  s.chip.hif.running.any fun r => r.opc == 0x0800 &&
    (match r.await with
      | .force k u _ => k == kind && u == unit
      | .portDrain u => kind == 2 && u == unit
      | _ => false)

/-- Check 3 of R574: what forbids a unit to be forced OFF (log 85: DEDUCED). -/
def State.heldOn (s : State) (kind unit : Nat) : Bool :=
  if kind = 0 then !(s.partCtxs (partOf s.chip.start (eighthOfCore unit))).isEmpty
  else if kind = 1 then s.grants.any (·.stack == unit)
  else false

/-- Checks 1, 2 and 4 of R574 that force and release share, with check 3 of R494 before them (log 85: DEDUCED). -/
def State.domainChecks (s : State) (c : Caller) (kind unit : Nat) (own3 : List (Bool × Status × Nat)) (rangeOk : Bool) : List (Bool × Status × Nat) :=
  let range := decide (kind ≤ 2) && decide (unit < unitCount kind) && rangeOk
  let may := c.fn == 0 || s.boundPart c.fn == some (partOf s.chip.start (unitEighth kind unit))
  [s.chkBound c, (c.fn != 0 && decide (kind ≤ 2) && !(decide (unit < unitCount kind) && may), .denied, 3),
    (!range, .argRange, 5), (!may, .denied, 6)] ++ own3 ++ [(s.forcing kind unit, .busy, 8)]

/-- The objects a force names. -/
def domainObjs (kind unit : Nat) : List Obj := if kind = 2 then [.port unit] else []

/-- A domain's force noted. -/
def State.setForce (s : State) (kind unit : Nat) (f : Option Bool) : State :=
  if kind = 0 then s.modCore unit fun q => { q with force := f }
  else if kind = 1 then s.modNmu unit fun n => { n with force := f }
  else s.modPort unit fun p => { p with force := f }

/-- The force carried out: a port by Enable or Disable, the others until they reach their state. -/
def State.startForce (s : State) (m : Cmd) (kind unit : Nat) (on : Bool) : State :=
  let s1 := s.setForce kind unit (some on)
  if kind = 2 then
    if on then (s1.portOn unit).respond m .ok
    else
      let r := s1.portDisable unit
      if r.2 then r.1.respond m .ok else r.1.run m [.port unit] (.portDrain unit)
  else s1.run m [] (.force kind unit on)

def isForce (r : Running) : Bool := r.opc == 0x0800

def execPowerStateForce (c : Caller) (kind unit st : Nat) (s : State) : Host.Outcome State Fault Refusal :=
  let own3 := [(st == 3 && s.heldOn kind unit, Status.state, 7)]
  done (s.mboxPast isForce c 0x0800 (domainObjs kind unit) (s.domainChecks c kind unit own3 (st == 0 || st == 3))
    fun m a => a.startForce m kind unit (st == 0))

def execPowerStateRelease (c : Caller) (kind unit : Nat) (s : State) : Host.Outcome State Fault Refusal :=
  done (s.mboxPast isForce c 0x0800 (domainObjs kind unit) (s.domainChecks c kind unit [] true)
    fun m a => (a.setForce kind unit none).respond m .ok)

/-! ### Dividers, tolerances, cap, status -/

def execPowerStateSetDivider (c : Caller) (part div : Nat) (s : State) : Host.Outcome State Fault Refusal :=
  done (s.mbox c 0x0800 [] 0 [s.chkPart c part, s.chkStart part, (decide (div < 6 ∨ 16 < div), .argRange, 5)]
    fun m a =>
      let b : State := { a with chip.attr := Tab.modify a.chip.attr {} part fun x => { x with div := div } }
      if b.dividersSet part then b.respond m .ok else b.run m [] (.divider part))

/-- A choice of reading (log 20: DEDUCED). -/
def execLtol (c : Caller) (part tol : Nat) (s : State) : Host.Outcome State Fault Refusal :=
  done (s.mbox c 0x0801 [] 0 [s.chkPart c part, s.chkStart part, (decide (10000000 < tol), .argRange, 0)]
    fun m a => ({ a with chip.attr := Tab.modify a.chip.attr {} part fun x => { x with ltol := tol } } : State).wakeForLtol.respond m .ok)

def execPowerCap (c : Caller) (cap : Nat) (s : State) : Host.Outcome State Fault Refusal :=
  done (s.mbox c 0x0802 [] 0 [chkPF c, (decide (cap < 1000 ∨ 6500 < cap), .argRange, 0)]
    fun m a => ({ a with chip.pwr.capNew := cap } : State).respond m .ok)

def execPowerStatus (c : Caller) (s : State) : Host.Outcome State Fault Refusal :=
  done (s.mbox c 0x0803 [] 64 [s.chkResp c 64] fun m a => a.respond m .ok 0 0 a.powerStatus)

end Sys2Proof.Machine
end

