-- ==== Sys2Proof/Machine/MbFault.lean ====
section
/-! DEFINITION. Mailbox commands of faults, telemetry, firmware and debug (R546, R552, R164, R281, R387, R421, R601, R603). -/

namespace Sys2Proof.Machine

open Sys2Proof

/-! ### FAULT_CONFIG (R546) -/

def reservedSrc (src : Nat) : Bool := (faultDefault src).isNone

/-- Locked reactions of a source (R543). -/
def lockedReact (src : Nat) : Nat := bitsOf (faultCfgDefault src) 8 5

/-- A configuration word sets a reserved bit, or B where it may not stand (R545, R546). -/
def cfgBad (src cfg : Nat) : Bool :=
  reservedSrc src || bitsOf cfg 16 16 != 0 || cfg.testBit 13 || bitsOf cfg 5 3 != 0
    || (cfg.testBit 2 && !(decide (1 ≤ unitKind src) && decide (unitKind src ≤ 4)))

/-- A configuration word as it is stored: LOCK is read-only. -/
def cfgStored (src cfg : Nat) : Nat := bitsOf cfg 14 2 * 2 ^ 14 + lockedReact src * 2 ^ 8 + bitsOf cfg 0 5

def execFaultConfigWrite (c : Caller) (src cfg : Nat) (s : State) : Host.Outcome State Fault Refusal :=
  done (s.mbox c 0x0900 [] 0
    [chkPF c, (cfgBad src cfg, .argRange, 0), (bitsOf cfg 0 5 &&& lockedReact src != lockedReact src, .denied, 0)]
    fun m a => ({ a with chip.fc.cfg := Tab.set a.chip.fc.cfg (faultCfgDefault src) src (cfgStored src cfg) } : State).respond m .ok)

def execFaultConfigRead (c : Caller) (s : State) : Host.Outcome State Fault Refusal :=
  done (s.mbox c 0x0900 [] 1024 [chkPF c, s.chkResp c 1024]
    fun m a => a.respond m .ok 0 0 ((List.range 256).flatMap fun i => leBytes 4 (a.faultCfg i)))

def execFaultConfigFaultN (c : Caller) (mode fnpw : Nat) (s : State) : Host.Outcome State Fault Refusal :=
  done (s.mbox c 0x0900 [] 0 [chkPF c, (decide (1 < mode ∨ fnpw < 10 ∨ 10000 < fnpw), .argRange, 0)]
    fun m a => ({ a with aon := { a.aon with fnMode := mode == 1, fnPw := fnpw } } : State).respond m .ok)

def execFaultConfigRelease (c : Caller) (s : State) : Host.Outcome State Fault Refusal :=
  done (s.mbox c 0x0900 [] 0 [chkPF c] fun m a => a.releaseFaultN.respond m .ok)

/-- IPER is 0 or a power of two from 256 to 65,536. -/
def iperOk (iper : Nat) : Bool := iper == 0 || (List.range 9).any fun i => iper == 2 ^ (8 + i)

def execFaultConfigPatrol (c : Caller) (iper sper : Nat) (s : State) : Host.Outcome State Fault Refusal :=
  done (s.mbox c 0x0900 [] 0 [chkPF c, (!(iperOk iper && decide (sper ≤ 10000)), .argRange, 0)]
    fun m a => ({ a with chip.fc := { a.chip.fc with iper := iper, sper := sper } } : State).respond m .ok)

/-- Numbers of the units of a kind (R549). -/
def kindUnits : Nat → Nat
  | 1 => 576
  | 2 => 2304
  | 3 => 32
  | 4 => 16
  | 6 => 9
  | _ => 1

def execFaultConfigInject (c : Caller) (src unit part ctx : Nat) (s : State) : Host.Outcome State Fault Refusal :=
  done (s.mbox c 0x0900 [] 0 [chkPF c, (reservedSrc src || decide (kindUnits (unitKind src) ≤ unit), .argRange, 0)]
    fun m a =>
      let pv := startsPart a.chip.start part
      let cv := pv && ctxPart ctx == part && (a.ctx? ctx).isSome
      (a.raise { src := src, unit := unit, inj := true, part := if pv then some part else none, ctx := if cv then some ctx else none }).respond m .ok)

def execFaultConfigWatchdog (c : Caller) (wdt : Nat) (s : State) : Host.Outcome State Fault Refusal :=
  done (s.mbox c 0x0900 [] 0 [chkPF c, (decide (wdt < 10 ∨ 10000 < wdt), .argRange, 0)]
    fun m a => ({ a with chip.fc.wdt := wdt } : State).respond m .ok)

/-! ### FAULT_RECORDS (R552) -/

/-- The header and records that FAULT_RECORDS returns. -/
def faultAnswer (next lost : Nat) (rs : List FaultRec) : List Byte :=
  leBytes 4 next ++ leBytes 4 lost ++ leBytes 2 rs.length ++ leBytes 6 0 ++ rs.flatMap FaultRec.bytes

/-- Records that a function sees. -/
def State.recordsFor (s : State) (fn : Nat) : List FaultRec :=
  if fn = 0 then s.chip.fc.recs else s.chip.fc.recs.filter fun r => r.part.isSome && r.part == s.boundPart fn

/-- LOST as a function sees it. -/
def State.lostFor (s : State) (fn : Nat) : Nat :=
  if fn = 0 then s.chip.fc.lost else (s.boundPart fn).elim 0 fun p => Tab.get s.chip.fc.lostPart 0 p

/-- The answer to FAULT_RECORDS SUB 0. -/
def State.recordsFrom (s : State) (fn start max : Nat) : List Byte :=
  faultAnswer s.chip.fc.seq (s.lostFor fn) (((s.recordsFor fn).filter fun r => decide (start ≤ r.seq)).take max)

def execFaultRecordsRead (c : Caller) (start max : Nat) (s : State) : Host.Outcome State Fault Refusal :=
  let n := (s.recordsFrom c.fn start max).length
  done (s.mbox c 0x0901 [] n [s.chkBound c, s.chkResp c n] fun m a => a.respond m .ok 0 0 (a.recordsFrom c.fn start max))

def execFaultRecordsPersistent (c : Caller) (s : State) : Host.Outcome State Fault Refusal :=
  let n := 16 + 32 * s.aon.store.length
  done (s.mbox c 0x0901 [] n [chkPF c, s.chkResp c n]
    fun m a => a.respond m .ok 0 0 (faultAnswer a.chip.fc.seq a.aon.storeLost a.aon.store))

/-! ### Telemetry (R164, R281, R387, R421) -/

/-- The 16 bytes of a core (R164). -/
def Core.memStatus (q : Core) : List Byte :=
  leBytes 4 q.ice ++ leBytes 2 q.iue ++ leBytes 2 q.ace ++ leBytes 2 q.aue ++ leBytes 1 q.sce ++ leBytes 1 q.sue
    ++ leBytes 2 (q.ubank * 512 + q.urow) ++ leBytes 2 q.uword

/-- One record a unit, zero for the units of other partitions. -/
def State.perUnit (s : State) (fn : Nat) (units size : Nat) (mine : Nat → Nat → Bool) (rec : Nat → List Byte) : List Byte :=
  (List.range units).flatMap fun u => if fn = 0 ∨ (s.boundPart fn).elim false (mine · u) then rec u else leBytes size 0

def State.memStatus (s : State) (fn : Nat) : List Byte := s.perUnit fn 576 16 s.coreInPart fun k => (s.core k).memStatus

def execMemStatus (c : Caller) (s : State) : Host.Outcome State Fault Refusal :=
  done (s.mbox c 0x0902 [] 9216 [s.chkBound c, s.chkResp c 9216] fun m a => a.respond m .ok 0 0 (a.memStatus c.fn))

/-- An entry of the correction log (R281). -/
def CorrEntry.bytes (st : Nat) (e : CorrEntry) : List Byte :=
  leBytes 4 e.count ++ leBytes 5 (sectorInfo (st * 2 ^ 31 + e.sector)) ++ leBytes 1 e.symbol ++ leBytes 2 0 ++ leBytes 4 e.first

/-- The correction log of a stack (R281). -/
def State.corrLog (s : State) (st : Nat) : List Byte :=
  let n := s.nmu st
  leBytes 4 n.cetot ++ leBytes 4 n.ovf ++ leBytes 2 n.uetot ++ leBytes 2 n.log.length ++ leBytes 4 0 ++ n.log.flatMap (CorrEntry.bytes st)

def execCorrLog (c : Caller) (st : Nat) (s : State) : Host.Outcome State Fault Refusal :=
  let n := (s.corrLog st).length
  done (s.mbox c 0x0903 [] n ([s.chkBound c] ++ (s.chkStack c st).take 1 ++ [s.chkResp c n] ++ (s.chkStack c st).drop 1)
    fun m a => a.respond m .ok 0 0 (a.corrLog st))

/-- STATE of R387. -/
def LinkState.code : LinkState → Nat
  | .disabled => 0
  | .detect => 1
  | .lock => 2
  | .eq => 3
  | .align => 4
  | .config => 5
  | .active => 6
  | .retrain => 7
  | .wait => 8
  | .noPartner => 9

/-- The 64 bytes of a port (R387). -/
def Port.status (p : Port) : List Byte :=
  leBytes 1 (p.st.code * 16 + (if p.st = .active then p.width * 4 else 0) + b2n ((List.range 8).any fun l => (p.lane l).pre) * 2) ++ leBytes 1 p.lgood
    ++ leBytes 2 (b2n p.pvalid * 32768 + p.pdevid) ++ leBytes 1 p.pport ++ leBytes 3 0 ++ leBytes 4 p.feccor ++ leBytes 4 p.fecunc
    ++ leBytes 4 p.crcerr ++ leBytes 4 p.replays ++ leBytes 2 p.fretrain ++ leBytes 2 p.fulltrain ++ leBytes 2 p.degrade ++ leBytes 2 p.downs
    ++ (List.range 8).flatMap fun l => leBytes 4 (p.lane l).lsym

def State.portStatus (s : State) (fn : Nat) : List Byte := s.perUnit fn 16 64 s.portInPart fun n => (s.port n).status

def execPortStatus (c : Caller) (s : State) : Host.Outcome State Fault Refusal :=
  done (s.mbox c 0x0904 [] 1024 [s.chkBound c, s.chkResp c 1024] fun m a => a.respond m .ok 0 0 (a.portStatus c.fn))

/-- The 32 bytes of a port (R421). -/
def Port.fabricStatus (p : Port) : List Byte :=
  [p.transit, p.unroute, p.lifedrop, p.ecrcerr, p.badpkt, p.jobdrop, p.nacks, p.stale].flatMap (leBytes 4)

def State.fabricStatus (s : State) (fn : Nat) : List Byte := s.perUnit fn 16 32 s.portInPart fun n => (s.port n).fabricStatus

def execFabricStatus (c : Caller) (s : State) : Host.Outcome State Fault Refusal :=
  done (s.mbox c 0x0905 [] 512 [s.chkBound c, s.chkResp c 512] fun m a => a.respond m .ok 0 0 (a.fabricStatus c.fn))

/-! ### Firmware, log, dump (R601, R603) -/

def execFwUpdateWrite (c : Caller) (kind : Nat) (img : List Byte) (s : State) : Host.Outcome State Fault Refusal :=
  done (s.mbox c 0x0A00 [] 0
    [chkPF c, (!(fwKindOk kind && fwLenOk kind img.length), .argRange, 0), (s.aon.fw.isSome, .busy, 0)]
    fun m a => (a.run m [] (.flash kind)).fwMore { kind := kind, host := some m.seq, len := img.length } img)

/-- VERSION of a copy, 0 for one that fails R521. -/
def State.copyVersion (s : State) (kind copy : Nat) : Nat := let r := s.copyOf kind copy; if r.1 = 0 then r.2.version else 0

def State.fwQuery (s : State) : List Byte := [1, 2, 3].flatMap fun k => leBytes 4 (s.copyVersion k 0) ++ leBytes 4 (s.copyVersion k 1)

def execFwUpdateQuery (c : Caller) (s : State) : Host.Outcome State Fault Refusal :=
  done (s.mbox c 0x0A00 [] 24 [chkPF c, s.chkResp c 24] fun m a => a.respond m .ok 0 0 a.fwQuery)

/-- How many log bytes a read of at most `max` bytes finds: the spec gives the log no content (log 15: DEDUCED; log 76: DESIGN CHOICE). -/
def State.logLen (s : State) (max : Nat) : Nat := Config.freeValue 11 s.free % (max + 1)

def execLogRead (c : Caller) (start max : Nat) (s : State) : Host.Outcome State Fault Refusal :=
  let n := s.logLen max
  done (s.mbox c 0x0A01 [] n [chkPF c, s.chkResp c n] fun m a =>
    let r := (a.draw 11).1.freeBytes 12 (a.logLen max)
    r.1.respond m .ok 0 (start + r.2.length) r.2)

def execCrashDumpRead (c : Caller) (s : State) : Host.Outcome State Fault Refusal :=
  done (s.mbox c 0x0A02 [] 4096 [chkPF c, s.chkResp c 4096, (s.nv.dump.isNone, .state, 0)] fun m a =>
    let r := a.freeBytes 13 4096
    r.1.respond m .ok 0 0 r.2)

def execCrashDumpClear (c : Caller) (s : State) : Host.Outcome State Fault Refusal :=
  done (s.mbox c 0x0A02 [] 0 [chkPF c] fun m a => ({ a with nv.dump := none } : State).respond m .ok)

end Sys2Proof.Machine
end

