-- ==== Sys2Proof/Machine/Faults.lean ====
section
/-! DEFINITION. Events of fault collection: sweep, block resets, FAULT_N, patrols, watchdogs (R547, R548, R554 to R562). -/

namespace Sys2Proof.Machine

open Sys2Proof

/-- Drover collects the sources whose N is disabled (R547). -/
def execFaultSweep (s : State) : Host.Outcome State Fault Refusal := .next { s with chip.fc.sweep := [] }

/-- A block reset ends: what it zeroes is zero, and the unit's faults are recorded again (R548) (log 94: DEDUCED). -/
def State.blockResetComplete (s : State) (ukind unit : Nat) : State :=
  if !s.chip.fc.blk.contains (ukind, unit) then s
  else
    let s1 : State := { s with chip.fc.blk := s.chip.fc.blk.erase (ukind, unit) }
    match ukind with
    | 1 => s1.clearCore unit
    | 2 => s1.clearCore (unit / 4)
    | 3 => (s1.clearStack unit).modNmu unit fun n => { n with tries := 0 }
    | _ => s1

def execBlockResetComplete (ukind unit : Nat) (s : State) : Host.Outcome State Fault Refusal := done (s.blockResetComplete ukind unit)

/-! ### FAULT_N (R554, R555) -/

/-- FNPW has passed since the latest occurrence: a pulse ends and the gap of 10 µs begins. -/
def execFaultNPulseEnd (s : State) : Host.Outcome State Fault Refusal :=
  .next (if s.aon.fnOn && s.aon.fnPulse then { s with aon := { s.aon with fnOn := false, fnPulse := false, fnGap := true } } else s)

/-- The gap ends: a deferred occurrence asserts FAULT_N, under the mode in force (log 99: DEDUCED). -/
def execFaultNGapEnd (s : State) : Host.Outcome State Fault Refusal :=
  .next (if !s.aon.fnGap then s
    else match s.aon.fnDefer with
      | some src => { s with aon := s.aon.assertN src (!s.aon.fnMode) }
      | none => { s with aon.fnGap := false })

/-- A sideband write of 1 to FC_FN_STS.HOLD. -/
def execFaultNHoldRelease (ok : Bool) (s : State) : Host.Outcome State Fault Refusal := .next (s.sbWrite ok s.releaseFaultN)

/-! ### Patrols (R556 to R558) -/

/-- The next line of an Isle whose bank is powered, from line `l` on. -/
def Core.nextLine (q : Core) (l : Nat) : Option Nat :=
  ((List.range 48).map fun i => (l + i) % 24576).find? fun x => Tab.get q.banks 0 (x % 48) == 0

/-- The patrol of an Isle reads one line; words in `fl` are found with flipped bits first (log 97: DESIGN CHOICE; log 123: DEDUCED). -/
def State.islePatrol (s : State) (core : Nat) (fl : List (Nat × Nat)) : State :=
  if s.chip.fc.iper = 0 then s
  else
    match (s.core core).nextLine (s.core core).patrol with
    | none => s
    | some l =>
      let k := isleBase core + 64 * l
      let mine := fl.filter fun p => decide (k ≤ 4 * p.1) && decide (4 * p.1 < k + 64)
      let s1 : State := { s with chip.isleErr := mine.foldl (fun m x => Tab.set m 0 x.1 (Tab.get m 0 x.1 ^^^ x.2 % 2 ^ 39)) s.chip.isleErr }
      let s2 := s1.modCore core fun q => { q with patrol := (l + 1) % 24576 }
      (s2.isleErrs k 64).foldl (fun a p => a.meetWord core 1 p.1 p.2) s2

def execIslePatrolRead (core : Nat) (fl : List (Nat × Nat)) (s : State) : Host.Outcome State Fault Refusal :=
  done (if core < 576 then s.islePatrol core fl else s)

/-- The first granted 1 KiB unit of a stack at or above unit `u`. -/
def State.grantedUnit (s : State) (st u : Nat) : Option Nat :=
  (spansOf s.grants st).foldl (fun a p =>
    if 4 * (p.1 + p.2) ≤ u ∨ p.2 = 0 then a else some (match a with | none => max u (4 * p.1) | some b => min b (max u (4 * p.1)))) none

/-- The patrol of a stack reads one unit and its metadata; sectors in `errs` are found with flipped bits first (log 97: DESIGN CHOICE). -/
def State.stackPatrol (s : State) (st : Nat) (errs : List (Nat × Nat)) : State :=
  let n := s.nmu st
  match (s.grantedUnit st n.patrol).or (s.grantedUnit st 0) with
  | none => s
  | some u =>
    let k := stackKey st (1024 * u)
    if s.chip.fc.sper = 0 ∨ n.dram ≠ 0 ∨ n.window.any fun r => bankIndex r.addr == bankIndex k then s
    else
      let mine := errs.filter fun e => decide (k / 32 ≤ e.1) && decide (e.1 < k / 32 + 32)
      let s1 := (s.flipSectors mine).modNmu st fun m => { m with patrol := u + 1 }
      (s1.meetSectors 1 1 (if (s1.mdataKey k).isSome then s1.unitErrs k else s1.sectorErrs k 1024)).1

def execStackPatrolRead (stack : Nat) (errs : List (Nat × Nat)) (s : State) : Host.Outcome State Fault Refusal :=
  done (if stack < 32 then s.stackPatrol stack errs else s)

/-- A word of the control SRAM in error is met: one flip is corrected and written back; more stop Drover (R29, R558). -/
def State.meetSram (s : State) (w mask : Nat) : State :=
  if flips mask = 1 then ({ s with chip.sramErr := Tab.set s.chip.sramErr 0 w 0 } : State).raise { src := 0x04, info := 4 * w }
  else (s.raise { src := 0x05, info := 4 * w }).droverStops

/-- The patrol reads the whole control SRAM once it holds Drover. `fl`: bits that turned over since the last one, by word. -/
def execControlSramPatrol (fl : List (Nat × Nat)) (s : State) : Host.Outcome State Fault Refusal :=
  done (if s.chip.sram.isNone then s
    else
      let s1 : State := { s with chip.sramErr := fl.foldl (fun m x => Tab.set m 0 x.1 (Tab.get m 0 x.1 ^^^ x.2)) s.chip.sramErr }
      s1.chip.sramErr.foldl (fun a p => a.meetSram p.1 p.2) s1)

/-! ### Watchdogs (R561, R562) -/

/-- Drover runs under its watchdog. -/
def State.droverRuns (s : State) : Bool := (s.chip.boot == .init || s.chip.boot == .ready) && !s.chip.hif.fatal

/-- A kick: normal service, also after a first expiry. -/
def execWatchdogKick (s : State) : Host.Outcome State Fault Refusal :=
  .next (if s.droverRuns then { s with chip.fc := { s.chip.fc with wdFirst := false, kick := s.now } } else s)

def execWatchdogFirstExpiry (s : State) : Host.Outcome State Fault Refusal :=
  done (if s.droverRuns && !s.chip.fc.wdFirst then
      let s1 : State := { s with chip.fc.wdFirst := true }
      s1.raise { src := 0x03, detail := 1, info := s.chip.fc.kick }
    else s)

/-- The second expiry, and an initialisation that overruns (R590). -/
def State.secondExpiry (s : State) : State := (s.raise { src := 0x03, detail := 2, info := s.chip.fc.kick }).droverStops

def execWatchdogSecondExpiry (s : State) : Host.Outcome State Fault Refusal :=
  done (if s.droverRuns && s.chip.fc.wdFirst then s.secondExpiry else s)

/-- The enclave's watchdog: the chip reset it forces erases every key. -/
def execEnclaveWatchdogExpiry (s : State) : Host.Outcome State Fault Refusal :=
  done (if s.chip.boot = .held ∨ s.chip.boot = .pll then s else s.raise { src := 0x06 })

end Sys2Proof.Machine
end

