-- ==== Sys2Proof/Machine/Power.lean ====
section
/-! DEFINITION. Events of power, clocks and thermal control (R565 to R583). -/

namespace Sys2Proof.Machine

open Sys2Proof

/-! ### Input power (R565 to R567, R589) -/

/-- Step 1 of R589 ends once nothing forbids the soft start (log 91: DEDUCED). -/
def State.tryStart (s : State) : State :=
  let a := s.aon
  if a.up && a.pins.pwrEn && a.pins.eoffN && !a.needCycle && !a.mainOn && !a.starting && decide (60000 ≤ a.vin) && decide (a.vin ≤ 80000) then
    { s with aon.starting := true }
  else s

/-- The main conversion is on, or on its way. -/
def State.powered (s : State) : Bool := s.aon.mainOn || s.aon.starting

/-- A sample of input voltage (mV) and current (mA) (log 90: DEDUCED). -/
def execPowerSample (vin iin : Nat) (s : State) : Host.Outcome State Fault Refusal :=
  .next (if !s.aon.up then s
    else
      let s1 : State := { s with aon := { s.aon with
        vin := vin, iin := iin, energy := s.aon.energy + vin * iin, vlow := s.aon.vlow && decide (vin < 63000) } }
      s1.tryStart)

def execInputVoltageLow (s : State) : Host.Outcome State Fault Refusal :=
  done (if s.aon.up && !s.aon.vlow && decide (s.aon.vin < 62000) then
      ({ s with aon.vlow := true } : State).raise { src := 0x70, info := s.aon.vin }
    else s)

def execInputVoltageOutOfRange (s : State) : Host.Outcome State Fault Refusal :=
  done (if !s.powered then s
    else if s.aon.vin < 58000 then (s.raise { src := 0x71, detail := 0, info := s.aon.vin }).mainOff true
    else if 82000 < s.aon.vin then (s.raise { src := 0x71, detail := 1, info := s.aon.vin }).mainOff true
    else s)

def execFastLimit (s : State) : Host.Outcome State Fault Refusal :=
  done (if s.aon.mainOn && decide (112000 < s.aon.iin) then ({ s with chip.pwr.fast := true } : State).raise { src := 0x77 } else s)

def execFastLimitEnd (s : State) : Host.Outcome State Fault Refusal := .next { s with chip.pwr.fast := false }

def execInputOvercurrent (s : State) : Host.Outcome State Fault Refusal :=
  done (if s.powered && decide (120000 < s.aon.iin) then (s.raise { src := 0x72, info := s.aon.iin }).mainOff true else s)

/-! ### Power cap (R578, R579) -/

/-- A window of 1 ms with its average in mW (log 90: DEDUCED). -/
def State.capWindow (s : State) (avg : Nat) : State :=
  let p := s.chip.pwr
  let above := decide (1000 * p.cap < avg)
  let under := decide (100 * avg < 95 * (1000 * p.cap))
  let fall := under && decide (10 ≤ p.below + 1)
  let div := if above then min 16 (p.capDiv + 1) else if fall then max 6 (p.capDiv - 1) else p.capDiv
  let p1 : Pwr := { p with pin := avg / 1000, capDiv := div, below := if under && !fall then p.below + 1 else 0, cap := p.capNew }
  let s1 : State := { s with chip.pwr := p1 }
  if above && p.capDiv == 6 then s1.raise { src := 0x77, info := p.cap } else s1

def execPowerCapWindow (avg : Nat) (s : State) : Host.Outcome State Fault Refusal := done (if s.aon.mainOn then s.capWindow avg else s)

/-! ### Thermal control (R580, R581) -/

/-- A temperature in INFO: 16 bits signed, in 0.125 °C (log 92: DESIGN CHOICE). -/
def tempInfo (x : Int) : Nat := int16 x

/-- Thermal throttle raised for a sensor. -/
def State.throttle (s : State) (kind i : Nat) (x : Int) : State :=
  s.raise { src := 0x73, detail := Config.sensorNumber kind i % 65536, info := tempInfo x }

/-- A stack's reading: refresh rate and admission (R580). -/
def State.stackReading (s : State) (st : Nat) (x : Int) : State :=
  let n := s.nmu st
  let half := decide (760 ≤ x) || (n.half && decide (720 < x))
  let s1 := s.setNmu st { n with refresh2 := decide (680 < x), half := half }
  if 760 ≤ x ∧ !n.half then s1.throttle 1 st x else s1

/-- Every sensor read: junctions, stacks, and those of the NMUs and ports. -/
def State.thermalSample (s : State) (junction stackTs others : List Int) : State :=
  if !s.aon.up || junction.length ≠ 144 || stackTs.length ≠ 32 then s
  else
    let hot := (junction ++ stackTs ++ others).any fun x => decide (800 < x)
    let s1 : State := { s with
      aon := { s.aon with sensorHot := hot, ttrip := s.aon.ttrip && (hot || s.aon.pins.pwrEn) }
      chip.pwr.junction := junction, chip.pwr.stackT := stackTs }
    if s.aon.mainOn then ((List.range 32).zip stackTs).foldl (fun a p => a.stackReading p.1 p.2) s1 else s1

def execThermalSample (junction stackTs others : List Int) (s : State) : Host.Outcome State Fault Refusal :=
  done (s.thermalSample junction stackTs others)

/-- The hottest junction sensor of an eighth. -/
def Pwr.hottest (p : Pwr) (h : Nat) : Nat × Int :=
  let t := highest (p.eighthT h)
  (18 * h + ((p.eighthT h).findIdx (· == t)), t)

/-- A window of an eighth ends: 1 ms at 105 °C or above, or 10 ms at 100 °C or below. -/
def State.thermalWindow (s : State) (h : Nat) : State :=
  let p := s.chip.pwr
  let d := p.thermDiv h
  if p.hot h then
    let s1 : State := { s with chip.pwr.therm := Tab.set p.therm 6 h (min 16 (d + 1)) }
    if d = 6 then s1.throttle 0 (p.hottest h).1 (p.hottest h).2 else s1
  else if p.cool h then { s with chip.pwr.therm := Tab.set p.therm 6 h (max 6 (d - 1)) }
  else s

def execThermalWindow (eighth : Nat) (s : State) : Host.Outcome State Fault Refusal :=
  done (if s.aon.mainOn && decide (eighth < 8) then s.thermalWindow eighth else s)

/-- The sensor that trips: kind, index, reading. -/
def Pwr.tripping (p : Pwr) : Option (Nat × Nat × Int) :=
  match ((List.range 144).zip p.junction).find? fun x => decide (920 ≤ x.2) with
  | some x => some (0, x.1, x.2)
  | none => (((List.range 32).zip p.stackT).find? fun x => decide (840 ≤ x.2)).map fun x => (1, x.1, x.2)

def execThermalTrip (s : State) : Host.Outcome State Fault Refusal :=
  done (match s.chip.pwr.tripping with
    | none => s
    | some x =>
      if !s.powered then s
      else
        let s1 := s.raise { src := 0x74, detail := Config.sensorNumber x.1 x.2.1 % 65536, info := tempInfo x.2.2 }
        ({ s1 with aon.ttrip := true } : State).mainOff true)

/-! ### Clocks (R575, R577) -/

/-- What a command waits for is reached: every eighth of its partition runs at its effective divider (log 88: DEDUCED). -/
def State.dividerDone (s : State) (w : Await) : Bool :=
  match w with
  | .divider part => s.dividersSet part
  | _ => false

/-- An eighth's divider reaches its effective value; commands that wait for it complete (log 88: DEDUCED), and a domain whose exit latency
now exceeds the tolerances wakes (pair n of R611). -/
def State.dividerChange (s : State) (h : Nat) : State :=
  let s1 := ({ s with chip.pwr.div := Tab.set s.chip.pwr.div 6 h (s.effDiv h) } : State).wakeForLtol
  s1.answer s1.dividerDone .ok

def execDividerChange (eighth : Nat) (s : State) : Host.Outcome State Fault Refusal := done (if eighth < 8 then s.dividerChange eighth else s)

def execPllLock (s : State) : Host.Outcome State Fault Refusal := .next (if s.chip.boot = .pll then { s with chip.boot := .enclave } else s)

def execPllLockTimeout (s : State) : Host.Outcome State Fault Refusal :=
  done (if s.chip.boot = .pll then s.raise { src := 0x76, detail := 0xFFFF } else s)

def execPllLockLoss (s : State) : Host.Outcome State Fault Refusal :=
  done (if s.chip.boot = .held ∨ s.chip.boot = .pll then s else s.raise { src := 0x76, detail := 0xFFFF })

/-- A rail leaves regulation: PWR_GOOD deasserts (R593). -/
def execRailPowerGoodLost (domain : Nat) (s : State) : Host.Outcome State Fault Refusal :=
  done (if s.aon.mainOn && s.aon.pgood then ({ s with aon.pgood := false } : State).raise { src := 0x76, detail := domain } else s)

/-! ### Domains (R568 to R574) -/

/-- Nothing is on its way through the meshes. -/
def State.meshQuiet (s : State) : Bool :=
  s.chip.mesh.isEmpty && s.chip.resps.isEmpty && s.chip.sigs.isEmpty && s.chip.credits.isEmpty && s.chip.mtiles.isEmpty

/-- A core has no dispatched task, no arm with a tile in progress, no work of the state mover (log 87: DESIGN CHOICE). -/
def Core.idle (q : Core) : Bool :=
  q.queue.all (fun t => t.run.isNone) && q.slots.all (fun p => p.2.cur.elim true fun a => a.tiles.isEmpty) && q.tags.all (fun t => t.2.req.isNone)

/-- A bank has nothing to do: its write-drain counter is zero and no request or scrub waits for it (R570) (log 89: DESIGN CHOICE). -/
def State.bankIdle (s : State) (core bank : Nat) : Bool :=
  let q := s.core core
  Tab.get q.drain 0 bank == 0 && !(s.chip.mesh.any fun m => !m.toStack && m.dst == core)
    && q.scrubs.all fun p => (4 * p.1 - isleBase core) / 64 % 48 != bank

/-- A bank of an Isle descends. -/
def State.bankDescent (s : State) (core bank : Nat) : State :=
  let q := s.core core
  let d := Tab.get q.banks 0 bank
  if !s.bankIdle core bank then s
  else if d < 2 ∧ !s.bankGranted core bank ∧ s.bankStateOk core 2 then
    (s.zeroBank core bank).modCore core fun c => { c with banks := Tab.set c.banks 0 bank 2 }
  else if d = 0 ∧ s.bankStateOk core 1 then s.modCore core fun c => { c with banks := Tab.set c.banks 0 bank 1 }
  else s

/-- A core one state deeper: retention keeps all but the weight registers of its engines (R568). -/
def Core.deeper (q : Core) : Core :=
  if q.pst = 1 then { q with pst := 2, eng := q.eng.map fun e => (e.1, { e.2 with active := {}, shadow := {} }) } else { q with pst := q.pst + 1 }

/-- A domain's idle timer expires. Kinds: 0 core, 1 bank `sub` of a core, 2 tile mesh, 3 Strait, 4 NMU logic, 5 stack DRAM
(log 87: DESIGN CHOICE). -/
def State.descent (s : State) (kind unit sub : Nat) : State :=
  let q := s.core unit
  let n := s.nmu unit
  if kind = 0 then
    if unit < 576 ∧ q.force.isNone ∧ q.idle ∧ q.pst < 2 ∧ s.coreStateOk unit (q.pst + 1) then s.setCore unit q.deeper else s
  else if kind = 1 then
    if unit < 576 ∧ sub < 48 ∧ q.force.isNone ∧ q.pst < 3 then s.bankDescent unit sub else s
  else if kind = 2 then
    if unit < 4 ∧ s.meshQuiet ∧ s.meshIdleOk unit then { s with chip.pwr.mesh := Tab.set s.chip.pwr.mesh 0 unit 1 } else s
  else if kind = 3 then
    if unit < 4 ∧ s.meshQuiet ∧ s.straitIdleOk then { s with chip.pwr.strait := Tab.set s.chip.pwr.strait 0 unit 1 } else s
  else
    let quiet := n.ingress.isEmpty && n.window.isEmpty && s.chip.sets.all fun x => x.1 / 16 != s.stackPart unit || !x.2.kernels
    if kind = 4 then if unit < 32 ∧ n.force.isNone ∧ quiet ∧ n.pst = 0 ∧ s.nmuIdleOk unit then s.setNmu unit { n with pst := 1 } else s
    else if kind = 5 then if unit < 32 ∧ n.force.isNone ∧ quiet ∧ n.dram = 0 ∧ s.srOk unit then s.setNmu unit { n with dram := 1 } else s
    else s

def execDomainIdleDescent (kind unit sub : Nat) (s : State) : Host.Outcome State Fault Refusal := .next (s.descent kind unit sub)

/-- A domain is awake again. A domain forced OFF stays off (log 86: DEDUCED; log 87: DESIGN CHOICE). -/
def State.wake (s : State) (kind unit sub : Nat) : State :=
  let q := s.core unit
  let n := s.nmu unit
  if kind = 0 then if unit < 576 ∧ q.force ≠ some false then s.setCore unit { q with pst := 0 } else s
  else if kind = 1 then if unit < 576 ∧ q.force ≠ some false then s.setCore unit { q with banks := Tab.set q.banks 0 sub 0 } else s
  else if kind = 2 then { s with chip.pwr.mesh := Tab.set s.chip.pwr.mesh 0 unit 0 }
  else if kind = 3 then { s with chip.pwr.strait := Tab.set s.chip.pwr.strait 0 unit 0 }
  else if unit < 32 ∧ n.force ≠ some false then
    if kind = 4 then s.setNmu unit { n with pst := 0 } else if kind = 5 then s.setNmu unit { n with dram := 0 } else s
  else s

def execDomainWake (kind unit sub : Nat) (s : State) : Host.Outcome State Fault Refusal := .next (s.wake kind unit sub)

/-- A forced domain reaches its state: one that is OFF holds nothing, one that leaves OFF is zeroed (R568) (log 94: DEDUCED). -/
def State.forcedReached (s : State) (kind unit : Nat) : State :=
  let waits (on : Bool) : Bool := s.chip.hif.running.any fun r => r.await == .force kind unit on
  let ends (on : Bool) (a : State) : State := a.answer (fun w => w == .force kind unit on) .ok
  if waits true then
    ends true (if kind = 0 then s.modCore unit fun q => { q with pst := 0, banks := [] } else s.modNmu unit fun n => { n with pst := 0, dram := 0, tries := 0 })
  else if waits false then
    ends false (if kind = 0 then (s.clearCore unit).modCore unit fun q => { q with pst := 3 }
      else (s.clearStack unit).modNmu unit fun n => { n with
          pst := 2, dram := 2, open_ := [], mdata := [], mcache := [], mfix := [], progs := [], accf := [], ledger := [], keys := [] })
  else s

def execForcedStateReached (kind unit : Nat) (s : State) : Host.Outcome State Fault Refusal := done (s.forcedReached kind unit)

end Sys2Proof.Machine
end

