-- ==== Sys2Proof/Machine/Startup.lean ====
section
/-! DEFINITION. Events of supplies, pins, start-up and boot flash (R588 to R594, R522 to R524, R256, R100, R601, R604). -/

namespace Sys2Proof.Machine

open Sys2Proof

/-! ### Supplies -/

/-- The always-on supply comes up with the filtered levels of its pins; the SMBus address is taken (R565, R587, R595) (log 14: DEDUCED). -/
def execAlwaysOnPowerUp (vin : Nat) (pwrEn resetN perstN eoffN mgr : Bool) (slot fold : Nat) (s : State) : Host.Outcome State Fault Refusal :=
  .next (if s.aon.up ∨ vin < 40000 then s
    else
      let p : Pins := { pwrEn := pwrEn, resetN := resetN, perstN := perstN, eoffN := eoffN, mgr := mgr, slot := slot % 8, fold := fold % 4096 }
      let a : Aon := { up := true, vin := vin, pins := p, addr := some (0x60 + slot % 8), sdone := true, needCycle := !eoffN }
      ({ s with aon := a } : State).tryStart)

/-- The always-on supply is lost: everything is, but fuses and flash (R553, R554, R581). -/
def execAlwaysOnPowerLoss (s : State) : Host.Outcome State Fault Refusal := .next { s.mainOff false with aon := {} }

def execPwrEnAssert (s : State) : Host.Outcome State Fault Refusal :=
  .next (if s.aon.up then ({ s with aon.pins.pwrEn := true } : State).tryStart else s)

/-- Every rail is in regulation (step 3 of R589) (log 14: DEDUCED; log 93: DEDUCED). -/
def execRailsInRegulation (s : State) : Host.Outcome State Fault Refusal :=
  .next (if s.aon.starting ∨ (s.aon.mainOn ∧ !s.aon.pgood) then
      ({ s with aon := { s.aon with mainOn := true, starting := false, pgood := true, stby := false, eoff := false } } : State).tryRelease
    else s)

def execRailRegulationTimeout (domain : Nat) (s : State) : Host.Outcome State Fault Refusal :=
  done (if s.aon.starting then (s.raise { src := 0x76, detail := domain }).mainOff true else s)

/-- PWR_EN deasserted: chip reset, main conversion off, standby; HALT ends; a trip that has cooled ends (R581, R593, R594). -/
def State.pwrEnDeassert (s : State) : State :=
  let a := s.aon
  let s1 : State := { s with aon := { a with
    pins := { a.pins with pwrEn := false }, halt := false, cRst := if a.halt then 0 else a.cRst
    needCycle := a.needCycle && !a.pins.eoffN, ttrip := a.ttrip && a.sensorHot } }
  if s1.powered then s1.chipReset.mainOff false else s1

def execPwrEnDeassert (s : State) : Host.Outcome State Fault Refusal := .next (if s.aon.up && s.aon.pins.pwrEn then s.pwrEnDeassert else s)

/-! ### Pins (R592, R593, R588) -/

/-- A chip reset where the chip has power. -/
def State.pinReset (s : State) : State := if s.aon.mainOn then s.chipReset else s

def execResetNAssert (s : State) : Host.Outcome State Fault Refusal :=
  .next (if s.aon.up && s.aon.pins.resetN then
      let a := s.aon
      ({ s with aon := { a with pins := { a.pins with resetN := false }, halt := false, cRst := if a.halt then 0 else a.cRst } } : State).pinReset
    else s)

def execResetNDeassert (s : State) : Host.Outcome State Fault Refusal :=
  .next (if s.aon.up then ({ s with aon.pins.resetN := true } : State).tryRelease else s)

/-- The 1 ms of a chip reset without pin cause have passed. -/
def execChipResetHoldEnd (s : State) : Host.Outcome State Fault Refusal := .next ({ s with aon.holding := false } : State).tryRelease

def execPerstNAssert (s : State) : Host.Outcome State Fault Refusal :=
  .next (if s.aon.up && s.aon.pins.perstN then ({ s with aon.pins.perstN := false } : State).pinReset else s)

def execPerstNDeassert (s : State) : Host.Outcome State Fault Refusal :=
  .next (if s.aon.up then ({ s with aon.pins.perstN := true } : State).tryRelease else s)

def execEoffNAssert (s : State) : Host.Outcome State Fault Refusal :=
  done (if s.aon.up && s.aon.pins.eoffN then
      let s1 := ({ s with aon := { s.aon with pins := { s.aon.pins with eoffN := false }, needCycle := true } } : State).raise { src := 0x75 }
      if s.powered then { s1.mainOff true with aon.eoff := true } else s1
    else s)

def execEoffNDeassert (s : State) : Host.Outcome State Fault Refusal := .next (if s.aon.up then { s with aon.pins.eoffN := true } else s)

def execStrapChange (mgr : Bool) (slot fold : Nat) (s : State) : Host.Outcome State Fault Refusal :=
  .next (if s.aon.up then { s with aon.pins := { s.aon.pins with mgr := mgr, slot := slot % 8, fold := fold % 4096 } } else s)

/-! ### Boot (R522, R524) -/

/-- The copy of an image that runs: A, else B; the failed checks where both are rejected (log 83: DEDUCED). -/
def State.chooseImage (s : State) (kind : Nat) : RunImage ⊕ (Nat × Nat) :=
  let a := s.copyOf kind 0
  let b := s.copyOf kind 1
  if a.1 = 0 then .inl a.2 else if b.1 = 0 then .inl b.2 else .inr (a.1, b.1)

/-- The images in the order of R524; the first that both copies fail leads to recovery (log 83: DEDUCED). -/
def State.bootImages (s : State) : List Nat → State
  | [] =>
    (List.range 16).foldl (fun a n => a.detect n)
      { s.deriveAlias with
        chip.boot := .init
        chip.sram := some (Tab.get s.nv.flash .factory (if (s.copyOf 2 0).1 = 0 then 4 else 5)) }
  | k :: t =>
    match s.chooseImage k with
    | .inl im => ({ s with chip.enc.images := Tab.put s.chip.enc.images k im } : State).bootImages t
    | .inr f => ({ s with chip.boot := .recovery, chip.hif.fatal := true, chip.hif.fatalAt := s.aon.time } : State).raise
        { src := 0x07, detail := k, info := packInfo 0 [(1, f.1), (1, f.2)] }

def execEnclaveBootComplete (katOk : Bool) (s : State) : Host.Outcome State Fault Refusal :=
  done (if s.chip.boot ≠ .enclave then s
    else if !katOk then { s with chip.boot := .encHalt }
    else s.bootImages [1, 3, 2])

/-! ### Initialisation (R590, R256, R100) -/

/-- A stack trains: in start-up, in a block reset, or as it leaves OFF. -/
def State.trains (s : State) (st : Nat) : Bool :=
  s.chip.boot == .init || s.chip.fc.blk.contains (3, st) || s.chip.hif.running.any fun r => r.await == .force 1 st true

/-- A training attempt ends without success: one retry, then the stack is unavailable (log 10: DESIGN CHOICE; log 96: DEDUCED). -/
def State.trainingTimeout (s : State) (st step : Nat) : State :=
  let n := s.nmu st
  if !s.trains st || !n.avail then s
  else if n.tries = 0 then s.setNmu st { n with tries := 1 }
  else (s.setNmu st { n with tries := 0, avail := false }).raise { src := 0x40, unit := st, detail := 2, info := step }

def execStackTrainingTimeout (stack step : Nat) (s : State) : Host.Outcome State Fault Refusal :=
  done (if stack < 32 then s.trainingTimeout stack step else s)

/-- An engine of a core is tested: in start-up, in a block reset of the core or of an engine of it, or as the core leaves OFF. -/
def State.tests (s : State) (core : Nat) : Bool :=
  s.chip.boot == .init || s.chip.fc.blk.any (fun b => b == (1, core) || (b.1 == 2 && b.2 / 4 == core))
    || s.chip.hif.running.any fun r => r.await == .force 0 core true

/-- What the self-test of engine `g` found: defective rows and columns beyond the fused repair, and whether it ended in time
(log 94: DEDUCED). -/
def State.engineTested (s : State) (g rows cols : Nat) (ended : Bool) : State :=
  let core := g / 4
  let e := (s.core core).engine (g % 4)
  let f := Tab.get s.nv.repair (0, 0) g
  if 2304 ≤ g ∨ !s.tests core ∨ !e.present then s
  else
    let e1 : Eng := { e with srow := min rows (2 - f.1), scol := min cols (2 - f.2) }
    let cause := if !ended then 2 else if 2 - f.1 < rows ∨ 2 - f.2 < cols then 1 else 0
    let s1 := s.modCore core fun q => q.setEngine (g % 4) { e1 with present := cause == 0, cause := cause }
    if cause = 0 then s1 else s1.raise { src := 0x14, unit := g, detail := cause }

def execArraySelfTestComplete (found : List (Nat × Nat × Nat × Bool)) (s : State) : Host.Outcome State Fault Refusal :=
  done (found.foldl (fun a x => a.engineTested x.1 x.2.1 x.2.2.1 x.2.2.2) s)

def execDroverInitTimeout (s : State) : Host.Outcome State Fault Refusal :=
  done (if s.chip.boot = .init && !s.chip.hif.fatal then s.secondExpiry else s)

/-! ### READY (R590, R523, R542, R553) -/

/-- The fuse update: each count at least the MINSVN of the running image; measurement 5 changes with it (log 116: DESIGN CHOICE). -/
def State.fuseUpdate (s : State) : State :=
  let svn := [0, 1, 2].map fun k => max (s.nv.svn.getD k 0) ((Tab.look s.chip.enc.images (k + 1)).elim 0 (·.minsvn))
  if svn = s.nv.svn then s else ({ s with nv.svn := svn } : State).measured 5

/-- A function has a record held with I enabled (R553). -/
def State.heldIrq (s : State) (fn : Nat) : Bool :=
  s.chip.fc.recs.any fun r => r.react.testBit 0 && (fn == 0 || r.part == some (fn - 1))

/-- Every available stack zero, where a debug unlock has happened since the last start-up (R542). -/
def State.zeroUnlocked (s : State) : State :=
  if s.nv.unlocked then { s.zeroAllMemory with nv.unlocked := false } else s

def State.reachReady (s : State) : State :=
  let s1 := s.zeroUnlocked
  let s2 : State := { s1 with
    chip.nmus := s1.chip.nmus.map fun n => (n.1, { n.2 with tries := 0 })
    chip.boot := .ready, chip.hif.ready := true, chip.hif.readyAt := s1.aon.time
    aon.evt := s1.aon.evt ||| 2, aon.cRst := 0 }
  let s3 := (List.range 9).foldl (fun a fn => let b := a.setIsr fn isrReady; if a.heldIrq fn then b.setIsr fn isrFault else b) s2
  s3.fuseUpdate.pumpAll

def execReady (s : State) : Host.Outcome State Fault Refusal :=
  done (if s.chip.boot = .init ∧ s.chip.hif.configReady ∧ !s.chip.hif.fatal then s.reachReady else s)

/-! ### Boot flash (R601, R604) -/

/-- Copy B has been programmed and read back, or copy A programmed from it. A crash capture goes first. -/
def execFlashProgrammingComplete (s : State) : Host.Outcome State Fault Refusal :=
  done (match s.aon.fw with
    | some w => if s.aon.capture then s else s.fwStep w
    | none => s)

def execCrashCaptureComplete (s : State) : Host.Outcome State Fault Refusal :=
  .next (if s.aon.capture then { s with aon.capture := false, nv.dump := some (s.nv.dump.elim 0 (· + 1)) } else s)

end Sys2Proof.Machine
end

