-- ==== Sys2Proof/Machine/Sideband.lean ====
section
/-! DEFINITION. The sideband: register transactions (R595 to R598), the mailbox (R599 to R601, R604), MCTP (R602). In every row `ok`
says that the PEC and the byte count of a write are right. -/

namespace Sys2Proof.Machine

open Sys2Proof

/-! ### Registers -/

def execSbSetReadPointer (off : Nat) (ok : Bool) (s : State) : Host.Outcome State Fault Refusal :=
  .next (s.sbWrite ok { s with aon.rdPtr := off % 65536 })

/-- The register at the read pointer; an offset that is not listed reads zero and is reported (R15, R597) (log 74: DESIGN CHOICE). -/
def execSbRegisterRead (s : State) : Host.Outcome State Fault Refusal :=
  done (if !s.aon.answers then s
    else match s.sbReg s.aon.rdPtr with
      | some v => s.send (.smbus (leBytes 4 v))
      | none => s.unmapped 9 s.aon.rdPtr 4 false)

def execSbMbLenWrite (v : Nat) (ok : Bool) (s : State) : Host.Outcome State Fault Refusal :=
  .next (s.sbWrite ok (if s.aon.mb.busy then s.mbErr else { s with aon.mb.len := v % 2 ^ 32 }))

def execSbEvtClear (v : Nat) (ok : Bool) (s : State) : Host.Outcome State Fault Refusal :=
  .next (s.sbWrite ok { s with aon.evt := s.aon.evt &&& (0x1F - v % 32) })

/-- SMBALERT_N is asserted. -/
def Aon.alert (a : Aon) : Bool := a.evt &&& (0x1F - a.emask % 32) != 0

/-- The answer to the Alert Response Address: the module's own address in bits 7:1 (log 75: PRESUMED). -/
def execSmbusAlertResponse (s : State) : Host.Outcome State Fault Refusal :=
  .next (if s.aon.answers && s.aon.alert then s.send (.smbus [BitVec.ofNat 8 (2 * s.aon.addr.getD 0)]) else s)

/-! ### Mailbox words -/

/-- A word for the mailbox: taken by a firmware write that still wants words, refused otherwise (log 73: DEDUCED). A write that runs
pauses while a crash is captured, and takes no word (R613). -/
def State.mbWrite (s : State) (v : Nat) : State :=
  match s.aon.fw with
  | some w =>
    if s.aon.capture && s.aon.mb.busy && w.host.isNone then s
    else if s.aon.mb.busy && w.host.isNone && decide (w.bytes.length < w.len) then
      ({ s with aon.mb.data_ := BitVec.ofNat 32 v } : State).fwMore w (leBytes 4 v)
    else s.mbErr
  | none => s.mbErr

def execSbMbDataWrite (v : Nat) (ok : Bool) (s : State) : Host.Outcome State Fault Refusal := done (s.sbWrite ok (s.mbWrite v))

/-- The next word of an operation that returns data; the last one ends it. -/
def execSbMbDataRead (s : State) : Host.Outcome State Fault Refusal :=
  .next (if !s.aon.answers then s
    else match s.aon.mb.data with
      | [] => s.send (.smbus (leBytes 4 0xFFFFFFFF))
      | w :: t =>
        let s1 := ({ s with aon.mb := { s.aon.mb with data := t, data_ := w } } : State).send (.smbus (leBytes 4 w.toNat))
        if t.isEmpty then s1.sbEnd .ok else s1)

/-- An operation that returns words begins: LEN tells their bytes. -/
def State.sbSupply (s : State) (ws : List Word) : State :=
  let s1 : State := { s with aon.mb := { s.aon.mb with len := 4 * ws.length, data := ws } }
  if ws.isEmpty then s1.sbEnd .ok else s1

/-- `n` words of content the spec does not state. -/
def State.freeWords (s : State) (place n : Nat) : State × List Word :=
  let d := s.draw place
  (d.1, (List.range n).map fun i => BitVec.ofNat 32 (d.2 / 2 ^ (32 * i)))

/-! ### Mailbox operations (R600) -/

def execFwWrite (kind : Nat) (ok : Bool) (s : State) : Host.Outcome State Fault Refusal :=
  done (s.sbGo ok 1 (kind % 256) fun a =>
    if !(fwKindOk (kind % 256) && fwLenOk (kind % 256) a.aon.mb.len) then a.sbEnd .argRange
    else if a.aon.fw.isSome || a.aon.capture then a.sbEnd .busy
    else { a with aon.fw := some { kind := kind % 256, host := none, len := a.aon.mb.len } })

/-- Words of the log: the spec gives it no content (log 15: DEDUCED; log 76: DESIGN CHOICE). -/
def State.logWords (s : State) : State × List Word := let d := s.draw 14; d.1.freeWords 15 (d.2 % 2 ^ 30)

def execSbLogRead (ok : Bool) (s : State) : Host.Outcome State Fault Refusal :=
  done (s.sbGo ok 2 0 fun a =>
    if !a.chip.hif.ready || a.chip.hif.fatal then a.sbEnd .state else a.logWords.1.sbSupply a.logWords.2)

/-- The summary, and at a debug level of 1 or above the 8 MiB after it (R604) (log 76: DESIGN CHOICE). -/
def execDumpRead (ok : Bool) (s : State) : Host.Outcome State Fault Refusal :=
  done (s.sbGo ok 3 0 fun a =>
    if a.nv.dump.isNone then a.sbEnd .state
    else
      let r := a.freeWords 16 (if 1 ≤ a.chip.enc.dbg then 2 ^ 21 + 1024 else 1024)
      r.1.sbSupply r.2)

def execDumpClear (ok : Bool) (s : State) : Host.Outcome State Fault Refusal :=
  done (s.sbGo ok 4 0 fun a => ({ a with nv.dump := none } : State).sbEnd .ok)

/-- The 512 bytes of the persistent store as words. -/
def Aon.storeWords (a : Aon) : List Word :=
  let d := slice (a.store.flatMap FaultRec.bytes) 0 512
  (List.range 128).map fun i => BitVec.ofNat 32 (num d (4 * i) 4)

def execFstoreRead (ok : Bool) (s : State) : Host.Outcome State Fault Refusal :=
  done (s.sbGo ok 5 0 fun a => a.sbSupply a.aon.storeWords)

/-- DONE and OK, then the chip reset of R592. -/
def execChipReset (ok : Bool) (s : State) : Host.Outcome State Fault Refusal :=
  done (s.sbGo ok 6 0 fun a => (a.sbEnd .ok).pinReset)

/-- The running operation ended before its time; a firmware write leaves copy B as R601 says. -/
def State.sbCut (s : State) (st : Status) : State :=
  match s.aon.fw with
  | some w => if w.host.isNone then (if w.copyA then s else s.fwEnd w st 0) else s.sbEnd st
  | none => s.sbEnd st

/-- A write `v` to SB_MB_CTL with ABORT set (none: the transaction fails): OP and ARG are stored, the running operation ends. GO in the same write while an
operation runs is ignored and sets MBERR; with none running it starts nothing (log 131: DESIGN CHOICE). -/
def execSbMbAbort (v : Option Nat) (s : State) : Host.Outcome State Fault Refusal :=
  .next (s.sbWrite v.isSome (
    let v := v.getD 0
    let s1 : State := { s with aon.mb := { s.aon.mb with op := v % 256, arg := v / 256 % 256 } }
    if s.aon.mb.busy then (if v.testBit 31 then s1.mbErr else s1).sbCut .aborted else s1))

/-- No word has moved for 10 s; the timeout of a firmware write is suspended while a crash is captured (R599, R613). -/
def execSbMbWordTimeout (s : State) : Host.Outcome State Fault Refusal :=
  .next (if s.aon.mb.busy && s.sbCnt != 0 && !(s.aon.capture && s.aon.fw.isSome) then s.sbCut .timeout else s)

/-! ### MCTP (R602): the messages have the form of DSP0236 -/

/-- A control response: the instance of its request, command, completion code, data (log 75: PRESUMED). -/
def State.mctpAnswer (s : State) (inst cmd code : Nat) (data : List Byte) : State :=
  s.send (.mctp ([0#8] ++ leBytes 1 inst ++ leBytes 1 cmd ++ leBytes 1 code ++ data))

/-- The module answers on the sideband: the control commands of MCTP (log 75: PRESUMED). -/
def State.mctpControl (s : State) (cmd arg : Nat) (inst : Nat := 0) : State :=
  if !s.aon.answers then s
  else if cmd = 1 then
    if arg % 256 = 0 ∨ arg % 256 = 0xFF then s.mctpAnswer inst 1 2 []
    else ({ s with aon.eid := arg % 256 } : State).mctpAnswer inst 1 0 (leBytes 1 0 ++ leBytes 1 arg ++ leBytes 1 0)
  else if cmd = 2 then s.mctpAnswer inst 2 0 (leBytes 1 s.aon.eid ++ leBytes 2 0)
  else if cmd = 3 then s.mctpAnswer inst 3 0 (beBytes 16 devuid)
  else if cmd = 4 then let d := s.draw 17; d.1.mctpAnswer inst 4 0 (leBytes 1 1 ++ leBytes 4 d.2)
  else if cmd = 5 then s.mctpAnswer inst 5 0 (leBytes 1 3 ++ leBytes 1 0x00 ++ leBytes 1 0x05 ++ leBytes 1 0x06)
  else s.mctpAnswer inst cmd 5 []

def execSetEndpointId (eid : Nat) (s : State) : Host.Outcome State Fault Refusal := .next (s.mctpControl 1 eid)
def execGetEndpointId (s : State) : Host.Outcome State Fault Refusal := .next (s.mctpControl 2 0)
def execGetEndpointUuid (s : State) : Host.Outcome State Fault Refusal := .next (s.mctpControl 3 0)
def execGetMctpVersionSupport (s : State) : Host.Outcome State Fault Refusal := .next (s.mctpControl 4 0)
def execGetMessageTypeSupport (s : State) : Host.Outcome State Fault Refusal := .next (s.mctpControl 5 0)

/-- A whole message: control messages are answered, those of types 5 and 6 go to the SPDM responder where the enclave runs. -/
def State.mctpMessage (s : State) (msg : List Byte) (opens ends : Option Nat) : State :=
  let ty := num msg 0 1 % 128
  if ty = 0 then s.mctpControl (num msg 2 1) (num msg 4 1) (num msg 1 1 % 32)
  else if (ty = 5 ∨ ty = 6) ∧ (s.chip.boot = .init ∨ s.chip.boot = .ready) then
    let r := if ty = 5 then s.spdmAnswer 9 msg.tail else s.answerBytes
    (r.1.spdmSessions 9 opens ends).send (.mctp (leBytes 1 ty ++ r.2))
  else s

/-- A packet of at most 64 bytes with its start and end flags: a message is assembled up to 4,160 bytes. `opens` and `ends` are the sessions that an
SPDM message establishes or ends. -/
def execMctpPacket (som eom : Bool) (body : List Byte) (opens ends : Option Nat) (ok : Bool) (s : State) : Host.Outcome State Fault Refusal :=
  done (s.sbWrite ok (
    let msg := if som then body else s.aon.mctp ++ body
    if (!som && s.aon.mctp.isEmpty) || decide (4160 < msg.length) || decide (64 < body.length) then { s with aon.mctp := [] }
    else if eom then ({ s with aon.mctp := [] } : State).mctpMessage msg opens ends
    else { s with aon.mctp := msg }))

def execMctpReassemblyTimeout (s : State) : Host.Outcome State Fault Refusal := .next { s with aon.mctp := [] }

end Sys2Proof.Machine
end

