-- ==== Sys2Proof/Machine/Tap.lean ====
section
/-! DEFINITION. The test access port and the boundary register of 321 cells (R605). -/

namespace Sys2Proof.Machine

open Sys2Proof

/-- The test instructions act: RESET_N and PWR_GOOD are both asserted. -/
def Aon.tapActs (a : Aon) : Bool := !a.pins.resetN && a.pgood

/-- The instruction register loaded (log 114: DEDUCED). -/
def State.tapLoad (s : State) (ir : Nat) : State := if s.aon.up then { s with aon.tapIr := ir } else s

/-- The boundary register as it is captured: `cells` are the levels at the pins; the output cells of PWR_GOOD, FAULT_N, THERMTRIP_N and
SMBALERT_N, after 288 lanes and 21 observe cells, hold what the module gives out. -/
def Aon.captured (a : Aon) (cells : List Bool) : List Bool :=
  (((cells.set 309 a.pgood).set 311 (!a.fnOn)).set 313 (!a.ttrip)).set 315 (!a.alert)

/-- The boundary register captured, shifted out and loaded. -/
def State.scan (s : State) (cells load : List Bool) : State :=
  if s.aon.up && cells.length == 321 && load.length == 321 then ({ s with aon.bscan := load } : State).send (.scan (s.aon.captured cells)) else s

def execSamplePreload (cells load : List Bool) (s : State) : Host.Outcome State Fault Refusal := .next ((s.tapLoad 0x01).scan cells load)

/-- A test of the pins or lanes: the boundary register drives while the instruction acts; else it is as BYPASS. -/
def State.extest (s : State) (ir : Nat) (cells load : List Bool) : State :=
  if s.aon.tapActs then (s.tapLoad ir).scan cells load else s.tapLoad ir

def execExtest (cells load : List Bool) (s : State) : Host.Outcome State Fault Refusal := .next (s.extest 0x02 cells load)
def execClamp (s : State) : Host.Outcome State Fault Refusal := .next (s.tapLoad 0x03)
def execHighz (s : State) : Host.Outcome State Fault Refusal := .next (s.tapLoad 0x04)
def execExtestPulse (cells load : List Bool) (s : State) : Host.Outcome State Fault Refusal := .next (s.extest 0x05 cells load)
def execExtestTrain (cells load : List Bool) (s : State) : Host.Outcome State Fault Refusal := .next (s.extest 0x06 cells load)

/-- BYPASS: also every opcode that is not listed. -/
def execBypass (s : State) : Host.Outcome State Fault Refusal := .next (s.tapLoad 0xFF)

/-- A private instruction is served at debug level 2 alone; what it does there the spec does not say (log 114: DEDUCED). -/
def execTapPrivateInstruction (opcode : Nat) (s : State) : Host.Outcome State Fault Refusal :=
  .next (s.tapLoad (if 0x80 ≤ opcode ∧ opcode ≤ 0xFE ∧ s.chip.enc.dbg = 2 then opcode else 0xFF))

def execTapReset (s : State) : Host.Outcome State Fault Refusal := .next (s.tapLoad 0xFF)

/-- What the TAP does to the outputs: 0 nothing, 1 driven from the boundary register, 2 high impedance. -/
def Aon.tapDrives (a : Aon) : Nat :=
  if !a.tapActs then 0 else if a.tapIr = 4 then 2 else if a.tapIr = 2 ∨ a.tapIr = 3 ∨ a.tapIr = 5 ∨ a.tapIr = 6 then 1 else 0

end Sys2Proof.Machine
end

