-- ==== Sys2Proof/Machine/Completions.lean ====
section
/-! DEFINITION. Events that complete running commands: zeroing (R263, R169, R541), regeneration of working copies (R316). -/

namespace Sys2Proof.Machine

open Sys2Proof

/-! ### Zeroing -/

/-- The zeroing that the running command of acceptance number `seq` waits for has ended (log 24: DEDUCED; log 28: DEDUCED). -/
def State.zeroingComplete (s : State) (seq : Nat) : State :=
  match s.chip.hif.running.find? fun r => r.seq == seq with
  | none => s
  | some r =>
    let ends (a : State) : State := a.answerRun (fun x => x.seq == seq) .ok
    match r.await with
    | .newSeg ctx id g => ends (s.addSegment ctx id g)
    | .newLayout e => ends ((setBits 8 e).foldl State.zeroEighth s)
    | .zeroise level => s.openDebug level
    | _ => s

def execZeroingComplete (seq : Nat) (s : State) : Host.Outcome State Fault Refusal := done (s.zeroingComplete seq)

/-! ### Regeneration (R316) -/

/-- A state-load or weight-import waits to regenerate the copies of a group. -/
def isLoad (st gid : Nat) (w : Await) : Bool := match w with
  | .load a b _ _ => a == st && b == gid
  | _ => false

/-- Tiles out of both version slots. -/
def Group.outstanding (g : Group) : Nat := g.v0.count + g.v1.count

/-- The epoch that a running state-load of a group gives its set. -/
def State.loadEpoch (s : State) (st gid : Nat) : Option Nat :=
  s.chip.hif.running.findSome? fun r => match r.await with
    | .load a b _ e => if a = st ∧ b = gid then e else none
    | _ => none

/-- The working copies written, for the epoch of a state-load or else of the set, into the CURRENT slot, or slot 0; the other slot
becomes FREE. An uncorrectable sector in W or in the slot ends the command with INTEGRITY. -/
def State.regenerate (s : State) (st gid : Nat) (g : Group) : State :=
  let ep := (s.loadEpoch st gid).getD (((s.set? (ctxPart g.ctx) g.set).map (·.epoch)).getD 0)
  let v := if g.v1.st = .current then 1 else 0
  let x := s.serveAll.stackRead (s.stateKey g g.cur 0) (4 * g.nr * g.nc) false
  if x.2 then x.1.answer (isLoad st gid) .integrity
  else
    let w := (List.range g.nt).foldl (fun (a : State × Bool) t =>
      if a.2 then a else a.1.writeCopies g v t ep fun i j => x.1.word (s.stateKey g g.cur 0) (i * g.nc + j)) (x.1, false)
    if w.2 then w.1.answer (isLoad st gid) .integrity
    else (w.1.modGroup st gid fun y => (y.setSlot v { st := .current, epoch := ep }).setSlot (1 - v) {}).answer (isLoad st gid) .ok

def State.regenerationComplete (s : State) (st gid : Nat) : State :=
  match s.group? st gid with
  | some g => if g.outstanding = 0 ∧ s.chip.hif.running.any (fun r => isLoad st gid r.await) then s.regenerate st gid g else s
  | none => s

def execRegenerationComplete (stack gid : Nat) (s : State) : Host.Outcome State Fault Refusal := done (s.regenerationComplete stack gid)

def State.regenerationTimeout (s : State) (st gid : Nat) : State :=
  match s.group? st gid with
  | some g =>
    if g.outstanding = 0 ∨ !s.chip.hif.running.any (fun r => isLoad st gid r.await) then s
    else
      (s.raise { src := 0x43, unit := st, ctx := some g.ctx, detail := g.set, info := packInfo 0 [(2, gid), (4, g.outstanding)] }).answer
        (isLoad st gid) .timeout
  | none => s

def execRegenerationTimeout (stack gid : Nat) (s : State) : Host.Outcome State Fault Refusal := done (s.regenerationTimeout stack gid)

end Sys2Proof.Machine
end

