-- ==== Sys2Proof/Machine/Contexts.lean ====
section
/-! DEFINITION. Timers and ends of whole contexts: dependency timeout (R222, R223), stop and its deadlines (R466, R467), the end of
a teardown (R471). -/

namespace Sys2Proof.Machine

open Sys2Proof

/-! ### Blocked waits (R222) -/

/-- A blocked wait of a context on a core: its counter, threshold and value, if it waits for one. -/
def State.blockedWait (s : State) (core ctx kind which : Nat) : Option (Nat × Word) :=
  let q := s.core core
  let arm := ((q.slot? which).bind fun sl => if sl.ctx = ctx then sl.cur else none).bind fun a => if a.effect then some a else none
  match kind with
  | 1 =>
    match q.oldest ctx with
    | none => none
    | some (_, t) =>
      let w := waitOf t.desc (which % 2)
      if w.1 && !waitMet (s.counterOf ctx core w.2.1) w.2.2 then some (w.2.1, w.2.2) else none
  | 2 => arm.bind fun a =>
    if adSwen a.desc && !a.started && !waitMet (s.counterOf ctx core (adSwidx a.desc)) (adSwval a.desc) then
      some (adSwidx a.desc, adSwval a.desc) else none
  | 3 => arm.bind fun a =>
    let k := if adKind a.desc = 6 then a.credited else a.next
    if a.started && decide (k < adNtile a.desc) && !s.slotReady core ctx a k then
      some (adScidx a.desc, adScbase a.desc + BitVec.ofNat 32 k) else none
  | 4 => arm.bind fun a =>
    if adKind a.desc == 5 && a.started && decide (a.next < adNtile a.desc) && (s.mcastReady core ctx a == .wait || !s.creditsOk core a a.next)
    then some (0, 0) else none
  | _ => none

/-- DTMO of a blocked wait (`kind` 1 task, 2 start, 3 slot, 4 multicast; `which` the wait or the stream): the stream-deadlock
fault, and teardown. A multicast wait has no counter: its index, threshold and value read 0 (log 158: DESIGN CHOICE). The timer is frozen
while the context is not ACTIVE, or in error stop. -/
def execDependencyTimeout (core ctx kind which : Nat) (s : State) : Host.Outcome State Fault Refusal :=
  done (match s.ctx? ctx, s.blockedWait core ctx kind which with
    | some c, some (i, t) =>
      if c.st ≠ .active ∨ c.estop ∨ !s.coreInPart (ctxPart ctx) core then s
      else
        let v := if kind = 4 then 0#32 else s.counterOf ctx core i
        (s.raise { src := 0x30, unit := core, ctx := some ctx, detail := kind, info := packInfo 0 [(1, i), (4, t.toNat), (4, v.toNat)] }).teardown ctx false
    | _, _ => s)

/-! ### Stops (R466, R467) -/

/-- A context that is stopping. -/
def State.isStopping (s : State) (ctx : Nat) : Bool := (s.ctx? ctx).elim false (·.st == .stopping)

def execPreemptionDeadline (ctx : Nat) (s : State) : Host.Outcome State Fault Refusal :=
  done (if s.isStopping ctx then (s.ctxCores ctx).foldl (fun a k => a.deadlineOn ctx k) s else s)

def execContextStopped (ctx : Nat) (s : State) : Host.Outcome State Fault Refusal :=
  done (if s.isStopping ctx && s.quiet ctx then s.becomeStopped ctx else s)

/-- A core on which a stopping context is not quiet, with a task that runs there. -/
def State.stuckOn (s : State) (ctx : Nat) : Option (Nat × Nat) :=
  ((s.ctxCores ctx).find? fun k => (s.core k).runs ctx || (s.core k).holdsTag ctx).map fun k =>
    (k, (((s.core k).queue.find? fun t => t.ctx == ctx && (t.stage == .running || t.stage == .stopping)).map fun t => taskId t.desc).getD 0)

/-- The stop limit passes: the stop-timeout fault, the command's end, teardown. -/
def execStopTimeout (ctx : Nat) (s : State) : Host.Outcome State Fault Refusal :=
  done (match s.isStopping ctx, s.stuckOn ctx with
    | true, some (k, tid) =>
      ((s.raise { src := 0x17, unit := k, ctx := some ctx, info := tid }).answer (fun w => w == .stop ctx) .timeout).teardown ctx false
    | _, _ => s)

/-! ### Teardown (R471, R475) -/

def execTeardownComplete (ctx : Nat) (s : State) : Host.Outcome State Fault Refusal := done (s.teardownDone ctx)

end Sys2Proof.Machine
end

