-- ==== Sys2Proof/Machine/Fabric.lean ====
section
/-! DEFINITION. The packets that reach this module (R403 to R405, R411 to R419), the routing of the others (R397, R399) and the
progress timeout (R418). -/

namespace Sys2Proof.Machine

open Sys2Proof

/-! ### Remote memory (R403 to R405) -/

/-- A request accepted at a window: its context and the CVA of its first byte. -/
def State.windowCtx (s : State) (p : List Byte) : Option (Window × Context) :=
  (s.window? (pkRwin p)).bind fun w => (s.ctx? w.ctx).map fun c => (w, c)

/-- The port whose PRU or counters a packet's event names: the one it came by, or the partition's first for the mesh (log 118: DEDUCED). -/
def State.eventPort (s : State) (n part : Nat) : Nat := if n < 16 then n else (s.partPorts part).headD 0

/-- A PUT written and acknowledged, or answered with a NACK. Check 5 raises the header fault at the port: check 1 of R57 (R59)
(log 59: DEDUCED). -/
def State.putIn (s : State) (n : Nat) (p : List Byte) : State :=
  match s.windowCheck p (pkLen p), s.windowCtx p with
  | none, some (w, c) =>
    let pay := if pkHdr p then arriveHeader (slice p 32 16) w.ctx ++ slice p 48 (pkLen p - 16) else pkPayload p
    let x := s.writeCva c (w.cbase + pkOffset p) pay
    if x.2 then x.1.nack p 6 else x.1.answerPacket p 0x03 (b2n (pkHdr p) * 16) []
  | some 5, some (w, _) =>
    let unit := s.eventPort n (ctxPart w.ctx)
    (s.raise { src := 0x10, unit := unit, ctx := some w.ctx, detail := 1, info := w.cbase + pkOffset p, ukind := some 4 }).nack p 5
  | some k, _ => s.nack p k
  | none, none => s.nack p 1

def execPut (port vc : Nat) (s : State) : Host.Outcome State Fault Refusal :=
  done (s.receive port vc (· == 1) fun p a => a.putIn port p)

/-- A GET_REQ answered with its data, or a NACK. -/
def State.getIn (s : State) (p : List Byte) : State :=
  match s.windowCheck p (pkGlen p), s.windowCtx p with
  | none, some (w, c) =>
    let x := s.readCva c (w.cbase + pkOffset p) (pkGlen p)
    if x.2.1 then x.1.nack p 6 else x.1.answerPacket p 0x04 (b2n (pkHdr p) * 16) x.2.2
  | some k, _ => s.nack p k
  | none, none => s.nack p 1

def execGetReq (port vc : Nat) (s : State) : Host.Outcome State Fault Refusal :=
  done (s.receive port vc (· == 2) fun p a => a.getIn p)

/-- An answer reaches the stream engine of the core that asked. -/
def State.answerIn (s : State) (p : List Byte) (data : List Byte) (st : Status) (detail : Nat) : State :=
  if 576 ≤ pkScore p then s
  else s.takeResp { core := pkScore p, sid := pkFlow p % 32, tag := pkTag p, gen := pkGen p, data := data, status := st, detail := detail }

def execPutAck (port vc : Nat) (s : State) : Host.Outcome State Fault Refusal :=
  done (s.receive port vc (· == 3) fun p a => a.answerIn p [] .ok 0)

/-- A GET_RSP's data, its header's CTX rewritten to the context of the requesting arm (R405). -/
def State.getRspIn (s : State) (p : List Byte) : State :=
  let ctx := ((s.core (pkScore p)).tag (pkTag p)).req.elim 0 (·.ctx)
  let pay := pkPayload p
  s.answerIn p (if pkHdr p then arriveHeader (slice pay 0 16) ctx ++ pay.drop 16 else pay) .ok 0

def execGetRsp (port vc : Nat) (s : State) : Host.Outcome State Fault Refusal :=
  done (s.receive port vc (· == 4) fun p a => a.getRspIn p)

def execNack (port vc : Nat) (s : State) : Host.Outcome State Fault Refusal :=
  done (s.receive port vc (· == 5) fun p a => if pkStatus p = 6 then a.answerIn p [] .integrity 17 else a.answerIn p [] .denied 22)

/-! ### Collectives (R411 to R419) -/

/-- The collective a packet belongs to. -/
def State.collOf (s : State) (p : List Byte) : Option (Coll × Member) :=
  (s.coll? (pkDpart p) (pkJob p) (pkColl p)).bind fun x => (s.member? x.part x.job).map fun m => (x, m)

/-- A packet of a collective: dropped and counted without one that runs, ending it where the digests differ (R418, R419); a RED, DLV or
REP that is no chunk of it is dropped and counted (R395, R396). -/
def State.collPacket (s : State) (n : Nat) (p : List Byte) (act : Coll → Member → State → State) : State :=
  match s.collOf p with
  | none => s.portCount n fun q => { q with stale := satAdd 32 q.stale 1 }
  | some (x, m) =>
    if pkDdig p ≠ ddig x.desc then
      (s.raise { src := 0x55, unit := s.eventPort n x.part, detail := x.job, ctx := some (cdCtx x.desc)
                 info := packInfo 0 [(2, cdColl x.desc), (2, ddig x.desc), (2, pkDdig p)] }).endColl x .integrity 24
    else if pkType p ≤ 8 ∧ !chunkOk x.desc (pkTile p) (pkChunk p) (pkLen p) then s.portCount n fun q => { q with badpkt := satAdd 32 q.badpkt 1 }
    else act x m s

/-- Chunks parked at the PRU that adds tile `t` (R413) (log 119: DESIGN CHOICE). -/
def State.parkedAt (s : State) (x : Coll) (t : Nat) : Nat :=
  let n := max 1 (s.partPorts x.part).length
  (x.parked.filter fun q => q.1 / 2 ^ 24 % n == t % n).length

/-- The PRU of the head packet's tile has a chunk place, or the packet needs none (log 119: DESIGN CHOICE). -/
def State.pruRoom (s : State) (n vc : Nat) : Bool :=
  match (s.headPacket n vc).bind fun p => (s.collOf p).map fun x => (p, x.1) with
  | some (p, x) => decide (s.parkedAt x (pkTile p) < 1024)
  | none => true

/-- A chunk parked, and its tile's steps taken as far as they are ready (log 119: DESIGN CHOICE). -/
def State.parkChunk (s : State) (x : Coll) (m : Member) (p : List Byte) : State :=
  let from_ := if pkStage p = 0 then pkScore p / 72 else 0
  let x1 := { x with parked := x.parked ++ [(pkTile p * 2 ^ 24 + pkChunk p, pkStage p, from_, pkPayload p, pkFlags p)] }
  let r := s.advance x1 m (pkTile p) (pkChunk p) 16
  let q := r.1.drive r.2 m (x1.progs.length + 1)
  q.1.putColl q.2

def execRed (port vc : Nat) (s : State) : Host.Outcome State Fault Refusal :=
  done (if s.pruRoom port vc then s.receive port vc (· == 6) fun p a => a.collPacket port p fun x m b => b.parkChunk x m p else s)

/-- The window checks of a delivery: those of R403 over the whole tile; a REP carries no window, and the descriptor's receives it
(log 59: DEDUCED). -/
def State.deliveryCheck (s : State) (x : Coll) (p : List Byte) : Option Nat :=
  let q := overlay p 16 (leBytes 6 (cdOffset x.desc (pkTile p)))
  s.windowCheck (if pkType p = 0x07 then q else overlay q 22 (leBytes 1 (cdRwin x.desc))) (16 + cdPayload x.desc)

/-- A chunk delivered at the receiver's window; a failed check ends the collective, and a DLV is answered with a NACK
(R403, R414, R418) (log 59: DEDUCED; log 130: DEDUCED). -/
def State.deliverIn (s : State) (x : Coll) (p : List Byte) (flags : Nat) : State :=
  match s.deliveryCheck x p, s.window? (if pkType p = 0x07 then pkRwin p else cdRwin x.desc) with
  | none, some w => let r := s.deliver x w (pkTile p) (pkChunk p) flags (pkPayload p); r.1.putColl r.2
  | k, _ => (if pkType p = 0x07 then s.nack p (k.getD 1) else s).endColl x .denied 27

def execDlv (port vc : Nat) (s : State) : Host.Outcome State Fault Refusal :=
  done (s.receive port vc (· == 7) fun p a => a.collPacket port p fun x _ b => b.deliverIn x p (pkFlags p))

/-- Level at which a module got a replicated chunk (R415): 4 on the rail, else that of the group whose other half sent it. -/
def Member.gotLevel (m : Member) (stage ss : Nat) : Nat :=
  if stage = 6 then 4
  else
    let e := m.own
    let sl := e.2.2.1
    ((List.range 3).map (· + 1)).find? (fun l => holder (m.slotsOf e.2.2.2) ss l (sl / 2 ^ l) != some sl) |>.getD 1

/-- A REP delivered locally and forwarded. -/
def State.repIn (s : State) (x : Coll) (m : Member) (p : List Byte) : State :=
  let sup := m.entry (cdOwner x.desc (pkTile p))
  let ss := sup.2.2.1
  let s1 := if pkStage p = 0 then s
    else s.spreadChunk x m 0x08 sup.2.2.2 ss (m.gotLevel (pkStage p) ss) (pkTile p) (pkChunk p) (pkPayload p)
  s1.deliverIn x p 0

def execRep (port vc : Nat) (s : State) : Host.Outcome State Fault Refusal :=
  done (s.receive port vc (· == 8) fun p a => a.collPacket port p fun x m b => b.repIn x m p)

def execBar (port vc : Nat) (s : State) : Host.Outcome State Fault Refusal :=
  done (s.receive port vc (· == 9) fun p a => a.collPacket port p fun x m b => b.parkChunk x m p)

/-- BAR_REL completes the barrier here and goes on; it set out from slot 0's holder of the last fold (R416). -/
def State.barRelIn (s : State) (x : Coll) (m : Member) (p : List Byte) : State :=
  let s1 := if pkStage p = 0 then s else s.spreadChunk x m 0x0A (m.folds.getLastD 0) 0 (m.gotLevel (pkStage p) 0) 0 0 []
  s1.putColl { x with bar := true }

def execBarRel (port vc : Nat) (s : State) : Host.Outcome State Fault Refusal :=
  done (s.receive port vc (· == 10) fun p a => a.collPacket port p fun x m b => b.barRelIn x m p)

/-- CTMO passes without progress (R418). -/
def execCollectiveTimeout (part job coll : Nat) (s : State) : Host.Outcome State Fault Refusal :=
  done (match s.coll? part job coll with
    | none => s
    | some x => (s.raise { src := 0x54, unit := s.eventPort 16 part, detail := job, ctx := some (cdCtx x.desc), info := coll }).endColl x .timeout 25)

/-! ### Routing (R397, R399) -/

/-- A packet put in the output queue of its route. -/
def State.enqueuePacket (s : State) (out cls hops counts : Nat) (p : List Byte) : State :=
  let q := reheader p hops cls
  s.modPort out fun r => let v := vcOf (pkType p) cls; { r with outq := Tab.set r.outq [] v (Tab.get r.outq [] v ++ [(counts, q)]) }

/-- A transit packet at the head of a channel is routed on, or dropped and counted. -/
def State.forwardTransit (s : State) (n vc : Nat) : State :=
  match s.headPacket n vc with
  | none => s
  | some p =>
    if some (pkDst p) = s.chip.devid then s
    else
      let s1 := s.takePacket n vc p
      match s1.route (some n) p with
      | none => s1.portCount n fun q => { q with unroute := satAdd 32 q.unroute 1 }
      | some (out, cls) =>
        if pkHops p = 31 then s1.portCount n fun q => { q with lifedrop := satAdd 32 q.lifedrop 1 }
        else (s1.portCount n fun q => { q with transit := satAdd 32 q.transit 1 }).enqueuePacket out cls (pkHops p + 1) n p

/-- The oldest packet of a channel that originated here takes its route, whose port counts a NACK; without one it is dropped and
counted (R399, R421). -/
def State.forwardOwn (s : State) (vc : Nat) : State :=
  match s.chip.orig.find? fun p => some (pkDst p) != s.chip.devid && vcOf (pkType p) (pkCls p) == vc with
  | none => s
  | some p =>
    let s1 : State := { s with chip.orig := s.chip.orig.erase p }
    match s1.route none p with
    | none => s1.portCount (s.lostPort p) fun q => { q with unroute := satAdd 32 q.unroute 1 }
    | some (out, cls) => (if pkType p = 5 then s1.portCount out fun q => { q with nacks := satAdd 32 q.nacks 1 } else s1).enqueuePacket out cls (pkHops p) out p

def execPacketForward (port vc : Nat) (s : State) : Host.Outcome State Fault Refusal :=
  done (if port < 16 then s.forwardTransit port vc else s.forwardOwn vc)

/-- The oldest packet of an output queue has waited 1 ms (R397). -/
def State.dropQueued (s : State) (port vc : Nat) : State :=
  if 16 ≤ port then s
  else match Tab.get (s.port port).outq [] vc with
    | [] => s
    | (n, _) :: t =>
      (s.modPort port fun q => { q with outq := Tab.set q.outq [] vc t }).portCount n fun q => { q with lifedrop := satAdd 32 q.lifedrop 1 }

def execPacketQueueTimeout (port vc : Nat) (s : State) : Host.Outcome State Fault Refusal := done (s.dropQueued port vc)

end Sys2Proof.Machine
end

