-- ==== Sys2Proof/WellFormed.lean ====
section
/-! DEFINITION. Which commands are well formed: every operand fits the field, or names one of the units, that the spec gives it.
Whether a well-formed command is accepted is its own meaning's business. -/

namespace Sys2Proof

/-! ### Fields -/

def u4 (n : Nat) : Bool := decide (n < 2 ^ 4)
def u8 (n : Nat) : Bool := decide (n < 2 ^ 8)
def u16 (n : Nat) : Bool := decide (n < 2 ^ 16)
def u20 (n : Nat) : Bool := decide (n < 2 ^ 20)
def u32 (n : Nat) : Bool := decide (n < 2 ^ 32)
def u64 (n : Nat) : Bool := decide (n < 2 ^ 64)
/-- A structure of exactly `n` bytes. -/
def bytesOk (n : Nat) (d : List Byte) : Bool := d.length == n
/-- An external argument: at most 16 MiB (R490). -/
def extOk (d : List Byte) : Bool := decide (d.length ≤ 2 ^ 24)
/-- INIT of a credit allocation: eight fields of two bytes (R384). -/
def initOk (l : List Nat) : Bool := l.length == 8 && l.all u16
/-- Flipped bits of words of 39 bits (R160). -/
def wordFlips (l : List (Nat × Nat)) : Bool := l.all fun p => decide (p.2 < 2 ^ 39)
/-- Symbols in error of sectors of 18 symbols (R277), and above them those that are faulty for the life of the part (R280)
(log 154: DESIGN CHOICE). -/
def sectorFlips (l : List (Nat × Nat)) : Bool := l.all fun p => decide (p.2 < 2 ^ 36)
/-- Flipped bits of an accumulator entry of an engine (R165). -/
def entryFlip (p : Nat × Nat) : Bool := decide (p.1 < 16384) && decide (p.2 < 2 ^ 39)
/-- Symbols in error of a sector of a save area (R172, R277, R280) (log 154: DESIGN CHOICE). -/
def areaFlip (p : Nat × Nat) : Bool := decide (p.1 < 10496) && decide (p.2 < 2 ^ 36)
/-- Flipped bits of a word of the control SRAM (R29). -/
def sramFlip (p : Nat × Nat) : Bool := decide (p.1 < 2 ^ 21) && decide (p.2 < 2 ^ 39)
/-- Cells of the boundary register (R605). -/
def cellsOk (l : List Bool) : Bool := l.length == 321
/-- A flit of 256 bytes (R365). -/
def flitOk (l : List Byte) : Bool := l.length == 256

/-! ### Units -/

def fnOk (n : Nat) : Bool := decide (n ≤ 8)
/-- A transport of the enclave or a register space: the functions, and the sideband as 9. -/
def transportOk (n : Nat) : Bool := decide (n ≤ 9)
def coreOk (n : Nat) : Bool := decide (n < 576)
def engOk (n : Nat) : Bool := decide (n < 4)
def entryOk (n : Nat) : Bool := decide (n < 64)
def tagOk (n : Nat) : Bool := decide (n < 64)
def sidOk (n : Nat) : Bool := decide (n < 32)
def stackOk (n : Nat) : Bool := decide (n < 32)
def chanOk (n : Nat) : Bool := decide (n < 32)
def pcOk (n : Nat) : Bool := decide (n < 2)
def bankOk (n : Nat) : Bool := decide (n < 64)
/-- Positions of corrected symbols: at most 15 of the 544, each once (R358). -/
def correctedOk (l : List Nat) : Bool := decide (l.length ≤ 15) && l.all (fun i => decide (i < 544)) && decide l.Nodup

def portOk (n : Nat) : Bool := decide (n ≤ 16)   -- 16 is the module's own mesh
def laneOk (n : Nat) : Bool := decide (n < 8)
def vcOk (n : Nat) : Bool := decide (n < 8)
def ctxOk (n : Nat) : Bool := decide (n < 512)
def segOk (n : Nat) : Bool := decide (n < 4096)
def setOk (n : Nat) : Bool := decide (n < 16)
def partOk (n : Nat) : Bool := decide (n < 8)
/-- A member partition, or 8 for the combined vote of a module (R431) (log 67: DESIGN CHOICE). -/
def voterOk (n : Nat) : Bool := decide (n ≤ 8)
def jobOk (n : Nat) : Bool := decide (n < 4096)
def subRingOk (n : Nat) : Bool := decide (n < 64)
def cplRingOk (n : Nat) : Bool := decide (n < 16)
def vectorOk (n : Nat) : Bool := decide (n < 64)
def slotOk (n : Nat) : Bool := decide (n < 8)
def foldOk (n : Nat) : Bool := decide (n < 4096)

/-- The entry fields of a mailbox command (R490). -/
def callerOk (c : Caller) : Bool := fnOk c.fn && u16 c.ctag && decide (c.rlen ≤ 2 ^ 24) && u64 c.rbuf && c.rbuf % 16 == 0

/-! ### Commands -/

def Instr.wf (i : Instr) : Bool :=
  match i with
  | .registerWrite space off value _ => transportOk space && u16 off && u32 value
  | .unmappedRegisterAccess space off _ _ => transportOk space && u16 off
  | .mailboxEnable fn logn => fnOk fn && u4 logn
  | .mailboxDisable fn logn => fnOk fn && u4 logn
  | .mailboxDoorbell fn index => fnOk fn && u32 index
  | .mailboxResponseDoorbell fn index => fnOk fn && u32 index
  | .submissionDoorbell fn ring index => fnOk fn && subRingOk ring && u32 index
  | .completionDoorbell fn ring index => fnOk fn && cplRingOk ring && u32 index
  | .completionInterruptTimer fn ring => fnOk fn && cplRingOk ring
  | .msixVectorUnmask fn vector => fnOk fn && vectorOk vector
  | .configRequest fn off _ => fnOk fn && u16 off
  | .configImageLoaded => true
  | .vfEnableSet numVFs => u16 numVFs
  | .vfEnableClear => true
  | .vfFlr fn => fnOk fn
  | .pfFlr => true
  | .pcieHotReset => true
  | .pcieLinkDown => true
  | .busMasterEnableClear fn => fnOk fn
  | .busMasterEnableSet fn => fnOk fn
  | .hostCopyBmeTimeout fn seq => fnOk fn && u32 seq
  | .hostReadError fn _ _ _ => fnOk fn
  | .nop c value => callerOk c && u64 value
  | .deviceInfo c => callerOk c
  | .partLayout c start => callerOk c && u8 start
  | .partConfig c part pdl age lo hi => callerOk c && u8 part && u16 pdl && u16 age && u16 lo && u16 hi
  | .ctxCreate c desc => callerOk c && bytesOk 16 desc
  | .ctxDestroy c ctx => callerOk c && u16 ctx
  | .ctxStop c ctx => callerOk c && u16 ctx
  | .ctxResume c ctx => callerOk c && u16 ctx
  | .ctxReset c ctx => callerOk c && u16 ctx
  | .ctxEvict c ctx => callerOk c && u16 ctx
  | .ctxRestore c ctx => callerOk c && u16 ctx
  | .ctxStatus c ctx => callerOk c && u16 ctx
  | .clientQuery c client => callerOk c && u16 client
  | .clientSetQuota c client quota => callerOk c && u16 client && u16 quota
  | .clientClear c client => callerOk c && u16 client
  | .segCreate c desc ctx => callerOk c && bytesOk 32 desc && u16 ctx
  | .segQuery c ctx seg => callerOk c && u16 ctx && u16 seg
  | .segProtect c ctx seg perm => callerOk c && u16 ctx && u16 seg && u8 perm
  | .segMigrate c ctx seg attr pref tmo => callerOk c && u16 ctx && u16 seg && u8 attr && u16 pref && u16 tmo
  | .segDelete c ctx seg tmo => callerOk c && u16 ctx && u16 seg && u16 tmo
  | .pgroupCreate c desc => callerOk c && bytesOk 128 desc
  | .pgroupDelete c stack gid => callerOk c && u8 stack && u16 gid
  | .nmuProgramLoad c part stack prog image => callerOk c && u8 part && u8 stack && u8 prog && extOk image
  | .nmuProgramDelete c part stack prog => callerOk c && u8 part && u8 stack && u8 prog
  | .stateLoad c stack gid epoch cva => callerOk c && u8 stack && u16 gid && u32 epoch && u64 cva
  | .stateExport c stack gid haddr => callerOk c && u8 stack && u16 gid && u64 haddr
  | .weightImport c stack gid key cva bytes => callerOk c && u8 stack && u16 gid && u8 key && u64 cva && u64 bytes
  | .hostCopy c desc ext => callerOk c && bytesOk 32 desc && extOk ext
  | .ringCreateSubmission c ctx form logn base shadow => callerOk c && u16 ctx && u8 form && u8 logn && u64 base && u64 shadow
  | .ringCreateCompletion c logn vector icnt itime base shadow => callerOk c && u8 logn && u8 vector && u16 icnt && u16 itime && u64 base && u64 shadow
  | .ringDestroy c kind ring => callerOk c && u8 kind && u8 ring
  | .ringReset c kind ring => callerOk c && u8 kind && u8 ring
  | .ringBindNotice c ctx ring => callerOk c && u16 ctx && u8 ring
  | .counter c ctx core idx value => callerOk c && u16 ctx && u16 core && u8 idx && u32 value
  | .streamSlotAllocate c ctx core sid => callerOk c && u16 ctx && u16 core && u8 sid
  | .streamSlotFree c ctx core sid => callerOk c && u16 ctx && u16 core && u8 sid
  | .streamArm c ctx core desc => callerOk c && u16 ctx && u16 core && bytesOk 64 desc
  | .streamCancel c ctx core sid => callerOk c && u16 ctx && u16 core && u8 sid
  | .streamStatus c ctx core sid => callerOk c && u16 ctx && u16 core && u8 sid
  | .bankCap c part cap => callerOk c && u8 part && u8 cap
  | .tagtmo c part tmo => callerOk c && u8 part && u16 tmo
  | .mcastGroupCreate c ctx leader bits => callerOk c && u16 ctx && u16 leader && bytesOk 72 bits
  | .mcastGroupDelete c group => callerOk c && u8 group
  | .layoutCreate c ctx desc => callerOk c && u16 ctx && bytesOk 128 desc
  | .layoutDelete c ctx handle => callerOk c && u16 ctx && u16 handle
  | .histogramRead c ctx first count => callerOk c && u16 ctx && u16 first && u16 count
  | .histogramClear c ctx first count => callerOk c && u16 ctx && u16 first && u16 count
  | .formatTableWrite c ctx first count entries => callerOk c && u16 ctx && u16 first && u16 count && extOk entries
  | .formatTableRead c ctx first count => callerOk c && u16 ctx && u16 first && u16 count
  | .q1Tblload c ctx pair fcva dcva => callerOk c && u16 ctx && u8 pair && u64 fcva && u64 dcva
  | .deviceId c devid => callerOk c && u16 devid
  | .jobJoin c part job midx nmem table => callerOk c && u8 part && u16 job && u16 midx && u32 nmem && extOk table
  | .jobLeave c part job => callerOk c && u8 part && u16 job
  | .route c first count entries => callerOk c && u16 first && u16 count && extOk entries
  | .windowOpen c desc => callerOk c && bytesOk 32 desc
  | .windowClose c rwin => callerOk c && u8 rwin
  | .collective c desc => callerOk c && bytesOk 48 desc
  | .collCancel c part job coll => callerOk c && u8 part && u16 job && u16 coll
  | .portEnable c port => callerOk c && u8 port
  | .portDisable c port => callerOk c && u8 port
  | .portLaneRestore c port => callerOk c && u8 port
  | .portCreditAllocation c port init => callerOk c && u8 port && initOk init
  | .role c elig => callerOk c && u8 elig
  | .optSetCreate c part stmo => callerOk c && u8 part && u16 stmo
  | .optSetDelete c part set => callerOk c && u8 part && u8 set
  | .optSetQuery c part set => callerOk c && u8 part && u8 set
  | .updateStage c part set block => callerOk c && u8 part && u8 set && bytesOk 32 block
  | .setResolveCommit c part set => callerOk c && u8 part && u8 set
  | .setResolveAbort c part set => callerOk c && u8 part && u8 set
  | .stepBind c ctx set sig score rcva => callerOk c && u16 ctx && u8 set && u8 sig && u16 score && u64 rcva
  | .lossScaleSet c part set dyn lse lsmin lsmax ngrow => callerOk c && u8 part && u8 set && u8 dyn && u8 lse && u8 lsmin && u8 lsmax && u16 ngrow
  | .lossScaleQuery c part set => callerOk c && u8 part && u8 set
  | .commitGroupStage c part buf acts => callerOk c && u8 part && u8 buf && extOk acts
  | .commitGroupApply c part buf => callerOk c && u8 part && u8 buf
  | .commitGroupBind c part buf set => callerOk c && u8 part && u8 buf && u8 set
  | .commitGroupDiscard c part buf => callerOk c && u8 part && u8 buf
  | .commitGroupQuery c part buf => callerOk c && u8 part && u8 buf
  | .jobStepBind c part job sets nctx sig score => callerOk c && u8 part && u16 job && u16 sets && u16 nctx && u8 sig && u16 score
  | .jobStepUnbind c part job sets => callerOk c && u8 part && u16 job && u16 sets
  | .treeForm c job fan skipovf vtmo dectmo rstmo elig => callerOk c && u16 job && u8 fan && u8 skipovf && u16 vtmo && u16 dectmo && u16 rstmo && extOk elig
  | .jobFault c part job => callerOk c && u8 part && u16 job
  | .spdm c msg _ _ => callerOk c && extOk msg
  | .keyDeliver transport session _ => transportOk transport && u32 session
  | .keyErase transport session _ => transportOk transport && u32 session
  | .keyQuery transport session _ => transportOk transport && u32 session
  | .spdmSessionTimeout transport session => transportOk transport && u32 session
  | .confModeEnter c session => callerOk c && u32 session
  | .confModeLeave c => callerOk c
  | .confModeKeyUpdate c => callerOk c
  | .keyRelease c part handle => callerOk c && u8 part && u8 handle
  | .keyReleaseErase c part handle => callerOk c && u8 part && u8 handle
  | .keyReleaseQuery c part handle => callerOk c && u8 part && u8 handle
  | .debugUnlockChallenge c => callerOk c
  | .debugUnlock c token => callerOk c && extOk token
  | .debugZeroiseTimeout => true
  | .powerStateForce c kind unit target => callerOk c && u8 kind && u16 unit && u8 target
  | .powerStateRelease c kind unit => callerOk c && u8 kind && u16 unit
  | .powerStateSetDivider c part div => callerOk c && u8 part && u8 div
  | .ltol c part tol => callerOk c && u8 part && u32 tol
  | .powerCap c cap => callerOk c && u16 cap
  | .powerStatus c => callerOk c
  | .faultConfigWrite c src cfg => callerOk c && u8 src && u32 cfg
  | .faultConfigRead c => callerOk c
  | .faultConfigFaultN c mode fnpw => callerOk c && u8 mode && u16 fnpw
  | .faultConfigRelease c => callerOk c
  | .faultConfigPatrol c iper sper => callerOk c && u32 iper && u16 sper
  | .faultConfigInject c src unit part ctx => callerOk c && u8 src && u16 unit && u8 part && u16 ctx
  | .faultConfigWatchdog c wdt => callerOk c && u16 wdt
  | .faultRecordsRead c start max => callerOk c && u32 start && u16 max
  | .faultRecordsPersistent c => callerOk c
  | .memStatus c => callerOk c
  | .corrLog c stack => callerOk c && u8 stack
  | .portStatus c => callerOk c
  | .fabricStatus c => callerOk c
  | .fwUpdateWrite c kind img => callerOk c && u8 kind && extOk img
  | .fwUpdateQuery c => callerOk c
  | .logRead c start max => callerOk c && u32 start && u32 max
  | .crashDumpRead c => callerOk c
  | .crashDumpClear c => callerOk c
  | .submissionTaskEntry fn ring => fnOk fn && subRingOk ring
  | .q1SubmissionEntry fn ring => fnOk fn && subRingOk ring
  | .submissionArmEntry fn ring => fnOk fn && subRingOk ring
  | .queueEntryPlaced fn ring => fnOk fn && subRingOk ring
  | .taskDispatch core => coreOk core
  | .dispatchAgeing core ctx => coreOk core && ctxOk ctx
  | .passEnd core eng parity ups => coreOk core && engOk eng && parity.all entryOk && ups.all entryFlip
  | .chunkDrainEnd core eng => coreOk core && engOk eng
  | .copyBlockEnd core entry _ _ => coreOk core && entryOk entry
  | .taskEnd core entry _ => coreOk core && entryOk entry
  | .signalArrival _ => true
  | .tableSetSwap core ctx bad => coreOk core && ctxOk ctx && bad.errs.all areaFlip
  | .stateSaveComplete core ctx ups => coreOk core && ctxOk ctx && ups.all (fun u => engOk u.1 && entryFlip u.2)
  | .stateRestoreComplete core ctx bad => coreOk core && ctxOk ctx && bad.errs.all areaFlip
  | .isleAccess core flips => coreOk core && wordFlips flips
  | .isleScrubWrite core _ => coreOk core
  | .scrubAbandon core _ => coreOk core
  | .dependencyTimeout core ctx _ _ => coreOk core && ctxOk ctx
  | .preemptionDeadline ctx => ctxOk ctx
  | .contextStopped ctx => ctxOk ctx
  | .stopTimeout ctx => ctxOk ctx
  | .teardownComplete ctx => ctxOk ctx
  | .streamIssue core => coreOk core
  | .backgroundAgeing core sid => coreOk core && sidOk sid
  | .streamResponse core tag _ => coreOk core && tagOk tag
  | .mcastCredit group member => u8 group && coreOk member
  | .mcastTileArrival group member => u8 group && coreOk member
  | .versionResolution core sid => coreOk core && sidOk sid
  | .tagTimeout core tag => coreOk core && tagOk tag
  | .tagQuarantineEnd core tag => coreOk core && tagOk tag
  | .nmuRequestArrival stack core => stackOk stack && coreOk core
  | .sorterAdmit stack => stackOk stack
  | .bankService stack chan pc bank _ errs => stackOk stack && chanOk chan && pcOk pc && bankOk bank && sectorFlips errs
  | .dramRefresh stack => stackOk stack
  | .stageClaimsGranted part set => partOk part && setOk set
  | .stageTimeout part set => partOk part && setOk set
  | .stageKernelsEnd part set => partOk part && setOk set
  | .formatRefresh part set => partOk part && setOk set
  | .migrationHoldersEnded ctx seg => ctxOk ctx && segOk seg
  | .migrationTimeout ctx seg => ctxOk ctx && segOk seg
  | .migrationCopyComplete ctx seg => ctxOk ctx && segOk seg
  | .hello port vc => portOk port && vcOk vc
  | .treeOk port vc => portOk port && vcOk vc
  | .treeFormTimeout job => jobOk job
  | .vote port vc => portOk port && vcOk vc
  | .voteTimeout job who => jobOk job && voterOk who
  | .decide port vc => portOk port && vcOk vc
  | .decisionTimeout job => jobOk job
  | .fault port vc => portOk port && vcOk vc
  | .restart port vc => portOk port && vcOk vc
  | .restartStopComplete job => jobOk job
  | .stateRpt port vc => portOk port && vcOk vc
  | .restartHoldEnd job => jobOk job
  | .resume port vc => portOk port && vcOk vc
  | .restartTimeout job => jobOk job
  | .trainingFrame port lane ctl _ _ _ preset ask => portOk port && laneOk lane && u64 ctl && u8 preset && u16 ask
  | .trainingTimeout port => portOk port
  | .trainingWaitEnd port => portOk port
  | .fastRetrainTimeout port => portOk port
  | .codeword port ctl cor _ => portOk port && u20 ctl && correctedOk cor
  | .flitReceive port flit _ => portOk port && flitOk flit
  | .flitTransmit port => portOk port
  | .replayTimeout port => portOk port
  | .recoveryTimeout port => portOk port
  | .idleFlitTimer port => portOk port
  | .creditRelease port vc => portOk port && vcOk vc
  | .lsymWindowEnd port lane => portOk port && laneOk lane
  | .laneLockLoss port lane => portOk port && laneOk lane
  | .disableDrainTimeout port => portOk port
  | .config port flit _ => portOk port && flitOk flit
  | .retrain port flit _ => portOk port && flitOk flit
  | .down port flit _ => portOk port && flitOk flit
  | .echoReq port flit _ => portOk port && flitOk flit
  | .echoRsp port flit _ => portOk port && flitOk flit
  | .put port vc => portOk port && vcOk vc
  | .getReq port vc => portOk port && vcOk vc
  | .putAck port vc => portOk port && vcOk vc
  | .getRsp port vc => portOk port && vcOk vc
  | .nack port vc => portOk port && vcOk vc
  | .red port vc => portOk port && vcOk vc
  | .dlv port vc => portOk port && vcOk vc
  | .rep port vc => portOk port && vcOk vc
  | .bar port vc => portOk port && vcOk vc
  | .barRel port vc => portOk port && vcOk vc
  | .packetForward port vc => portOk port && vcOk vc
  | .packetQueueTimeout port vc => portOk port && vcOk vc
  | .collectiveTimeout part job coll => partOk part && jobOk job && u16 coll
  | .faultSweep => true
  | .blockResetComplete ukind unit => u8 ukind && u16 unit
  | .faultNPulseEnd => true
  | .faultNGapEnd => true
  | .faultNHoldRelease _ => true
  | .islePatrolRead core flips => coreOk core && wordFlips flips
  | .stackPatrolRead stack errs => stackOk stack && sectorFlips errs
  | .controlSramPatrol fl => fl.all sramFlip
  | .watchdogKick => true
  | .watchdogFirstExpiry => true
  | .watchdogSecondExpiry => true
  | .enclaveWatchdogExpiry => true
  | .powerSample _ _ => true
  | .inputVoltageLow => true
  | .inputVoltageOutOfRange => true
  | .fastLimit => true
  | .fastLimitEnd => true
  | .inputOvercurrent => true
  | .powerCapWindow _ => true
  | .thermalSample _ _ _ => true
  | .thermalWindow eighth => partOk eighth
  | .thermalTrip => true
  | .dividerChange eighth => partOk eighth
  | .domainIdleDescent _ unit sub => u16 unit && u8 sub
  | .domainWake _ unit sub => u16 unit && u8 sub
  | .railPowerGoodLost domain => u16 domain
  | .pllLock => true
  | .pllLockTimeout => true
  | .pllLockLoss => true
  | .alwaysOnPowerUp _ _ _ _ _ _ slot fold => slotOk slot && foldOk fold
  | .alwaysOnPowerLoss => true
  | .pwrEnAssert => true
  | .railsInRegulation => true
  | .railRegulationTimeout domain => u16 domain
  | .pwrEnDeassert => true
  | .resetNAssert => true
  | .resetNDeassert => true
  | .chipResetHoldEnd => true
  | .perstNAssert => true
  | .perstNDeassert => true
  | .eoffNAssert => true
  | .eoffNDeassert => true
  | .strapChange _ slot fold => slotOk slot && foldOk fold
  | .enclaveBootComplete _ => true
  | .stackTrainingTimeout stack step => stackOk stack && u16 step
  | .arraySelfTestComplete _ => true
  | .droverInitTimeout => true
  | .ready => true
  | .sbSetReadPointer off _ => u16 off
  | .sbRegisterRead => true
  | .sbMbDataWrite value _ => u32 value
  | .sbMbDataRead => true
  | .sbMbLenWrite value _ => u32 value
  | .sbEvtClear value _ => u32 value
  | .smbusAlertResponse => true
  | .sbMbAbort v => v.all fun v => u32 v && v.testBit 30
  | .fwWrite kind _ => u8 kind
  | .sbLogRead _ => true
  | .dumpRead _ => true
  | .dumpClear _ => true
  | .fstoreRead _ => true
  | .chipReset _ => true
  | .sbMbWordTimeout => true
  | .mctpPacket _ _ _ _ _ _ => true
  | .mctpReassemblyTimeout => true
  | .setEndpointId eid => u8 eid
  | .getEndpointId => true
  | .getEndpointUuid => true
  | .getMctpVersionSupport => true
  | .getMessageTypeSupport => true
  | .samplePreload cells load => cellsOk cells && cellsOk load
  | .extest cells load => cellsOk cells && cellsOk load
  | .clamp => true
  | .highz => true
  | .extestPulse cells load => cellsOk cells && cellsOk load
  | .extestTrain cells load => cellsOk cells && cellsOk load
  | .bypass => true
  | .tapPrivateInstruction opcode => u8 opcode
  | .tapReset => true
  | .hostReadCompletion fn _ _ _ _ => fnOk fn
  | .zeroingComplete seq => u32 seq
  | .regenerationComplete stack gid => stackOk stack && u16 gid
  | .regenerationTimeout stack gid => stackOk stack && u16 gid
  | .flashProgrammingComplete => true
  | .crashCaptureComplete => true
  | .restartStopTimeout job => jobOk job
  | .stateReportTimeout job => jobOk job
  | .forcedStateReached _ unit => u16 unit

end Sys2Proof
end

