-- ==== Sys2Proof/Machine/Link.lean ====
section
/-! DEFINITION. The commands of a Nellon link: training (R362, R363, R382), codewords (R361), flits (R365 to R373), credits
(R375, R376), lanes (R378), messages (R384, R385) and the end of a disable (R386). -/

namespace Sys2Proof.Machine

open Sys2Proof

/-- What every row about a port starts with: a port of the module. -/
def State.atPort (s : State) (n : Nat) (f : Port → State) : State := if n < 16 then f (s.port n) else s

/-! ### Training frames (R362) -/

/-- What a received control field and the receiver's own state make of a lane. Precoding once requested stays until the next full
training (R351) (log 107: DESIGN CHOICE). -/
def Lane.frame (x : Lane) (st : LinkState) (ctl : Nat) (flip locked rdy pre : Bool) : Lane :=
  let fast := st == .retrain
  let y := if fast then x else x.request (bitsOf ctl 45 2) fun i => tapBits (bitsOf ctl 35 10) i
  { y with
    seen := true
    partner := bitsOf ctl 53 3
    flip := if st == .lock then flip else y.flip
    locked := y.locked || (locked && st != .detect)
    rdySent := y.rdySent || (st == .eq && rdy && y.locked)
    rdyRcvd := y.rdyRcvd || (st == .eq && ctl.testBit 48)
    pre := y.pre || (!fast && pre)
    txPre := y.txPre || (!fast && ctl.testBit 47) }

/-- Steps 1 to 3 of R363, and step 1 of R382, left once their conditions hold. -/
def State.trainStep (s : State) (n : Nat) : State :=
  let p := s.port n
  match p.st with
  | .detect => if (p.widest 3 (p.rxMeets Lane.seen)).isSome then (s.setPort n { p with st := .lock }).sendFrames n else s
  | .lock => if p.lanes.all fun x => !x.seen || x.locked || x.bad then (s.setPort n { p with st := .eq }).sendFrames n else s
  | .eq =>
    if p.lanes.any Lane.good && p.lanes.all (fun x => !x.good || (x.rdySent && x.rdyRcvd)) then s.chooseWidth n else s
  | .retrain =>
    if p.group.all (p.rxMeets Lane.locked) then s.setPort n p.align else s
  | _ => s

/-- A training frame on a lane. `ctl` is its control field; `rx`, `rdy`, `pre`, `preset` and `ask` are what this end's
receiver of the lane has found, reached and wants. The lane's own frames go on with the control field that this makes
(log 107: DESIGN CHOICE). -/
def execTrainingFrame (port lane ctl : Nat) (rx : LaneRx) (rdy pre : Bool) (preset ask : Nat) (s : State) : Host.Outcome State Fault Refusal :=
  done (s.atPort port fun p =>
    if 8 ≤ lane ∨ !(p.st == .detect || p.st == .lock || p.st == .eq || p.st == .retrain) then s
    else
      let p1 := if frameOk ctl then p.setLane lane ((p.lane lane).frame p.st ctl rx.flip rx.locked rdy pre) else p
      let p2 := p1.setLane lane { p1.lane lane with ask := preset % 4 * 2 ^ 10 + ask % 2 ^ 10 }
      ((s.setPort port p2).sendFrame port lane).trainStep port)

/-- Lanes that meet `p` become bad in training. -/
def Port.spoil (q : Port) (p : Lane → Bool) : Port := { q with lanes := q.lanes.map fun x => if p x then { x with bad := true } else x }

/-- The timeout of a full-training step (R363). -/
def execTrainingTimeout (port : Nat) (s : State) : Host.Outcome State Fault Refusal :=
  done (s.atPort port fun p =>
    if p.fast then s
    else match p.st with
      | .detect => s.setPort port { p with st := .noPartner }
      | .lock => (s.setPort port { p.spoil (fun x => !x.locked) with st := .eq }).sendFrames port
      | .eq => (s.setPort port (p.spoil fun x => !(x.rdySent && x.rdyRcvd))).chooseWidth port
      | .align => s.trainingFails port 5
      | .config => s.trainingFails port 6
      | _ => s)

/-- Step 8 of R363 ends. -/
def execTrainingWaitEnd (port : Nat) (s : State) : Host.Outcome State Fault Refusal :=
  .next (s.atPort port fun p => if p.st = .wait ∨ p.st = .noPartner then s.detect port else s)

/-- A step of a fast retrain times out: the link is lost and a full training follows (R382, R383). -/
def execFastRetrainTimeout (port : Nat) (s : State) : Host.Outcome State Fault Refusal :=
  done (s.atPort port fun p =>
    if p.fast ∧ (p.st = .retrain ∨ p.st = .align ∨ p.st = .config) then s.loseLink port else s)

/-! ### Codewords (R360, R361) -/

/-- Lane number of symbol `i` of codeword `n` (R360, R364). -/
def Port.symbolLane (p : Port) (n i : Nat) : Nat := p.grp + (i + n) % max 1 (lanesOf p.width)

/-- Corrected symbols charged to their lanes, and the codeword counts of R387 (log 108: DESIGN CHOICE). -/
def Port.charge (p : Port) (corrected : List Nat) (bad : Bool) : Port :=
  if bad then { p with fecunc := satAdd 32 p.fecunc 1 }
  else
    let q := corrected.foldl (fun a i => let l := p.symbolLane p.cwNum i; a.setLane l { a.lane l with lsym := satAdd 32 (a.lane l).lsym 1 }) p
    if corrected.isEmpty then q else { q with feccor := satAdd 32 q.feccor 1 }

/-- The flits of the stream that have a bit in codeword `n` (R359). -/
def cwFlits (n : Nat) : List Nat := (List.range 4).map (cwBytes * n / 256 + ·) |>.filter fun f => decide (256 * f < cwBytes * (n + 1))

/-- The first flit that starts in codeword `n` or after it (R359). -/
def cwFirst (n : Nat) : Nat := ceilDiv (cwBytes * n) 256

/-- A codeword in ALIGN: it goes on in sequence, or is the first of a new one, or is uncorrectable and ends the sequence. -/
def Port.alignOn (p : Port) (cnt : Nat) (corrected : List Nat) (bad : Bool) : Port :=
  let on := !bad && decide (0 < p.cwGood) && cnt == p.cwNum % 4096
  let q := ({ p with cwNum := if bad ∨ on then p.cwNum else cnt }).charge corrected bad
  { q with cwGood := if bad then 0 else if on then p.cwGood + 1 else 1, cwNum := q.cwNum + 1 }

/-- A codeword received under lock: an uncorrectable one fails every flit with a bit in it (R361). -/
def Port.lockOn (p : Port) (cnt : Nat) (corrected : List Nat) (bad : Bool) : Port :=
  let q := p.charge corrected bad
  { q with
    spoilt := if bad then q.spoilt ++ (cwFlits q.cwNum).filter fun f => decide (q.rxFlit ≤ f) && !q.spoilt.contains f else q.spoilt
    cwHist := ((p.cwHist ++ [(bad, !bad && cnt != p.cwNum % 4096)]).reverse.take 8).reverse
    cwNum := q.cwNum + 1 }

/-- Codeword lock is lost: 8 uncorrectable codewords in a row, or 4 of 8 with an unexpected CWCNT (R361). -/
def Port.lockLost (p : Port) : Bool :=
  (p.cwHist.length == 8 && p.cwHist.all (·.1)) || decide (4 ≤ (p.cwHist.filter (·.2)).length)

/-- A codeword received: its control field, the positions of its corrected symbols, and whether it was uncorrectable, as one with
more than 15 errors is (R358). Flits are received from the first that starts after codeword lock (log 108: DESIGN CHOICE). -/
def execCodeword (port ctl : Nat) (corrected : List Nat) (bad : Bool) (s : State) : Host.Outcome State Fault Refusal :=
  done (s.atPort port fun p =>
    let bad := bad || !correctedOk corrected
    if p.st = .align then
      let q := p.alignOn (ctl % 4096) corrected bad
      if 64 ≤ q.cwGood then (s.setPort port { q with rxFlit := cwFirst q.cwNum, spoilt := [] }).enterConfig port else s.setPort port q
    else if p.st = .config ∨ p.st = .active then
      let q := p.lockOn (ctl % 4096) corrected bad
      if q.lockLost then (s.setPort port q).fastRetrain port false else s.setPort port q
    else s)

/-! ### CONFIG (R384) -/

/-- The payload of this end's CONFIG. -/
def State.configPayload (s : State) (n : Nat) : List Byte :=
  let p := s.port n
  leBytes 1 1 ++ leBytes 1 1 ++ leBytes 2 (b2n s.chip.devid.isSome * 2 ^ 15 + s.chip.devid.getD 0) ++ leBytes 1 n ++ leBytes 1 p.lgood
    ++ leBytes 2 (if p.fast then (p.rxX + 4095) % 4096 else 0xFFF) ++ leBytes 4 p.nonce ++ leBytes 4 p.pnonce
    ++ (if p.fast then p.inUse else p.alloc).flatMap (leBytes 2)

def State.sendConfig (s : State) (n : Nat) : State := s.sendUnsequenced n 2 (s.configPayload n)

/-- Lanes of this end, good so far, whose partner lane the partner calls bad. -/
def Port.reportedBad (p : Port) (lgood : Nat) : List Nat :=
  (List.range 8).filter fun l => (p.lane l).seen && !(p.lane l).bad && !lgood.testBit (p.lane l).partner

/-- The partner's CONFIG arrives (steps 6 of R363 and 3 of R382). This end's last CONFIG, which echoes the partner's NONCE, leaves
before ACTIVE, since both ends must have been answered. -/
def State.configIn (s : State) (n : Nat) (b : List Byte) : State :=
  let p := s.port n
  if p.st ≠ .config then s
  else if num b 1 1 ≠ 1 then (if p.fast then s.loseLink n else s.trainingFails n 6)
  else
    let echo := num b 12 4 == p.nonce
    if p.fast ∧ (!p.linked ∨ num b 8 4 ≠ p.pnonce) then s.loseLink n
    else
      let bads := p.reportedBad (num b 5 1)
      if p.fast ∧ bads.any p.inGroup then s.badLanes n bads
      else
      let p1 := Port.mark
        { p with
          pvalid := flg b 2 15, pdevid := fld b 2 0 15, pport := fld b 4 0 4, cfgRx := true, echoed := p.echoed || echo, pnonce := num b 8 4
          init := if p.fast then p.init else (List.range 8).map fun v => fld b (16 + 2 * v) 0 12 } (bads.filter fun l => !p.inGroup l)
      let s1 := s.setPort n p1
      if p1.echoed then ((s1.sendConfig n).enterActive n (fld b 6 0 12)).badLanes n (bads.filter p.inGroup) else s1

/-! ### Flits received (R367 to R373) -/

/-- Step 1 and 2 of R370. -/
def Port.flitError (p : Port) : Port := if p.recovering then p else { p with recovering := true, nak := true }

/-- A replay started by a NAK or a timeout; the eighth in a row without progress starts a fast retrain (R373). -/
def State.startReplay (s : State) (n i : Nat) (a : Nat) : State :=
  let p := (s.port n).replay i (some a)
  let s1 := s.setPort n p
  if 8 ≤ p.streak then s1.fastRetrain n false else s1

/-- A NAK with ACKSEQ `a`, after its acknowledgement (R372). -/
def State.nakIn (s : State) (n a : Nat) : State :=
  let p := s.port n
  if (p.buf.head?.map (·.1)) = some ((a + 1) % 4096) ∧ !(p.replayAt.isSome && p.replayFrom == some a) then s.startReplay n 0 a else s

/-- A sequenced message delivered (R384, R385). -/
def State.messageIn (s : State) (n : Nat) (b : List Byte) : State :=
  let p := s.port n
  match num b 0 1 with
  | 2 => if p.crossed then s.setPort n { p with crossed := false } else s.fastRetrain n true (num b 1 1)
  | 3 => s.setPort n { p with st := .wait, fast := false, down := true, buf := [], ctrl := [], replayAt := none, replayFrom := none, streak := 0 }
  | 4 => s.setPort n { p with ctrl := p.ctrl ++ [leBytes 1 5 ++ List.replicate 7 0#8 ++ slice b 8 8] }
  | 5 => s
  | c => s.raise { src := 0x53, unit := n, detail := c }

/-- A sequenced flit in order is delivered. -/
def State.deliverFlit (s : State) (n : Nat) (f : List Byte) : State :=
  let p := s.port n
  let p1 := { p with rxX := (p.rxX + 1) % 4096, recovering := false }
  if fld f 0 12 4 = 1 then
    let v := fld f 6 0 3
    s.setPort n { p1 with rx := Tab.set p1.rx [] v (Tab.get p1.rx [] v ++ slice f 8 240), heldBuf := p1.heldBuf.set v (p1.heldBuf.getD v 0 + 1) }
  else (s.setPort n p1).messageIn n (slice f 8 240)

/-- The acknowledgement and credit fields of an intact flit. -/
def State.fieldsIn (s : State) (n : Nat) (f : List Byte) : State :=
  let p := (s.port n).ack (fld f 2 0 12)
  let s1 := s.setPort n { p with crtot := p.crtot.set (fld f 4 13 3) (fld f 4 0 12) }
  let s2 := if flg f 2 15 then s1.nakIn n (fld f 2 0 12) else s1
  if p.draining && p.buf.isEmpty then s2.portOff n else s2

/-- The next flit of the received stream, and whether an uncorrectable codeword failed it (R361). -/
def Port.nextFlit (p : Port) : Port × Bool :=
  ({ p with rxFlit := p.rxFlit + 1, spoilt := p.spoilt.filter fun f => decide (p.rxFlit < f) }, p.spoilt.contains p.rxFlit)

/-- A flit that is not failed and whose CRC is right (R367). -/
def flitIntact (f : List Byte) (failed : Bool) : Bool := !failed && num f 248 8 == crc64 (slice f 0 248)

/-- A failed flit is counted; an intact one of an unknown type is counted as failed too, with its fault (R366, R367). -/
def State.countBad (s : State) (n : Nat) (f : List Byte) (intact : Bool) : State :=
  if intact && decide (fld f 0 12 4 ≤ 2) then s
  else
    let s1 := s.modPort n fun q => { q with crcerr := satAdd 32 q.crcerr 1 }
    if intact then s1.raise { src := 0x53, unit := n, detail := fld f 0 12 4 } else s1

/-- A good flit in ACTIVE: its fields, then its place in the sequence (R368 to R372). -/
def State.activeFlit (s : State) (n : Nat) (f : List Byte) : State :=
  let s3 := s.fieldsIn n f
  let q := s3.port n
  if q.st ≠ .active then s3
  else
    let behind := (q.rxX + 4096 - fld f 0 0 12) % 4096
    if fld f 0 12 4 = 0 then s3.modPort n (if behind = 1 then fun x => { x with crossed := false } else Port.flitError)
    else if behind = 0 then s3.deliverFlit n f
    else if q.recovering ∨ behind ≤ 2047 then s3
    else s3.modPort n Port.flitError

/-- What a received flit does on a port. `failed`: it is failed, by `failed` of the row or by R361 (log 109: DEDUCED). -/
def State.flitBody (s : State) (n : Nat) (f : List Byte) (failed : Bool) : State :=
  s.atPort n fun p =>
    let good := flitIntact f failed && decide (fld f 0 12 4 ≤ 2)
    let config := fld f 0 12 4 == 2 && num f 8 1 == 1
    let s2 := s.countBad n f (flitIntact f failed)
    if p.st = .config then (if good && config then s2.configIn n (slice f 8 240) else s2)
    else if p.st ≠ .active then s
    else if !good then s2.modPort n Port.flitError
    else if config then s2
    else s2.activeFlit n f

/-- A flit received on a port: the next of its stream. -/
def State.flitIn (s : State) (n : Nat) (f : List Byte) (failed : Bool) : State :=
  s.atPort n fun p =>
    if p.st = .active ∨ p.st = .config then (s.setPort n p.nextFlit.1).flitBody n f (failed || p.nextFlit.2) else s

def execFlitReceive (port : Nat) (flit : List Byte) (failed : Bool) (s : State) : Host.Outcome State Fault Refusal :=
  done (s.flitIn port flit failed)

/-- A CTRL flit of one message type received. -/
def State.ctrlIn (s : State) (n ctype : Nat) (f : List Byte) (failed : Bool) : State :=
  if fld f 0 12 4 = 2 ∧ num f 8 1 = ctype then s.flitIn n f failed else s

def execConfig (port : Nat) (flit : List Byte) (failed : Bool) (s : State) : Host.Outcome State Fault Refusal := done (s.ctrlIn port 1 flit failed)
def execRetrain (port : Nat) (flit : List Byte) (failed : Bool) (s : State) : Host.Outcome State Fault Refusal := done (s.ctrlIn port 2 flit failed)
def execDown (port : Nat) (flit : List Byte) (failed : Bool) (s : State) : Host.Outcome State Fault Refusal := done (s.ctrlIn port 3 flit failed)
def execEchoReq (port : Nat) (flit : List Byte) (failed : Bool) (s : State) : Host.Outcome State Fault Refusal := done (s.ctrlIn port 4 flit failed)
def execEchoRsp (port : Nat) (flit : List Byte) (failed : Bool) (s : State) : Host.Outcome State Fault Refusal := done (s.ctrlIn port 5 flit failed)

/-! ### Flits sent (R366, R368, R375) -/

/-- Packets of a channel's queue taken up until a flit is full. -/
def fillFlit : Nat → List Byte → List (Nat × List Byte) → List Byte × List (Nat × List Byte)
  | 0, b, q => (b, q)
  | _, b, [] => (b, [])
  | n + 1, b, p :: t => if 240 ≤ b.length then (b, p :: t) else fillFlit n (b ++ p.2) t

/-- A channel has something to send and a credit. -/
def Port.canSend (p : Port) (v : Nat) : Bool :=
  decide (0 < p.credits v) && !(Tab.get p.tx [] v).isEmpty || decide (0 < p.credits v) && !(Tab.get p.outq [] v).isEmpty

/-- A DATA flit of channel `v`. -/
def State.sendData (s : State) (n v : Nat) : State :=
  let p := s.port n
  let rest := Tab.get p.tx [] v
  let q := Tab.get p.outq [] v
  let x := fillFlit 16 rest q
  let foff := if 240 ≤ rest.length ∨ q.isEmpty then 0xFF else rest.length / 16
  (s.setPort n { p with
    tx := Tab.set p.tx [] v (x.1.drop 240), outq := Tab.set p.outq [] v x.2
    txPkt := Tab.set p.txPkt [] v (((q.take (q.length - x.2.length)).getLast?.map (·.2)).getD (Tab.get p.txPkt [] v))
    sent := p.sent.set v ((p.sent.getD v 0 + 1) % 4096), rr := if v < 6 then (v + 1) % 6 else p.rr }).sendSequenced n 1 v foff (slice x.1 0 240)

/-- A port sends: CONFIG in training; otherwise a flit of the replay, a waiting message, or a DATA flit of channel 6, 7, or 0 to
5 in turn. A full replay buffer sends nothing here. -/
def execFlitTransmit (port : Nat) (s : State) : Host.Outcome State Fault Refusal :=
  .next (s.atPort port fun p =>
    if p.st = .config then s.sendConfig port
    else if p.st ≠ .active then s
    else match p.replayAt with
      | some i =>
        let s1 := s.setPort port { p with replayAt := if i + 1 < p.buf.length then some (i + 1) else none }
        match p.buf[i]? with
        | some f => s1.resend port f.2
        | none => s1
      | none =>
        if replayMax ≤ p.buf.length then s
        else match p.ctrl with
          | m :: t => (s.setPort port { p with ctrl := t }).sendSequenced port 2 0 0 m
          | [] =>
            if p.draining then s
            else match (([6, 7] : List Nat) ++ (List.range 6).map fun i => (p.rr + i) % 6).find? p.canSend with
              | some v => s.sendData port v
              | none => s)

/-- The oldest buffered flit has waited 4 µs: as if a NAK for it had arrived (R372). -/
def execReplayTimeout (port : Nat) (s : State) : Host.Outcome State Fault Refusal :=
  done (s.atPort port fun p => match p.st, p.buf with
    | .active, f :: _ => s.nakIn port ((f.1 + 4095) % 4096)
    | _, _ => s)

/-- Recovery has lasted 4 µs: NAK again (R370). -/
def execRecoveryTimeout (port : Nat) (s : State) : Host.Outcome State Fault Refusal :=
  .next (s.atPort port fun p => if p.st = .active ∧ p.recovering then s.setPort port { p with nak := true } else s)

/-- No flit for 32 flit times: an IDLE flit (R371). -/
def execIdleFlitTimer (port : Nat) (s : State) : Host.Outcome State Fault Refusal :=
  .next (s.atPort port fun p => if p.st = .active then s.sendUnsequenced port 0 [] else s)

/-- The packet layer releases the buffer of a delivered flit whose bytes it has taken (R376, R377). -/
def execCreditRelease (port vc : Nat) (s : State) : Host.Outcome State Fault Refusal :=
  .next (s.atPort port fun p =>
    let h := p.heldBuf.getD vc 0
    if vc < 8 ∧ 0 < h ∧ (Tab.get p.rx [] vc).length ≤ 240 * (h - 1) then
      s.setPort port { p with heldBuf := p.heldBuf.set vc (h - 1), freed := p.freed.set vc ((p.freed.getD vc 0 + 1) % 4096) }
    else s)

/-! ### Lanes in ACTIVE (R378) -/

/-- The end of a 1 ms window of a lane number's count; the pair that receives that lane is bad (R364, R378) (log 4: DESIGN CHOICE). -/
def execLsymWindowEnd (port lane : Nat) (s : State) : Host.Outcome State Fault Refusal :=
  done (s.atPort port fun p =>
    if 8 ≤ lane then s
    else
      let x := p.lane lane
      let s1 := s.setPort port (p.setLane lane { x with win := x.lsym })
      if p.st = .active ∧ 4250 < x.lsym - x.win then s1.badLanes port [p.rxOf lane] else s1)

/-- A lane loses clock lock: bad in ACTIVE (R378), and in a fast retrain, which ends (R390) (log 106: DEDUCED). -/
def execLaneLockLoss (port lane : Nat) (s : State) : Host.Outcome State Fault Refusal :=
  done (s.atPort port fun p =>
    if (p.st = .active ∨ p.fast) ∧ lane < 8 ∧ (p.lane lane).locked then
      (s.setPort port (p.setLane lane { p.lane lane with locked := false })).badLanes port [lane]
    else s)

/-- The 100 µs of a disable end: what is unacknowledged is lost, and the port is off (R386) (log 96: DEDUCED). -/
def execDisableDrainTimeout (port : Nat) (s : State) : Host.Outcome State Fault Refusal :=
  done (s.atPort port fun p =>
    if !p.draining then s
    else
      let s1 := if p.buf.isEmpty then s else s.raise { src := 0x52, unit := port, info := p.buf.length }
      s1.portOff port)

end Sys2Proof.Machine
end

