-- ==== Sys2Proof/Machine/Nmu.lean ====
section
/-! DEFINITION. What the NMUs do in their own time: requests (R273 to R275), refresh (R255), the update of a set (R302 to R305),
the format refresh (R337), migrations (R267, R268). -/

namespace Sys2Proof.Machine

open Sys2Proof

/-! ### Requests (R273 to R275) -/

/-- A request that the module's mesh carries to a stack, as the NMU sees it. -/
def MReq.forStack (m : MReq) (st : Nat) : Bool := m.toStack && m.dst == st

/-- The NMU and its DRAM awake: a request that reaches a low state other than OFF ends it (R571) (log 87: DESIGN CHOICE). -/
def Nmu.awake (n : Nmu) : Nmu := { n with pst := if n.pst = 1 then 0 else n.pst, dram := if n.dram = 1 then 0 else n.dram }

/-- The oldest request of a core for a stack enters the ingress store and wakes what sleeps. -/
def execNmuRequestArrival (stack core : Nat) (s : State) : Host.Outcome State Fault Refusal :=
  .next (match s.chip.mesh.find? fun m => m.forStack stack && m.req.core == core with
    | none => s
    | some m =>
      let s1 : State := { s with chip.mesh := s.chip.mesh.erase m }
      s1.modNmu stack fun n => { n.awake with ingress := n.ingress ++ [{ m.req with arr := n.events }], events := n.events + 1 })

/-- A write that covers whole sectors, or under COMP the whole unit: nothing stored can stand against it. -/
def NReq.whole (r : NReq) : Bool :=
  if r.comp then r.addr % 1024 == 0 && r.len % 1024 == 0 else r.addr % 32 == 0 && r.len % 32 == 0

/-- The oldest request whose bank holds fewer than 32 of the window's 4,096 entries is admitted, unless an earlier one that still waits
for admission touches its bytes (R275, R313); the data of a write is pulled (R273). A write of whole sectors is acknowledged at once; a
narrower one, which an uncorrectable sector can still fail (R278), when it is served (log 51: DEDUCED). -/
def State.sorterAdmit (s : State) (st : Nat) : State :=
  let n := s.nmu st
  if 4096 ≤ n.window.length then s
  else
    let room (r : NReq) : Bool := decide ((n.window.filter fun w => bankIndex w.addr == bankIndex r.addr).length < 32)
    let cs := ((List.range n.ingress.length).zip n.ingress).find? fun p => room p.2 && !(n.ingress.take p.1).any fun e => e.conflicts p.2
    match cs with
    | none => s
    | some (_, r) =>
      let x := (s.modNmu st fun m => { m with ingress := m.ingress.erase r }).pull r
      match x.2.1 with
      | none => if x.2.2 then x.1.reply r .integrity 17 [] else x.1
      | some r1 =>
        let ack := r1.write && r1.accum.isNone && r1.whole
        let s1 := x.1.modNmu st fun m => { m with window := m.window ++ [{ r1 with acked := ack, adm := m.events }], events := m.events + 1 }
        if ack then s1.reply r1 .ok 0 [] else s1

def execSorterAdmit (stack : Nat) (s : State) : Host.Outcome State Fault Refusal := done (s.sorterAdmit stack)

/-- The window entries of a bank that nothing earlier blocks, oldest first (R275). -/
def Nmu.ready (n : Nmu) (bank : Nat) : List NReq :=
  ((List.range n.window.length).zip n.window).filterMap fun p =>
    if bankIndex p.2.addr == bank && !(n.window.take p.1).any (fun e => e.conflicts p.2) then some p.2 else none

/-- The entry a bank serves next (R274); `aged` of its oldest entries have waited 2,048 MCLK (log 111: DESIGN CHOICE). -/
def Nmu.pick (n : Nmu) (bank aged : Nat) : Option NReq :=
  let own := n.window.filter fun r => bankIndex r.addr == bank
  let rd := n.ready bank
  match rd.find? fun r => (own.take aged).contains r with
  | some r => some r
  | none => match rd.find? fun r => Tab.look n.open_ bank == some (dramRow r.addr) with
    | some r => some r
    | none => rd.head?

/-- Sectors that an access to the bytes of a request touches, with the metadata sectors of compressed units. -/
def State.reach (s : State) (r : NReq) (m : Nat) : Bool :=
  (decide (r.addr / 1024 * 32 ≤ m) && decide (m < (r.addr + r.len + 1023) / 1024 * 32)) ||
    (r.comp && (unitsOf r.addr r.len).any fun u => s.mdataSector u == some m)

/-- A bank serves one entry; sectors in `errs` are found with flipped bits first. -/
def State.bankService (s : State) (st bank aged : Nat) (errs : List (Nat × Nat)) : State :=
  match (s.nmu st).pick bank aged with
  | none => s
  | some r => (s.flipSectors (errs.filter fun e => s.reach r e.1)).serve st r

def execBankService (stack chan pc bank aged : Nat) (errs : List (Nat × Nat)) (s : State) : Host.Outcome State Fault Refusal :=
  done (s.bankService stack (chan * 128 + pc * 64 + bank) aged errs)

/-- A refresh or refresh-management command that the dies request: data, order and results stay (R255, R73). -/
def execDramRefresh (stack : Nat) (s : State) : Host.Outcome State Fault Refusal :=
  .next (s.modNmu stack fun n => { n with refresh := n.refresh + 1 })

/-! ### The update of a set (R302 to R305) -/

/-- Ranges of memory keys of a group's gradient tiles. -/
def State.groupRanges (s : State) (g : Group) : List (Nat × Nat) :=
  (List.range g.nt).map fun t => ((s.gradKey g t).1, 16 + 16 * Fmt.fp32.plen false g.elems)

/-- Ranges of memory keys of the gradient tiles of every group of a set. -/
def State.gradRanges (s : State) (part set : Nat) : List (Nat × Nat) :=
  (s.setGroups part set).flatMap fun x => s.groupRanges x.2.2

/-- The Isle ranges of a dispatched task's tiles (R116). -/
def Run.extents (r : Run) : List (Nat × Nat) :=
  ((r.a.toList ++ r.b.toList ++ r.aux.map (·.2)).map fun p => (p.2, p.1.total)) ++ r.outs.map fun o => (o.base, o.hdr.total)

/-- A dispatched task or an arm in effect holds one of the ranges (R302): its ring, index array or far region, or an extent. -/
def State.held (s : State) (part : Nat) (ks : List (Nat × Nat)) : Bool :=
  (s.partCores part).any fun k =>
    let q := s.core k
    q.slots.any (fun p => match p.2.cur, s.ctx? p.2.ctx with
        | some a, some c => a.effect && (armRanges c a.desc).any fun r => rangeMeets a.segs ks r.1 r.2
        | _, _ => false) ||
      q.queue.any fun t => t.run.elim false fun r => r.extents.any fun e => ks.any (spansMeet e)

/-- Every claim of a set's groups is granted. -/
def State.claimsGranted (s : State) (part set : Nat) : Bool :=
  (s.setGroups part set).all fun x => (x.2.2.slot x.2.2.target).st == .staging

/-- Step 2 of R302 begins. -/
def State.claimsIn (s : State) (part set : Nat) : State :=
  match s.set? part set with
  | none => s
  | some x =>
    if x.st ≠ .staging || x.kernels || s.loading part set || !s.claimsGranted part set || s.held part (s.gradRanges part set) then s
    else (s.modSet part set fun y => { y with kernels := true }).serveAll

def execStageClaimsGranted (part set : Nat) (s : State) : Host.Outcome State Fault Refusal := done (s.claimsIn part set)

/-- The set enters STAGED. -/
def State.staged (s : State) (part set : Nat) : State := s.modSet part set fun y => { y with st := .staged, kernels := false }

/-- STMO has passed in step 1 (R302, R303): ERR with TIMEOUT, and the version-stall fault for a claim that still waits. The error
arose at the first group whose claim waits, or else whose gradient tiles are held; its detail is not stated: a free value
(log 129: DESIGN CHOICE). -/
def State.stageTimeout (s : State) (part set : Nat) : State :=
  match s.set? part set with
  | none => s
  | some x =>
    if x.st ≠ .staging || x.kernels then s
    else
      let wait := (s.setGroups part set).filter fun p => (p.2.2.slot p.2.2.target).claimed
      let f := s.draw 18
      let s1 := match (wait ++ (s.setGroups part set).filter fun p => s.held part (s.groupRanges p.2.2)).head? with
        | some p => f.1.modSet part set fun y => y.noteErr .timeout (f.2 % 256) p.2.1 p.1
        | none => f.1.modSet part set fun y => y.noteErr .timeout (f.2 % 256) 0 0
      let s2 := wait.foldl (fun a p => a.raise
        { src := 0x43, unit := p.1, ctx := some p.2.2.ctx, detail := set, info := packInfo 0 [(2, p.2.1), (4, (p.2.2.slot p.2.2.target).count)] }) s1
      s2.staged part set

def execStageTimeout (part set : Nat) (s : State) : Host.Outcome State Fault Refusal := done (s.stageTimeout part set)

/-- The accumulate flags of a group's layer hold OVFF or NANF: its OVF (R305, R315). -/
def State.accOvf (s : State) (stack : Nat) (g : Group) : Bool := Tab.get (s.nmu stack).accf 0 g.layer % 4 != 0

/-- One group of a set in step 2 of R302, with whether an OVF or ERR has stopped the set's kernels: its OVF and BAD join the set's
result. -/
def State.groupKernel (part set : Nat) (x : OptSet) (a : State × Bool) (p : Nat × Nat × Group) : State × Bool :=
  let g := (a.1.group? p.1 p.2.1).getD p.2.2
  if a.1.accOvf p.1 g then (a.1.modSet part set fun z => { z with ovf := true }, true)
  else if a.2 || g.err then a
  else
    let k := a.1.runKernel g p.2.1 p.1 x.step g.target ((x.epoch + 1) % 2 ^ 32) x.epoch
    (k.s.modSet part set fun z => { z with ovf := z.ovf || k.ovf, bad := z.bad || (k.bad && !k.ovf) }, !k.goes)

/-- The kernels of a set run to their end or to the stop of R302 step 2, in ascending stack and GID; PEND and the set result
(log 38: DEDUCED). -/
def State.runKernels (s : State) (part set : Nat) : State :=
  match s.set? part set with
  | none => s
  | some x =>
    let r := (s.setGroups part set).foldl (State.groupKernel part set x) (s, x.err)
    (r.1.modGroups part set fun g => if g.err then g else { g with pend := true }).staged part set

/-- The kernels of a set end (R302 steps 2 to 4) (log 38: DEDUCED). -/
def State.kernelsEnd (s : State) (part set : Nat) : State :=
  match s.set? part set with
  | none => s
  | some x => if x.st ≠ .staging || !x.kernels then s else s.serveAll.runKernels part set

def execStageKernelsEnd (part set : Nat) (s : State) : Host.Outcome State Fault Refusal := done (s.kernelsEnd part set)

/-- The oldest refresh of a set runs (R337). -/
def execFormatRefresh (part set : Nat) (s : State) : Host.Outcome State Fault Refusal := done (s.serveAll.refreshSet part set)

/-! ### Migrations and deletions (R267, R268, R469, R470) -/

/-- A dispatched task, an arm in effect or a host copy holds a segment. -/
def State.segHeld (s : State) (ctx seg : Nat) : Bool :=
  (s.ctxCores ctx).any (fun k =>
    let q := s.core k
    q.slots.any (fun p => p.2.ctx == ctx && p.2.cur.elim false fun a => a.effect && a.holds.contains seg) ||
      q.queue.any fun t => t.ctx == ctx && t.run.elim false fun r => r.holds.contains seg) ||
    s.chip.hif.running.any fun r => match r.await with
      | .hostCopy c g _ _ _ => c == ctx && g == seg
      | _ => false

/-- The segment a running command moves or deletes just now. -/
def Await.moving : Await → Option (Nat × Nat × Option Segment × Nat)
  | .migrate c g n ph => some (c, g, some n, ph)
  | .delete c g => some (c, g, none, 0)
  | .evict c ((g, n) :: _) ph => some (c, g, some n, ph)
  | .restore c ((g, n) :: _) ph => some (c, g, some n, ph)
  | _ => none

/-- A running command's wait replaced. -/
def State.reawait (s : State) (old new : Await) : State :=
  { s with chip.hif.running := s.chip.hif.running.map fun r => if r.await = old then { r with await := new } else r }

/-- The running command that moves or deletes a segment. -/
def State.mover? (s : State) (ctx seg : Nat) : Option Await :=
  (s.chip.hif.running.find? fun r => r.await.moving.elim false fun m => m.1 == ctx && m.2.1 == seg).map (·.await)

def Await.copying : Await → Await
  | .migrate c g n _ => .migrate c g n 1
  | .evict c l _ => .evict c l 1
  | .restore c l _ => .restore c l 1
  | w => w

/-- Frames and pages of a segment that nothing else names are zeroed (log 32: DEDUCED). -/
def State.zeroOld (s : State) (g : Segment) : State :=
  let others := s.allSegs.flatMap Segment.keyRuns
  s.zeroAll ((g.keyRuns ++ g.metaRuns).filter fun r => !others.any (spansMeet r))

/-- A segment is removed with its frames (R267 step 5, R268) (log 32: DEDUCED). -/
def State.dropSegment (s : State) (ctx seg : Nat) : State :=
  match (s.ctx? ctx).bind fun c => Tab.look c.segs seg with
  | none => s
  | some g => (s.serveAll.modCtx ctx fun c => { c with segs := Tab.erase c.segs seg }).zeroOld g

/-- Step 2 of R267 is done: the copy starts, or a deletion completes. -/
def State.holdersEnded (s : State) (ctx seg : Nat) : State :=
  match s.mover? ctx seg with
  | none => s
  | some w =>
    if s.segHeld ctx seg || (w.moving.elim true fun m => m.2.2.2 != 0) then s
    else match w with
      | .delete _ _ => (s.dropSegment ctx seg).answer (· == w) .ok
      | _ => s.reawait w w.copying

def execMigrationHoldersEnded (ctx seg : Nat) (s : State) : Host.Outcome State Fault Refusal := done (s.holdersEnded ctx seg)

/-- A move or deletion ends without effect: MIG cleared, the destination released, the command answered. -/
def State.moveFails (s : State) (ctx seg : Nat) (w : Await) (st : Status) : State :=
  (s.modCtx ctx fun c => { c with segs := Tab.adjust c.segs seg fun g => { g with mig := false } }).answer (· == w) st

def execMigrationTimeout (ctx seg : Nat) (s : State) : Host.Outcome State Fault Refusal :=
  done (match s.mover? ctx seg with
    | none => s
    | some w => if w.moving.elim false (fun m => m.2.2.2 == 0) then s.moveFails ctx seg w .timeout else s)

/-- A segment's bytes copied to a new placement; the answer says whether the source held an uncorrectable byte. -/
def State.copySegment (s : State) (g n : Segment) : State × Bool :=
  (kibs g.cbase g.bytes).foldl (fun (a : State × Bool) p =>
    if a.2 then a
    else
      let r := a.1.anyRead (g.key p.1) p.2 g.comp
      if r.2 then (r.1, true) else ((r.1.anyWrite (n.key p.1) (r.1.rdN (g.key p.1) p.2) n.comp).1, false)) (s, false)

/-- What a completed move leaves its command to do. -/
def State.nextMove (s : State) (w : Await) : State :=
  let mark (a : State) (ctx seg : Nat) : State := a.modCtx ctx fun c => { c with segs := Tab.adjust c.segs seg fun g => { g with mig := true } }
  match w with
  | .evict c (_ :: (g, n) :: rest) _ => (mark s c g).reawait w (.evict c ((g, n) :: rest) 0)
  | .restore c (_ :: (g, n) :: rest) _ => (mark s c g).reawait w (.restore c ((g, n) :: rest) 0)
  | .evict c _ _ => ((s.modCtx c fun x => { x with st := .evicted }).evictHalves c).answer (· == w) .ok
  | .restore c _ _ => (s.modCtx c fun x => { x with st := .stopped }).answer (· == w) .ok
  | _ => s.answer (· == w) .ok

/-- Steps 3 to 5 of R267: the copy ends, the entry is swapped, the old frames are zeroed and freed. -/
def State.copyComplete (s0 : State) (ctx seg : Nat) : State :=
  let s := s0.serveAll
  match s.mover? ctx seg with
  | none => s0
  | some w =>
    match w.moving, (s.ctx? ctx).bind fun c => Tab.look c.segs seg with
    | some (_, _, some n, 1), some g =>
      let z := s.zeroAll (n.keyRuns ++ n.metaRuns)
      let x := z.copySegment g n
      if x.2 then x.1.moveFails ctx seg w .integrity
      else
        let n1 := match w with
          | .evict _ _ _ => { n with former := some (coreOfDpa g.dbase) }
          | _ => n
        let s1 := x.1.modCtx ctx fun c => { c with segs := Tab.put c.segs seg { n1 with rd := g.rd, wr := g.wr, mig := false } }
        (s1.nextMove w).zeroOld g
    | _, _ => s0

def execMigrationCopyComplete (ctx seg : Nat) (s : State) : Host.Outcome State Fault Refusal := done (s.copyComplete ctx seg)

end Sys2Proof.Machine
end

