-- ==== Sys2Proof/Machine/MbSeg.lean ====
section
/-! DEFINITION. Mailbox commands of segments and memory: segments (R261 to R268), parameter groups (R284 to R286), NMU programs
(R306, R307), state and weights of a group (R316, R317), host copies (R508, R509). -/

namespace Sys2Proof.Machine

open Sys2Proof

/-! ### Segments -/

def execSegCreate (c : Caller) (d : List Byte) (ctx : Nat) (s : State) : Host.Outcome State Fault Refusal :=
  let g := Segment.ofDesc d
  let part := ctxPart ctx
  let segs := ((s.ctx? ctx).map (·.segs)).getD []
  let placed := if g.fixed then some g else s.place part s.grants g
  done (s.mbox c 0x0300 [.ctx ctx] 32
    ([(!zeroFlds d [(6, 0, 16), (8, 36, 28), (16, 46, 2), (22, 0, 1), (23, 0, 8), (26, 12, 4), (28, 3, 3), (29, 0, 24)], .argRange, 2),
        s.chkCtxPart c ctx, s.chkResp c 32] ++ s.chkCtx ctx ++
      [(!segReservedOk d || !g.shapeOk, .argRange, 5), (segs.any fun p => g.overlaps p.2, .argRange, 6),
        (decide (4096 ≤ segs.length), .noResource, 7),
        (g.fixed && (c.fn != 0 || touchesControl g.dbase g.bytes), .denied, 8),
        (g.fixed && (!inTier g.arch g.dbase g.bytes || !s.fixedGranted part g), .argRange, 8),
        (!s.policyOk part g, .argRange, 9), (placed.isNone, .noResource, 10)])
    fun m a =>
      let n := placed.getD g
      let id := (freeKey 4096 segs).getD 0
      if g.fixed then (a.addSegment ctx id n).respond m .ok 0 id (n.bytesOf id part)
      else a.run m [.ctx ctx] (.newSeg ctx id n) id (n.bytesOf id part))

/-- A command about one segment: what every one of them starts with. -/
def State.segChecks (s : State) (c : Caller) (ctx seg : Nat) : List (Bool × Status × Nat) :=
  [s.chkCtxPart c ctx] ++ s.chkCtx ctx ++ [((s.seg? ctx seg).isNone, .argRange, 0)]

def execSegQuery (c : Caller) (ctx seg : Nat) (s : State) : Host.Outcome State Fault Refusal :=
  done (s.mbox c 0x0301 [.ctx ctx, .seg ctx seg] 32 ([s.chkCtxPart c ctx, s.chkResp c 32] ++ s.segChecks c ctx seg)
    fun m a => match a.seg? ctx seg with
      | some g => a.respond m .ok 0 0 (g.bytesOf seg (ctxPart ctx))
      | none => a.respond m .argRange)

def execSegProtect (c : Caller) (ctx seg perm : Nat) (s : State) : Host.Outcome State Fault Refusal :=
  done (s.mbox c 0x0302 [.ctx ctx, .seg ctx seg] 0
    ([(decide (3 < perm), .argRange, 2)] ++ s.segChecks c ctx seg ++ [((s.seg? ctx seg).elim false (·.vers.isSome), .argRange, 0)])
    fun m a => (a.modCtx ctx fun x => { x with segs := Tab.adjust x.segs seg fun g =>
      { g with rd := perm.testBit 1, wr := perm.testBit 0 } }).respond m .ok)

/-- The segment that a migrate asks for, before it has a place (log 30: DEDUCED). -/
def Segment.moved (g : Segment) (attr pref : Nat) : Segment :=
  { g with arch := attr.testBit 5, comp := attr.testBit 4, ilv := bitsOf attr 2 2, fixed := false, pref := pref, dbase := 0
           mdata := [], former := none }

/-- An open window lies in a segment of a context (R403). -/
def State.windowOn (s : State) (ctx : Nat) (g : Segment) : Bool :=
  s.chip.wins.any fun p => p.2.ctx == ctx && decide (g.cbase ≤ p.2.cbase ∧ p.2.cbase < g.cbase + g.bytes)

def execSegMigrate (c : Caller) (ctx seg attr pref tmo : Nat) (s : State) : Host.Outcome State Fault Refusal :=
  let part := ctxPart ctx
  let old := (s.seg? ctx seg).getD (Segment.ofDesc [])
  let g := old.moved attr pref
  let placed := s.place part s.grants g
  let objs : List Obj := [.ctx ctx, .seg ctx seg]
  done (s.mboxPast (isCopyOn ctx seg) c 0x0303 objs
    ([(attr.testBit 0, .argRange, 2)] ++ s.segChecks c ctx seg ++
      [(decide (10000 < tmo), .argRange, 0), (!g.shapeOk, .argRange, 5), (!s.policyOk part g, .argRange, 9), (placed.isNone, .noResource, 10),
        (old.vers.isSome || old.mig || s.windowOn ctx old, .state, 0)])
    fun m a => (a.markMig ctx seg).run m objs (.migrate ctx seg (placed.getD g) 0))

def execSegDelete (c : Caller) (ctx seg tmo : Nat) (s : State) : Host.Outcome State Fault Refusal :=
  let objs : List Obj := [.ctx ctx, .seg ctx seg]
  done (s.mboxPast (isCopyOn ctx seg) c 0x0304 objs
    (s.segChecks c ctx seg ++
      [(decide (10000 < tmo), .argRange, 0), ((s.seg? ctx seg).elim false fun g => g.vers.isSome || g.mig || s.windowOn ctx g, .state, 0)])
    fun m a => (a.markMig ctx seg).run m objs (.delete ctx seg))

/-! ### Parameter groups (R284, R285) -/

/-- Constants that a kernel uses (R293). -/
def kernelUses (k : Nat) : List Nat :=
  match k with
  | 0 => [] | 1 => [0, 1, 2, 3, 4, 5, 6] | 2 => [0, 1, 2, 3, 5, 6] | 3 => [0, 1, 5, 6] | _ => List.range 8

/-- Check 1 of R285 (log 29: DEDUCED). -/
def Group.fieldsOk (g : Group) : Bool :=
  let k := g.kernel
  let w := fld g.desc 20 0 4
  (decide (k ≤ 4) || decide (0x10 ≤ k ∧ k ≤ 0x1F)) && decide (1 ≤ g.nr ∧ g.nr ≤ 2 ^ 24 ∧ 1 ≤ g.nc ∧ g.nc ≤ 2 ^ 24 ∧ g.nr * g.nc ≤ 2 ^ 31)
    && decide (1 ≤ g.tr ∧ g.tr ≤ 4096 ∧ 1 ≤ g.tc ∧ g.tc ≤ 4096 ∧ g.elems ≤ 2 ^ 24)
    && (w == 1 || w == 2 || decide (4 ≤ w ∧ w ≤ 0xC)) && g.wscale != 0xFF && decide (g.wrnd < 3) && decide (fld g.desc 23 0 4 ≤ 3)
    && g.gstride % 16 == 0
    && (List.range 8).all (fun i => !nonFinite (g.const i) && ((kernelUses k).contains i || (g.const i).toNat == 0))
    && (!g.nest || k == 3) && (!g.fmom || k == 4)

/-- Check 2 of R285. -/
def Group.formatOk (g : Group) : Bool :=
  let w := fld g.desc 20 0 4
  let blk := decide (0 < g.wfmt.blockOf g.wnoblk)
  (!g.wnoblk || decide (6 ≤ w ∧ w ≤ 10))
    && (!blk || ((g.tc % 32 == 0 || (g.ord == 1 && !g.xcopy)) && (g.tr % 32 == 0 || (g.ord == 0 && !g.xcopy))))
    && (!g.xcopy || blk) && (g.kernel != 4 || decide (g.nc ≤ 65536))

/-- The two segments of a group, unplaced (R286). -/
def State.groupSegs (s : State) (g : Group) (gid : Nat) : Segment × Segment :=
  let sz := g.sizes
  let mk (cva bytes : Nat) (copies : Bool) : Segment :=
    { cbase := cva, npage := bytes / 4096, dbase := 0, rd := false, wr := false, arch := false, comp := false, ilv := 0, fixed := false
      pref := g.stack, vers := some (g.stack, gid), copies := copies }
  (mk g.scva (2 * stateSize (g.arrays (s.nsOf g))) false, mk g.wcva (2 * sz.2.2) true)

/-- Check 6 of R285: what R262 refuses the two segments with. -/
def groupSegFail (segs : Tab Segment) (a b : Segment) : Option Status :=
  if !a.shapeOk || !b.shapeOk || a.overlaps b || segs.any (fun p => a.overlaps p.2 || b.overlaps p.2) then some .argRange
  else if 4095 ≤ segs.length then some .noResource else none

/-- Check 7 of R285. -/
def Group.gradFail (g : Group) (segs : Tab Segment) : Option Status :=
  let one := 16 + 16 * Fmt.fp32.plen false g.elems
  match segOver segs g.gcva ((g.nt - 1) * g.gstride + one) with
  | none => some .argRange
  | some (_, q) =>
    if q.arch || q.ilv != 0 || (placeDpa 0 q.dbase).1 != g.stack then some .argRange
    else if q.rd && q.wr then none else some .denied

/-- A group made (R285, R286, R310) (log 34: DEDUCED). -/
def State.newGroup (s : State) (g : Group) (gid sid wid : Nat) (a b : Segment) : State :=
  let sz := g.sizes
  let d := overlay (overlay (overlay (overlay g.desc 96 (leBytes 2 sid)) 98 (leBytes 2 wid ++ leBytes 4 sz.1)) 104 (leBytes 6 sz.2.1)) 112 (leBytes 6 sz.2.2)
  let g1 : Group := { desc := d }
  let s1 := (s.addSegment g.ctx sid a).addSegment g.ctx wid b
  let s2 := s1.modNmu g.stack fun n => { n with groups := Tab.put n.groups gid g1 }
  if g.gclr then s2.serveAll.clearGrads g1 (((s.set? (ctxPart g.ctx) g.set).map (·.epoch)).getD 0) else s2

def execPgroupCreate (c : Caller) (d : List Byte) (s : State) : Host.Outcome State Fault Refusal :=
  let g : Group := { desc := d }
  let part := ctxPart g.ctx
  let segs := ((s.ctx? g.ctx).map (·.segs)).getD []
  let gid := freeKey 1024 (s.nmu g.stack).groups
  let pr := s.groupSegs g (gid.getD 0)
  let sid := (freeKey 4096 segs).getD 0
  let wid := (freeKey 4096 (Tab.put segs sid pr.1)).getD 0
  let fail := groupSegFail segs pr.1 pr.2
  let placed := s.placeAll part g.ctx [(sid, pr.1), (wid, pr.2)]
  let x := s.set? part g.set
  done (s.mbox c 0x0305 [.ctx g.ctx, .set part g.set] 128
    [(!zeroFlds d [(1, 4, 4), (2, 12, 4), (4, 9, 7), (6, 5, 3), (7, 0, 3), (8, 25, 7), (12, 25, 7), (16, 13, 3), (18, 13, 3), (20, 5, 3), (22, 3, 5),
          (23, 4, 4), (28, 0, 32), (38, 0, 16), (46, 0, 16), (54, 0, 16), (60, 0, 32), (96, 12, 4), (98, 12, 4), (110, 0, 16), (118, 0, 80)], .argRange, 2),
      s.chkBound c, s.chkResp c 128, (!g.fieldsOk, .argRange, 5), (!g.formatOk, .argRange, 6),
      (decide (0x10 ≤ g.kernel) && (!s.stackInPart part g.stack || (Tab.look (s.nmu g.stack).progs (g.kernel - 16)).isNone), .state, 7),
      (!s.liveCtx g.ctx || !s.mayAct c.fn part || x.isNone, .argRange, 8), (x.elim false (·.st != .idle), .state, 8),
      (!s.stackInPart part g.stack, .argRange, 9), (!(s.nmu g.stack).avail, .noResource, 9),
      (fail.isSome, fail.getD .ok, 10), (placed.isNone, .noResource, 10),
      ((g.gradFail segs).isSome, (g.gradFail segs).getD .ok, 11), (gid.isNone, .noResource, 12)]
    fun m a =>
      match placed with
      | some [(_, p), (_, q)] =>
        let b := a.newGroup g (gid.getD 0) sid wid p q
        b.respond m .ok 0 (gid.getD 0) (((b.group? g.stack (gid.getD 0)).map (·.desc)).getD [])
      | _ => a.respond m .noResource 10)

/-- A command about a group: the names of stack and group. -/
def State.groupChecks (s : State) (c : Caller) (st gid : Nat) : List (Bool × Status × Nat) :=
  s.chkStack c st ++ [((s.group? st gid).isNone, .argRange, 0)]

/-- The set of a group is IDLE. -/
def State.groupIdle (s : State) (st gid : Nat) : Bool :=
  ((s.group? st gid).bind fun g => s.set? (ctxPart g.ctx) g.set).elim false (·.st == .idle)

/-- The object that a command about a group names (R496): the group. -/
def groupObjs (st gid : Nat) : List Obj :=
  [.group st gid]

def execPgroupDelete (c : Caller) (st gid : Nat) (s : State) : Host.Outcome State Fault Refusal :=
  done (s.mbox c 0x0305 (groupObjs st gid) 0 (s.groupChecks c st gid ++ [(!s.groupIdle st gid, .state, 0)]) fun m a =>
    match a.group? st gid with
    | none => a.respond m .argRange
    | some g =>
      let b := a.modNmu st fun n => { n with groups := Tab.erase n.groups gid }
      (b.modCtx g.ctx fun x => { x with segs := x.segs.filter fun p => p.2.vers != some (st, gid) }).respond m .ok)

/-! ### NMU programs (R306) -/

/-- A group on a stack runs program `n`. -/
def State.progUsed (s : State) (st n : Nat) : Bool := (s.nmu st).groups.any fun g => g.2.kernel == 16 + n

/-- The names that an NMU-program command carries. -/
def State.progChecks (s : State) (c : Caller) (part st prog : Nat) : List (Bool × Status × Nat) :=
  [s.chkPart c part, (c.fn != 0 && !s.stackInPart part st, .denied, 3), s.chkStart part, (!s.stackInPart part st || decide (15 < prog), .argRange, 0)]

def execNmuProgramLoad (c : Caller) (part st prog : Nat) (bs : List Byte) (s : State) : Host.Outcome State Fault Refusal :=
  done (s.mbox c 0x0306 [] 0
    ([(bs.length != 16 + 8 * num bs 0 1, .argRange, 2)] ++ s.progChecks c part st prog ++
      [(s.progUsed st prog, .state, 0), (!ucodeLoadOk bs, .argRange, 0)])
    fun m a => ((a.modNmu st fun n => { n with progs := Tab.put n.progs prog bs }).measuredIf 8 (Tab.look (s.nmu st).progs prog != some bs)).respond m .ok)

def execNmuProgramDelete (c : Caller) (part st prog : Nat) (s : State) : Host.Outcome State Fault Refusal :=
  done (s.mbox c 0x0306 [] 0
    (s.progChecks c part st prog ++ [((Tab.look (s.nmu st).progs prog).isNone, .argRange, 0), (s.progUsed st prog, .state, 0)])
    fun m a => ((a.modNmu st fun n => { n with progs := Tab.erase n.progs prog }).measured 8).respond m .ok)

/-! ### State and weights of a group (R316, R317) -/

/-- A stack-local source region of the context that owns a group: its key, or the status that refuses it. -/
def State.groupSource (s : State) (g : Group) (cva n : Nat) (here : Bool) : Nat ⊕ Status :=
  match segOver (((s.ctx? g.ctx).map (·.segs)).getD []) cva n with
  | none => .inr .argRange
  | some (_, q) =>
    if q.arch || q.ilv != 0 || (here && (placeDpa 0 q.dbase).1 != g.stack) then .inr .argRange
    else if q.rd then .inl (q.key cva) else .inr .denied

/-- The status of a refused source, if it is refused. -/
def srcFail (x : Nat ⊕ Status) : Option Status := match x with
  | .inl _ => none
  | .inr st => some st

/-- SSZ of a group. -/
def State.ssz (s : State) (g : Group) : Nat := stateSize (g.arrays (s.nsOf g))

/-- The copy of a state-load: a bad source ends it. The set takes the epoch with the copy, before the working copies follow (R316)
(log 35: DEDUCED). -/
def State.loadState (s : State) (m : Cmd) (st gid epoch : Nat) (g : Group) (k : Nat) : State :=
  let s0 := s.serveAll
  let x := s0.stackRead k (s0.ssz g) false
  if x.2 then x.1.respond m .integrity
  else
    let s1 := (x.1.stackWrite (s0.stateKey g g.cur 0) (s0.rdN k (s0.ssz g)) false).1
    (s1.modSet (ctxPart g.ctx) g.set fun y => { y with epoch := epoch % 2 ^ 32 }).run m (groupObjs st gid) (.load st gid none (some (epoch % 2 ^ 32)))

def execStateLoad (c : Caller) (st gid epoch cva : Nat) (s : State) : Host.Outcome State Fault Refusal :=
  let g := s.group? st gid
  let src := g.elim (.inr .argRange) fun x => s.groupSource x cva (s.ssz x) false
  done (s.mbox c 0x0307 (groupObjs st gid) 0
    (s.groupChecks c st gid ++ [(!s.groupIdle st gid, .state, 0), ((srcFail src).isSome, (srcFail src).getD .ok, 0)])
    fun m a => match g, src with
      | some x, .inl k => a.loadState m st gid epoch x k
      | _, _ => a.respond m .argRange)

/-- A choice of reading (log 36: DEDUCED). -/
def execStateExport (c : Caller) (st gid haddr : Nat) (s : State) : Host.Outcome State Fault Refusal :=
  done (s.mbox c 0x0308 (groupObjs st gid) 0 (s.groupChecks c st gid ++ [(!s.groupIdle st gid, .state, 0)]) fun m a =>
    match a.group? st gid with
    | none => a.respond m .argRange
    | some g =>
      let b := a.serveAll
      let k := b.stateKey g g.cur 0
      let x := b.stackRead k (b.ssz g) false
      if x.2 then x.1.respond m .integrity else (x.1.writeHost c.fn [(haddr, x.1.hostBytes c.fn (b.ssz g))] (b.rdN k (b.ssz g))).respond m .ok)

/-- The plaintext of the encrypted records from record `n` at offset `off` on, or the number of the first that fails (R317);
`bad` says which bytes came back uncorrectable. -/
def openRecords (key total : Nat) (bad : Nat → Nat → Bool) : Nat → Nat → Nat → List Byte → List Byte ⊕ Nat
  | 0, n, _, bs => if bs.isEmpty then .inl [] else .inr n
  | fuel + 1, n, off, bs =>
    if bs.isEmpty then .inl []
    else
      let len := num bs 12 4
      if len < 16 ∨ 65536 < len ∨ len % 16 ≠ 0 ∨ bs.length < 32 + len ∨ bad off (32 + len) then .inr n
      else
        match gcmOpen key (slice bs 0 12) (leBytes 8 n ++ leBytes 8 total) (slice bs 16 len) (beNat (slice bs (16 + len) 16)) with
        | none => .inr n
        | some p => match openRecords key total bad fuel (n + 1) (off + 32 + len) (bs.drop (32 + len)) with
          | .inl q => .inl (p ++ q)
          | .inr e => .inr e

/-- Records that a byte string holds, by their lengths. -/
def recordCount : Nat → List Byte → Nat
  | 0, _ => 0
  | fuel + 1, bs => if bs.isEmpty then 0 else 1 + recordCount fuel (bs.drop (32 + num bs 12 4))

/-- The decryption of a weight-import: on a failed record W is zeroed and the weight-integrity fault raised. -/
def State.importWeights (s : State) (m : Cmd) (st gid key bytes : Nat) (g : Group) (k : Nat) : State :=
  let s0 := s.serveAll
  let n := 4 * g.nr * g.nc
  let x := s0.stackRead k bytes false
  let kv := ((Tab.look s.chip.enc.keys (keyIndex (s.stackPart st) key)).map (·.key)).getD 0
  let fuel := bytes / 48 + 1
  let bad (off len : Nat) : Bool := (s0.sectorErrs (k + off) len).any fun e => decide (2 ≤ symbols e.2)
  let fail (rec : Nat) : State := ((x.1.zeroW st gid).raise { src := 0x44, unit := st, ctx := some g.ctx, detail := gid, info := rec }).respond m .integrity
  match openRecords kv n bad fuel 0 0 (s0.rdN k bytes) with
  | .inl p =>
    if p.length = n then
      let s1 := x.1.zero (s0.stateKey g g.cur 0) (s0.ssz g)
      (s1.stackWrite (s0.stateKey g g.cur 0) p false).1.run m (groupObjs st gid) (.load st gid (some key) none)
    else fail (recordCount fuel (s0.rdN k bytes))
  | .inr e => fail e

def execWeightImport (c : Caller) (st gid key cva bytes : Nat) (s : State) : Host.Outcome State Fault Refusal :=
  let g := s.group? st gid
  let src := if bytes = 0 then .inl 0 else g.elim (.inr .argRange) fun x => s.groupSource x cva bytes true
  done (s.mbox c 0x0309 (groupObjs st gid) 0
    (s.groupChecks c st gid ++
      [(decide (15 < key), .argRange, 0), (!s.groupIdle st gid, .state, 0), (!(s.nmu st).keys.contains key, .state, 0),
        ((srcFail src).isSome, (srcFail src).getD .argRange, 0)])
    fun m a => match g, src with
      | some x, .inl k => a.importWeights m st gid key bytes x k
      | _, _ => a.respond m .argRange)

/-! ### Host copies (R508) -/

/-- The bytes of an external list cover LEN: exactly, or, in confidential mode, with the records that carry it (R508, R515). -/
def State.hcCovers (s : State) (fn : Nat) (a : List Byte) (n : Nat) : Bool :=
  if (s.fn fn).conf.isNone || hcDir a == 1 then n == s.hostBytes fn (hcLen a)
  else decide (s.hostBytes fn (hcLen a) ≤ n) && (n - hcLen a) % 32 == 0 && decide ((n - hcLen a) / 32 ≤ hcLen a / 16)

/-- The external list of a copy is in order (check 1 of R508). -/
def State.hcListOk (s : State) (fn : Nat) (a ext : List Byte) : Bool :=
  ext.isEmpty ||
    (hcHaddr a == 0 && (List.range (ext.length / 16)).all (fun i => num ext (16 * i) 8 % 16 == 0 && num ext (16 * i + 8) 4 % 16 == 0 && num ext (16 * i + 12) 4 == 0)
      && s.hcCovers fn a (sumNat ((List.range (ext.length / 16)).map fun i => num ext (16 * i + 8) 4)))

def execHostCopy (c : Caller) (d ext : List Byte) (s : State) : Host.Outcome State Fault Refusal :=
  let ctx := fld d 0 0 9
  let n := hcLen d
  let p := segOver (((s.ctx? ctx).map (·.segs)).getD []) (hcCva d) n
  let out := hcDir d == 1
  let objs : List Obj := [.ctx ctx, .seg ctx ((p.map (·.1)).getD 0)]
  done (s.mbox c 0x030A objs 0
    ([(!zeroFlds d [(0, 9, 7), (2, 1, 7), (3, 6, 1), (4, 10, 6), (6, 0, 16), (14, 0, 16), (29, 0, 24)] || ext.length % 16 != 0, .argRange, 2),
        s.chkCtxPart c ctx, (c.fn != 0 && hcSen d && !s.coreInPart (ctxPart ctx) (hcScore d), .denied, 3)] ++ s.chkCtx ctx ++
      [(hcSen d && !s.coreInPart (ctxPart ctx) (hcScore d), .argRange, 0),
        (p.isNone || n % 16 != 0 || decide (n < 16) || !s.hcListOk c.fn d ext, .argRange, 5),
        (p.elim false fun q => q.2.vers.isSome || !(if out then q.2.rd else q.2.wr), .denied, 6), (p.elim false (·.2.mig), .state, 7)])
    fun m a =>
      let w : Await := .hostCopy ctx ((p.map (·.1)).getD 0) (hcDir d + 2) n (slice d 0 32 ++ ext)
      (a.run m objs w).copyBegin { seq := m.seq, caller := m.caller, opc := m.opc, objs := objs, await := w, ctr := m.ctr, mute := m.mute })

end Sys2Proof.Machine
end

