-- ==== Sys2Proof/Machine/Rings.lean ====
section
/-! DEFINITION. Mailbox commands of submission and completion rings (R502, R506). -/

namespace Sys2Proof.Machine

open Sys2Proof

/-- Objects a ring command names: `kind` 0 submission, 1 completion. -/
def ringObj (fn kind n : Nat) : Obj := .ring fn kind n

/-- Base and shadow of a ring are aligned. -/
def ringAligned (base shadow : Nat) : Bool := base % 4096 == 0 && shadow % 16 == 0

def execRingCreateSubmission (c : Caller) (ctx form logn base shadow : Nat) (s : State) : Host.Outcome State Fault Refusal :=
  let n := freeKey 64 (s.fn c.fn).sub
  done (s.mbox c 0x0400 [.ctx ctx] 0
    ([s.chkCtxPart c ctx] ++ s.chkCtx ctx ++
      [(decide (1 < form ∨ logn < 4 ∨ 12 < logn) || !ringAligned base shadow, .argRange, 0), (n.isNone, .noResource, 0),
        ((s.ctx? ctx).elim true (·.notice.isNone), .state, 0)])
    fun m a =>
      let r : SubRing := { ctx := ctx, q1 := form == 1, logn := logn, base := base, shadow := shadow }
      (a.modFn c.fn fun f => { f with sub := Tab.put f.sub (n.getD 0) r }).respond m .ok 0 (n.getD 0))

def execRingCreateCompletion (c : Caller) (logn vector icnt itime base shadow : Nat) (s : State) : Host.Outcome State Fault Refusal :=
  let n := freeKey 16 (s.fn c.fn).cpl
  done (s.mbox c 0x0400 [] 0
    [s.chkBound c,
      (decide (logn < 6 ∨ 15 < logn ∨ icnt < 1 ∨ 256 < icnt ∨ 1000 < itime ∨ vector = 0 ∨ msixEntries c.fn ≤ vector) || !ringAligned base shadow,
        .argRange, 0), (n.isNone, .noResource, 0)]
    fun m a =>
      let r : CplRing := { logn := logn, vector := vector, icnt := icnt, itime := itime, base := base, shadow := shadow }
      (a.modFn c.fn fun f => { f with cpl := Tab.put f.cpl (n.getD 0) r }).respond m .ok 0 (n.getD 0))

/-- Held records of a ring discarded and counted (R502, R506) (log 43: DEDUCED). -/
def State.loseHeld (s : State) (r : CplRing) : State :=
  r.held.foldl (fun a h => a.modCtx h.1 fun x => { x with lost := satAdd 32 x.lost 1 }) s

/-- A ring is some context's notice ring. -/
def State.isNotice (s : State) (fn ring : Nat) : Bool := s.chip.ctxs.any fun x => x.2.notice == some (fn, ring)

/-- A ring of a function exists. -/
def State.ringThere (s : State) (fn kind ring : Nat) : Bool :=
  if kind = 0 then (Tab.look (s.fn fn).sub ring).isSome else kind == 1 && (Tab.look (s.fn fn).cpl ring).isSome

def execRingDestroy (c : Caller) (kind ring : Nat) (s : State) : Host.Outcome State Fault Refusal :=
  done (s.mbox c 0x0400 [ringObj c.fn kind ring] 0
    [s.chkBound c, (!s.ringThere c.fn kind ring, .argRange, 0), (kind == 1 && s.isNotice c.fn ring, .state, 0)]
    fun m a =>
      let b := if kind = 0 then a.modFn c.fn fun f => { f with sub := Tab.erase f.sub ring }
        else ((Tab.look (a.fn c.fn).cpl ring).elim a a.loseHeld).modFn c.fn fun f => { f with cpl := Tab.erase f.cpl ring }
      b.respond m .ok 0 ring)

/-- A ring's ERROR cleared and its indices at 0. -/
def State.resetRing (s : State) (fn kind ring : Nat) : State :=
  if kind = 0 then
    s.modFn fn fun f => { f with sub := Tab.adjust f.sub ring fun r =>
      { r with err := false, prod := 0, cons := 0, reading := false, head := none, checked := none } }
  else
    ((Tab.look (s.fn fn).cpl ring).elim s s.loseHeld).modFn fn fun f => { f with cpl := Tab.adjust f.cpl ring fun r =>
      { r with err := false, prod := 0, cons := 0, cseq := 0, since := 0, held := [] } }

def execRingReset (c : Caller) (kind ring : Nat) (s : State) : Host.Outcome State Fault Refusal :=
  done (s.mbox c 0x0400 [ringObj c.fn kind ring] 0 [s.chkBound c, (decide (1 < kind), .argRange, 0)]
    fun m a => (a.resetRing c.fn kind ring).respond m .ok 0 ring)

def execRingBindNotice (c : Caller) (ctx ring : Nat) (s : State) : Host.Outcome State Fault Refusal :=
  done (s.mbox c 0x0400 [.ctx ctx, ringObj c.fn 1 ring] 0
    ([s.chkCtxPart c ctx] ++ s.chkCtx ctx ++ [(!s.ringThere c.fn 1 ring, .argRange, 0)])
    fun m a => (a.modCtx ctx fun x => { x with notice := some (c.fn, ring) }).respond m .ok 0 ring)

end Sys2Proof.Machine
end

