-- ==== Sys2Proof/Machine/Tasks.lean ====
section
/-! DEFINITION. Submission entries, dispatch, passes, drains, copies, the end of tasks, the state mover
(03, 04, 05; 14 R462 to R464; 15 R503, R504). -/

namespace Sys2Proof.Machine

open Sys2Proof

/-! ### Submission entries (R463, R503, R504) -/

/-- The entry at a ring's head taken: the consumer index and its shadow advance, the next entry is read (R489). -/
def State.takeEntry (s : State) (fn ring : Nat) (r : SubRing) : State :=
  let cons := (r.cons + 1) % 2 ^ 32
  let s1 := s.modFn fn fun f => { f with sub := Tab.put f.sub ring { r with cons := cons, head := none, checked := none } }
  (s1.emit fn (.hostWrite fn r.shadow (leBytes 8 cons))).pumpRing fn ring

/-- The context a ring's entries are for; none where it exists no more or is DEAD. -/
def State.ringCtx (s : State) (r : SubRing) : Option Context := (s.ctx? r.ctx).bind fun c => if c.st = .dead then none else some c

/-- A refused TASK entry: its record, and the entry is taken (R504). -/
def State.refuseTask (s : State) (fn ring : Nat) (r : SubRing) (core opcode tid detail : Nat) : State :=
  (s.post r.ctx (taskRecord tid .argRange {} core opcode detail 0 r.ctx) (some (ring, r.cons % 2 ^ 16))).takeEntry fn ring r

/-- An accepted task placed where its context may hold an entry, or left waiting at the head (R463). -/
def State.placeOrWait (s : State) (fn ring : Nat) (r : SubRing) (core : Nat) (d : List Byte) : State :=
  if s.mayHold core r.ctx then
    (s.enqueue core { ctx := r.ctx, desc := d, origin := some (ring, r.cons % 2 ^ 16) }).takeEntry fn ring r
  else s.modFn fn fun f => { f with sub := Tab.put f.sub ring { r with checked := some (core, d) } }

/-- The header of a submission slot is well formed and names a core of the context's partition (R503, R504). -/
def State.entryHeaderOk (s : State) (ctx : Nat) (e : List Byte) : Bool :=
  (num e 0 1 == 1 || num e 0 1 == 2) && zeroFlds e [(1, 0, 8), (2, 10, 6)] && zeroRange e 4 12 && s.coreInPart (ctxPart ctx) (fld e 2 0 10)

/-- A native TASK entry is checked and placed, left waiting, or refused (R113, R463, R504). -/
def State.taskEntry (s : State) (fn ring : Nat) : State :=
  match Tab.look (s.fn fn).sub ring with
  | none => s
  | some r =>
    match r.head, s.ringCtx r with
    | some e, some c =>
      if !s.serving || r.q1 || r.err || r.checked.isSome || num e 0 1 == 2 then s
      else
        let d := slice e 16 256
        let core := fld e 2 0 10
        if !s.entryHeaderOk r.ctx e then s.refuseTask fn ring r core (opc d) (taskId d) 48
        else match s.acceptCheck r.ctx c 2 d with
          | some n => s.refuseTask fn ring r core (opc d) (taskId d) (48 + n)
          | none => s.placeOrWait fn ring r core d
    | some _, none => s.takeEntry fn ring r
    | none, _ => s

def execSubmissionTaskEntry (fn ring : Nat) (s : State) : Host.Outcome State Fault Refusal := .next (s.taskEntry fn ring)

/-- A Merzar Q1 entry is translated and then handled as a native task (R148). -/
def State.q1Entry (s : State) (fn ring : Nat) : State :=
  match Tab.look (s.fn fn).sub ring with
  | none => s
  | some r =>
    match r.head, s.ringCtx r with
    | some e, some c =>
      if !s.serving || !r.q1 || r.err || r.checked.isSome then s
      else
        let q := slice e 16 128
        let core := qeng q / 4
        let d := q1Translate q
        if num e 0 1 ≠ 1 || !s.entryHeaderOk r.ctx e then s.refuseTask fn ring r (fld e 2 0 10) (opc d) (num q 2 2) 48
        else if !q1Ok q || !s.coreInPart (ctxPart r.ctx) core then s.refuseTask fn ring r core (opc d) (num q 2 2) 60
        else match s.acceptCheck r.ctx c 0x12 d with
          | some n => s.refuseTask fn ring r core (opc d) (num q 2 2) (48 + n)
          | none => s.placeOrWait fn ring r core d
    | some _, none => s.takeEntry fn ring r
    | none, _ => s

def execQ1SubmissionEntry (fn ring : Nat) (s : State) : Host.Outcome State Fault Refusal := .next (s.q1Entry fn ring)

/-- A descriptor that waits at a ring's head is placed once its context may hold an entry (R463). -/
def execQueueEntryPlaced (fn ring : Nat) (s : State) : Host.Outcome State Fault Refusal :=
  .next (if !s.serving then s else match Tab.look (s.fn fn).sub ring with
    | none => s
    | some r =>
      match r.checked with
      | none => s
      | some (core, d) =>
        if (s.ringCtx r).isNone then s.takeEntry fn ring r
        else if s.mayHold core r.ctx then s.placeOrWait fn ring r core d else s)

/-! ### Dispatch (R114 to R117, R464) -/

/-- A dispatch of a context counted on a core, which it wakes (R571): its table set is the one used last (R174, R464). -/
def State.countDispatch (s : State) (core ctx : Nat) : State :=
  s.modCore core fun q =>
    { q.awake with dispNo := q.dispNo + 1, lastDisp := Tab.put q.lastDisp ctx (q.dispNo + 1)
                   resident := q.resident.map fun r => if r.ctx = ctx then { r with used := q.dispNo + 1 } else r }

/-- What a dispatch reads before it latches anything: the headers of check 1 (R116). -/
def State.readHeads (s : State) (core ctx : Nat) (c : Context) (d : List Byte) : State × Bool :=
  if ((s.core core).engineRefuse core ctx d).isSome then (s, false)
  else (s.headReads c.segs core (ctxPart ctx) (inTiles d)).foldl (fun (a : State × Bool) k =>
    let x := a.1.isleRead core k 16; (x.1, a.2 || x.2)) (s, false)

/-- The chosen task `i` of a core dispatched: it ends at the first failed check, or it runs with what it latched. A poisoned word of a
header or of the mask ends it with INTEGRITY (R162) (log 143: DEDUCED). -/
def State.dispatch (s : State) (core i : Nat) (t : Task) (c : Context) : State :=
  let s1 := s.countDispatch core t.ctx
  let hd := s1.readHeads core t.ctx c t.desc
  if hd.2 then hd.1.endFailed core i t .integrity 0 0 false
  else
    match s1.dispatchChecks core t.ctx c t.desc t.images.isSome with
    | .inr f =>
      let s2 := match f.fault with
        | some o => hd.1.raise o
        | none => hd.1
      s2.endFailed core i t f.status f.detail 0 false
    | .inl x =>
      -- R101: naming an absent engine is no fault of the task
      let m := x.maskKey.elim (hd.1, false) fun k => hd.1.isleRead core k 512
      if m.2 then m.1.endFailed core i t .integrity 0 0 false
      else m.1.setTask core i { t with stage := .running, run := some x.run }

def execTaskDispatch (core : Nat) (s : State) : Host.Outcome State Fault Refusal :=
  done (match s.chooseTask core with
    | none => s
    | some (ctx, i, t) => match s.ctx? ctx with
      | none => s
      | some c => s.dispatch core i t c)

/-- The oldest ready task of a context has waited for AGE (R464) (log 112: DEDUCED). -/
def execDispatchAgeing (core ctx : Nat) (s : State) : Host.Outcome State Fault Refusal :=
  .next (match (s.dispatchable core).find? fun x => x.1 == ctx with
    | some (_, i, t) => s.setTask core i { t with aged := true }
    | none => s)

/-! ### The array (R75, R87, R95) -/

/-- The task an engine runs, with its entry number and the engine's place in it. -/
def Core.engineTask (q : Core) (e : Nat) : Option (Nat × Task × Run × Pos) :=
  ((List.range q.queue.length).zip q.queue).findSome? fun p =>
    if p.2.stage == .running || p.2.stage == .stopping then
      match p.2.run with
      | some r => match r.pos.find? (·.eng == e) with
        | some x => some (p.1, p.2, r, x)
        | none => none
      | none => none
    else none

/-- The n-blocks of an engine of a dispatched task. -/
def blocksFor (d : List Byte) (r : Run) (e : Nat) : List Nat :=
  let effs := r.pos.map (·.eng)
  blocksOf d effs.length (((List.range effs.length).find? fun i => effs.getD i 9 == e).getD 0)

def Run.setPos (r : Run) (p : Pos) : Run := { r with pos := r.pos.map fun x => if x.eng = p.eng then p else x }

/-- Every engine of a task that is to stop has stopped or has nothing left (R95). -/
def Run.halted (r : Run) (d : List Byte) : Bool :=
  r.pos.all fun p => p.drains.isEmpty && (p.halted || decide ((blocksFor d r p.eng).length * chunksPer d ≤ p.chunk))

/-- A stopping task becomes stopped once its engines have; one with nothing left goes on to its end. -/
def Task.settleStop (t : Task) (r : Run) : Task :=
  if t.stage == .stopping && r.halted t.desc && !taskDone t.desc r && r.fail.isNone then { t with stage := .stopped, run := some r }
  else { t with run := some r }

/-- The next pass of an engine may run: its half is free of drains (R88) (log 104: DEDUCED). -/
def passFree (d : List Byte) (p : Pos) : Bool :=
  if accSplit d then p.drains.all fun o => (o + p.chunk) % 2 == 1 else p.drains.isEmpty

/-- Bits of accumulator entries turn over (R165) (log 110: DESIGN CHOICE). -/
def State.upset (s : State) (core e : Nat) (upsets : List (Nat × Nat)) : State :=
  if upsets.isEmpty then s
  else s.modCore core fun q => q.setEngine e
    { q.engine e with err := upsets.foldl (fun m x => Tab.set m 0 x.1 (Tab.get m 0 x.1 ^^^ x.2)) (q.engine e).err }

/-- The fault of a weight row whose parity failed on load (R82). -/
def State.rowParity (s : State) (core e : Nat) (t : Task) (parity : Option Nat) : State :=
  match parity with
  | some row => s.raise { src := 0x12, unit := 4 * core + e, ctx := some t.ctx, info := packInfo 0 [(2, taskId t.desc), (1, row)] }
  | none => s

/-- Where an engine stands after a pass: at the next pass, or at the next chunk with a drain to do (R87, R92) (log 104: DEDUCED). -/
def Pos.afterPass (p : Pos) (d mask : List Byte) (bl : List Nat) (stopping : Bool) : Pos :=
  let total := bl.length * chunksPer d
  let p1 : Pos := if p.pass + 1 = passes d then
      { p with chunk := nextChunk d mask bl total total (p.chunk + 1), pass := 0
               drains := if accKeep d then p.drains else p.drains ++ [p.chunk] }
    else { p with pass := p.pass + 1 }
  { p1 with halted := stopping, loaded := !stopping && decide (p1.chunk < total) }

/-- The weight block of the pass that an engine is at, where the active set does not hold it yet: the first pass of a task, and the first
after a stop (R80, R95). -/
def State.firstLoad (s : State) (core e : Nat) (c : Context) (d : List Byte) (b : Hdr × Nat) (bl : List Nat) (p : Pos) : State × Bool :=
  if p.loaded then (s, false)
  else
    let x := s.loadShadow core e c d b bl p.chunk p.pass
    (x.1.swapSets core e, x.2)

/-- The weight block of the next pass, loaded during the present one; the sets exchange roles at its end (R80). -/
def State.nextLoad (s : State) (core e : Nat) (c : Context) (d : List Byte) (b : Hdr × Nat) (bl : List Nat) (p : Pos) : State × Bool :=
  if p.loaded then
    let x := s.loadShadow core e c d b bl p.chunk p.pass
    (x.1.swapSets core e, x.2)
  else (s, false)

/-- The activation rows of a pass: a task of several engines reads them once for all of them (R79). -/
def State.feedRows (s : State) (core : Nat) (c : Context) (d : List Byte) (a : Hdr × Nat) (bl : List Nat) (r : Run) (p : Pos) : State × Bool :=
  if r.fed.contains (p.chunk, p.pass) then (s, false) else s.meetKeys core (s.rowKeys c d a bl p.chunk p.pass)

/-- A pass whose rows have been read. -/
def Run.feed (r : Run) (p : Pos) : Run :=
  if r.pos.length ≤ 1 || r.fed.contains (p.chunk, p.pass) then r else { r with fed := r.fed ++ [(p.chunk, p.pass)] }

/-- An engine finishes a pass: it has the weights of this pass, reads the rows, adds the products and loads the weights of the next pass.
`parity`: the row of a weight block loaded meanwhile whose parity failed (R82). `upsets`: flipped bits found in accumulator entries
(R165). -/
def State.passEnd (s : State) (core e : Nat) (parity : Option Nat) (upsets : List (Nat × Nat)) : State :=
  match (s.core core).engineTask e with
  | none => s
  | some (i, t, r, p) =>
    let d := t.desc
    let bl := blocksFor d r e
    let total := bl.length * chunksPer d
    match s.ctx? t.ctx, r.a, r.b with
    | some c, some a, some b =>
      if p.halted || r.fail.isSome || total ≤ p.chunk || !passFree d p then s
      else
        let p1 := p.afterPass d r.mask bl (t.stage == .stopping)
        let w0 := (s.upset core e upsets).firstLoad core e c d b bl p
        let rows := w0.1.feedRows core c d a bl r p
        let run := rows.1.runPass core e t.ctx c d a b bl p.chunk p.pass
        let w1 := run.1.nextLoad core e c d b bl p1
        let par := if p.loaded && !p1.loaded then none else parity
        let bad := par.isSome || w0.2 || rows.2 || run.2.2 || w1.2
        let r1 := { ((r.feed p).setPos p1).failWith bad with flags := r.flags.or run.2.1 }
        (w1.1.rowParity core e t par).setTask core i (t.settleStop r1)
    | _, _, _ => s

def execPassEnd (core eng : Nat) (parity : Option Nat) (upsets : List (Nat × Nat)) (s : State) : Host.Outcome State Fault Refusal :=
  done (s.passEnd core eng parity upsets)

/-- The oldest chunk that waits in an engine is drained (R92). -/
def State.chunkDrainEnd (s : State) (core e : Nat) : State :=
  match (s.core core).engineTask e with
  | none => s
  | some (i, t, r, p) =>
    match s.ctx? t.ctx, p.drains with
    | some c, o :: rest =>
      if r.fail.isSome then s
      else
        let x := s.drainChunk core e t.ctx c t.desc (blocksFor t.desc r e) o r
        let p1 := { p with drains := rest, halted := p.halted || (t.stage == .stopping && !accSplit t.desc) }
        x.1.setTask core i (t.settleStop (x.2.setPos p1))
    | _, _ => s

def execChunkDrainEnd (core eng : Nat) (s : State) : Host.Outcome State Fault Refusal := done (s.chunkDrainEnd core eng)

/-! ### Copies (R167, R252, R253) -/

/-- A running COPY finishes the read or the write phase of a staged block, once every request of the phase has been answered (R200).
`fl` are the bits found flipped in staged word `word` at the write-out (R166, R167). -/
def State.copyBlockEnd (s : State) (core i word fl : Nat) : State :=
  match (s.core core).queue[i]? with
  | none => s
  | some t =>
    match t.run, s.ctx? t.ctx with
    | some r, some c =>
      match r.a, r.outs.head? with
      | some a, some o =>
        let next (r : Run) : Run := { r with issued := 0, acks := 0 }
        if t.stage != .running || !isCopy t.desc || r.fail.isSome || o.hdr.count ≤ r.copyAt then s
        else if r.acks < (s.copyNeeds c t.desc r).length then s
        else match r.staged with
          | none =>
            if (s.core core).staging.isSome then s
            else
              let x := s.copyRead core c t.desc r a o
              (x.1.setTask core i { t with run := some (next x.2) }).modCore core fun q =>
                { q with staging := if x.2.staged.isSome then some t.ctx else none }
          | some (stop, vs) =>
            let s0 := s.modCore core fun q => { q with staging := none }
            if fl = 0 then
              let x := s0.copyWrite core t.desc r a o stop vs
              x.1.setTask core i { t with run := some (next x.2) }
            else if flips fl = 1 then
              let s1 := (s0.modCore core fun q => { q with sce := satAdd 8 q.sce 1 }).raise
                { src := 0x23, unit := core, ctx := some t.ctx, info := word }
              let x := s1.copyWrite core t.desc r a o stop vs
              x.1.setTask core i { t with run := some (next x.2) }
            else
              let s1 := (s0.modCore core fun q => { q with sue := satAdd 8 q.sue 1 }).raise
                { src := 0x24, unit := core, ctx := some t.ctx, info := packInfo 0 [(2, word), (2, taskId t.desc)] }
              let x := s1.copyCut core t.desc r a o stop vs word
              x.1.setTask core i { t with run := some (next x.2) }
      | _, _ => s
    | _, _ => s

def execCopyBlockEnd (core entry word fl : Nat) (s : State) : Host.Outcome State Fault Refusal := done (s.copyBlockEnd core entry word fl)

/-! ### The end of a task (R120, R142, R143) -/

/-- What a task does in its own time before it can end: a VECOP's elements, a TBLLOAD's images, masked entries. -/
def State.lastWork (s : State) (core : Nat) (t : Task) (c : Context) (r : Run) : State × Run :=
  if isVec t.desc then s.runVecop core c t.desc r
  else if isTblload t.desc then s.runTblload core t.ctx t r
  else if isArray t.desc && !accKeep t.desc then s.fillMasked core c t.desc r
  else (s, r)

/-- Entry `i` of a core's queue ends, with the cycles its record reports. -/
def State.taskEnd (s : State) (core i cycles : Nat) : State :=
  match (s.core core).queue[i]? with
  | none => s
  | some t =>
    match t.run, s.ctx? t.ctx with
    | some r, some c =>
      if t.stage != .running && t.stage != .stopping then s
      else match r.fail with
        | some (st, dt) => s.endFailed core i t st dt cycles false
        | none =>
          if !taskDone t.desc r then s
          else
            let x := s.lastWork core t c r
            match x.2.fail with
            | some (st, dt) => x.1.endFailed core i { t with run := some x.2 } st dt cycles false
            | none =>
              let y := x.1.closeOuts core x.2
              match y.2.fail with
              | some (st, dt) => y.1.endFailed core i { t with run := some y.2 } st dt cycles false
              | none => y.1.endOk core i { t with run := some y.2 } y.2 cycles
    | _, _ => s

def execTaskEnd (core entry cycles : Nat) (s : State) : Host.Outcome State Fault Refusal := done (s.taskEnd core entry cycles)

/-- Signal `n` of those on their way reaches its counter (R120). -/
def execSignalArrival (n : Nat) (s : State) : Host.Outcome State Fault Refusal :=
  .next (match s.chip.sigs[n]? with
    | none => s
    | some g => { s with chip.sigs := s.chip.sigs.eraseIdx n }.signal g.ctx g.core g.idx g.inc)

/-! ### The activation unit and the state mover (R132, R173 to R176) -/

/-- A resident set that no dispatched task names may be replaced; among them the least recently used, then the lowest
context number (R174). -/
def Core.victim (q : Core) : Option Resident :=
  let free := q.resident.filter fun r => q.queue.all fun t => !(t.ctx == r.ctx && t.stage != .queued &&
    (isTblload t.desc || (hasChain t.desc && !(chainTables t.desc).isEmpty)))
  free.foldl (fun b r => match b with
    | none => some r
    | some x => if r.used < x.used || (r.used == x.used && decide (r.ctx < x.ctx)) then some r else b) none

/-- A context's table set needs the activation unit: its oldest task names a table or loads one (R115, R174). -/
def Core.needsSet (q : Core) (ctx : Nat) : Bool :=
  match q.oldest ctx with
  | some (_, t) => isTblload t.desc || (hasChain t.desc && !(chainTables t.desc).isEmpty)
  | none => false

/-- A state-mover failure: fault 0x25, the task that waited on it ends with INTEGRITY (R176). -/
def State.moverFail (s : State) (core ctx cause : Nat) (wait : Option (Nat × Task)) : State :=
  match wait with
  | none => s.raise { src := 0x25, unit := core, ctx := some ctx, detail := cause }
  | some (i, t) =>
    let y := (s.raise { src := 0x25, unit := core, ctx := some t.ctx, detail := cause, info := taskId t.desc }).endCycles t
    y.1.endFailed core i t .integrity 0 y.2 false

/-- First key of the save area of a context on a core (R172, R628). -/
def State.saveArea (s : State) (core ctx : Nat) : Option Nat :=
  if s.coreInPart (ctxPart ctx) core then
    ((s.ctx? ctx).bind fun c => c.reserved[core - 72 * ctxPart ctx]?).map fun r => stackKey r.stack (r.frame * 4096)
  else none

/-- Halves of a task's engine that hold its values (R175): those of the chunk in progress, of a finished share that ACCKEEP keeps, and
those that an ACCINIT task has yet to start from. -/
def heldHalves (d : List Byte) (r : Run) (p : Pos) : List Nat :=
  if (blocksFor d r p.eng).isEmpty then []
  else if p.pass ≠ 0 then halvesOf d p.chunk
  else if (accKeep d && p.chunk != 0) || (accInit d && p.chunk == 0) then halvesOf d 0
  else []

/-- The engine record of a stopped task (R173). -/
def engineRecord (t : Task) (r : Run) (p : Pos) : List Byte :=
  let k := chunksPer t.desc
  leBytes 2 (taskId t.desc) ++ leBytes 1 (opc t.desc) ++ leBytes 1 (b2n (accSplit t.desc) * 2 + halfSel t.desc)
    ++ leBytes 2 (p.chunk / k) ++ leBytes 2 (p.chunk % k) ++ leBytes 1 p.pass ++ leBytes 1 r.flags.bits
    ++ leBytes 1 ((heldHalves t.desc r p).foldl (fun a h => a + 2 ^ h) 0) ++ leBytes 21 0

/-- The saved task of a context that an engine held, with its place in it. -/
def Core.savedOn (q : Core) (ctx e : Nat) : Option (Task × Run × Pos) :=
  q.queue.findSome? fun t =>
    if t.ctx == ctx && t.stage == .saved then t.run.bind fun r => (r.pos.find? (·.eng == e)).map fun p => (t, r, p) else none

/-- The control record of a save area: the first 4,096 bytes with their RCRC (R173). -/
def Core.controlRecord (q : Core) (ctx : Nat) (tset : Bool) (tloaded : Nat) : List Byte :=
  let estop := (List.range 4).foldl (fun a e => if (q.savedOn ctx e).isSome then a + 2 ^ e else a) 0
  let body := leBytes 2 ctx ++ leBytes 1 (16 * estop + 8 * b2n tset) ++ leBytes 1 0
    ++ (List.range 4).flatMap (fun e => (q.savedOn ctx e).elim (leBytes 32 0) fun x => engineRecord x.1 x.2.1 x.2.2)
    ++ leBytes 2 tloaded ++ leBytes 3958 0
  body ++ leBytes 4 (crc32 body)

/-- TSET and TLOADED of the control record at key `k`. -/
def State.recordTset (s : State) (k : Nat) : Bool := (s.rd (k + 2)).toNat.testBit 3
def State.recordTloaded (s : State) (k : Nat) : Nat := leNat (s.rdN (k + 0x84) 2)

/-- Whole sectors of a save area stored afresh: zeros but for some parts, by offset (R172, R278). -/
def State.moverWrite (s : State) (k n : Nat) (parts : List (Nat × List Byte)) : State :=
  parts.foldl (fun a p => a.wrN (k + p.1) p.2) (s.zero k n)

/-- The control record written as the core stands. -/
def State.storeRecord (s : State) (core ctx k : Nat) (tset : Bool) (tloaded : Nat) : State :=
  s.moverWrite k 4096 [(0, (s.core core).controlRecord ctx tset tloaded)]

/-- A restore reads ranges of a save area. `errs`: symbols that went wrong since, by sector of the area. `crc`: the record read differs
from what was written though its sectors read clean. The answer is the cause of a failure: 0 RCRC, 1 stack (R176) (log 144: DEDUCED). -/
def State.moverRead (s : State) (k : Nat) (ranges : List (Nat × Nat)) (errs : List (Nat × Nat)) (crc : Bool) : State × Option Nat :=
  let x := ((k, 4096) :: ranges).foldl (fun (a : State × Bool) r => let y := a.1.stackRead r.1 r.2 false; (y.1, a.2 || y.2))
    (s.flipSectors (errs.map fun e => (k / 32 + e.1, e.2)), false)
  (x.1, if x.2 then some 1 else if crc || crc32 (s.rdN k 4092) != leNat (s.rdN (k + 4092) 4) then some 0 else none)

/-- Images of the loaded tables of a context on a core, by table `2 * pair + t`. -/
def Context.coreTables (c : Context) (core : Nat) : Tab (List Byte) :=
  (List.range 16).filterMap fun t => (Tab.look c.tables (core * 16 + t)).map fun x => (t, x)

/-- The tables of a context leave the activation unit of a core. -/
def State.dropTables (s : State) (core ctx : Nat) : State :=
  s.modCtx ctx fun c => { c with tables := c.tables.filter fun p => p.1 / 16 != core }

/-- A set leaves the activation unit: a dirty one is written to TIMG, with TSET and TLOADED; a clean one is dropped (R174). -/
def State.evictTables (s : State) (core : Nat) (v : Resident) : State :=
  match s.ctx? v.ctx, s.saveArea core v.ctx with
  | some c, some k =>
    if v.dirty then
      let ts := c.coreTables core
      ((s.moverWrite (k + 0x1000) 66048 (ts.map fun p => (4128 * p.1, p.2))).storeRecord core v.ctx k true
        (ts.foldl (fun a p => a + 2 ^ p.1) 0)).dropTables core v.ctx
    else s.dropTables core v.ctx
  | _, _ => s.dropTables core v.ctx

/-- The activation unit brings in the set of a context once a victim is free: from TIMG where TSET is 1, else with every table
unloaded (R174, R176). -/
def State.tableSetSwap (s : State) (core ctx : Nat) (errs : List (Nat × Nat)) (crc : Bool) : State :=
  let q := s.core core
  if q.resident.any (·.ctx == ctx) || !q.needsSet ctx || (s.ctx? ctx).isNone then s
  else
    let out := if q.resident.length < 4 then some none else (q.victim).map some
    match out with
    | none => s
    | some v =>
      let s1 := v.elim s (s.evictTables core)
      let s2 := s1.modCore core fun a => { a with
        resident := (a.resident.filter fun r => (v.map (·.ctx)) != some r.ctx) ++ [{ ctx := ctx, used := Tab.get q.lastDisp 0 ctx }] }
      match s2.saveArea core ctx with
      | none => s2
      | some k =>
        if !s2.recordTset k then s2
        else
          let x := s2.moverRead k [(k + 0x1000, 66048)] errs crc
          match x.2 with
          | some cause => x.1.moverFail core ctx cause ((x.1.core core).oldest ctx)
          | none => x.1.modCtx ctx fun c => { c with
              tables := (setBits 16 (s2.recordTloaded k)).foldl (fun m t => Tab.put m (core * 16 + t) (s2.rdN (k + 0x1000 + 4128 * t) 4128)) c.tables }

def execTableSetSwap (core ctx : Nat) (bad : AreaErrs) (s : State) : Host.Outcome State Fault Refusal :=
  done (s.tableSetSwap core ctx bad.errs bad.crc)

/-- A task of another context that is to use one of some engines: an undispatched one that waits for nothing else, or a saved one that
is to resume (R175). -/
def State.engineWaiter (s : State) (core ctx : Nat) (es : List Nat) : Option (Nat × Task) :=
  let q := s.core core
  ((List.range q.queue.length).zip q.queue).find? fun x =>
    let t := x.2
    t.ctx != ctx && (s.ctx? t.ctx).elim false fun c => c.st == .active && !c.estop &&
      ((t.stage == .queued && onEngines t.desc && ((q.oldest t.ctx).map (·.1)) == some x.1 && c.waitsMet core t.desc
          && (effectiveEngines q t.desc).any es.contains)
        || (t.stage == .saved && t.run.elim false fun r => r.pos.any fun p => es.contains p.eng))

/-- The entries of a half read by the state mover: corrected and counted, or uncorrectable and counted (R165, R176). -/
def State.readHalf (s : State) (core e h ctx tid : Nat) : State × Bool :=
  let es := ((s.core core).engine e).err.filter fun p => p.1 / 8192 == h && p.2 != 0
  es.foldl (fun (a : State × Bool) p =>
    if flips p.2 = 1 then let x := a.1.meetEntry core e ctx tid p.1; (x.1, a.2)
    else (a.1.modCore core fun c => { c with aue := satAdd 16 c.aue 1 }, true)) (s, false)

/-- Key of a half in AIMG (R173). -/
def halfKey (k e h : Nat) : Nat := k + 0x12000 + (2 * e + h) * 0x8000

/-- A half written to AIMG, entry-major (R173). -/
def State.writeHalf (s : State) (core k e h : Nat) : State :=
  let g := (s.core core).engine e
  s.moverWrite (halfKey k e h) 0x8000
    ((g.acc.filter fun x => x.1 / 8192 == h).map fun x => (4 * (x.1 % 8192), leBytes 4 x.2.toNat))

/-- The engines and halves of a task that hold its values. -/
def Run.heldList (r : Run) (d : List Byte) : List (Nat × Nat) := r.pos.flatMap fun p => (heldHalves d r p).map fun h => (p.eng, h)

/-- The state mover has saved a stopped task of a context for whose engines another context's task waits: engine records and halves into
the save area (R175). `upsets`: flipped bits found in accumulator entries, by engine and entry. A poisoned entry ends the waiting
task (R176). -/
def State.stateSave (s : State) (core ctx : Nat) (upsets : List (Nat × Nat × Nat)) : State :=
  let q := s.core core
  match ((List.range q.queue.length).zip q.queue).find? fun p => p.2.ctx == ctx && p.2.stage == .stopped &&
      (s.engineWaiter core ctx (p.2.run.elim [] fun r => r.pos.map (·.eng))).isSome with
  | none => s
  | some (i, t) =>
    match t.run, s.saveArea core ctx with
    | some r, some k =>
      let hs := r.heldList t.desc
      let s0 := upsets.foldl (fun a u => a.upset core u.1 [u.2]) s
      let x := hs.foldl (fun (a : State × Bool) eh => let y := a.1.readHalf core eh.1 eh.2 ctx (taskId t.desc); (y.1, a.2 || y.2)) (s0, false)
      if x.2 then x.1.moverFail core ctx 2 (x.1.engineWaiter core ctx (r.pos.map (·.eng)))
      else
        let s1 := (hs.foldl (fun a eh => a.writeHalf core k eh.1 eh.2) x.1).setTask core i { t with stage := .saved }
        s1.storeRecord core ctx k (s1.recordTset k) (s1.recordTloaded k)
    | _, _ => s

def execStateSaveComplete (core ctx : Nat) (upsets : List (Nat × Nat × Nat)) (s : State) : Host.Outcome State Fault Refusal :=
  done (s.stateSave core ctx upsets)

/-- A half as AIMG holds it, back in its engine with its context's tag; entries in error are stored afresh (R165, R175). -/
def State.readBack (s : State) (core k e h ctx : Nat) (int : Option Nat) : State :=
  let back := (List.range 8192).filterMap fun i =>
    let v := BitVec.ofNat 32 (leNat (s.rdN (halfKey k e h + 4 * i) 4))
    if v = 0#32 then none else some (8192 * h + i, v)
  s.modCore core fun q =>
    let g := q.engine e
    let keep := g.acc.filter fun y => y.1 / 8192 != h
    q.setEngine e ({ g with acc := if h = 0 then back ++ keep else keep ++ back
                            err := g.err.filter fun y => y.1 / 8192 != h }.setHalf h { tag := some ctx, valid := false, int := int })

/-- The state mover has restored a saved task of an ACTIVE context to its engines, which are idle (R175, R468); the task runs on.
`errs` and `crc`: what went wrong in the save area (R176). -/
def State.stateRestore (s : State) (core ctx : Nat) (errs : List (Nat × Nat)) (crc : Bool) : State :=
  let q := s.core core
  match ((List.range q.queue.length).zip q.queue).find? fun p => p.2.ctx == ctx && p.2.stage == .saved, s.ctx? ctx with
  | some (i, t), some c =>
    match t.run, s.saveArea core ctx with
    | some r, some k =>
      if c.st != .active || r.pos.any (fun p => q.engineBusy p.eng) then s
      else
        let hs := r.heldList t.desc
        let x := s.moverRead k (hs.map fun eh => (halfKey k eh.1 eh.2, 0x8000)) errs crc
        match x.2 with
        | some cause => x.1.moverFail core ctx cause (some (i, t))
        | none =>
          let int := match r.a, r.b with
            | some a, some b => if a.1.fmt = .int8 then some (a.1.scale + b.1.scale) else none
            | _, _ => none
          (hs.foldl (fun a eh => a.readBack core k eh.1 eh.2 ctx int) x.1).setTask core i
            { t with stage := .running, run := some { r with pos := r.pos.map fun p => { p with halted := false, loaded := false } } }
    | _, _ => s
  | _, _ => s

def execStateRestoreComplete (core ctx : Nat) (bad : AreaErrs) (s : State) : Host.Outcome State Fault Refusal :=
  done (s.stateRestore core ctx bad.errs bad.crc)

/-! ### Scrubs (R161) -/

/-- A granted scrub writes the corrected word back with fresh check bits. -/
def execIsleScrubWrite (core word : Nat) (s : State) : Host.Outcome State Fault Refusal :=
  .next (if (Tab.look (s.core core).scrubs word).isNone then s
    else
      let s1 := (s.wakeBanks core [4 * word]).modCore core fun q => { q with scrubs := Tab.erase q.scrubs word }
      { s1 with chip.isleErr := Tab.set s1.chip.isleErr 0 word 0 })

/-- A scrub that was not granted is abandoned. -/
def execScrubAbandon (core word : Nat) (s : State) : Host.Outcome State Fault Refusal :=
  .next (s.modCore core fun q => { q with scrubs := Tab.erase q.scrubs word })

end Sys2Proof.Machine
end

