-- ==== Sys2Proof/Machine/Streams.lean ====
section
/-! DEFINITION. Arm entries, stream issue, responses, multicast, version resolution, tags, Isle accesses of the mesh
(05 R152 to R163; 06; 15 R504). -/

namespace Sys2Proof.Machine

open Sys2Proof

/-! ### Arm entries (R183, R504) -/

/-- An ARM entry is accepted or refused with a stream record; either way it is taken. -/
def State.armEntry (s : State) (fn ring : Nat) : State :=
  match Tab.look (s.fn fn).sub ring with
  | none => s
  | some r =>
    match r.head, s.ringCtx r with
    | some e, some c =>
      if !s.serving || r.q1 || r.err || r.checked.isSome || num e 0 1 == 1 then s
      else
        let d := slice e 16 64
        let core := fld e 2 0 10
        let origin := some (ring, r.cons % 2 ^ 16)
        let refuse (st : Status) (dt : Nat) : State := (s.post r.ctx (streamRecord (adArmid d) st core dt 0 (adSid d) r.ctx) origin).takeEntry fn ring r
        if !s.entryHeaderOk r.ctx e || !zeroRange e 80 192 then refuse .argRange 48
        else match s.armCheck core r.ctx c d with
          | some (n, st) => refuse st (48 + n)
          | none => (s.takeArm core r.ctx d origin).takeEntry fn ring r
    | some _, none => s.takeEntry fn ring r
    | none, _ => s

def execSubmissionArmEntry (fn ring : Nat) (s : State) : Host.Outcome State Fault Refusal := done (s.armEntry fn ring)

/-! ### Issue and responses -/

def execStreamIssue (core : Nat) (s : State) : Host.Outcome State Fault Refusal := done (s.streamIssue core)

/-- A background channel that could issue, SID 32 being the COPY channel, has waited 4,096 CCLK (R208) (log 112: DEDUCED). -/
def execBackgroundAgeing (core sid : Nat) (s : State) : Host.Outcome State Fault Refusal :=
  .next (match (s.cands core).find? fun x => x.sid == sid && !x.rated with
    | some x => match x.act with
      | .inr _ => s.modCore core fun q => { q with copyWait := true }
      | .inl _ => match (s.slot? core sid).bind (·.cur) with
        | some a => s.setArm core sid { a with bgWait := true }
        | none => s
    | none => s)

/-- The response under a tag and generation reaches the stream engine (R198, R203). -/
def State.streamResponse (s : State) (core tag gen : Nat) : State :=
  match s.chip.resps.find? fun p => p.core == core && p.tag == tag && p.gen == gen with
  | none => s
  | some p => ({ s with chip.resps := s.chip.resps.erase p } : State).takeResp p

def execStreamResponse (core tag gen : Nat) (s : State) : Host.Outcome State Fault Refusal := done (s.streamResponse core tag gen)

/-! ### Multicast (R214 to R216) -/

/-- The oldest credit flit of a member reaches the leader, once its MCAST arm is in effect (log 54: DEDUCED). -/
def State.mcastCredit (s : State) (group member : Nat) : State :=
  match Tab.look s.chip.mcast group, s.chip.credits.find? fun x => x.group == group && x.member == member with
  | some g, some fl =>
    match s.mcastSlot g.leader g.ctx group with
    | some (sid, a) =>
      if !a.effect || adKind a.desc ≠ 5 then s
      else ({ s with chip.credits := s.chip.credits.erase fl } : State).setArm g.leader sid
        { a with credits := Tab.put a.credits member (max (fl.tile + 1) (Tab.get a.credits 0 member)), slacks := Tab.put a.slacks member fl.slack }
    | none => s
  | _, _ => s

def execMcastCredit (group member : Nat) (s : State) : Host.Outcome State Fault Refusal := .next (s.mcastCredit group member)

/-- The oldest header or tile of a multicast on its way to a member reaches it: the header is checked and written as pending, the
tile is written into its slot and signalled. A tile that the member has complete already, issued again under R226, is passed over. -/
def State.mcastArrival (s : State) (group member : Nat) : State :=
  match Tab.look s.chip.mcast group, s.chip.mtiles.find? fun x => x.group == group && x.member == member with
  | some g, some t =>
    let s1 : State := { s with chip.mtiles := s.chip.mtiles.erase t }
    match s1.mcastSlot member g.ctx group with
    | none => s1
    | some (sid, a) =>
      if t.tile < a.sig || a.done.contains t.tile then s1
      else match hdrCheck (s1.ctxOk (ctxPart g.ctx)) (slice t.bytes 0 16) with
      | some n => (s1.headerFault member g.ctx n (a.slotCva t.tile)).mcastFail g.ctx group a.led .integrity n
      | none =>
        let h := Hdr.parse (slice t.bytes 0 16)
        let key := a.slotKey t.tile
        if adSlotBytes a.desc < h.total then s1.mcastFail g.ctx group a.led .argRange 16
        else
          let w := s1.ringWrite member key 0 (if t.head then h.pendingBytes else h.pendingBytes ++ t.bytes.drop 16)
          if w.2 then w.1.mcastFail g.ctx group a.led .integrity 17
          else if t.head then w.1
          else
            let v := w.1.ringWrite member key 0 (slice t.bytes 0 16)
            if v.2 then v.1.mcastFail g.ctx group a.led .integrity 17
            else v.1.tileDone member sid g.ctx a t.tile h.total
  | _, _ => s

def execMcastTileArrival (group member : Nat) (s : State) : Host.Outcome State Fault Refusal := done (s.mcastArrival group member)

/-! ### Versions (R186, R290) -/

/-- The slot of a group that holds an epoch and may be resolved. -/
def Group.resolve (g : Group) (epoch : Nat) : Option Nat :=
  let ok (v : VSlot) : Bool := (v.st == .current || (v.st == .prior && !v.claimed)) && v.epoch % 65536 == epoch
  if ok g.v0 then some 0 else if ok g.v1 then some 1 else none

/-- The NMU's answer to an arm's resolution request. -/
def State.versionResolution (s : State) (core sid : Nat) : State :=
  match (s.slot? core sid).bind (·.cur) with
  | none => s
  | some a =>
    if !a.resolving then s
    else
      let v := a.vgrp.bind fun p => (s.group? p.1 p.2).bind fun g => (g.resolve (adEpoch a.desc)).map fun v => (v, v * g.vsize)
      match v with
      | some (v, off) => s.setArm core sid { a with resolving := false, vslot := some v, voff := off }
      | none => (s.setArm core sid { a with resolving := false }).failArm core sid .state 20

def execVersionResolution (core sid : Nat) (s : State) : Host.Outcome State Fault Refusal := done (s.versionResolution core sid)

/-! ### Tags (R203, R204) -/

/-- A tag has been outstanding for TAGTMO (log 42: DEDUCED). A request of the COPY channel is issued again (log 152: DESIGN CHOICE). -/
def State.tagTimeout (s : State) (core tag : Nat) : State :=
  match ((s.core core).tag tag).req with
  | none => s
  | some o =>
    let s1 := s.abandon core fun t _ => t == tag
    if o.sid = copySid then
      match (s1.core core).copyTask with
      | some (i, t, r) => if t.ctx = o.ctx then s1.setTask core i { t with run := some { r with issued := r.issued - 1 } } else s1
      | none => s1
    else match s1.slot? core o.sid with
    | none => s1
    | some sl =>
      match sl.cur with
      | none => s1
      | some a =>
        if a.seq ≠ o.seq || sl.ctx ≠ o.ctx then s1
        else (s1.raise { src := 0x31, unit := core, ctx := some o.ctx, detail := o.sid
                         info := packInfo 0 [(2, adArmid a.desc), (4, o.tile)] }).failArm core o.sid .timeout 18

def execTagTimeout (core tag : Nat) (s : State) : Host.Outcome State Fault Refusal := done (s.tagTimeout core tag)

/-- An abandoned tag becomes usable again. -/
def execTagQuarantineEnd (core tag : Nat) (s : State) : Host.Outcome State Fault Refusal :=
  .next (s.modCore core fun q => { q with tags := Tab.set q.tags {} tag { q.tag tag with quarantine := false } })

/-! ### Isle accesses of the mesh port (R152, R153, R156, R160, R163) -/

/-- Bits of stored words flip (log 110: DESIGN CHOICE). -/
def State.flipWords (s : State) (fl : List (Nat × Nat)) : State :=
  { s with chip.isleErr := fl.foldl (fun m x => Tab.set m 0 x.1 (Tab.get m 0 x.1 ^^^ x.2 % 2 ^ 39)) s.chip.isleErr }

/-- The oldest request of the mesh for a core's Isle is granted. -/
def State.isleAccess (s0 : State) (core : Nat) (fl : List (Nat × Nat)) : State :=
  let s := s0.flipWords (fl.filter fun x => decide (isleBase core ≤ 4 * x.1) && decide (4 * x.1 < isleBase core + isleBytes))
  match s.chip.mesh.find? fun m => !m.toStack && m.dst == core with
  | none => s
  | some m =>
    let s1 : State := { s with chip.mesh := s.chip.mesh.erase m }
    let r := m.req
    let resp (st : Status) (dt : Nat) (data : List Byte) : Resp :=
      { core := r.core, sid := r.sid, tag := r.tag, gen := r.gen, data := data, status := st, detail := dt }
    let answer (x : State) (p : Resp) : State := { x with chip.resps := x.chip.resps ++ [p] }
    if ctxPart r.ctx ≠ partOf s1.chip.start (eighthOfCore core) then s1.raise { src := 0x22, unit := core, info := ctxPart r.ctx }
    else if r.write then
      let w := s1.isleWrite core r.addr r.data
      answer w.1 (if w.2 then resp .integrity 17 [] else resp .ok 0 [])
    else
      let x := s1.isleRead core r.addr r.len
      answer x.1 (if x.2 then resp .integrity 17 [] else resp .ok 0 (s1.rdN r.addr r.len))

def execIsleAccess (core : Nat) (fl : List (Nat × Nat)) (s : State) : Host.Outcome State Fault Refusal := done (s.isleAccess core fl)

end Sys2Proof.Machine
end

