-- ==== Sys2Proof/Machine/Tree.lean ====
section
/-! DEFINITION. The messages and timers of a job's bellwether tree: forming (R437), rounds (R434, R439), faults and restart (R441
to R447). -/

namespace Sys2Proof.Machine

open Sys2Proof

/-- A job-control message received; one whose TDIG is not the tree's, or that finds no tree, is dropped and counted. After FATAL none
is handled (R612). -/
def State.jobPacket (s : State) (n vc ptype : Nat) (act : Nat → Tree → Nat → Nat → JobMsg → State → State) : State :=
  if s.chip.hif.fatal then s
  else s.receive n vc (· == ptype) fun p a =>
    let b := pkPayload p
    match a.tree? (pkJob p) with
    | some t => if jbTdig b = t.tdig then act (pkJob p) t (pkSrc p) (jbSeq b) (JobMsg.parse b) a
      else { a with chip.jobStale := a.chip.jobStale + 1 }
    | none => { a with chip.jobStale := a.chip.jobStale + 1 }

/-- A device is a child in the tree. -/
def Tree.hasChild (t : Tree) (dev : Nat) : Bool := t.children.any fun c => c.1 == dev

/-- What a device has sent, kept once. -/
def keepMsg (l : List (Nat × JobMsg)) (dev : Nat) (m : JobMsg) : List (Nat × JobMsg) := if l.any (fun x => x.1 == dev) then l else l ++ [(dev, m)]

/-! ### Forming (R437) -/

/-- A HELLO: held where the job has no tree here yet; one with another TDIG counts as a disagreement (R437, R438). -/
def execHello (port vc : Nat) (s : State) : Host.Outcome State Fault Refusal :=
  done (s.receive port vc (· == 0x10) fun p a =>
    let b := pkPayload p
    match a.tree? (pkJob p) with
    | none => { a with chip.hellos := a.chip.hellos ++ [(pkJob p, pkSrc p, b)] }
    | some t =>
      if t.formed || t.helloSent || !t.hasChild (pkSrc p) then a
      else
        let m := JobMsg.parse b
        a.putTree (pkJob p) { t with hellos := keepMsg t.hellos (pkSrc p) (if jbTdig b = t.tdig then m else m.set fDis true) })

def execTreeOk (port vc : Nat) (s : State) : Host.Outcome State Fault Refusal :=
  done (s.jobPacket port vc 0x11 fun job t _ _ m a => if t.formed ∨ t.parent.isNone then a else a.treeOk job t m)

/-- The tree-form has not completed within 1 s: no tree is kept. -/
def execTreeFormTimeout (job : Nat) (s : State) : Host.Outcome State Fault Refusal :=
  done (if s.chip.hif.fatal then s else match s.tree? job with
    | none => s
    | some t =>
      if t.formed then s
      else
        let s1 : State := { s with chip.trees := Tab.erase s.chip.trees job }
        s1.answer (isTreeOf job) .timeout)

/-! ### Rounds (R434, R439) -/

/-- A message of the round or attempt it names; any other is dropped and counted (R438). -/
def State.current (s : State) (ok : Bool) (act : State) : State := if ok then act else { s with chip.jobStale := s.chip.jobStale + 1 }

def execVote (port vc : Nat) (s : State) : Host.Outcome State Fault Refusal :=
  done (s.jobPacket port vc 0x12 fun job t dev seq m a => a.current (seq == t.dseq)
    (if !t.formed || t.voted || !t.hasChild dev then a else a.putTree job { t with votes := keepMsg t.votes dev m }))

/-- VTMO passes: of a membership's own round (`who` below 8), or at the module since the first vote of the round
(log 67: DESIGN CHOICE). -/
def State.voteTimeout (s : State) (job who : Nat) : State :=
  match s.tree? job with
  | none => s
  | some t =>
    if !t.formed || t.voted || t.restarting then s
    else if who < 8 then
      match s.member? who job with
      | none => s
      | some m =>
        let xs := s.memSets m
        if m.st == .normal && xs.any (fun x => x.st == .staged) && !xs.all (fun x => x.st == .staged)
            && !t.votes.any (fun v => v.1 == 2 ^ 15 + who) then
          s.putTree job { t with votes := t.votes ++ [(2 ^ 15 + who, s.memVote t m true)] }
        else s
    else if t.votes.isEmpty then s
    else s.sendVote job t true

def execVoteTimeout (job who : Nat) (s : State) : Host.Outcome State Fault Refusal := done (if s.chip.hif.fatal then s else s.voteTimeout job who)

def execDecide (port vc : Nat) (s : State) : Host.Outcome State Fault Refusal :=
  done (s.jobPacket port vc 0x13 fun job t _ seq m a => a.current (seq == t.dseq) (if t.formed ∧ t.parent.isSome then a.applyDecide job t m else a))

/-- DECTMO passes after this module's VOTE without a decision (R441). -/
def execDecisionTimeout (job : Nat) (s : State) : Host.Outcome State Fault Refusal :=
  done (if s.chip.hif.fatal then s else match s.tree? job with
    | none => s
    | some t =>
      if !t.formed || !t.voted || t.restarting || t.parent.isNone then s
      else (s.jobMembers job).foldl (fun a m =>
        if m.st = .normal then a.modMember m.part job fun y => { y with causes := y.causes ++ [(2, Status.timeout.code)] } else a) s)

/-! ### Restart (R442 to R447) -/

def execFault (port vc : Nat) (s : State) : Host.Outcome State Fault Refusal :=
  done (s.jobPacket port vc 0x14 fun job t _ seq _ a => a.current (seq == t.attempt)
    (if t.formed ∧ t.parent.isNone then a.startRestart job t else a))

def execRestart (port vc : Nat) (s : State) : Host.Outcome State Fault Refusal :=
  done (s.jobPacket port vc 0x15 fun job t _ seq _ a => if t.formed ∧ t.parent.isSome ∧ t.attempt < seq then a.enterRestart job t seq else a)

/-- Causes that a restart's own actions have left are no causes. -/
def State.clearCauses (s : State) (job : Nat) : State :=
  (s.jobMembers job).foldl (fun a m => a.modMember m.part job fun y => { y with causes := [] }) s

/-- A context needs no stop any more. -/
def Context.atRest (c : Context) : Bool := c.st == .stopped || c.st == .evicted || c.st == .dead

/-- Step 3 of R443 for one bound set: STAGING takes ABORT, IDLE has the clears of an ABORT and no resolution, STAGED is held. -/
def State.makeReportable (s : State) (part set : Nat) : State :=
  match s.set? part set with
  | none => s
  | some x => match x.st with
    | .staging => s.resolveSet part set false false
    | .idle => s.serveAll.nmuResolve part set false x.epoch
    | _ => s

/-- The end of step 2 and step 3 of R443: contexts reset, collectives cancelled, bound sets made reportable. -/
def State.restartStopped (s : State) (job : Nat) (t : Tree) : State :=
  let s1 := (s.jobCtxs job).foldl (fun a p => if p.2.st = .dead then a else a.resetCtx p.1) s
  let ms := s1.jobMembers job
  let s2 := s1.cancelColls fun x => x.job == job && ms.any fun m => m.part == x.part
  let s3 := ms.foldl (fun a m => m.sets.foldl (fun b k => b.makeReportable m.part k) a) s2
  (s3.clearCauses job).putTree job { t with reported := true }

def execRestartStopComplete (job : Nat) (s : State) : Host.Outcome State Fault Refusal :=
  done (if s.chip.hif.fatal then s else match s.tree? job with
    | none => s
    | some t => if t.restarting && t.stopped && !t.reported && (s.jobCtxs job).all (fun p => p.2.atRest) then s.restartStopped job t else s)

/-- A context that step 2 has not stopped in time is torn down. -/
def execRestartStopTimeout (job : Nat) (s : State) : Host.Outcome State Fault Refusal :=
  done (if s.chip.hif.fatal then s else match s.tree? job with
    | none => s
    | some t =>
      if !t.restarting || t.reported then s
      else
        let s1 := (s.jobCtxs job).foldl (fun a p => if p.2.atRest then a else a.teardown p.1 false) s
        (s1.clearCauses job).putTree job { t with stopped := true })

def execStateRpt (port vc : Nat) (s : State) : Host.Outcome State Fault Refusal :=
  done (s.jobPacket port vc 0x16 fun job t dev seq m a => a.current (seq == t.attempt)
    (if !t.restarting || t.rptSent || !t.hasChild dev then a else a.putTree job { t with rpts := keepMsg t.rpts dev m }))

/-- The root holds a report of every member. -/
def State.fullReport (s : State) (job : Nat) (t : Tree) : Bool :=
  t.restarting && t.reported && t.parent.isNone && (s.reportOf job t).ncount == ((s.jobMembers job).head?.map (·.nmem)).getD 0

/-- What the root decides (R444), with its DSEQ (R445). -/
def resumeOf (r : JobMsg) (dseq : Nat) : JobMsg :=
  if r.ephi = r.epoch then { epoch := r.epoch, ephi := dseq }
  else if r.ephi = r.epoch + 1 ∧ r.nlow = 0 then { epoch := r.ephi, ephi := dseq, flags := fRoll + (r.flags &&& fOvf) }
  else { flags := fFail, code := 2, ephi := dseq }

def execRestartHoldEnd (job : Nat) (s : State) : Host.Outcome State Fault Refusal :=
  done (if s.chip.hif.fatal then s else match s.tree? job with
    | none => s
    | some t => if s.fullReport job t then s.applyResume job t (resumeOf (s.reportOf job t) t.dseq) else s)

def execStateReportTimeout (job : Nat) (s : State) : Host.Outcome State Fault Refusal :=
  done (if s.chip.hif.fatal then s else match s.tree? job with
    | none => s
    | some t => if t.restarting && t.parent.isNone && !s.fullReport job t then s.applyResume job t { flags := fFail, code := 1, ephi := t.dseq } else s)

def execResume (port vc : Nat) (s : State) : Host.Outcome State Fault Refusal :=
  done (s.jobPacket port vc 0x17 fun job t _ seq m a => a.current (seq == t.attempt)
    (if t.restarting ∧ t.parent.isSome then a.applyResume job t m else a))

/-- No RESTART or RESUME within RSTMO: LOST (R447). -/
def execRestartTimeout (job : Nat) (s : State) : Host.Outcome State Fault Refusal :=
  done (if s.chip.hif.fatal then s else match s.tree? job with
    | none => s
    | some t =>
      if t.parent.isNone || !t.formed then s
      else (s.jobMembers job).foldl (fun a m =>
        if m.st = .faulted ∨ m.st = .restarting then
          (a.modMember m.part job fun y => { y with st := .lost }).jobRecord m 6 (t.attempt % 2 ^ 16) Status.timeout.code 0 0
        else a) (s.putTree job { t with restarting := false }))

end Sys2Proof.Machine
end

