-- ==== Sys2Proof/Machine/Dispatch.lean ====
section
/-! DEFINITION. One arm per command: the meaning each row of the command table has. -/

namespace Sys2Proof.Machine

open Sys2Proof

def exec (i : Instr) (s : State) : Host.Outcome State Fault Refusal :=
  match i with
  -- Host registers, PCIe functions and resets (15)
  | .registerWrite space off value ok => Sys2Proof.Machine.execRegisterWrite space off value ok s
  | .unmappedRegisterAccess space off bytes write => Sys2Proof.Machine.execUnmappedRegisterAccess space off bytes write s
  | .mailboxEnable fn logn => Sys2Proof.Machine.execMailboxEnable fn logn s
  | .mailboxDisable fn logn => Sys2Proof.Machine.execMailboxDisable fn logn s
  | .mailboxDoorbell fn index => Sys2Proof.Machine.execMailboxDoorbell fn index s
  | .mailboxResponseDoorbell fn index => Sys2Proof.Machine.execMailboxResponseDoorbell fn index s
  | .submissionDoorbell fn ring index => Sys2Proof.Machine.execSubmissionDoorbell fn ring index s
  | .completionDoorbell fn ring index => Sys2Proof.Machine.execCompletionDoorbell fn ring index s
  | .completionInterruptTimer fn ring => Sys2Proof.Machine.execCompletionInterruptTimer fn ring s
  | .msixVectorUnmask fn vector => Sys2Proof.Machine.execMsixVectorUnmask fn vector s
  | .configRequest fn off write => Sys2Proof.Machine.execConfigRequest fn off write s
  | .configImageLoaded => Sys2Proof.Machine.execConfigImageLoaded s
  | .vfEnableSet numVFs => Sys2Proof.Machine.execVfEnableSet numVFs s
  | .vfEnableClear => Sys2Proof.Machine.execVfEnableClear s
  | .vfFlr fn => Sys2Proof.Machine.execVfFlr fn s
  | .pfFlr => Sys2Proof.Machine.execPfFlr s
  | .pcieHotReset => Sys2Proof.Machine.execPcieHotReset s
  | .pcieLinkDown => Sys2Proof.Machine.execPcieLinkDown s
  | .busMasterEnableClear fn => Sys2Proof.Machine.execBusMasterEnableClear fn s
  | .busMasterEnableSet fn => Sys2Proof.Machine.execBusMasterEnableSet fn s
  | .hostCopyBmeTimeout fn seq => Sys2Proof.Machine.execHostCopyBmeTimeout fn seq s
  | .hostReadError fn kind which late => Sys2Proof.Machine.execHostReadError fn kind which late s
  -- Mailbox: device, partitions, contexts, clients
  | .nop c value => Sys2Proof.Machine.execNop c value s
  | .deviceInfo c => Sys2Proof.Machine.execDeviceInfo c s
  | .partLayout c start => Sys2Proof.Machine.execPartLayout c start s
  | .partConfig c part pdl age lo hi => Sys2Proof.Machine.execPartConfig c part pdl age lo hi s
  | .ctxCreate c d => Sys2Proof.Machine.execCtxCreate c d s
  | .ctxDestroy c n => Sys2Proof.Machine.execCtxDestroy c n s
  | .ctxStop c n => Sys2Proof.Machine.execCtxStop c n s
  | .ctxResume c n => Sys2Proof.Machine.execCtxResume c n s
  | .ctxReset c n => Sys2Proof.Machine.execCtxReset c n s
  | .ctxEvict c n => Sys2Proof.Machine.execCtxEvict c n s
  | .ctxRestore c n => Sys2Proof.Machine.execCtxRestore c n s
  | .ctxStatus c n => Sys2Proof.Machine.execCtxStatus c n s
  | .clientQuery c client => Sys2Proof.Machine.execClientQuery c client s
  | .clientSetQuota c client quota => Sys2Proof.Machine.execClientSetQuota c client quota s
  | .clientClear c client => Sys2Proof.Machine.execClientClear c client s
  -- Mailbox: segments, parameter groups, programs, copies
  | .segCreate c d ctx => Sys2Proof.Machine.execSegCreate c d ctx s
  | .segQuery c ctx seg => Sys2Proof.Machine.execSegQuery c ctx seg s
  | .segProtect c ctx seg perm => Sys2Proof.Machine.execSegProtect c ctx seg perm s
  | .segMigrate c ctx seg attr pref tmo => Sys2Proof.Machine.execSegMigrate c ctx seg attr pref tmo s
  | .segDelete c ctx seg tmo => Sys2Proof.Machine.execSegDelete c ctx seg tmo s
  | .pgroupCreate c d => Sys2Proof.Machine.execPgroupCreate c d s
  | .pgroupDelete c st gid => Sys2Proof.Machine.execPgroupDelete c st gid s
  | .nmuProgramLoad c part st prog bs => Sys2Proof.Machine.execNmuProgramLoad c part st prog bs s
  | .nmuProgramDelete c part st prog => Sys2Proof.Machine.execNmuProgramDelete c part st prog s
  | .stateLoad c st gid epoch cva => Sys2Proof.Machine.execStateLoad c st gid epoch cva s
  | .stateExport c st gid haddr => Sys2Proof.Machine.execStateExport c st gid haddr s
  | .weightImport c st gid key cva bytes => Sys2Proof.Machine.execWeightImport c st gid key cva bytes s
  | .hostCopy c d ext => Sys2Proof.Machine.execHostCopy c d ext s
  -- Mailbox: rings
  | .ringCreateSubmission c ctx form logn base shadow => Sys2Proof.Machine.execRingCreateSubmission c ctx form logn base shadow s
  | .ringCreateCompletion c logn vector icnt itime base shadow => Sys2Proof.Machine.execRingCreateCompletion c logn vector icnt itime base shadow s
  | .ringDestroy c kind ring => Sys2Proof.Machine.execRingDestroy c kind ring s
  | .ringReset c kind ring => Sys2Proof.Machine.execRingReset c kind ring s
  | .ringBindNotice c ctx ring => Sys2Proof.Machine.execRingBindNotice c ctx ring s
  -- Mailbox: counters, streams, layouts, telemetry tables
  | .counter c ctx core idx value => Sys2Proof.Machine.execCounter c ctx core idx value s
  | .streamSlotAllocate c ctx core sid => Sys2Proof.Machine.execStreamSlotAllocate c ctx core sid s
  | .streamSlotFree c ctx core sid => Sys2Proof.Machine.execStreamSlotFree c ctx core sid s
  | .streamArm c ctx core d => Sys2Proof.Machine.execStreamArm c ctx core d s
  | .streamCancel c ctx core sid => Sys2Proof.Machine.execStreamCancel c ctx core sid s
  | .streamStatus c ctx core sid => Sys2Proof.Machine.execStreamStatus c ctx core sid s
  | .bankCap c part cap => Sys2Proof.Machine.execBankCap c part cap s
  | .tagtmo c part tmo => Sys2Proof.Machine.execTagtmo c part tmo s
  | .mcastGroupCreate c ctx leader bits => Sys2Proof.Machine.execMcastGroupCreate c ctx leader bits s
  | .mcastGroupDelete c group => Sys2Proof.Machine.execMcastGroupDelete c group s
  | .layoutCreate c ctx d => Sys2Proof.Machine.execLayoutCreate c ctx d s
  | .layoutDelete c ctx h => Sys2Proof.Machine.execLayoutDelete c ctx h s
  | .histogramRead c ctx first count => Sys2Proof.Machine.execHistogramRead c ctx first count s
  | .histogramClear c ctx first count => Sys2Proof.Machine.execHistogramClear c ctx first count s
  | .formatTableWrite c ctx first count es => Sys2Proof.Machine.execFormatTableWrite c ctx first count es s
  | .formatTableRead c ctx first count => Sys2Proof.Machine.execFormatTableRead c ctx first count s
  | .q1Tblload c ctx pair fcva dcva => Sys2Proof.Machine.execQ1Tblload c ctx pair fcva dcva s
  -- Mailbox: jobs, routes, windows, collectives, ports
  | .deviceId c devid => Sys2Proof.Machine.execDeviceId c devid s
  | .jobJoin c part job midx nmem t => Sys2Proof.Machine.execJobJoin c part job midx nmem t s
  | .jobLeave c part job => Sys2Proof.Machine.execJobLeave c part job s
  | .route c first count es => Sys2Proof.Machine.execRoute c first count es s
  | .windowOpen c d => Sys2Proof.Machine.execWindowOpen c d s
  | .windowClose c rwin => Sys2Proof.Machine.execWindowClose c rwin s
  | .collective c d => Sys2Proof.Machine.execCollective c d s
  | .collCancel c part job coll => Sys2Proof.Machine.execCollCancel c part job coll s
  | .portEnable c port => Sys2Proof.Machine.execPortEnable c port s
  | .portDisable c port => Sys2Proof.Machine.execPortDisable c port s
  | .portLaneRestore c port => Sys2Proof.Machine.execPortLaneRestore c port s
  | .portCreditAllocation c port init => Sys2Proof.Machine.execPortCreditAllocation c port init s
  -- Mailbox: optimizer sets, commit groups, trees
  | .role c elig => Sys2Proof.Machine.execRole c elig s
  | .optSetCreate c part stmo => Sys2Proof.Machine.execOptSetCreate c part stmo s
  | .optSetDelete c part set => Sys2Proof.Machine.execOptSetDelete c part set s
  | .optSetQuery c part set => Sys2Proof.Machine.execOptSetQuery c part set s
  | .updateStage c part set b => Sys2Proof.Machine.execUpdateStage c part set b s
  | .setResolveCommit c part set => Sys2Proof.Machine.execSetResolveCommit c part set s
  | .setResolveAbort c part set => Sys2Proof.Machine.execSetResolveAbort c part set s
  | .stepBind c ctx set sig score rcva => Sys2Proof.Machine.execStepBind c ctx set sig score rcva s
  | .lossScaleSet c part set dyn lse lsmin lsmax ngrow => Sys2Proof.Machine.execLossScaleSet c part set dyn lse lsmin lsmax ngrow s
  | .lossScaleQuery c part set => Sys2Proof.Machine.execLossScaleQuery c part set s
  | .commitGroupStage c part buf acts => Sys2Proof.Machine.execCommitGroupStage c part buf acts s
  | .commitGroupApply c part buf => Sys2Proof.Machine.execCommitGroupApply c part buf s
  | .commitGroupBind c part buf set => Sys2Proof.Machine.execCommitGroupBind c part buf set s
  | .commitGroupDiscard c part buf => Sys2Proof.Machine.execCommitGroupDiscard c part buf s
  | .commitGroupQuery c part buf => Sys2Proof.Machine.execCommitGroupQuery c part buf s
  | .jobStepBind c part job sets nctx sig score => Sys2Proof.Machine.execJobStepBind c part job sets nctx sig score s
  | .jobStepUnbind c part job sets => Sys2Proof.Machine.execJobStepUnbind c part job sets s
  | .treeForm c job fan skipovf vtmo dectmo rstmo elig => Sys2Proof.Machine.execTreeForm c job fan skipovf vtmo dectmo rstmo elig s
  | .jobFault c part job => Sys2Proof.Machine.execJobFault c part job s
  -- Mailbox and sessions: the Security Enclave
  | .spdm c msg opens ends => Sys2Proof.Machine.execSpdm c msg opens ends s
  | .keyDeliver transport session d => Sys2Proof.Machine.execKeyDeliver transport session d s
  | .keyErase transport session d => Sys2Proof.Machine.execKeyErase transport session d s
  | .keyQuery transport session d => Sys2Proof.Machine.execKeyQuery transport session d s
  | .spdmSessionTimeout transport session => Sys2Proof.Machine.execSpdmSessionTimeout transport session s
  | .confModeEnter c session => Sys2Proof.Machine.execConfModeEnter c session s
  | .confModeLeave c => Sys2Proof.Machine.execConfModeLeave c s
  | .confModeKeyUpdate c => Sys2Proof.Machine.execConfModeKeyUpdate c s
  | .keyRelease c part h => Sys2Proof.Machine.execKeyRelease c part h s
  | .keyReleaseErase c part h => Sys2Proof.Machine.execKeyReleaseErase c part h s
  | .keyReleaseQuery c part h => Sys2Proof.Machine.execKeyReleaseQuery c part h s
  | .debugUnlockChallenge c => Sys2Proof.Machine.execDebugUnlockChallenge c s
  | .debugUnlock c t => Sys2Proof.Machine.execDebugUnlock c t s
  | .debugZeroiseTimeout => Sys2Proof.Machine.execDebugZeroiseTimeout s
  -- Mailbox: power
  | .powerStateForce c kind unit st => Sys2Proof.Machine.execPowerStateForce c kind unit st s
  | .powerStateRelease c kind unit => Sys2Proof.Machine.execPowerStateRelease c kind unit s
  | .powerStateSetDivider c part div => Sys2Proof.Machine.execPowerStateSetDivider c part div s
  | .ltol c part tol => Sys2Proof.Machine.execLtol c part tol s
  | .powerCap c cap => Sys2Proof.Machine.execPowerCap c cap s
  | .powerStatus c => Sys2Proof.Machine.execPowerStatus c s
  -- Mailbox: faults, telemetry, firmware
  | .faultConfigWrite c src cfg => Sys2Proof.Machine.execFaultConfigWrite c src cfg s
  | .faultConfigRead c => Sys2Proof.Machine.execFaultConfigRead c s
  | .faultConfigFaultN c mode fnpw => Sys2Proof.Machine.execFaultConfigFaultN c mode fnpw s
  | .faultConfigRelease c => Sys2Proof.Machine.execFaultConfigRelease c s
  | .faultConfigPatrol c iper sper => Sys2Proof.Machine.execFaultConfigPatrol c iper sper s
  | .faultConfigInject c src unit part ctx => Sys2Proof.Machine.execFaultConfigInject c src unit part ctx s
  | .faultConfigWatchdog c wdt => Sys2Proof.Machine.execFaultConfigWatchdog c wdt s
  | .faultRecordsRead c start max => Sys2Proof.Machine.execFaultRecordsRead c start max s
  | .faultRecordsPersistent c => Sys2Proof.Machine.execFaultRecordsPersistent c s
  | .memStatus c => Sys2Proof.Machine.execMemStatus c s
  | .corrLog c st => Sys2Proof.Machine.execCorrLog c st s
  | .portStatus c => Sys2Proof.Machine.execPortStatus c s
  | .fabricStatus c => Sys2Proof.Machine.execFabricStatus c s
  | .fwUpdateWrite c kind img => Sys2Proof.Machine.execFwUpdateWrite c kind img s
  | .fwUpdateQuery c => Sys2Proof.Machine.execFwUpdateQuery c s
  | .logRead c start max => Sys2Proof.Machine.execLogRead c start max s
  | .crashDumpRead c => Sys2Proof.Machine.execCrashDumpRead c s
  | .crashDumpClear c => Sys2Proof.Machine.execCrashDumpClear c s
  -- Tasks on cores
  | .submissionTaskEntry fn ring => Sys2Proof.Machine.execSubmissionTaskEntry fn ring s
  | .q1SubmissionEntry fn ring => Sys2Proof.Machine.execQ1SubmissionEntry fn ring s
  -- Streams and multicast
  | .submissionArmEntry fn ring => Sys2Proof.Machine.execSubmissionArmEntry fn ring s
  -- Tasks on cores
  | .queueEntryPlaced fn ring => Sys2Proof.Machine.execQueueEntryPlaced fn ring s
  | .taskDispatch core => Sys2Proof.Machine.execTaskDispatch core s
  | .dispatchAgeing core ctx => Sys2Proof.Machine.execDispatchAgeing core ctx s
  | .passEnd core eng parity upsets => Sys2Proof.Machine.execPassEnd core eng parity upsets s
  | .chunkDrainEnd core eng => Sys2Proof.Machine.execChunkDrainEnd core eng s
  | .copyBlockEnd core entry word fl => Sys2Proof.Machine.execCopyBlockEnd core entry word fl s
  | .taskEnd core entry cycles => Sys2Proof.Machine.execTaskEnd core entry cycles s
  | .signalArrival n => Sys2Proof.Machine.execSignalArrival n s
  | .tableSetSwap core ctx bad => Sys2Proof.Machine.execTableSetSwap core ctx bad s
  | .stateSaveComplete core ctx upsets => Sys2Proof.Machine.execStateSaveComplete core ctx upsets s
  | .stateRestoreComplete core ctx bad => Sys2Proof.Machine.execStateRestoreComplete core ctx bad s
  -- Streams and multicast
  | .isleAccess core fl => Sys2Proof.Machine.execIsleAccess core fl s
  -- Tasks on cores
  | .isleScrubWrite core word => Sys2Proof.Machine.execIsleScrubWrite core word s
  | .scrubAbandon core word => Sys2Proof.Machine.execScrubAbandon core word s
  -- Contexts
  | .dependencyTimeout core ctx kind which => Sys2Proof.Machine.execDependencyTimeout core ctx kind which s
  | .preemptionDeadline ctx => Sys2Proof.Machine.execPreemptionDeadline ctx s
  | .contextStopped ctx => Sys2Proof.Machine.execContextStopped ctx s
  | .stopTimeout ctx => Sys2Proof.Machine.execStopTimeout ctx s
  | .teardownComplete ctx => Sys2Proof.Machine.execTeardownComplete ctx s
  -- Streams and multicast
  | .streamIssue core => Sys2Proof.Machine.execStreamIssue core s
  | .backgroundAgeing core sid => Sys2Proof.Machine.execBackgroundAgeing core sid s
  | .streamResponse core tag gen => Sys2Proof.Machine.execStreamResponse core tag gen s
  | .mcastCredit group member => Sys2Proof.Machine.execMcastCredit group member s
  | .mcastTileArrival group member => Sys2Proof.Machine.execMcastTileArrival group member s
  | .versionResolution core sid => Sys2Proof.Machine.execVersionResolution core sid s
  | .tagTimeout core tag => Sys2Proof.Machine.execTagTimeout core tag s
  | .tagQuarantineEnd core tag => Sys2Proof.Machine.execTagQuarantineEnd core tag s
  -- Stacks, near-memory units, migrations
  | .nmuRequestArrival stack core => Sys2Proof.Machine.execNmuRequestArrival stack core s
  | .sorterAdmit stack => Sys2Proof.Machine.execSorterAdmit stack s
  | .bankService stack chan pc bank aged errs => Sys2Proof.Machine.execBankService stack chan pc bank aged errs s
  | .dramRefresh stack => Sys2Proof.Machine.execDramRefresh stack s
  | .stageClaimsGranted part set => Sys2Proof.Machine.execStageClaimsGranted part set s
  | .stageTimeout part set => Sys2Proof.Machine.execStageTimeout part set s
  | .stageKernelsEnd part set => Sys2Proof.Machine.execStageKernelsEnd part set s
  | .formatRefresh part set => Sys2Proof.Machine.execFormatRefresh part set s
  | .migrationHoldersEnded ctx seg => Sys2Proof.Machine.execMigrationHoldersEnded ctx seg s
  | .migrationTimeout ctx seg => Sys2Proof.Machine.execMigrationTimeout ctx seg s
  | .migrationCopyComplete ctx seg => Sys2Proof.Machine.execMigrationCopyComplete ctx seg s
  -- Job trees
  | .hello port vc => Sys2Proof.Machine.execHello port vc s
  | .treeOk port vc => Sys2Proof.Machine.execTreeOk port vc s
  | .treeFormTimeout job => Sys2Proof.Machine.execTreeFormTimeout job s
  | .vote port vc => Sys2Proof.Machine.execVote port vc s
  | .voteTimeout job who => Sys2Proof.Machine.execVoteTimeout job who s
  | .decide port vc => Sys2Proof.Machine.execDecide port vc s
  | .decisionTimeout job => Sys2Proof.Machine.execDecisionTimeout job s
  | .fault port vc => Sys2Proof.Machine.execFault port vc s
  | .restart port vc => Sys2Proof.Machine.execRestart port vc s
  | .restartStopComplete job => Sys2Proof.Machine.execRestartStopComplete job s
  | .stateRpt port vc => Sys2Proof.Machine.execStateRpt port vc s
  | .restartHoldEnd job => Sys2Proof.Machine.execRestartHoldEnd job s
  | .resume port vc => Sys2Proof.Machine.execResume port vc s
  | .restartTimeout job => Sys2Proof.Machine.execRestartTimeout job s
  -- Links
  | .trainingFrame port lane ctl rx rdy pre preset ask => Sys2Proof.Machine.execTrainingFrame port lane ctl rx rdy pre preset ask s
  | .trainingTimeout port => Sys2Proof.Machine.execTrainingTimeout port s
  | .trainingWaitEnd port => Sys2Proof.Machine.execTrainingWaitEnd port s
  | .fastRetrainTimeout port => Sys2Proof.Machine.execFastRetrainTimeout port s
  | .codeword port ctl corrected bad => Sys2Proof.Machine.execCodeword port ctl corrected bad s
  | .flitReceive port flit failed => Sys2Proof.Machine.execFlitReceive port flit failed s
  | .flitTransmit port => Sys2Proof.Machine.execFlitTransmit port s
  | .replayTimeout port => Sys2Proof.Machine.execReplayTimeout port s
  | .recoveryTimeout port => Sys2Proof.Machine.execRecoveryTimeout port s
  | .idleFlitTimer port => Sys2Proof.Machine.execIdleFlitTimer port s
  | .creditRelease port vc => Sys2Proof.Machine.execCreditRelease port vc s
  | .lsymWindowEnd port lane => Sys2Proof.Machine.execLsymWindowEnd port lane s
  | .laneLockLoss port lane => Sys2Proof.Machine.execLaneLockLoss port lane s
  | .disableDrainTimeout port => Sys2Proof.Machine.execDisableDrainTimeout port s
  | .config port flit failed => Sys2Proof.Machine.execConfig port flit failed s
  | .retrain port flit failed => Sys2Proof.Machine.execRetrain port flit failed s
  | .down port flit failed => Sys2Proof.Machine.execDown port flit failed s
  | .echoReq port flit failed => Sys2Proof.Machine.execEchoReq port flit failed s
  | .echoRsp port flit failed => Sys2Proof.Machine.execEchoRsp port flit failed s
  -- Packets and collectives
  | .put port vc => Sys2Proof.Machine.execPut port vc s
  | .getReq port vc => Sys2Proof.Machine.execGetReq port vc s
  | .putAck port vc => Sys2Proof.Machine.execPutAck port vc s
  | .getRsp port vc => Sys2Proof.Machine.execGetRsp port vc s
  | .nack port vc => Sys2Proof.Machine.execNack port vc s
  | .red port vc => Sys2Proof.Machine.execRed port vc s
  | .dlv port vc => Sys2Proof.Machine.execDlv port vc s
  | .rep port vc => Sys2Proof.Machine.execRep port vc s
  | .bar port vc => Sys2Proof.Machine.execBar port vc s
  | .barRel port vc => Sys2Proof.Machine.execBarRel port vc s
  | .packetForward port vc => Sys2Proof.Machine.execPacketForward port vc s
  | .packetQueueTimeout port vc => Sys2Proof.Machine.execPacketQueueTimeout port vc s
  | .collectiveTimeout part job coll => Sys2Proof.Machine.execCollectiveTimeout part job coll s
  -- Fault collection
  | .faultSweep => Sys2Proof.Machine.execFaultSweep s
  | .blockResetComplete ukind unit => Sys2Proof.Machine.execBlockResetComplete ukind unit s
  | .faultNPulseEnd => Sys2Proof.Machine.execFaultNPulseEnd s
  | .faultNGapEnd => Sys2Proof.Machine.execFaultNGapEnd s
  | .faultNHoldRelease ok => Sys2Proof.Machine.execFaultNHoldRelease ok s
  | .islePatrolRead core fl => Sys2Proof.Machine.execIslePatrolRead core fl s
  | .stackPatrolRead stack errs => Sys2Proof.Machine.execStackPatrolRead stack errs s
  | .controlSramPatrol fl => Sys2Proof.Machine.execControlSramPatrol fl s
  | .watchdogKick => Sys2Proof.Machine.execWatchdogKick s
  | .watchdogFirstExpiry => Sys2Proof.Machine.execWatchdogFirstExpiry s
  | .watchdogSecondExpiry => Sys2Proof.Machine.execWatchdogSecondExpiry s
  | .enclaveWatchdogExpiry => Sys2Proof.Machine.execEnclaveWatchdogExpiry s
  -- Power, clocks, temperature
  | .powerSample vin iin => Sys2Proof.Machine.execPowerSample vin iin s
  | .inputVoltageLow => Sys2Proof.Machine.execInputVoltageLow s
  | .inputVoltageOutOfRange => Sys2Proof.Machine.execInputVoltageOutOfRange s
  | .fastLimit => Sys2Proof.Machine.execFastLimit s
  | .fastLimitEnd => Sys2Proof.Machine.execFastLimitEnd s
  | .inputOvercurrent => Sys2Proof.Machine.execInputOvercurrent s
  | .powerCapWindow avg => Sys2Proof.Machine.execPowerCapWindow avg s
  | .thermalSample junction stackTs others => Sys2Proof.Machine.execThermalSample junction stackTs others s
  | .thermalWindow eighth => Sys2Proof.Machine.execThermalWindow eighth s
  | .thermalTrip => Sys2Proof.Machine.execThermalTrip s
  | .dividerChange eighth => Sys2Proof.Machine.execDividerChange eighth s
  | .domainIdleDescent kind unit sub => Sys2Proof.Machine.execDomainIdleDescent kind unit sub s
  | .domainWake kind unit sub => Sys2Proof.Machine.execDomainWake kind unit sub s
  | .railPowerGoodLost domain => Sys2Proof.Machine.execRailPowerGoodLost domain s
  | .pllLock => Sys2Proof.Machine.execPllLock s
  | .pllLockTimeout => Sys2Proof.Machine.execPllLockTimeout s
  | .pllLockLoss => Sys2Proof.Machine.execPllLockLoss s
  -- Supplies, pins, start-up, flash
  | .alwaysOnPowerUp vin pwrEn resetN perstN eoffN mgr slot fold => Sys2Proof.Machine.execAlwaysOnPowerUp vin pwrEn resetN perstN eoffN mgr slot fold s
  | .alwaysOnPowerLoss => Sys2Proof.Machine.execAlwaysOnPowerLoss s
  | .pwrEnAssert => Sys2Proof.Machine.execPwrEnAssert s
  | .railsInRegulation => Sys2Proof.Machine.execRailsInRegulation s
  | .railRegulationTimeout domain => Sys2Proof.Machine.execRailRegulationTimeout domain s
  | .pwrEnDeassert => Sys2Proof.Machine.execPwrEnDeassert s
  | .resetNAssert => Sys2Proof.Machine.execResetNAssert s
  | .resetNDeassert => Sys2Proof.Machine.execResetNDeassert s
  | .chipResetHoldEnd => Sys2Proof.Machine.execChipResetHoldEnd s
  | .perstNAssert => Sys2Proof.Machine.execPerstNAssert s
  | .perstNDeassert => Sys2Proof.Machine.execPerstNDeassert s
  | .eoffNAssert => Sys2Proof.Machine.execEoffNAssert s
  | .eoffNDeassert => Sys2Proof.Machine.execEoffNDeassert s
  | .strapChange mgr slot fold => Sys2Proof.Machine.execStrapChange mgr slot fold s
  | .enclaveBootComplete katOk => Sys2Proof.Machine.execEnclaveBootComplete katOk s
  | .stackTrainingTimeout stack step => Sys2Proof.Machine.execStackTrainingTimeout stack step s
  | .arraySelfTestComplete found => Sys2Proof.Machine.execArraySelfTestComplete found s
  | .droverInitTimeout => Sys2Proof.Machine.execDroverInitTimeout s
  | .ready => Sys2Proof.Machine.execReady s
  -- Sideband
  | .sbSetReadPointer off ok => Sys2Proof.Machine.execSbSetReadPointer off ok s
  | .sbRegisterRead => Sys2Proof.Machine.execSbRegisterRead s
  | .sbMbDataWrite v ok => Sys2Proof.Machine.execSbMbDataWrite v ok s
  | .sbMbDataRead => Sys2Proof.Machine.execSbMbDataRead s
  | .sbMbLenWrite v ok => Sys2Proof.Machine.execSbMbLenWrite v ok s
  | .sbEvtClear v ok => Sys2Proof.Machine.execSbEvtClear v ok s
  | .smbusAlertResponse => Sys2Proof.Machine.execSmbusAlertResponse s
  | .sbMbAbort v => Sys2Proof.Machine.execSbMbAbort v s
  | .fwWrite kind ok => Sys2Proof.Machine.execFwWrite kind ok s
  | .sbLogRead ok => Sys2Proof.Machine.execSbLogRead ok s
  | .dumpRead ok => Sys2Proof.Machine.execDumpRead ok s
  | .dumpClear ok => Sys2Proof.Machine.execDumpClear ok s
  | .fstoreRead ok => Sys2Proof.Machine.execFstoreRead ok s
  | .chipReset ok => Sys2Proof.Machine.execChipReset ok s
  | .sbMbWordTimeout => Sys2Proof.Machine.execSbMbWordTimeout s
  | .mctpPacket som eom body opens ends ok => Sys2Proof.Machine.execMctpPacket som eom body opens ends ok s
  | .mctpReassemblyTimeout => Sys2Proof.Machine.execMctpReassemblyTimeout s
  | .setEndpointId eid => Sys2Proof.Machine.execSetEndpointId eid s
  | .getEndpointId => Sys2Proof.Machine.execGetEndpointId s
  | .getEndpointUuid => Sys2Proof.Machine.execGetEndpointUuid s
  | .getMctpVersionSupport => Sys2Proof.Machine.execGetMctpVersionSupport s
  | .getMessageTypeSupport => Sys2Proof.Machine.execGetMessageTypeSupport s
  -- Test access port
  | .samplePreload cells load => Sys2Proof.Machine.execSamplePreload cells load s
  | .extest cells load => Sys2Proof.Machine.execExtest cells load s
  | .clamp => Sys2Proof.Machine.execClamp s
  | .highz => Sys2Proof.Machine.execHighz s
  | .extestPulse cells load => Sys2Proof.Machine.execExtestPulse cells load s
  | .extestTrain cells load => Sys2Proof.Machine.execExtestTrain cells load s
  | .bypass => Sys2Proof.Machine.execBypass s
  | .tapPrivateInstruction opcode => Sys2Proof.Machine.execTapPrivateInstruction opcode s
  | .tapReset => Sys2Proof.Machine.execTapReset s
  -- Host registers, PCIe functions and resets (15)
  | .hostReadCompletion fn kind which bytes ok => Sys2Proof.Machine.execHostReadCompletion fn kind which bytes ok s
  -- Completions of running commands
  | .zeroingComplete seq => Sys2Proof.Machine.execZeroingComplete seq s
  | .regenerationComplete stack gid => Sys2Proof.Machine.execRegenerationComplete stack gid s
  | .regenerationTimeout stack gid => Sys2Proof.Machine.execRegenerationTimeout stack gid s
  -- Supplies, pins, start-up, flash
  | .flashProgrammingComplete => Sys2Proof.Machine.execFlashProgrammingComplete s
  | .crashCaptureComplete => Sys2Proof.Machine.execCrashCaptureComplete s
  -- Job trees
  | .restartStopTimeout job => Sys2Proof.Machine.execRestartStopTimeout job s
  | .stateReportTimeout job => Sys2Proof.Machine.execStateReportTimeout job s
  -- Power, clocks, temperature
  | .forcedStateReached kind unit => Sys2Proof.Machine.execForcedStateReached kind unit s

end Sys2Proof.Machine
end

