-- ==== Sys2Proof/Machine/Step.lean ====
section
/-! DEFINITION. One step: the command at the front of the queue, or a tick of the clock where none waits. -/

namespace Sys2Proof.Machine

open Sys2Proof

/-- A command put at the front of the queue (log 8: DESIGN CHOICE). -/
def State.front (s : State) (i : Instr) : State := { s with pending := i :: s.pending }

/-- The command that the table's bits spell put at the front of the queue; they spell none here (log 8: DESIGN CHOICE). -/
def State.withFetchWord (s : State) (nbits w : Nat) : State := (decodeTableWord nbits w).elim s s.front

/-- A microsecond of AOCLK (R575) passes while no command waits (log 4: DESIGN CHOICE). -/
def State.tick (s : State) : State := if s.aon.up then { s with aon.time := s.aon.time + 1 } else s

/-- The front command runs on the state with the queue's rest (log 4: DESIGN CHOICE; log 13: DESIGN CHOICE). -/
def step (s : State) : Host.Outcome State Fault Refusal :=
  match s.pending with
  | [] => .next s.tick
  | i :: rest => exec i { s with pending := rest }

end Sys2Proof.Machine
end

