-- ==== Sys2Proof/Safety.lean ====
section
/-! DEFINITION. What claims about runs are stated in: the canonical form of memory, the fuses, a mailbox command accepted, answered,
refused or left running, a module at which nothing is about to happen at once. -/

namespace Sys2Proof.Machine

open Sys2Proof

/-- Memory in its canonical form: addresses strictly rising, no byte listed that an unlisted address reads as. -/
abbrev Memory.wf (m : List Host.Cell) : Bool := Tab.wf m 0#8

/-- What the fuse array holds beyond the security versions (R518): stepping, revoked keys, debug disable, repairs. -/
def State.fixedFuses (s : State) : Bool × Nat × Bool × Tab (Nat × Nat) := (s.nv.b0, s.nv.keyrev, s.nv.dbgdis, s.nv.repair)

/-- The fused security version of image kind `k + 1` (R518, R523). -/
def State.fusedSvn (s : State) (k : Nat) : Nat := s.nv.svn.getD k 0

/-- The state once a mailbox command has been accepted (R496). -/
def State.taken (s : State) (c : Caller) (opc : Nat) : State := (s.accept c opc).1

/-- The accepted command, with its acceptance number (R496). -/
def State.cmdOf (s : State) (c : Caller) (opc : Nat) : Cmd := (s.accept c opc).2

/-- The next state of a mailbox command that has left the module as `a` and is answered OK (R491). -/
def State.answered (s : State) (c : Caller) (opc : Nat) (a : State) (result : Nat := 0) (data : List Byte := []) : State :=
  (a.respond (s.cmdOf c opc) .ok 0 result data).settle

/-- The next state of a mailbox command refused by one of its checks: accepted, answered, nothing else (R494, R627). -/
def State.refusedWith (s : State) (c : Caller) (opc : Nat) (st : Status) (detail : Nat) (need : Nat := 0) : State :=
  ((s.taken c opc).respond (s.cmdOf c opc) st detail (need := need)).settle

/-- The next state of a mailbox command that has left the module as `a` and runs on until an event answers it (R496). -/
def State.started (s : State) (c : Caller) (opc : Nat) (a : State) (objs : List Obj) (w : Await) (result : Nat := 0)
    (data : List Byte := []) : State :=
  (a.run (s.cmdOf c opc) objs w result data).settle

/-- The response buffer holds a response of `n` bytes (check 4 of R494). -/
def State.bufferHolds (s : State) (c : Caller) (n : Nat) : Prop := n + s.sealBytes c.fn ≤ c.rlen

/-- The caller is the physical function or one that is bound to a partition (R454). -/
def State.bound (s : State) (c : Caller) : Prop := c.fn = 0 ∨ (s.boundPart c.fn).isSome = true

/-- The caller may act on partition `h`, which exists (R494, R498). -/
def State.mayOnPart (s : State) (c : Caller) (h : Nat) : Prop := s.mayAct c.fn h = true ∧ startsPart s.chip.start h = true

/-- The caller may act on context `n`, which exists and is not DEAD (R494, R627). -/
def State.mayOnCtx (s : State) (c : Caller) (n : Nat) : Prop := s.mayAct c.fn (ctxPart n) = true ∧ s.liveCtx n = true

/-- The caller may act on context `n` and a core of its partition. -/
def State.mayOnCore (s : State) (c : Caller) (n core : Nat) : Prop := s.mayOnCtx c n ∧ s.coreInPart (ctxPart n) core = true

/-- The caller may act on stack `st`. -/
def State.mayOnStack (s : State) (c : Caller) (st : Nat) : Prop := s.mayAct c.fn (s.stackPart st) = true ∧ st < 32

/-- The caller may act on port `p`. -/
def State.mayOnPort (s : State) (c : Caller) (p : Nat) : Prop :=
  p < 16 ∧ (c.fn = 0 ∨ ∃ h, s.boundPart c.fn = some h ∧ s.portInPart h p = true)

/-- The head packet of a channel is `p`, is for this module, and passes the checks of R396. -/
def State.delivers (s : State) (n vc : Nat) (p : List Byte) : Bool :=
  s.headPacket n vc == some p && some (pkDst p) == s.chip.devid && ecrcOk p && packetShapeOk p && pkJob p != 0 &&
    (s.member? (pkDpart p) (pkJob p)).isSome

/-- Everything but the host interface and what leaves the module. -/
def State.inside (s : State) : State := { s with out := [], chip := { s.chip with hif := {} } }

/-- Nothing happens at once here: no reaction waits, no stream slot, claim, collective, job cause or tree could go on. -/
def State.atRest (s : State) : Bool :=
  s.chip.fc.todoC.isNone && s.chip.fc.todoB.isEmpty && s.chip.cores.all (fun p => p.2.slots.isEmpty) &&
    s.chip.sets.all (fun p => p.2.st != .staging || p.2.kernels) && s.chip.colls.isEmpty && s.chip.trees.isEmpty &&
    s.chip.members.all fun p => p.2.causes.isEmpty

end Sys2Proof.Machine
end

