-- ==== Sys2Proof/Certificates/Slice0/Obligations.lean ====
section
/-! DEFINITION. The statements about the model, for the provers. Beside each statement about a row stands the row's next state in full, so
that what it leaves alone is what the record update does not name. A clause that rests on a choice of the model names its log entry. -/

open Sys2Proof Sys2Proof.Machine

/-- A step takes the command at the front of the queue and runs it on the state with the queue's rest.
Where it rests on choices of the model, these are log entries 13. -/
def Obligations.StepRunsFrontCommand : Prop :=
  ∀ (s : State) (i : Instr) (rest : List Instr), s.pending = i :: rest → step s = exec i { s with pending := rest }

/-- The reset state, before the always-on supply: nothing waits, nothing has left the module, memory lists nothing and reads zero in
its canonical form, the chip is held with one partition of all eight eighths, neither READY nor FATAL, power cap 6,500 W, dividers 6, every
port disabled, no context, window, membership or tree, and with no command waiting nothing changes; once the always-on supply is up, a
step without command lets a microsecond pass (the model's choice, log entry 4).
Where it rests on choices of the model, these are log entries 2, 3, 4, 5, 6, 7, 13, 14. -/
def Obligations.ResetStateAndIdle : Prop :=
  State.reset.pending = [] ∧ State.reset.out = [] ∧ State.reset.mem = [] ∧ Memory.wf State.reset.mem = true ∧
  (∀ k, State.reset.rd k = 0) ∧ State.reset.chip.boot = .held ∧ State.reset.chip.start = 0x01 ∧ State.reset.chip.hif.ready = false ∧
  State.reset.chip.hif.fatal = false ∧ State.reset.chip.pwr.cap = 6500 ∧ (∀ h, State.reset.effDiv h = 6) ∧
  (∀ p, (State.reset.port p).st = .disabled) ∧ (∀ n, State.reset.ctx? n = none) ∧ (∀ w, State.reset.window? w = none) ∧
  (∀ p j, State.reset.member? p j = none) ∧ (∀ j, State.reset.tree? j = none) ∧ step State.reset = .next State.reset ∧
  ∀ s : State, s.pending = [] → s.aon.up = true → step s = .next { s with aon.time := s.aon.time + 1 }

/-- No command ends a run (R7): every command in every state answers a next state, and a step serves the queue first in, first out,
adding nothing to it.
Where it rests on choices of the model, these are log entries 4, 12, 13. -/
def Obligations.EveryCommandAnswers : Prop :=
  (∀ (i : Instr) (s : State), ∃ t, exec i s = .next t ∧ t.pending = s.pending) ∧
  ∀ s : State, ∃ t, step s = .next t ∧ t.pending = s.pending.tail

/-- The fuse array (R518, R523): stepping, revoked keys, debug disable and repairs are as they were after every step, and no fused security
version falls. -/
def Obligations.FusesHeld : Prop :=
  ∀ s t : State, step s = .next t → t.fixedFuses = s.fixedFuses ∧ ∀ k, k < 3 → s.fusedSvn k ≤ t.fusedSvn k

/-- The canonical form of memory is an invariant: from every state whose memory lists its bytes at strictly rising addresses and none
that an unlisted address reads as, every step leads to such a state, so that equal contents of the stacks and Isles are equal data. -/
def Obligations.MemoryStaysCanonical : Prop :=
  ∀ s t : State, Memory.wf s.mem = true → step s = .next t → Memory.wf t.mem = true

/-- Layouts (R452): in every legal layout the partitions are groups of 1, 2, 4 or 8 consecutive eighths, each named by its lowest eighth, a
multiple of its size, and every eighth lies in exactly one; there are 26. -/
def Obligations.LegalLayouts : Prop :=
  (∀ start, legalStart start = true →
    (∀ h ∈ partsOf start, (∃ k, k ≤ 3 ∧ partSize start h = 2 ^ k) ∧ h % partSize start h = 0 ∧ h + partSize start h ≤ 8) ∧
    ∀ e, e < 8 → ((partsOf start).filter fun h => decide (h ≤ e) && decide (e < h + partSize start h)).length = 1) ∧
  ((List.range 256).filter legalStart).length = 26 ∧ ∀ start, legalStart start = true → start < 256

/-- HIF_ID and HIF_HBEAT (R483, R485): the first reads the stepping, 0x00 or 0x10, the interface version 0x01 and the function's device ID; the
second counts milliseconds since READY modulo 2^32, is 0 before, and stands still while FATAL is 1. -/
def Obligations.HostIdentification : Prop :=
  ∀ (s : State) (fn : Nat),
    s.barReg fn 0 = some ((if s.nv.b0 then 0x10 else 0x00) * 2 ^ 24 + 0x01 * 2 ^ 16 + if fn = 0 then 0x2304 else 0x2305) ∧
    (s.chip.hif.ready = false → s.barReg fn 8 = some 0) ∧
    (s.chip.hif.ready = true → s.chip.hif.fatal = false → s.barReg fn 8 = some ((s.aon.time - s.chip.hif.readyAt) / 1000 % 2 ^ 32)) ∧
    (s.chip.hif.ready = true → s.chip.hif.fatal = true → ∀ t, ({ s with aon.time := t } : State).barReg fn 8 = s.barReg fn 8)

/-- POWER_CAP (R578): accepted from the physical function alone, it stores a cap from 1,000 W to 6,500 W and refuses any other with
ARG_RANGE; the default is 6,500 W; the window in which it comes is judged by the old cap, the next one by the new. -/
def Obligations.PowerCapCommand : Prop :=
  (∀ (s t : State) (c : Caller) (v : Nat), s.mayStart c 0x0802 [] = true → t = s.taken c 0x0802 →
    (c.fn ≠ 0 → ∃ d, exec (.powerCap c v) s = .next (s.refusedWith c 0x0802 .denied d)) ∧
    (c.fn = 0 → 1000 ≤ v → v ≤ 6500 → exec (.powerCap c v) s = .next (s.answered c 0x0802 { t with chip.pwr.capNew := v })) ∧
    (c.fn = 0 → v < 1000 ∨ 6500 < v → ∃ d, exec (.powerCap c v) s = .next (s.refusedWith c 0x0802 .argRange d))) ∧
  State.reset.chip.pwr.cap = 6500 ∧ State.reset.chip.pwr.capNew = 6500 ∧
  (∀ (s : State) (avg : Nat), s.aon.mainOn = true → ∃ t : State, exec (.powerCapWindow avg) s = .next t.settle ∧
    t.chip.pwr.cap = s.chip.pwr.capNew ∧
    t.chip.pwr.capDiv = if 1000 * s.chip.pwr.cap < avg then min 16 (s.chip.pwr.capDiv + 1)
      else if 100 * avg < 95 * (1000 * s.chip.pwr.cap) ∧ 9 ≤ s.chip.pwr.below then max 6 (s.chip.pwr.capDiv - 1) else s.chip.pwr.capDiv)

/-- The store of fault records (R550): a new record is added while fewer than 4,096 are held; in a full store it replaces the oldest record
of the lowest severity present, if that severity is no higher than its own, and is dropped otherwise; what is replaced or dropped is counted
in LOST. -/
def Obligations.RecordStoreReplaces : Prop :=
  (∀ (s : State) (r : FaultRec), s.chip.fc.recs.find? (coalesces r) = none →
    (s.record r).1.chip.fc = ({ s.chip.fc with seq := (s.chip.fc.seq + 1) % 2 ^ 32 } : FaultCollector).put r) ∧
  (∀ (fc : FaultCollector) (r : FaultRec), fc.recs.length < 4096 → fc.put r = { fc with recs := fc.recs ++ [r] }) ∧
  (∀ (fc : FaultCollector) (r old : FaultRec) (pre post : List FaultRec), 4096 ≤ fc.recs.length → r.sev < 4 → fc.recs = pre ++ old :: post →
    (∀ x ∈ fc.recs, old.sev ≤ x.sev) → (∀ x ∈ pre, x.sev ≠ old.sev) → old.sev ≤ r.sev →
    (fc.put r).recs = pre ++ post ++ [r] ∧ (fc.put r).lost = satAdd 32 fc.lost 1) ∧
  (∀ (fc : FaultCollector) (r : FaultRec), 4096 ≤ fc.recs.length → r.sev < 4 → (∀ x ∈ fc.recs, r.sev < x.sev) →
    (fc.put r).recs = fc.recs ∧ (fc.put r).lost = satAdd 32 fc.lost 1)

/-- Commands refused and commands held back (R494, R498, R480): a command of the physical function alone that another function issues is
answered DENIED with DETAIL 3 and changes nothing else; while the module does not serve, every one of them waits and nothing changes.
Where it rests on choices of the model, these are log entries 11, 15, 17, 20, 23, 24, 25, 26, 28, 29, 30, 37, 45, 64, 76, 77, 124. -/
def Obligations.PhysicalFunctionCommandsGuarded : Prop :=
  (∀ (s : State) (c : Caller), c.fn ≠ 0 →
    (s.mayStart c 0x0200 [.partitions] = true → ∀ x, exec (.partLayout c x) s = .next (s.refusedWith c 0x0200 .denied 3)) ∧
    (s.mayStart c 0x0201 [.partitions] = true → ∀ p a b l h, exec (.partConfig c p a b l h) s = .next (s.refusedWith c 0x0201 .denied 3)) ∧
    (∀ k, s.mayStart c 0x020A [.partitions, .client k] = true →
      (∀ q, exec (.clientSetQuota c k q) s = .next (s.refusedWith c 0x020A .denied 3)) ∧
      exec (.clientClear c k) s = .next (s.refusedWith c 0x020A .denied 3)) ∧
    (s.mayStart c 0x0500 [] = true → ∀ x, exec (.deviceId c x) s = .next (s.refusedWith c 0x0500 .denied 3)) ∧
    (s.mayStart c 0x0600 [] = true → ∀ x, exec (.role c x) s = .next (s.refusedWith c 0x0600 .denied 3)) ∧
    (s.mayStart c 0x0703 [] = true → exec (.debugUnlockChallenge c) s = .next (s.refusedWith c 0x0703 .denied 3 48)) ∧
    (s.mayStart c 0x0802 [] = true → ∀ x, exec (.powerCap c x) s = .next (s.refusedWith c 0x0802 .denied 3)) ∧
    (s.mayStart c 0x0900 [] = true →
      (∀ a b, exec (.faultConfigWrite c a b) s = .next (s.refusedWith c 0x0900 .denied 3)) ∧
      exec (.faultConfigRead c) s = .next (s.refusedWith c 0x0900 .denied 3 1024) ∧
      (∀ a b, exec (.faultConfigFaultN c a b) s = .next (s.refusedWith c 0x0900 .denied 3)) ∧
      exec (.faultConfigRelease c) s = .next (s.refusedWith c 0x0900 .denied 3) ∧
      (∀ a b, exec (.faultConfigPatrol c a b) s = .next (s.refusedWith c 0x0900 .denied 3)) ∧
      (∀ a b x y, exec (.faultConfigInject c a b x y) s = .next (s.refusedWith c 0x0900 .denied 3)) ∧
      ∀ a, exec (.faultConfigWatchdog c a) s = .next (s.refusedWith c 0x0900 .denied 3)) ∧
    (s.mayStart c 0x0901 [] = true →
      exec (.faultRecordsPersistent c) s = .next (s.refusedWith c 0x0901 .denied 3 (16 + 32 * s.aon.store.length))) ∧
    (s.mayStart c 0x0A00 [] = true → (∀ k b, exec (.fwUpdateWrite c k b) s = .next (s.refusedWith c 0x0A00 .denied 3)) ∧
      exec (.fwUpdateQuery c) s = .next (s.refusedWith c 0x0A00 .denied 3 24)) ∧
    (s.mayStart c 0x0A01 [] = true → ∀ a b, exec (.logRead c a b) s = .next (s.refusedWith c 0x0A01 .denied 3 (s.logLen b))) ∧
    (s.mayStart c 0x0A02 [] = true → exec (.crashDumpRead c) s = .next (s.refusedWith c 0x0A02 .denied 3 4096) ∧
      exec (.crashDumpClear c) s = .next (s.refusedWith c 0x0A02 .denied 3))) ∧
  (∀ (s : State) (c : Caller), s.serving = false → s.atRest = true →
    exec (.nop c 0) s = .next s ∧ (∀ x, exec (.partLayout c x) s = .next s) ∧ (∀ d, exec (.ctxCreate c d) s = .next s) ∧
    (∀ n, exec (.ctxDestroy c n) s = .next s ∧ exec (.ctxStop c n) s = .next s ∧ exec (.ctxResume c n) s = .next s) ∧
    (∀ d n, exec (.segCreate c d n) s = .next s) ∧ (∀ a b x y z, exec (.segMigrate c a b x y z) s = .next s) ∧
    (∀ d x, exec (.hostCopy c d x) s = .next s) ∧ (∀ d, exec (.collective c d) s = .next s) ∧
    (∀ p k b, exec (.updateStage c p k b) s = .next s) ∧ (∀ x, exec (.powerCap c x) s = .next s))

/-- Commands that only read (frame): in a module at rest the reads of the mailbox leave everything but the host interface and what has left
the module as it was: memory, registers of cores and stacks, contexts, streams, sets, ports, fuses and the always-on block.
Where it rests on choices of the model, these are log entries 26, 65. -/
def Obligations.ReadsChangeNothingInside : Prop :=
  ∀ (s t : State) (c : Caller), s.atRest = true →
    (∀ v, exec (.nop c v) s = .next t → t.inside = s.inside) ∧
    (exec (.deviceInfo c) s = .next t → t.inside = s.inside) ∧
    (∀ n, exec (.clientQuery c n) s = .next t → t.inside = s.inside) ∧
    (∀ n g, exec (.segQuery c n g) s = .next t → t.inside = s.inside) ∧
    (∀ n k g, exec (.streamStatus c n k g) s = .next t → t.inside = s.inside) ∧
    (∀ n a b, exec (.histogramRead c n a b) s = .next t → t.inside = s.inside) ∧
    (∀ n a b, exec (.formatTableRead c n a b) s = .next t → t.inside = s.inside) ∧
    (∀ p k, exec (.optSetQuery c p k) s = .next t → t.inside = s.inside) ∧
    (∀ p k, exec (.lossScaleQuery c p k) s = .next t → t.inside = s.inside) ∧
    (∀ p k, exec (.commitGroupQuery c p k) s = .next t → t.inside = s.inside) ∧
    (∀ p k, exec (.keyReleaseQuery c p k) s = .next t → t.inside = s.inside) ∧
    (exec (.powerStatus c) s = .next t → t.inside = s.inside) ∧
    (exec (.faultConfigRead c) s = .next t → t.inside = s.inside) ∧
    (∀ a b, exec (.faultRecordsRead c a b) s = .next t → t.inside = s.inside) ∧
    (exec (.faultRecordsPersistent c) s = .next t → t.inside = s.inside) ∧
    (exec (.memStatus c) s = .next t → t.inside = s.inside) ∧
    (∀ n, exec (.corrLog c n) s = .next t → t.inside = s.inside) ∧
    (exec (.portStatus c) s = .next t → t.inside = s.inside) ∧
    (exec (.fabricStatus c) s = .next t → t.inside = s.inside) ∧
    (exec (.fwUpdateQuery c) s = .next t → t.inside = s.inside)

/-- The bytes of a new segment (R263, R269): once its zeroing has ended, in a module at rest, every byte of the segment and of its metadata
reads zero, and every other byte of memory reads what it does once the stacks have served the requests they hold.
Where it rests on choices of the model, these are log entries 3. -/
def Obligations.NewSegmentReadsZero : Prop :=
  ∀ (s t u : State) (seq ctx id : Nat) (r : Running) (g : Segment), u = s.serveAll → u.atRest = true → Memory.wf u.mem = true →
    s.chip.hif.running.find? (fun r => r.seq == seq) = some r → r.await = .newSeg ctx id g → g.fixed = false →
    exec (.zeroingComplete seq) s = .next t →
    ∀ k, t.rd k = if (g.keyRuns ++ g.metaRuns).any (fun p => decide (p.1 ≤ k) && decide (k < p.1 + p.2)) then 0 else u.rd k

/-- Commands of the device, of partitions and of clients (R499, R455, R456, R473, R474): a NOP returns its value, DEVICE_INFO the 4,960
bytes of R499; a legal new layout of partitions that hold nothing takes effect and is answered after zeroing; a partition's attributes are
stored; a client's counts and quota are read, its quota is set and answered with the overrun, its entry is cleared while nothing runs.
Where it rests on choices of the model, these are log entries 11, 24, 26. -/
def Obligations.DeviceAndClientCommands : Prop :=
  (∀ (s : State) (c : Caller) (v : Nat), s.mayStart c 0x0100 [] = true → exec (.nop c v) s = .next (s.answered c 0x0100 (s.taken c 0x0100) v)) ∧
  (∀ (s : State) (c : Caller), s.mayStart c 0x0101 [] = true → s.bufferHolds c 4960 →
    exec (.deviceInfo c) s = .next (s.answered c 0x0101 (s.taken c 0x0101) 0 ((s.taken c 0x0101).deviceInfo c.fn))) ∧
  (∀ (s : State) (c : Caller) (start : Nat) (old : List Nat), s.mayStart c 0x0200 [.partitions] = true → c.fn = 0 → legalStart start = true →
    old = changedParts s.chip.start start → old.any s.partHolds = false → s.servesBell (old ++ changedParts start s.chip.start) = false →
    exec (.partLayout c start) s = .next (s.started c 0x0200 ((s.taken c 0x0200).newLayout start) [.partitions]
      (.newLayout (eighthMask s.chip.start old)))) ∧
  (∀ (s t : State) (c : Caller) (part pdl age lo hi : Nat), s.mayStart c 0x0201 [.partitions] = true → c.fn = 0 →
    startsPart s.chip.start part = true → 2 ≤ pdl → pdl ≤ 1000 → 1 ≤ age → age ≤ 1000 → lo ≤ hi → t = s.taken c 0x0201 →
    exec (.partConfig c part pdl age lo hi) s = .next (s.answered c 0x0201
      { t with chip.attr := Tab.modify t.chip.attr {} part fun x => { x with pdl := pdl, age := age, clientLo := lo, clientHi := hi } })) ∧
  (∀ (s t : State) (c : Caller) (client : Nat) (k : Client), s.mayStart c 0x020A [.partitions, .client client] = true →
    k = (Tab.look s.chip.clients client).getD {} → t = s.taken c 0x020A →
    (s.mayAsk c.fn client = true → s.bufferHolds c 16 → exec (.clientQuery c client) s = .next (s.answered c 0x020A t k.quota k.bytes)) ∧
    (c.fn = 0 → ∀ quota, quota ≤ 512 → (Tab.look s.chip.clients client).isSome = true ∨ s.chip.clients.length < 1024 →
      exec (.clientSetQuota c client quota) s = .next (s.answered c 0x020A
        { t with chip.clients := Tab.put t.chip.clients client { k with quota := quota } } (k.running - quota))) ∧
    (c.fn = 0 → k.running = 0 → exec (.clientClear c client) s = .next (s.answered c 0x020A
      { t with chip.clients := Tab.erase t.chip.clients client })))

/-- Commands of contexts (R459 to R471, R500): a create takes the lowest free number, ACTIVE, with the resources reserved and the client
counted; a destroy tears the context down; a stop of an ACTIVE context begins, a second one joins it, and both are answered once it is STOPPED; a STOPPED one resumes, one
that is not STOPPING is reset; evict and restore move the Archipelago segments one after the other, at once where there is none; a status
read clears the flags it reports.
Where it rests on choices of the model, these are log entries 11, 23, 25, 27, 31, 68. -/
def Obligations.ContextCommands : Prop :=
  (∀ (s t : State) (c : Caller) (d : List Byte) (part client n : Nat) (resv : List Reservation) (k : Client), part = fld d 0 0 3 →
    client = num d 2 2 → s.mayStart c 0x0202 [.partitions, .client client] = true →
    (zeroFlds d [(0, 3, 5), (1, 2, 6)] && zeroRange d 8 8) = true → s.mayOnPart c part → num d 4 2 ≤ 10000 → 1 ≤ num d 7 1 →
    num d 6 1 ≤ num d 7 1 → num d 7 1 ≤ 64 → c.fn = 0 ∨ ((s.attr part).clientLo ≤ client ∧ client ≤ (s.attr part).clientHi) →
    s.quotaOk client = true → s.ctxRoom part client (num d 6 1) = true → s.ctxReserve part = some resv → s.coreForcedOff part = false →
    s.freeCtx part = some n → t = s.taken c 0x0202 → k = Tab.get s.chip.clients {} client →
    exec (.ctxCreate c d) s = .next (s.answered c 0x0202 { (t.setCtx n
      { st := .active, prio := fld d 1 0 2, client := client, dtmo := if num d 4 2 = 0 then 100 else num d 4 2, qmin := num d 6 1
        qmax := num d 7 1, reserved := resv }).clearRecords resv part with
      chip.clients := Tab.put t.chip.clients client { k with submitted := satAdd 32 k.submitted 1, running := k.running + 1 } } n)) ∧
  (∀ (s : State) (c : Caller) (n : Nat), s.mayStartPast (isStopOf n) c 0x0203 [.partitions, .ctx n] = true → s.mayOnCtx c n →
    exec (.ctxDestroy c n) s = .next (s.started c 0x0203 ((s.taken c 0x0203).teardown n true) [.partitions, .ctx n] (.teardown n))) ∧
  (∀ (s : State) (c : Caller) (n : Nat) (x : Context), s.mayOnCtx c n → s.ctx? n = some x →
    (s.mayStartPast (fun r => r.await == .stop n) c 0x0204 [.partitions, .ctx n] = true →
      (x.st = .active → exec (.ctxStop c n) s =
        .next (s.started c 0x0204 ((s.taken c 0x0204).stopCtx n) [.partitions, .ctx n] (.stop n))) ∧
      (x.st = .stopping → exec (.ctxStop c n) s =
        .next (s.started c 0x0204 (s.taken c 0x0204) [.partitions, .ctx n] (.stop n))) ∧
      (x.st = .stopped → exec (.ctxStop c n) s = .next (s.answered c 0x0204 (s.taken c 0x0204)))) ∧
    (s.mayStart c 0x0205 [.partitions, .ctx n] = true → x.st = .stopped →
      exec (.ctxResume c n) s = .next (s.answered c 0x0205 ((s.taken c 0x0205).resumeCtx n))) ∧
    (s.mayStart c 0x0206 [.partitions, .ctx n] = true → x.st ≠ .stopping →
      exec (.ctxReset c n) s = .next (s.answered c 0x0206 ((s.taken c 0x0206).resetCtx n))) ∧
    (s.mayStart c 0x0207 [.partitions, .ctx n] = true → s.evictable n = true →
      (s.evictPlaces n = some [] → exec (.ctxEvict c n) s = .next (s.answered c 0x0207
        (((s.taken c 0x0207).modCtx n fun y => { y with st := .evicted }).evictHalves n))) ∧
      ∀ id g l, s.evictPlaces n = some ((id, g) :: l) → exec (.ctxEvict c n) s =
        .next (s.started c 0x0207 ((s.taken c 0x0207).markMig n id) [.partitions, .ctx n] (.evict n ((id, g) :: l) 0))) ∧
    (s.mayStart c 0x0208 [.partitions, .ctx n] = true → x.st = .evicted →
      (s.restorePlaces n = some [] → exec (.ctxRestore c n) s = .next (s.answered c 0x0208
        ((s.taken c 0x0208).modCtx n fun y => { y with st := .stopped }))) ∧
      ∀ id g l, s.restorePlaces n = some ((id, g) :: l) → exec (.ctxRestore c n) s =
        .next (s.started c 0x0208 ((s.taken c 0x0208).markMig n id) [.partitions, .ctx n] (.restore n ((id, g) :: l) 0))) ∧
    (s.mayStart c 0x0209 [.partitions, .ctx n] = true → s.bufferHolds c 64 →
      exec (.ctxStatus c n) s = .next (s.answered c 0x0209 ((s.taken c 0x0209).setCtx n { x with flags := {} }) 0
        ((s.taken c 0x0209).ctxStatus n x))))

/-- Commands of segments (R262 to R268): a create whose descriptor passes every check enters a FIXED segment at its address at once, and
otherwise reserves a place and is answered once that is zeroed; a query returns the segment, a protect sets RD and WR; a migrate and a
delete of a segment on which no window is open (R403) set MIG and run until the segment's holders are gone.
Where it rests on choices of the model, these are log entries 11, 28, 29, 30, 31, 115. -/
def Obligations.SegmentCommands : Prop :=
  (∀ (s : State) (c : Caller) (d : List Byte) (ctx id : Nat) (g : Segment) (segs : Tab Segment), s.mayStart c 0x0300 [.ctx ctx] = true →
    s.mayOnCtx c ctx → s.bufferHolds c 32 → g = Segment.ofDesc d → segs = ((s.ctx? ctx).map (·.segs)).getD [] →
    zeroFlds d [(6, 0, 16), (8, 36, 28), (16, 46, 2), (22, 0, 1), (23, 0, 8), (26, 12, 4), (28, 3, 3), (29, 0, 24)] = true →
    segReservedOk d = true → g.shapeOk = true → segs.any (fun p => g.overlaps p.2) = false → segs.length < 4096 →
    freeKey 4096 segs = some id → s.policyOk (ctxPart ctx) g = true →
    (g.fixed = true → c.fn = 0 → touchesControl g.dbase g.bytes = false → inTier g.arch g.dbase g.bytes = true →
      s.fixedGranted (ctxPart ctx) g = true → exec (.segCreate c d ctx) s =
        .next (s.answered c 0x0300 ((s.taken c 0x0300).addSegment ctx id g) id (g.bytesOf id (ctxPart ctx)))) ∧
    (g.fixed = false → ∀ n, s.place (ctxPart ctx) s.grants g = some n → exec (.segCreate c d ctx) s =
      .next (s.started c 0x0300 (s.taken c 0x0300) [.ctx ctx] (.newSeg ctx id n) id (n.bytesOf id (ctxPart ctx))))) ∧
  (∀ (s : State) (c : Caller) (ctx seg : Nat) (g : Segment), s.mayOnCtx c ctx → s.seg? ctx seg = some g →
    (s.mayStart c 0x0301 [.ctx ctx, .seg ctx seg] = true → s.bufferHolds c 32 →
      exec (.segQuery c ctx seg) s = .next (s.answered c 0x0301 (s.taken c 0x0301) 0 (g.bytesOf seg (ctxPart ctx)))) ∧
    (s.mayStart c 0x0302 [.ctx ctx, .seg ctx seg] = true → g.vers = none → ∀ perm, perm < 4 →
      exec (.segProtect c ctx seg perm) s = .next (s.answered c 0x0302 ((s.taken c 0x0302).modCtx ctx fun x =>
        { x with segs := Tab.adjust x.segs seg fun y => { y with rd := perm.testBit 1, wr := perm.testBit 0 } }))) ∧
    (s.mayStartPast (isCopyOn ctx seg) c 0x0303 [.ctx ctx, .seg ctx seg] = true → g.vers = none → g.mig = false →
      s.windowOn ctx g = false →
      ∀ attr pref tmo n, attr.testBit 0 = false → tmo ≤ 10000 → (g.moved attr pref).shapeOk = true →
        s.policyOk (ctxPart ctx) (g.moved attr pref) = true → s.place (ctxPart ctx) s.grants (g.moved attr pref) = some n →
        exec (.segMigrate c ctx seg attr pref tmo) s = .next (s.started c 0x0303 ((s.taken c 0x0303).markMig ctx seg)
          [.ctx ctx, .seg ctx seg] (.migrate ctx seg n 0))) ∧
    (s.mayStartPast (isCopyOn ctx seg) c 0x0304 [.ctx ctx, .seg ctx seg] = true → g.vers = none → g.mig = false →
      s.windowOn ctx g = false → ∀ tmo, tmo ≤ 10000 →
      exec (.segDelete c ctx seg tmo) s = .next (s.started c 0x0304 ((s.taken c 0x0304).markMig ctx seg)
        [.ctx ctx, .seg ctx seg] (.delete ctx seg))))

/-- Commands of parameter groups, NMU programs and host copies (R284 to R286, R306, R307, R316, R317, R508): a group whose descriptor
passes the eight checks is made with its two segments; a group of an IDLE set is deleted with them; a program is stored and erased, and
bound keys go with measurement 8; a state load, a weight import and a host copy begin; an export writes the state to the host.
Where it rests on choices of the model, these are log entries 3, 11, 29, 34, 35, 36, 124. -/
def Obligations.GroupProgramAndCopyCommands : Prop :=
  (∀ (s b : State) (c : Caller) (d : List Byte) (g : Group) (gid sid wid i j : Nat) (x : OptSet) (segs : Tab Segment) (a1 a2 p q : Segment),
    g = { desc := d } → segs = ((s.ctx? g.ctx).map (·.segs)).getD [] →
    s.mayStart c 0x0305 [.ctx g.ctx, .set (ctxPart g.ctx) g.set] = true → s.mayOnCtx c g.ctx → s.bufferHolds c 128 →
    zeroFlds d [(1, 4, 4), (2, 12, 4), (4, 9, 7), (6, 5, 3), (7, 0, 3), (8, 25, 7), (12, 25, 7), (16, 13, 3), (18, 13, 3), (20, 5, 3), (22, 3, 5),
      (23, 4, 4), (28, 0, 32), (38, 0, 16), (46, 0, 16), (54, 0, 16), (60, 0, 32), (96, 12, 4), (98, 12, 4), (110, 0, 16), (118, 0, 80)] = true →
    g.fieldsOk = true → g.formatOk = true → g.kernel < 0x10 ∨ (Tab.look (s.nmu g.stack).progs (g.kernel - 16)).isSome = true →
    s.set? (ctxPart g.ctx) g.set = some x → x.st = .idle → s.stackInPart (ctxPart g.ctx) g.stack = true → (s.nmu g.stack).avail = true →
    freeKey 1024 (s.nmu g.stack).groups = some gid → s.groupSegs g gid = (a1, a2) → groupSegFail segs a1 a2 = none →
    freeKey 4096 segs = some sid → freeKey 4096 (Tab.put segs sid a1) = some wid →
    s.placeAll (ctxPart g.ctx) g.ctx [(sid, a1), (wid, a2)] = some [(i, p), (j, q)] → g.gradFail segs = none →
    b = (s.taken c 0x0305).newGroup g gid sid wid p q →
    exec (.pgroupCreate c d) s = .next (s.answered c 0x0305 b gid (((b.group? g.stack gid).map (·.desc)).getD []))) ∧
  (∀ (s : State) (c : Caller) (st gid : Nat) (g : Group), s.mayOnStack c st → s.group? st gid = some g → s.groupIdle st gid = true →
    (s.mayStart c 0x0305 (groupObjs st gid) = true → exec (.pgroupDelete c st gid) s = .next (s.answered c 0x0305
      (((s.taken c 0x0305).modNmu st fun n => { n with groups := Tab.erase n.groups gid }).modCtx g.ctx fun x =>
        { x with segs := x.segs.filter fun p => p.2.vers != some (st, gid) }))) ∧
    (s.mayStart c 0x0307 (groupObjs st gid) = true → ∀ epoch cva k, s.groupSource g cva (s.ssz g) false = .inl k →
      exec (.stateLoad c st gid epoch cva) s = .next ((s.taken c 0x0307).loadState (s.cmdOf c 0x0307) st gid epoch g k).settle) ∧
    (s.mayStart c 0x0308 (groupObjs st gid) = true → ∀ haddr b x, b = (s.taken c 0x0308).serveAll →
      b.stackRead (b.stateKey g g.cur 0) (b.ssz g) false = (x, false) → exec (.stateExport c st gid haddr) s =
        .next (s.answered c 0x0308 (x.writeHost c.fn [(haddr, x.hostBytes c.fn (b.ssz g))] (b.rdN (b.stateKey g g.cur 0) (b.ssz g))))) ∧
    (s.mayStart c 0x0309 (groupObjs st gid) = true → ∀ key cva bytes k, key ≤ 15 → (s.nmu st).keys.contains key = true →
      (if bytes = 0 then .inl 0 else s.groupSource g cva bytes true) = .inl k → exec (.weightImport c st gid key cva bytes) s =
        .next ((s.taken c 0x0309).importWeights (s.cmdOf c 0x0309) st gid key bytes g k).settle)) ∧
  (∀ (s : State) (c : Caller) (part st prog : Nat), s.mayStart c 0x0306 [] = true → s.mayOnPart c part → s.stackInPart part st = true →
    prog ≤ 15 → s.progUsed st prog = false →
    (∀ bs, bs.length = 16 + 8 * num bs 0 1 → ucodeLoadOk bs = true → exec (.nmuProgramLoad c part st prog bs) s = .next (s.answered c 0x0306
      (((s.taken c 0x0306).modNmu st fun n => { n with progs := Tab.put n.progs prog bs }).measuredIf 8 (Tab.look (s.nmu st).progs prog != some bs)))) ∧
    ((Tab.look (s.nmu st).progs prog).isSome = true → exec (.nmuProgramDelete c part st prog) s = .next (s.answered c 0x0306
      (((s.taken c 0x0306).modNmu st fun n => { n with progs := Tab.erase n.progs prog }).measured 8)))) ∧
  (∀ (s : State) (c : Caller) (d ext : List Byte) (ctx seg : Nat) (g : Segment) (w : Await), ctx = fld d 0 0 9 →
    s.mayStart c 0x030A [.ctx ctx, .seg ctx seg] = true → s.mayOnCtx c ctx →
    (zeroFlds d [(0, 9, 7), (2, 1, 7), (3, 6, 1), (4, 10, 6), (6, 0, 16), (14, 0, 16), (29, 0, 24)] = true ∧ ext.length % 16 = 0) →
    hcSen d = false ∨ s.coreInPart (ctxPart ctx) (hcScore d) = true →
    segOver (((s.ctx? ctx).map (·.segs)).getD []) (hcCva d) (hcLen d) = some (seg, g) → hcLen d % 16 = 0 → 16 ≤ hcLen d →
    s.hcListOk c.fn d ext = true → g.vers = none → (if hcDir d = 1 then g.rd else g.wr) = true → g.mig = false →
    w = .hostCopy ctx seg (hcDir d + 2) (hcLen d) (slice d 0 32 ++ ext) → exec (.hostCopy c d ext) s =
      .next (((s.taken c 0x030A).run (s.cmdOf c 0x030A) [.ctx ctx, .seg ctx seg] w).copyBegin
        { seq := (s.cmdOf c 0x030A).seq, caller := c, opc := 0x030A, objs := [.ctx ctx, .seg ctx seg], await := w
          ctr := (s.cmdOf c 0x030A).ctr, mute := (s.cmdOf c 0x030A).mute }).settle)

/-- Commands of rings (R502, R506): a submission ring of a context with a notice ring and a completion ring take the lowest free numbers;
a ring that is no context's notice ring is destroyed, its held records counted as lost; a reset clears ERROR and the indexes; a
completion ring becomes a context's notice ring.
Where it rests on choices of the model, these are log entries 11, 43. -/
def Obligations.RingCommands : Prop :=
  (∀ (s : State) (c : Caller) (ctx form logn base shadow n : Nat) (x : Context), s.mayStart c 0x0400 [.ctx ctx] = true → s.mayOnCtx c ctx →
    s.ctx? ctx = some x → x.notice.isSome = true → form ≤ 1 → 4 ≤ logn → logn ≤ 12 → ringAligned base shadow = true →
    freeKey 64 (s.fn c.fn).sub = some n → exec (.ringCreateSubmission c ctx form logn base shadow) s =
      .next (s.answered c 0x0400 ((s.taken c 0x0400).modFn c.fn fun f =>
        { f with sub := Tab.put f.sub n { ctx := ctx, q1 := form == 1, logn := logn, base := base, shadow := shadow } }) n)) ∧
  (∀ (s : State) (c : Caller) (logn vector icnt itime base shadow n : Nat) (r : CplRing), s.mayStart c 0x0400 [] = true → s.bound c → 6 ≤ logn → logn ≤ 15 →
    1 ≤ icnt → icnt ≤ 256 → itime ≤ 1000 → 1 ≤ vector → vector < msixEntries c.fn → ringAligned base shadow = true →
    freeKey 16 (s.fn c.fn).cpl = some n →
    r = { logn := logn, vector := vector, icnt := icnt, itime := itime, base := base, shadow := shadow } →
    exec (.ringCreateCompletion c logn vector icnt itime base shadow) s =
      .next (s.answered c 0x0400 ((s.taken c 0x0400).modFn c.fn fun f => { f with cpl := Tab.put f.cpl n r }) n)) ∧
  (∀ (s : State) (c : Caller) (ring : Nat), s.bound c →
    (s.mayStart c 0x0400 [.ring c.fn 0 ring] = true →
      (s.ringThere c.fn 0 ring = true → exec (.ringDestroy c 0 ring) s =
        .next (s.answered c 0x0400 ((s.taken c 0x0400).modFn c.fn fun f => { f with sub := Tab.erase f.sub ring }) ring)) ∧
      exec (.ringReset c 0 ring) s = .next (s.answered c 0x0400 ((s.taken c 0x0400).resetRing c.fn 0 ring) ring)) ∧
    (s.mayStart c 0x0400 [.ring c.fn 1 ring] = true →
      (∀ r, s.ringThere c.fn 1 ring = true → Tab.look ((s.taken c 0x0400).fn c.fn).cpl ring = some r → s.isNotice c.fn ring = false → exec (.ringDestroy c 1 ring) s =
        .next (s.answered c 0x0400 (((s.taken c 0x0400).loseHeld r).modFn c.fn fun f => { f with cpl := Tab.erase f.cpl ring }) ring)) ∧
      exec (.ringReset c 1 ring) s = .next (s.answered c 0x0400 ((s.taken c 0x0400).resetRing c.fn 1 ring) ring))) ∧
  (∀ (s : State) (c : Caller) (ctx ring : Nat), s.mayStart c 0x0400 [.ctx ctx, .ring c.fn 1 ring] = true → s.mayOnCtx c ctx →
    s.ringThere c.fn 1 ring = true → exec (.ringBindNotice c ctx ring) s =
      .next (s.answered c 0x0400 ((s.taken c 0x0400).modCtx ctx fun x => { x with notice := some (c.fn, ring) }) ring))

/-- Commands of counters, slots and arms (R117, R177, R183, R188, R501): a counter that no task or arm of the context uses is set; the lowest
free slot, or the one named, is taken; a slot without arms is freed; a descriptor that passes every check is armed; a cancel ends both
arms of the slot with ABORTED and detail 23; a status read returns the slot's 32 bytes.
Commands of partitions' stream attributes, groups, layouts, histograms, formats and Q1 tables (R202, R204, R212, R228, R333, R335, R149):
each stores, reads or erases what it names, in the lowest free number where it makes something; a Q1 table load of two readable images
places a TBLLOAD on every core of the context's partition.
Where it rests on choices of the model, these are log entries 11, 39, 42, 44, 46, 47, 52. -/
def Obligations.StreamCommands : Prop :=
  ((∀ (s : State) (c : Caller) (ctx core : Nat), s.mayOnCore c ctx core →
    (s.mayStart c 0x0401 [.ctx ctx] = true → s.busyOn ctx core = false → ∀ idx v, idx < 64 → exec (.counter c ctx core idx v) s =
      .next (s.answered c 0x0401 ((s.taken c 0x0401).modCtx ctx fun x =>
        { x with cnt := Tab.set x.cnt 0#32 (core * 64 + idx) (BitVec.ofNat 32 v) }).pokeAll)) ∧
    (s.mayStart c 0x0402 [.ctx ctx] = true →
      (∀ n, lowest 32 (fun i => (s.slot? core i).isNone) = some n → exec (.streamSlotAllocate c ctx core 0xFF) s =
        .next (s.answered c 0x0402 ((s.taken c 0x0402).setSlot core n { ctx := ctx }) n)) ∧
      (∀ n, n < 32 → s.slot? core n = none → exec (.streamSlotAllocate c ctx core n) s =
        .next (s.answered c 0x0402 ((s.taken c 0x0402).setSlot core n { ctx := ctx }) n)) ∧
      (∀ n x, n < 32 → s.slot? core n = some x → x.ctx = ctx → x.cur = none → x.shadow = none → exec (.streamSlotFree c ctx core n) s =
        .next (s.answered c 0x0402 ((s.taken c 0x0402).modCore core fun q => { q with slots := Tab.erase q.slots n })))) ∧
    (s.mayStart c 0x0403 [.ctx ctx] = true → ∀ d x, s.ctx? ctx = some x → s.armCheck core ctx x d = none →
      exec (.streamArm c ctx core d) s = .next (s.answered c 0x0403 ((s.taken c 0x0403).takeArm core ctx d none))) ∧
    (∀ n x, n < 32 → s.slot? core n = some x → x.ctx = ctx →
      (s.mayStart c 0x0404 [.ctx ctx] = true → exec (.streamCancel c ctx core n) s = .next (s.answered c 0x0404
        (((s.taken c 0x0404).abandon core fun _ o => o.ctx == ctx && o.sid == n).endArm core n .aborted 23 true))) ∧
      (s.mayStart c 0x0405 [.ctx ctx] = true → s.bufferHolds c 32 → exec (.streamStatus c ctx core n) s =
        .next (s.answered c 0x0405 (s.taken c 0x0405) 0 ((s.taken c 0x0405).streamStatus core n x)))))) ∧
  (∀ (s t : State) (c : Caller) (part v : Nat), s.mayOnPart c part →
    (s.mayStart c 0x0406 [] = true → 2 ≤ v → v ≤ 16 → t = s.taken c 0x0406 → exec (.bankCap c part v) s =
      .next (s.answered c 0x0406 { t with chip.attr := Tab.modify t.chip.attr {} part fun x => { x with cap := v } })) ∧
    (s.mayStart c 0x0407 [] = true → 1 ≤ v → v ≤ 1000 → t = s.taken c 0x0407 → exec (.tagtmo c part v) s =
      .next (s.answered c 0x0407 { t with chip.attr := Tab.modify t.chip.attr {} part fun x => { x with tagTmo := v } }))) ∧
  (∀ (s t : State) (c : Caller) (ctx : Nat) (x : Context), s.mayOnCtx c ctx → s.ctx? ctx = some x →
    (s.mayStart c 0x0408 [.ctx ctx] = true → t = s.taken c 0x0408 →
      (∀ leader bits n, bits.length = 72 → (setBits 576 (leNat bits)).all (s.coreInPart (ctxPart ctx)) = true →
        (setBits 576 (leNat bits)).contains leader = true → s.groupsIn (ctxPart ctx) < 16 * partSize s.chip.start (ctxPart ctx) →
        freeKey 128 s.chip.mcast = some n → exec (.mcastGroupCreate c ctx leader bits) s = .next (s.answered c 0x0408
          { t with chip.mcast := Tab.put t.chip.mcast n { ctx := ctx, members := setBits 576 (leNat bits), leader := leader } } n)) ∧
      (∀ group g, Tab.look s.chip.mcast group = some g → g.ctx = ctx →
        s.anyArm ctx (fun d => adMcast d && adGroup d == group) = false → exec (.mcastGroupDelete c group) s =
          .next (s.answered c 0x0408 { t with chip.mcast := Tab.erase t.chip.mcast group }))) ∧
    (s.mayStart c 0x0409 [.ctx ctx] = true →
      (∀ d i, layoutOk d = true → x.layouts.length < 1024 → lowest 1025 (fun i => (Tab.look x.layouts (i + 1)).isNone) = some i →
        exec (.layoutCreate c ctx d) s = .next (s.answered c 0x0409 ((s.taken c 0x0409).modCtx ctx fun y =>
          { y with layouts := Tab.put y.layouts (i + 1) d }) (i + 1))) ∧
      (∀ h, (Tab.look x.layouts h).isSome = true → s.layoutUsed ctx h = false → exec (.layoutDelete c ctx h) s =
        .next (s.answered c 0x0409 ((s.taken c 0x0409).modCtx ctx fun y => { y with layouts := Tab.erase y.layouts h })))) ∧
    (∀ first n, 1 ≤ n → first + n ≤ 4096 →
      (s.mayStart c 0x040A [.ctx ctx] = true →
        (s.bufferHolds c (256 * n) → exec (.histogramRead c ctx first n) s = .next (s.answered c 0x040A (s.taken c 0x040A) 0
          ((List.range n).flatMap fun i => x.layerHist (first + i)))) ∧
        exec (.histogramClear c ctx first n) s = .next (s.answered c 0x040A ((s.taken c 0x040A).modCtx ctx fun y =>
          { y with hist := y.hist.filter fun p => !(decide (64 * first ≤ p.1) && decide (p.1 < 64 * (first + n))) }))) ∧
      (s.mayStart c 0x040B [.ctx ctx] = true →
        (s.bufferHolds c (8 * n) → exec (.formatTableRead c ctx first n) s = .next (s.answered c 0x040B (s.taken c 0x040B) 0
          ((List.range n).flatMap fun i => leBytes 8 (State.fmtEntry x (first + i))))) ∧
        ∀ es, es.length = 8 * n → (List.range n).all (fun i => fmtEntryOk (fmtArg es i)) = true → s.refreshing ctx = false →
          exec (.formatTableWrite c ctx first n es) s = .next (s.answered c 0x040B ((s.taken c 0x040B).modCtx ctx fun y =>
            { y with fmt := (List.range n).foldl (fun m i => Tab.set m 0 (first + i) (fmtArg es i)) y.fmt })))) ∧
    (s.mayStart c 0x040C [.ctx ctx] = true → ∀ pair fcva dcva f g xf xg, pair < 8 → s.serveAll.imageFail ctx fcva = none →
      s.serveAll.imageFail ctx dcva = none → (s.ctxCores ctx).all (fun k => s.mayHold k ctx) = true →
      (s.taken c 0x040C).serveAll.ctx? ctx = some xf → f = (s.taken c 0x040C).serveAll.readCva xf fcva 4128 →
      f.1.ctx? ctx = some xg → g = f.1.readCva xg dcva 4128 → exec (.q1Tblload c ctx pair fcva dcva) s =
        .next (s.answered c 0x040C (((s.taken c 0x040C).ctxCores ctx).foldl (fun q k =>
          q.enqueue k { ctx := ctx, desc := tblloadDesc pair fcva dcva, images := some (f.2.2, g.2.2) }) g.1))))

/-- Commands of jobs, routes, windows, collectives and ports (R386, R392, R393, R398, R403, R405, R408, R409): the device ID is set while
nothing uses it; a join that passes its checks makes the membership and reserves its table and parking buffers, a leave drops it; valid
routes are stored, others erased; windows are opened and closed; a collective that passes its checks begins, a cancel ends it; a port is
switched on, off at once or once its replay buffer is empty, fully retrained, or given a credit allocation.
Where it rests on choices of the model, these are log entries 3, 11, 31, 45, 59, 61, 62, 63, 64, 68, 82. -/
def Obligations.JobCommands : Prop :=
  (∀ (s t : State) (c : Caller), c.fn = 0 →
    (s.mayStart c 0x0500 [] = true → s.chip.members = [] → s.chip.wins = [] → t = s.taken c 0x0500 → ∀ id, id ≤ 32767 →
      exec (.deviceId c id) s = .next (s.answered c 0x0500 (({ t with chip.devid := some id } : State).measuredIf 7 (s.chip.devid != some id)))) ∧
    (s.mayStart c 0x0503 [] = true → t = s.taken c 0x0503 → ∀ first n es, es.length = 8 * n →
      (List.range n).all (fun i => zeroFlds (slice es (8 * i) 8) [(4, 0, 7), (5, 0, 24)]) = true → 1 ≤ n → first + n ≤ 32768 →
      exec (.route c first n es) s = .next (s.answered c 0x0503 { t with chip.routes := (List.range n).foldl (fun a i =>
        if flg (slice es (8 * i) 8) 4 7 then Tab.put a (first + i) (slice es (8 * i) 8) else Tab.erase a (first + i)) t.chip.routes }))) ∧
  (∀ (s t : State) (c : Caller) (part job midx nmem : Nat) (tb : List Byte) (own : Nat × Nat × Nat × Nat) (r1 r2 : List Reservation),
    s.mayStart c 0x0501 [.member part job] = true → s.mayOnPart c part → tb.length = 8 * nmem → 1 ≤ job → job ≤ 4095 → 1 ≤ nmem →
    nmem ≤ 32768 → midx < nmem → tableZero nmem tb = true → own = (tableOf nmem tb).getD midx (0, 0, 0, 0) →
    (some own.1 == s.chip.devid && own.2.1 == part && own.2.2.1 == s.aon.slotL && own.2.2.2 == s.aon.foldL) = true →
    tableApart (tableOf nmem tb) = true → s.member? part job = none → s.chip.members.length < 64 →
    s.joinReserve part nmem = (some r1, some r2) → t = s.taken c 0x0501 →
    exec (.jobJoin c part job midx nmem tb) s = .next (s.answered c 0x0501 { t with
      chip.members := Tab.put t.chip.members (memberKey part job) { part := part, job := job, midx := midx, nmem := nmem, table := tb }
      chip.otherResv := t.chip.otherResv ++ (r1.map (fun x => (Obj.member part job, x)) ++ r2.map fun x => (Obj.member part 0, x)) })) ∧
  (∀ (s : State) (c : Caller) (part job : Nat), s.mayOnPart c part → (s.member? part job).isSome = true →
    (s.mayStart c 0x0502 [.member part job] = true → s.chip.colls.any (fun p => p.2.part == part && p.2.job == job) = false →
      s.chip.wins.any (fun p => p.2.job == job) = false →
      exec (.jobLeave c part job) s = .next (s.answered c 0x0502 ((s.taken c 0x0502).dropMember part job))) ∧
    (s.mayStart c 0x0507 [.member part job] = true → ∀ coll k, s.coll? part job coll = some k →
      exec (.collCancel c part job coll) s = .next (s.answered c 0x0507 ((s.taken c 0x0507).endColl k .aborted 28)))) ∧
  (∀ (s t : State) (c : Caller) (d : List Byte) (ctx rwin job : Nat) (w : Window) (n : Nat) (g : Segment), ctx = fld d 18 0 9 →
    rwin = num d 20 1 → job = fld d 16 0 12 → s.mayStart c 0x0504 [.ctx ctx, .window rwin, .member (ctxPart ctx) job] = true →
    w = { part := ctxPart ctx, ctx := ctx, job := job, cbase := num d 0 6, wlen := num d 8 5
          pget := flg d 21 2, pput := flg d 21 1, pcol := flg d 21 0 } →
    (zeroFlds d [(16, 12, 4), (18, 9, 7), (21, 3, 5)] && num d 6 2 == 0 && num d 13 3 == 0 && zeroRange d 22 10) = true →
    s.mayOnCtx c ctx → w.wlen ≠ 0 → w.wlen % 4096 = 0 → job ≠ 0 → (w.pget || w.pput || w.pcol) = true →
    (s.member? (ctxPart ctx) job).isSome = true → (s.ctx? ctx).bind (fun x => segOver x.segs w.cbase w.wlen) = some (n, g) →
    g.vers = none → (w.pget = true → g.rd = true) → (w.pput = true ∨ w.pcol = true → g.wr = true) → s.window? rwin = none →
    t = s.taken c 0x0504 →
    exec (.windowOpen c d) s = .next (s.answered c 0x0504 { t with chip.wins := Tab.put t.chip.wins rwin w })) ∧
  (∀ (s t : State) (c : Caller) (rwin : Nat) (w : Window), s.mayStart c 0x0505 [.window rwin] = true → s.window? rwin = some w →
    s.mayAct c.fn w.part = true → t = s.taken c 0x0505 →
    exec (.windowClose c rwin) s = .next (s.answered c 0x0505 { t with chip.wins := Tab.erase t.chip.wins rwin })) ∧
  (∀ (s a b : State) (c : Caller) (d : List Byte) (part job : Nat) (x : Member), part = ctxPart (cdCtx d) → job = cdJob d →
    s.mayStart c 0x0506 [.ctx (cdCtx d), .member part job] = true → s.mayOnCtx c (cdCtx d) → s.member? part job = some x →
    collShapeOk d x.nmem = true → s.coreInPart part (cdScore d) = true → x.nextColl = cdColl d →
    x.ended.any (fun p => p.1 == (cdColl d + 32768) % 65536 && decide (s.aon.time < p.2 + 33000)) = false →
    s.sourceFail d x.midx = none → s.targetFail d part x.midx = none → s.pruFree part = true →
    a = (s.taken c 0x0506).modMember part job (fun y => { y with
      nextColl := (cdColl d + 1) % 65536, ended := y.ended.filter fun p => decide (s.aon.time < p.2 + 33000) }) →
    b = { a with chip.pru := (a.partPorts part).foldl (fun m p => Tab.set m 0 p (Tab.get m 0 p + 1)) a.chip.pru } →
    exec (.collective c d) s = .next (s.answered c 0x0506
      ((b.putColl { part := part, job := job, desc := d }).serveAll.startColl { part := part, job := job, desc := d } x))) ∧
  (∀ (s : State) (c : Caller) (p : Nat), s.mayStart c 0x0508 [.port p] = true → s.mayOnPort c p →
    exec (.portEnable c p) s = .next (s.answered c 0x0508 ((s.taken c 0x0508).portOn p)) ∧
    (∀ a, (s.taken c 0x0508).portDisable p = (a, true) → exec (.portDisable c p) s = .next (s.answered c 0x0508 a)) ∧
    (∀ a, (s.taken c 0x0508).portDisable p = (a, false) → exec (.portDisable c p) s =
      .next (s.started c 0x0508 a [.port p] (.portDrain p))) ∧
    ((s.port p).st = .active → exec (.portLaneRestore c p) s = .next (s.answered c 0x0508 ((s.taken c 0x0508).fullTraining p))) ∧
    ∀ init, allocOk init = true → exec (.portCreditAllocation c p init) s =
      .next (s.answered c 0x0508 ((s.taken c 0x0508).modPort p fun q => { q with alloc := init })))

/-- Commands of eligibility, optimizer sets and updates (R283, R302, R305, R336, R343, R429, R442): eligibility changes while the module
serves no bellwether; a set takes the lowest free number and is deleted while nothing uses it; an update of an IDLE set that no job holds
is staged, a STAGED set without ERR is committed, a staging or staged one aborted; a step is bound; the loss scale is set and read.
Commands of commit buffers, of sets bound to a job and of job trees (R423 to R430, R435 to R437, R445): actions are added to a buffer,
applied in order, bound to a set, discarded and read; the sets of a member are bound to its job and unbound while no formed tree forbids
it; a tree whose arguments pass the checks is formed here and answered when it is formed; a job fault adds a cause.
Where it rests on choices of the model, these are log entries 11, 35, 37, 39, 45, 65, 66, 105, 130. -/
def Obligations.CommitCommands : Prop :=
  ((∀ (s t : State) (c : Caller) (e : Nat), s.mayStart c 0x0600 [] = true → c.fn = 0 → e ≤ 1 →
    s.chip.trees.any (fun x => x.2.bell) = false ∨ s.chip.elig = (e == 1) → t = s.taken c 0x0600 →
    exec (.role c e) s = .next (s.answered c 0x0600 { t with chip.elig := e == 1 })) ∧
  (∀ (s : State) (c : Caller) (part stmo n : Nat), s.mayStart c 0x0601 [] = true → s.mayOnPart c part → stmo ≤ 10000 →
    lowest 16 (fun k => (s.set? part k).isNone) = some n → exec (.optSetCreate c part stmo) s =
      .next (s.answered c 0x0601 ((s.taken c 0x0601).putSet part n { stmo := if stmo = 0 then 100 else stmo }) n)) ∧
  (∀ (s t : State) (c : Caller) (part set : Nat) (x : OptSet), s.mayOnPart c part → set < 16 → s.set? part set = some x →
    (s.mayStart c 0x0601 [.set part set] = true → t = s.taken c 0x0601 →
      (x.st = .idle → (s.setGroups part set).isEmpty = true → (s.boundCtxs part set).isEmpty = true → x.job = none →
        exec (.optSetDelete c part set) s = .next (s.answered c 0x0601 { t with chip.sets := Tab.erase t.chip.sets (part * 16 + set) })) ∧
      (s.bufferHolds c 16 → exec (.optSetQuery c part set) s = .next (s.answered c 0x0601 t 0 x.bytes))) ∧
    (s.mayStart c 0x0602 [.set part set] = true → ∀ b, s.stepOk part set b = true → x.st = .idle → s.jobHolds part set = false →
      exec (.updateStage c part set b) s = .next (s.answered c 0x0602 ((s.taken c 0x0602).stageSet part set b))) ∧
    (s.mayStart c 0x0603 [.set part set] = true → x.job = none →
      (x.st = .staged → x.err = false → exec (.setResolveCommit c part set) s =
        .next (s.answered c 0x0603 ((s.taken c 0x0603).resolveSet part set true x.ovf))) ∧
      (x.st = .staging ∨ x.st = .staged → exec (.setResolveAbort c part set) s =
        .next (s.answered c 0x0603 ((s.taken c 0x0603).resolveSet part set false x.ovf)))) ∧
    (s.mayStart c 0x0605 [.set part set] = true →
      (x.st = .idle → ∀ dyn l lo hi n, dyn ≤ 1 → -64 ≤ sByte lo → sByte hi ≤ 63 → sByte lo ≤ sByte l → sByte l ≤ sByte hi → 1 ≤ n → n ≤ 65535 →
        exec (.lossScaleSet c part set dyn l lo hi n) s = .next (s.answered c 0x0605 ((s.taken c 0x0605).modSet part set fun y =>
          { y with lsdyn := dyn == 1, lse := sByte l, lsmin := sByte lo, lsmax := sByte hi, ngrow := n, clean := 0 }))) ∧
      (s.bufferHolds c 16 → exec (.lossScaleQuery c part set) s = .next (s.answered c 0x0605 (s.taken c 0x0605) 0 x.scaleBytes)))) ∧
  (∀ (s : State) (c : Caller) (ctx set sig score rcva : Nat), s.mayStart c 0x0604 [.ctx ctx, .set (ctxPart ctx) set] = true →
    s.mayOnCore c ctx score → set < 16 → sig < 64 → (s.set? (ctxPart ctx) set).isSome = true → rcva = 0 ∨ s.recordOk ctx rcva = true →
    exec (.stepBind c ctx set sig score rcva) s = .next (s.answered c 0x0604 ((s.taken c 0x0604).modCtx ctx fun x =>
      { x with bind := some { set := set, sig := sig, score := score, rcva := if rcva = 0 then none else some rcva } })))) ∧
  (∀ (s : State) (c : Caller) (part buf : Nat) (b : CommitBuf), s.mayOnPart c part → buf < 8 → b = s.buf part buf →
    (s.mayStart c 0x0606 [.buf part buf] = true →
      (∀ acts new, new = (List.range (acts.length / 32)).map (fun i => slice acts (32 * i) 32) → acts.length % 32 = 0 → 32 ≤ acts.length →
        b.acts.length + acts.length / 32 ≤ 64 → new.all (s.actionOk part) = true → b.bound = none → exec (.commitGroupStage c part buf acts) s =
          .next (s.answered c 0x0606 ((s.taken c 0x0606).setBuf part buf { b with acts := b.acts ++ new }))) ∧
      (b.acts ≠ [] → b.bound = none → ∀ a, (s.taken c 0x0606).applyBuf part buf = (a, none) → exec (.commitGroupApply c part buf) s =
        .next (s.answered c 0x0606 (a.setBuf part buf {}))) ∧
      exec (.commitGroupDiscard c part buf) s = .next (s.answered c 0x0606 ((s.taken c 0x0606).setBuf part buf { b with acts := [], bound := none })) ∧
      (s.bufferHolds c 16 → exec (.commitGroupQuery c part buf) s = .next (s.answered c 0x0606 (s.taken c 0x0606) 0 b.bytes))) ∧
    (∀ set, s.mayStart c 0x0606 [.buf part buf, .set part set] = true → set < 16 → (s.set? part set).isSome = true → b.acts ≠ [] → b.bound = none →
      exec (.commitGroupBind c part buf set) s = .next (s.answered c 0x0606 ((s.taken c 0x0606).setBuf part buf { b with bound := some set })))) ∧
  (∀ (s : State) (c : Caller) (part job sets : Nat) (x : Member) (ks : List Nat), s.mayOnPart c part → s.member? part job = some x →
    ks = setBits 16 sets →
    (∀ nctx sig score, s.mayStart c 0x0607 ([.member part job, .ctx nctx] ++ ks.map (Obj.set part)) = true → sets < 65536 →
      ks.any (fun k => (s.set? part k).isNone) = false → ks.any (fun k => (s.set? part k).elim false fun y => y.st != .idle ||
        (y.job.isSome && y.job != some job)) = false → ctxPart nctx = part →
      s.liveCtx nctx = true → sig < 64 → s.coreInPart part score = true → s.formed job = false →
      ((ks ++ x.sets).filterMap (s.set? part)).any (fun y => y.epoch != (((ks ++ x.sets).filterMap (s.set? part)).head?.map (·.epoch)).getD 0) = false →
      exec (.jobStepBind c part job sets nctx sig score) s = .next (s.answered c 0x0607
        ((ks.foldl (fun b k => b.modSet part k fun y => { y with job := some job }) (s.taken c 0x0607)).modMember part job fun y => { y with
          sets := (List.range 16).filter fun k => y.sets.contains k || ks.contains k, nctx := nctx, sig := sig, score := score }))) ∧
    (s.mayStart c 0x0607 ([.member part job] ++ ks.map (Obj.set part)) = true → ks.all (x.sets.contains ·) = true →
      s.formed job = false ∨ x.st = .faulted ∨ x.st = .lost → exec (.jobStepUnbind c part job sets) s = .next (s.answered c 0x0607
        ((ks.foldl (fun b k => b.modSet part k fun y => { y with job := none }) (s.taken c 0x0607)).modMember part job fun y =>
          { y with sets := y.sets.filter fun k => !ks.contains k }))) ∧
    (s.mayStart c 0x0609 [.member part job] = true → exec (.jobFault c part job) s = .next (s.answered c 0x0609
      ((s.taken c 0x0609).modMember part job fun y => { y with causes := y.causes ++ [(3, 0)] })))) ∧
  (∀ (s : State) (c : Caller) (job fan skip vtmo dectmo rstmo : Nat) (elig : List Byte) (m : Member) (l : List Member) (t : Tree),
    s.jobMembers job = m :: l → s.mayStart c 0x0608 ((m :: l).map fun y => Obj.member y.part job) = true →
    s.bound c → c.fn = 0 ∨ (m :: l).any (fun y => s.mayAct c.fn y.part) = true →
    (s.tree? job = none ∨ (m :: l).any Member.keepsTree = false) → 2 ≤ fan → fan ≤ 64 → skip ≤ 1 → 1 ≤ vtmo → vtmo ≤ 1000 →
    1 ≤ dectmo → dectmo ≤ 10000 → 1 ≤ rstmo → rstmo ≤ 600 → elig.length = m.folds.length →
    (List.range m.folds.length).all (fun i => (m.bell elig i).isSome) = true → (flg elig (m.rank m.own.2.2.2) m.own.2.2.1 == s.chip.elig) = true →
    (m.partsOn m.own.1).all (fun p => (s.member? p job).elim false fun y => !y.sets.isEmpty) = true → t = m.treeOf fan skip vtmo dectmo rstmo elig →
    t.bell = false ∨ (s.chip.trees.filter fun p => p.1 != job && p.2.bell).length < 64 →
    exec (.treeForm c job fan skip vtmo dectmo rstmo elig) s = .next (s.started c 0x0608 ((s.taken c 0x0608).takeHellos job t)
      ((m :: l).map fun y => Obj.member y.part job) (.tree m.part job)))

/-- Commands of the Security Enclave (R525, R529 to R542): an SPDM message is answered with the responder's bytes, a signed request for all
measurements with the nine blocks of the asker's view, a nonce and a signature by the alias key over the transcript; the alias key and
its certificate come from the device secret, the measured images and the debug level; sessions end; a key server's
messages inside a session deliver, erase and query keys, answered inside the session; a held key whose policy still holds is released to
its partition's stacks; a function without rings enters confidential mode, leaves it and updates its keys; a challenge gives a nonce; a
token that passes the checks drops every secret and waits for the memories to be zeroed; the zeroing limit ends the unlock.
Where it rests on choices of the model, these are log entries 1, 2, 5, 11, 19, 77, 79, 80, 81, 82, 117, 129, 162, 163, 164. -/
def Obligations.SecurityCommands : Prop :=
  (∀ (s r : State) (c : Caller) (msg b : List Byte) (o e : Option Nat), s.mayStart c 0x0700 [] = true → 1 ≤ msg.length → msg.length ≤ 65536 →
    s.bufferHolds c (s.spdmAnswer c.fn msg).2.length → (s.taken c 0x0700).spdmAnswer c.fn msg = (r, b) →
    exec (.spdm c msg o e) s = .next (s.answered c 0x0700 (r.spdmSessions c.fn o e) b.length b)) ∧
  (∀ (s : State) (tr k0 : Nat) (msg : List Byte), s.chip.enc.aliasKey = some k0 → num msg 0 1 = 0x12 → num msg 1 1 = 0xE0 → flg msg 2 0 = true → num msg 3 1 = 0xFF → 2 ≤ msg.length →
    ∃ (nonce : List Byte) (k : Nat) (body : List Byte), nonce.length = 32 ∧
      body = leBytes 1 0x12 ++ leBytes 1 0x60 ++ leBytes 1 0 ++ leBytes 1 0 ++ leBytes 1 9
        ++ leBytes 3 ((List.range 9).flatMap fun i => s.measurementBlock (viewOf tr) (i + 1)).length
        ++ ((List.range 9).flatMap fun i => s.measurementBlock (viewOf tr) (i + 1)) ++ nonce ++ leBytes 2 0 ∧
      (s.spdmAnswer tr msg).2 = body ++ keyBytes (ecdsaSign (sha384 (spdmToSign 0x12 ((Tab.get s.chip.enc.conns {} tr).agreed ++
        ((Tab.get s.chip.enc.conns {} tr).measured ++ msg ++ body)))) k0 k)) ∧
  (∀ s : State, ∃ n, s.deriveAlias.chip.enc.aliasKey =
      some (Config.privateKey (hkdf (beBytes 48 s.rootSecret) (ascii "quasor alias" ++ s.aliasData) 48)) ∧
    s.deriveAlias.chip.enc.aliasCert = Config.certificate
      (Config.aliasBody (publicKey (keyFrom s.rootSecret (ascii "quasor alias" ++ s.aliasData))) s.aliasData)
      (ecdsaSign (sha384 (Config.aliasBody (publicKey (keyFrom s.rootSecret (ascii "quasor alias" ++ s.aliasData))) s.aliasData))
        (identityKey s.rootSecret) n)) ∧
  (∀ (s : State) (tr se : Nat), exec (.spdmSessionTimeout tr se) s =
    .next { s with chip.enc.sessions := s.chip.enc.sessions.filter (· != (tr, se))
                   chip.enc.exports := s.chip.enc.exports.filter fun x => (x.1 / 2 ^ 32, x.1 % 2 ^ 32) != (tr, se) }) ∧
  (∀ (s t : State) (tr se part h : Nat) (d : List Byte) (k : HeldKey), s.chip.enc.sessions.contains (tr, se) = true → part = fld d 1 0 3 → h = fld d 2 0 4 →
    startsPart s.chip.start part = true → (tr == 0 || tr == 9 || s.boundPart tr == some part) = true →
    (deliverOk d = true → num d 0 1 = 1 → Tab.look s.chip.enc.keys (keyIndex part h) = none ∨ flg d 3 0 = true →
      beNat (slice d 8 48) = s.policyDigest (fld d 4 0 10) → t = s.unloadKey part h →
      k = { mmask := fld d 4 0 10, poldig := beNat (slice d 8 48), revoke := flg d 3 1, key := beNat (slice d 56 32) } →
      exec (.keyDeliver tr se d) s = .next (({ t with chip.enc.keys := Tab.put t.chip.enc.keys (keyIndex part h) k } : State).send
          (.secured tr se (leBytes 1 1 ++ leBytes 1 0 ++ leBytes 2 0 ++ []))).settle) ∧
    (shortKeyOk d = true → num d 0 1 = 2 → exec (.keyErase tr se d) s =
      .next ((s.eraseKey part h).send (.secured tr se (leBytes 1 2 ++ leBytes 1 0 ++ leBytes 2 0 ++ []))).settle) ∧
    (shortKeyOk d = true → num d 0 1 = 3 → exec (.keyQuery tr se d) s =
      .next (s.send (.secured tr se (leBytes 1 3 ++ leBytes 1 0 ++ leBytes 2 0 ++
        (leBytes 2 (s.heldMap part fun _ => true) ++ leBytes 2 (s.heldMap part (·.released)))))).settle)) ∧
  (∀ (s b : State) (c : Caller) (part h : Nat), s.mayStart c 0x0702 [] = true → s.mayOnPart c part → h < 16 →
    (∀ k, Tab.look s.chip.enc.keys (keyIndex part h) = some k → k.poldig = s.policyDigest k.mmask →
      b = ((s.taken c 0x0702).partStacks part).foldl (fun q st => q.modNmu st fun n =>
        { n with keys := if n.keys.contains h then n.keys else n.keys ++ [h] }) (s.taken c 0x0702) →
      exec (.keyRelease c part h) s = .next (s.answered c 0x0702
        { b with chip.enc.keys := Tab.adjust b.chip.enc.keys (keyIndex part h) fun x => { x with released := true } })) ∧
    exec (.keyReleaseErase c part h) s = .next (s.answered c 0x0702 ((s.taken c 0x0702).eraseKey part h)) ∧
    (s.bufferHolds c 4 → exec (.keyReleaseQuery c part h) s = .next (s.answered c 0x0702 (s.taken c 0x0702) 0
      (leBytes 2 ((s.taken c 0x0702).heldMap part fun _ => true) ++ leBytes 2 ((s.taken c 0x0702).heldMap part (·.released)))))) ∧
  (∀ (s : State) (c : Caller), s.mayStart c 0x0701 [] = true → s.bound c →
    (s.confBusy c.fn = false →
      (∀ se, s.chip.enc.sessions.contains (c.fn, se) = true → exec (.confModeEnter c se) s =
        .next (((((s.taken c 0x0701).measuredIf 7 (s.fn c.fn).conf.isNone).respond (s.cmdOf c 0x0701) .ok).modFn c.fn fun f =>
          { f with conf := some { session := se, secret := bounceSecret (Tab.get s.chip.enc.exports 0 (sessionKey c.fn se)) } })).settle) ∧
      exec (.confModeLeave c) s =
        .next (((((s.taken c 0x0701).measuredIf 7 (s.fn c.fn).conf.isSome).respond (s.cmdOf c 0x0701) .ok).modFn c.fn fun f => { f with conf := none })).settle) ∧
    (s.bufferHolds c 64 → (s.fn c.fn).conf.isSome = true → (s.fn c.fn).sub.any (fun r => r.2.unfetched) = false → s.copying c.fn = false →
      ∀ b, b = (s.fn c.fn).cpl.foldl (fun q r => q.drainHeld c.fn r.1 4096) (s.taken c 0x0701) →
      exec (.confModeKeyUpdate c) s = .next ((b.respond (s.cmdOf c 0x0701) .ok 0 0 ((List.range 16).flatMap fun i =>
        leBytes 4 ((Tab.look (b.fn c.fn).cpl i).elim 0 (·.prod)))).modFn c.fn fun g =>
          { g with conf := g.conf.map fun x => { x with secret := updatedSecret x.secret, counters := [] } }).settle)) ∧
  (∀ (s r : State) (c : Caller) (n : Nat), s.mayStart c 0x0703 [] = true → c.fn = 0 →
    (s.bufferHolds c 48 → (s.taken c 0x0703).draw 10 = (r, n) → exec (.debugUnlockChallenge c) s =
      .next (s.answered c 0x0703 { r with chip.enc.nonce := some (n % 2 ^ 256) } 0
        (beBytes 16 devuid ++ beBytes 32 (n % 2 ^ 256)))) ∧
    (∀ t, t.length = 256 → s.nv.dbgdis = false → (zeroFlds t [(1, 1, 7)] && zeroRange t 2 14 && (num t 0 1 == 1 || num t 0 1 == 2)) = true →
      s.chip.ctxs = [] → s.chip.members = [] → s.chip.wins = [] → s.chip.hif.fns.any (fun f => f.2.conf.isSome) = false → s.tokenOk t = true →
      s.chip.enc.dbg < num t 0 1 → r = (s.taken c 0x0703).dropSecrets.run (s.cmdOf c 0x0703) [] (.zeroise (num t 0 1)) →
      exec (.debugUnlock c t) s = .next ({ r with chip.enc.nonce := none } : State).settle)) ∧
  (∀ (s : State), exec .debugZeroiseTimeout s = .next (s.zeroiseEnds .timeout).settle)

/-- Commands of power and of the fault configuration (R546, R554, R572 to R574, R577, R578, R582): a core or stack in range that nothing holds
is forced and answered once it has reached its state, a port as by its enable and disable, a release is answered at once; a divider is answered once it is in force; the
tolerance, the cap, a source's configuration, FAULT_N, the patrols and the watchdog are stored, a fault is injected, a held FAULT_N
released; the power status and the configuration are read.
Where it rests on choices of the model, these are log entries 11, 20, 85, 86. -/
def Obligations.PowerAndFaultConfigCommands : Prop :=
  (∀ (s : State) (c : Caller) (k u : Nat), s.mayStartPast isForce c 0x0800 [] = true → c.fn = 0 → k ≤ 1 → u < unitCount k → s.forcing k u = false →
    exec (.powerStateForce c k u 0) s = .next (s.started c 0x0800 ((s.taken c 0x0800).setForce k u (some true)) [] (.force k u true)) ∧
    (s.heldOn k u = false → exec (.powerStateForce c k u 3) s =
      .next (s.started c 0x0800 ((s.taken c 0x0800).setForce k u (some false)) [] (.force k u false))) ∧
    exec (.powerStateRelease c k u) s = .next (s.answered c 0x0800 ((s.taken c 0x0800).setForce k u none))) ∧
  (∀ (s : State) (c : Caller) (u : Nat), s.mayStartPast isForce c 0x0800 [.port u] = true → c.fn = 0 → u < 16 → s.forcing 2 u = false →
    exec (.powerStateForce c 2 u 0) s = .next (s.answered c 0x0800 (((s.taken c 0x0800).setForce 2 u (some true)).portOn u)) ∧
    (∀ a, ((s.taken c 0x0800).setForce 2 u (some false)).portDisable u = (a, true) → exec (.powerStateForce c 2 u 3) s =
      .next (s.answered c 0x0800 a)) ∧
    (∀ a, ((s.taken c 0x0800).setForce 2 u (some false)).portDisable u = (a, false) → exec (.powerStateForce c 2 u 3) s =
      .next (s.started c 0x0800 a [.port u] (.portDrain u))) ∧
    exec (.powerStateRelease c 2 u) s = .next (s.answered c 0x0800 ((s.taken c 0x0800).setForce 2 u none))) ∧
  (∀ (s t b : State) (c : Caller) (part v : Nat), s.mayOnPart c part →
    (s.mayStart c 0x0800 [] = true → 6 ≤ v → v ≤ 16 → t = s.taken c 0x0800 →
      b = { t with chip.attr := Tab.modify t.chip.attr {} part fun x => { x with div := v } } → exec (.powerStateSetDivider c part v) s =
        .next (if b.dividersSet part then s.answered c 0x0800 b else s.started c 0x0800 b [] (.divider part))) ∧
    (s.mayStart c 0x0801 [] = true → v ≤ 10000000 → t = s.taken c 0x0801 → exec (.ltol c part v) s = .next (s.answered c 0x0801
      ({ t with chip.attr := Tab.modify t.chip.attr {} part fun x => { x with ltol := v } } : State).wakeForLtol))) ∧
  (∀ (s t : State) (c : Caller), s.mayStart c 0x0803 [] = true → s.bufferHolds c 64 → t = s.taken c 0x0803 →
    exec (.powerStatus c) s = .next (s.answered c 0x0803 t 0 t.powerStatus)) ∧
  (∀ (s t : State) (c : Caller) (v : Nat), s.mayStart c 0x0802 [] = true → c.fn = 0 → 1000 ≤ v → v ≤ 6500 → t = s.taken c 0x0802 →
    exec (.powerCap c v) s = .next (s.answered c 0x0802 { t with chip.pwr.capNew := v })) ∧
  (∀ (s t : State) (c : Caller), s.mayStart c 0x0900 [] = true → c.fn = 0 → t = s.taken c 0x0900 →
    (∀ src cfg, cfgBad src cfg = false → bitsOf cfg 0 5 &&& lockedReact src = lockedReact src → exec (.faultConfigWrite c src cfg) s =
      .next (s.answered c 0x0900 { t with chip.fc.cfg := Tab.set t.chip.fc.cfg (faultCfgDefault src) src (cfgStored src cfg) })) ∧
    (s.bufferHolds c 1024 → exec (.faultConfigRead c) s = .next (s.answered c 0x0900 t 0 ((List.range 256).flatMap fun i => leBytes 4 (t.faultCfg i)))) ∧
    (∀ mode w, mode ≤ 1 → 10 ≤ w → w ≤ 10000 → exec (.faultConfigFaultN c mode w) s =
      .next (s.answered c 0x0900 { t with aon := { t.aon with fnMode := mode == 1, fnPw := w } })) ∧
    exec (.faultConfigRelease c) s = .next (s.answered c 0x0900 t.releaseFaultN) ∧
    (∀ i d, iperOk i = true → d ≤ 10000 → exec (.faultConfigPatrol c i d) s =
      .next (s.answered c 0x0900 { t with chip.fc := { t.chip.fc with iper := i, sper := d } })) ∧
    (∀ src u part ctx, reservedSrc src = false → u < kindUnits (unitKind src) → startsPart t.chip.start part = true →
      ctxPart ctx = part → (t.ctx? ctx).isSome = true → exec (.faultConfigInject c src u part ctx) s =
        .next (s.answered c 0x0900 (t.raise { src := src, unit := u, inj := true, part := some part, ctx := some ctx }))) ∧
    ∀ w, 10 ≤ w → w ≤ 10000 → exec (.faultConfigWatchdog c w) s = .next (s.answered c 0x0900 { t with chip.fc.wdt := w }))

/-- Commands of fault records, telemetry, firmware, log and dump (R552, R164, R281, R387, R421, R601, R603, R604): the records a function may see
from a number on, the persistent store, the memory, correction, port and fabric counters are read; a firmware image of a legal length is
taken and answered once it is programmed, the versions are read; the log and the dump are read, the dump cleared.
Where it rests on choices of the model, these are log entries 1, 11, 15, 17, 76, 83, 129. -/
def Obligations.TelemetryAndFirmwareCommands : Prop :=
  (∀ (s t : State) (c : Caller), s.mayStart c 0x0901 [] = true → t = s.taken c 0x0901 →
    (s.bound c → ∀ start max, s.bufferHolds c (s.recordsFrom c.fn start max).length → exec (.faultRecordsRead c start max) s =
      .next (s.answered c 0x0901 t 0 (t.recordsFrom c.fn start max))) ∧
    (c.fn = 0 → s.bufferHolds c (16 + 32 * s.aon.store.length) → exec (.faultRecordsPersistent c) s =
      .next (s.answered c 0x0901 t 0 (faultAnswer t.chip.fc.seq t.aon.storeLost t.aon.store)))) ∧
  (∀ (s : State) (c : Caller), s.bound c →
    (s.mayStart c 0x0902 [] = true → s.bufferHolds c 9216 → exec (.memStatus c) s =
      .next (s.answered c 0x0902 (s.taken c 0x0902) 0 ((s.taken c 0x0902).memStatus c.fn))) ∧
    (s.mayStart c 0x0904 [] = true → s.bufferHolds c 1024 → exec (.portStatus c) s =
      .next (s.answered c 0x0904 (s.taken c 0x0904) 0 ((s.taken c 0x0904).portStatus c.fn))) ∧
    (s.mayStart c 0x0905 [] = true → s.bufferHolds c 512 → exec (.fabricStatus c) s =
      .next (s.answered c 0x0905 (s.taken c 0x0905) 0 ((s.taken c 0x0905).fabricStatus c.fn)))) ∧
  (∀ (s : State) (c : Caller) (st : Nat), s.mayStart c 0x0903 [] = true → s.mayOnStack c st → s.bufferHolds c (s.corrLog st).length →
    exec (.corrLog c st) s = .next (s.answered c 0x0903 (s.taken c 0x0903) 0 ((s.taken c 0x0903).corrLog st))) ∧
  (∀ (s : State) (c : Caller), c.fn = 0 →
    (s.mayStart c 0x0A00 [] = true →
      (∀ kind img, fwKindOk kind = true → fwLenOk kind img.length = true → s.aon.fw = none → exec (.fwUpdateWrite c kind img) s =
        .next (((s.taken c 0x0A00).run (s.cmdOf c 0x0A00) [] (.flash kind)).fwMore
          { kind := kind, host := some (s.cmdOf c 0x0A00).seq, len := img.length } img).settle) ∧
      (s.bufferHolds c 24 → exec (.fwUpdateQuery c) s = .next (s.answered c 0x0A00 (s.taken c 0x0A00) 0 (s.taken c 0x0A00).fwQuery))) ∧
    (s.mayStart c 0x0A01 [] = true → ∀ start max a r b, s.bufferHolds c (s.logLen max) → a = s.taken c 0x0A01 →
      (a.draw 11).1.freeBytes 12 (s.logLen max) = (r, b) →
      exec (.logRead c start max) s = .next (s.answered c 0x0A01 r (start + b.length) b)) ∧
    (s.mayStart c 0x0A02 [] = true → s.bufferHolds c 4096 → s.nv.dump.isSome = true → ∀ r b, (s.taken c 0x0A02).freeBytes 13 4096 = (r, b) →
      exec (.crashDumpRead c) s = .next (s.answered c 0x0A02 r 0 b)) ∧
    (s.mayStart c 0x0A02 [] = true → ∀ t, t = s.taken c 0x0A02 →
      exec (.crashDumpClear c) s = .next (s.answered c 0x0A02 { t with nv.dump := none })))

/-- Registers of the host BAR (R14, R15, R486, R487, R507): a write of ones clears causes, a mask is stored, the mailbox addresses
change only while EN is 0; an MSI-X word is stored, and unmasking a pending vector sends its message; what names no register is dropped,
reads as zero and raises fault 0x01; EN enables a mailbox with a LOGN of 4 to 12 and empty indexes, else DBERR is set; EN = 0 stops
fetching; a sideband write that passes its checks acts on the register it names.
Where it rests on choices of the model, these are log entries 13, 72, 120. -/
def Obligations.HostRegisterWrites : Prop :=
  (∀ (s : State) (fn v : Nat) (ok : Bool), s.fnLive fn = true → fn < 9 → v < 2 ^ 32 →
    exec (.registerWrite fn 0x10 v ok) s = .next (s.modFn fn fun f => { f with isr := f.isr &&& (0x7F - v % 128) }).settle ∧
    exec (.registerWrite fn 0x14 v ok) s = .next (s.modFn fn fun f => { f with imask := v % 128 }).settle ∧
    ((s.fn fn).mb.en = false → ∀ m, m = (s.fn fn).mb →
      exec (.registerWrite fn 0x24 v ok) s = .next (s.modFn fn fun f => { f with mb.cbase := m.cbase / 2 ^ 32 * 2 ^ 32 + v / 4096 * 4096 }).settle ∧
      exec (.registerWrite fn 0x28 v ok) s = .next (s.modFn fn fun f => { f with mb.cbase := m.cbase % 2 ^ 32 + v * 2 ^ 32 }).settle ∧
      exec (.registerWrite fn 0x2C v ok) s = .next (s.modFn fn fun f => { f with mb.rbase := m.rbase / 2 ^ 32 * 2 ^ 32 + v / 4096 * 4096 }).settle ∧
      exec (.registerWrite fn 0x30 v ok) s = .next (s.modFn fn fun f => { f with mb.rbase := m.rbase % 2 ^ 32 + v * 2 ^ 32 }).settle ∧
      exec (.registerWrite fn 0x34 v ok) s = .next (s.modFn fn fun f => { f with mb.shad := m.shad / 2 ^ 32 * 2 ^ 32 + v / 4096 * 4096 }).settle ∧
      exec (.registerWrite fn 0x38 v ok) s = .next (s.modFn fn fun f => { f with mb.shad := m.shad % 2 ^ 32 + v * 2 ^ 32 }).settle) ∧
    ∀ i, i < 4 * msixEntries fn → i % 4 ≠ 3 →
      exec (.registerWrite fn (0x8000 + 4 * i) v ok) s = .next (s.modFn fn fun f => { f with msix := Tab.put f.msix i (BitVec.ofNat 32 v) }).settle) ∧
  (∀ (s : State) (off v r : Nat), s.aon.answers = true → s.sbReg off = some r →
    exec (.registerWrite 9 off v true) s = .next (s.sbRegWrite off (v % 2 ^ 32)).settle) ∧
  (∀ (s t : State) (fn v : Nat), s.fnLive fn = true → v < msixEntries fn →
    t = s.modFn fn (fun f => { f with msix := Tab.put f.msix (4 * v + 3) 0#32 }) →
    exec (.msixVectorUnmask fn v) s = .next (if (t.fn fn).pending.contains v then
      (t.modFn fn fun f => { f with pending := f.pending.filter (· != v) }).emit fn (.msix fn v) else t).settle) ∧
  (∀ (s : State) (fn off n : Nat), s.fnLive fn = true → fn < 9 → s.barReg fn off = none ∨ n ≠ 4 →
    exec (.unmappedRegisterAccess fn off n true) s = .next (s.raise { src := 0x01, unit := fn, info := off }).settle ∧
    exec (.unmappedRegisterAccess fn off n false) s = .next ((s.raise { src := 0x01, unit := fn, info := off }).send (.mmio fn 0)).settle) ∧
  (∀ (s : State) (fn logn : Nat), s.fnLive fn = true → (s.fn fn).mb.en = false →
    (4 ≤ logn ∧ logn ≤ 12 → exec (.mailboxEnable fn logn) s = .next (s.modFn fn fun f => { f with mb := { f.mb with
      en := true, err := false, logn := logn, cprod := 0, chead := 0, rtail := 0, rcons := 0, reading := false } }).settle) ∧
    (logn < 4 ∨ 12 < logn → logn < 16 →
      exec (.mailboxEnable fn logn) s = .next ((s.modFn fn fun f => { f with mb.logn := logn }).setIsr fn isrDberr).settle)) ∧
  (∀ (s : State) (fn logn : Nat), s.fnLive fn = true →
    exec (.mailboxDisable fn logn) s = .next ({ s.modFn fn (fun f => { f with mb := { f.mb with
      en := false, reading := false, logn := if f.mb.en then f.mb.logn else logn % 16
      fetched := f.mb.fetched.map fun x => { x with mute := true } } }) with
      chip.hif.running := s.chip.hif.running.map fun r => if r.caller.fn = fn then { r with mute := true } else r } : State).settle)

/-- Doorbells (R488): an index in range is stored and what it lets go on goes on; one out of range puts mailbox or ring in ERROR and sets
DBERR and RINGERR; without a mailbox or ring only DBERR is set. A completion ring's timer sends its message (R507). -/
def Obligations.DoorbellsRing : Prop :=
  (∀ (s : State) (fn index : Nat) (m : Mailbox), s.fnLive fn = true → m = (s.fn fn).mb → m.en = true →
    (behind index m.chead ≤ 2 ^ m.logn →
      exec (.mailboxDoorbell fn index) s = .next ((s.modFn fn fun f => { f with mb.cprod := index % 2 ^ 32 }).pumpMailbox fn).settle) ∧
    (2 ^ m.logn < behind index m.chead → exec (.mailboxDoorbell fn index) s =
      .next (((s.modFn fn fun f => { f with mb.err := true }).setIsr fn isrDberr).setIsr fn isrRingerr).settle) ∧
    (behind index m.rcons ≤ behind m.rtail m.rcons →
      exec (.mailboxResponseDoorbell fn index) s = .next ((s.modFn fn fun f => { f with mb.rcons := index % 2 ^ 32 }).pumpMailbox fn).settle)) ∧
  (∀ (s : State) (fn index : Nat), s.fnLive fn = true → (s.fn fn).mb.en = false →
    exec (.mailboxDoorbell fn index) s = .next (s.setIsr fn isrDberr).settle ∧
    exec (.mailboxResponseDoorbell fn index) s = .next (s.setIsr fn isrDberr).settle) ∧
  (∀ (s : State) (fn ring index : Nat) (r : SubRing), s.fnLive fn = true → Tab.look (s.fn fn).sub ring = some r →
    (behind index r.cons ≤ 2 ^ r.logn → exec (.submissionDoorbell fn ring index) s =
      .next ((s.modFn fn fun f => { f with sub := Tab.put f.sub ring { r with prod := index % 2 ^ 32 } }).pumpRing fn ring).settle) ∧
    (2 ^ r.logn < behind index r.cons → exec (.submissionDoorbell fn ring index) s =
      .next (((s.modFn fn fun f => { f with sub := Tab.put f.sub ring { r with err := true } }).setIsr fn isrDberr).setIsr fn isrRingerr).settle)) ∧
  (∀ (s : State) (fn ring index : Nat) (r : CplRing), s.fnLive fn = true → Tab.look (s.fn fn).cpl ring = some r →
    (behind index r.cons ≤ behind r.prod r.cons → exec (.completionDoorbell fn ring index) s =
      .next ((s.modFn fn fun f => { f with cpl := Tab.put f.cpl ring { r with cons := index % 2 ^ 32 } }).drainHeld fn ring 4096).settle) ∧
    (r.since ≠ 0 → exec (.completionInterruptTimer fn ring) s =
      .next ((s.modFn fn fun f => { f with cpl := Tab.put f.cpl ring { r with since := 0 } }).msix fn r.vector).settle)) ∧
  (∀ (s : State) (fn ring index : Nat), s.fnLive fn = true →
    (Tab.look (s.fn fn).sub ring = none → exec (.submissionDoorbell fn ring index) s = .next (s.setIsr fn isrDberr).settle) ∧
    (Tab.look (s.fn fn).cpl ring = none → exec (.completionDoorbell fn ring index) s = .next (s.setIsr fn isrDberr).settle))

/-- Configuration and resets of functions (R478 to R480, R512): retry status before the configuration image is loaded; afterwards a read
of the identification registers answers the values R478 gives, after the readiness message of the first request; virtual functions are
enabled and disabled, which resets them; a Function Level Reset of the physical function, a hot reset and link down do the same.
Where it rests on choices of the model, these are log entries 2, 14, 71, 82. -/
def Obligations.ConfigurationAndResets : Prop :=
  (∀ (s : State), s.chip.boot = .init → exec .configImageLoaded s = .next { s with chip.hif.configReady := true }) ∧
  (∀ (s : State) (fn off : Nat) (w : Bool), s.chip.boot ≠ .held → s.chip.boot ≠ .encHalt → s.chip.boot ≠ .recovery → fn ≤ 8 →
    (s.chip.hif.configReady = false → exec (.configRequest fn off w) s = .next (s.send (.retryStatus fn))) ∧
    (s.chip.hif.configReady = true → s.chip.hif.drs = true →
      exec (.configRequest 0 0 false) s = .next (s.send (.config 0 0 0x23041F4C)) ∧
      (s.fnLive 1 = true → exec (.configRequest 1 0 false) s = .next (s.send (.config 1 0 0x23051F4C))) ∧
      (fn = 0 ∨ s.fnLive fn = true →
        exec (.configRequest fn 0x08 false) s = .next (s.send (.config fn 0x08 (0x12000000 + if s.nv.b0 then 0x10 else 0))) ∧
        exec (.configRequest fn 0x2C false) s = .next (s.send (.config fn 0x2C 0x00011F4C)) ∧
        exec (.configRequest fn 0x3C false) s = .next (s.send (.config fn 0x3C 0)))) ∧
    (s.chip.hif.configReady = true → fn = 0 ∨ s.fnLive fn = true → s.chip.hif.drs = false →
      exec (.configRequest fn off true) s = .next (({ s with chip.hif.drs := true } : State).send (.drs fn)))) ∧
  (∀ (s : State) (n : Nat), s.fnLive 0 = true → s.chip.hif.vfEnable = false → 1 ≤ n → n ≤ 8 →
    exec (.vfEnableSet n) s = .next (({ s with chip.hif.vfEnable := true, chip.hif.numVFs := n } : State).measuredIf 7 (decide (s.chip.hif.numVFs ≠ n))).settle) ∧
  (∀ (s : State), s.fnLive 0 = true → s.chip.hif.vfEnable = true →
    exec .vfEnableClear s = .next ({ (List.range s.chip.hif.numVFs).foldl (fun a i => a.flrVf (i + 1)) s with
      chip.hif.vfEnable := false } : State).settle) ∧
  (∀ (s : State) (fn : Nat), s.fnLive fn = true → 1 ≤ fn → fn ≤ 8 → exec (.vfFlr fn) s = .next (s.flrVf fn).settle) ∧
  (∀ (s : State), s.fnLive 0 = true → exec .pfFlr s = .next s.flrPf.settle ∧ exec .pcieHotReset s = .next s.flrPf.settle ∧
    exec .pcieLinkDown s = .next s.flrPf.settle)

/-- Bus Master Enable and the device's own reads (R489, R494, R509 to R511): memory requests wait while it is clear and leave when it is
set; a copy that has waited 1 s on it is answered TIMEOUT; an arrived command entry, ring entry or external argument is taken in, a copy's
bytes are written at the segment, and end it with INTEGRITY where an uncorrectable word drops some; in confidential mode an object whose
tag or counter fails is answered INTEGRITY, or puts mailbox or ring in ERROR with fault 0x09; a read that fails puts mailbox or ring in
ERROR with fault 0x08, or ends its command.
Where it rests on choices of the model, these are log entries 19, 21, 122. -/
def Obligations.ReadsComplete : Prop :=
  (∀ (s : State) (fn : Nat), s.fnLive fn = true →
    exec (.busMasterEnableClear fn) s = .next (s.modFn fn fun f => { f with bme := false }).settle ∧
    (s.chip.hif.running = [] → exec (.busMasterEnableSet fn) s = .next ({ s.modFn fn (fun f => { f with bme := true, waiting := [] }) with
      out := s.out ++ (s.fn fn).waiting } : State).settle)) ∧
  (∀ (s : State) (fn seq : Nat), (s.fn fn).bme = false →
    exec (.hostCopyBmeTimeout fn seq) s = .next (s.answerRun (isCopyOf fn seq) .timeout).settle) ∧
  (∀ (s : State) (fn which : Nat) (bs : List Byte) (ok : Bool), s.fnLive fn = true → ok = true ∨ (s.fn fn).conf = none →
    ((s.fn fn).mb.reading = true → s.sealSpent fn 1 0 = false →
      exec (.hostReadCompletion fn 0 which bs ok) s = .next (s.mailboxEntry fn (slice bs 0 256)).settle) ∧
    (∀ f, (s.fn fn).mb.fetched.find? (fun f => f.ctag == which && f.xwait) = some f → exec (.hostReadCompletion fn 2 which bs ok) s =
      .next (s.modFn fn fun g => { g with mb.fetched := g.mb.fetched.map fun x => if x = f then { x with xwait := false } else x }).settle) ∧
    (∀ r, Tab.look (s.fn fn).sub which = some r → r.reading = true → s.sealSpent fn 3 which = false →
      exec (.hostReadCompletion fn 1 which bs ok) s = .next ((s.countSeal fn 3 which).modFn fn fun f => { f with
        sub := Tab.put f.sub which { r with reading := false, head := some (slice bs 0 (if r.q1 then 144 else 272)) } }).settle) ∧
    (∀ r c ctx seg left arg x dropped, s.chip.hif.running.find? (isCopyOf fn which) = some r → r.await = .hostCopy ctx seg 0 left arg →
      r.caller.fn = fn → s.ctx? ctx = some c → bs.length < left → s.sealSpent fn 5 0 = false →
      ((s.fn fn).conf.isSome = true → bs ≠ [] ∧ bs.length % 16 = 0 ∧ bs.length ≤ 65536) →
      (s.countSeal fn 5 0).writeCva c (hcCva arg + (hcLen arg - left)) bs = (x, dropped) →
      exec (.hostReadCompletion fn 3 which bs ok) s = .next (if dropped then x.answerRun (· == r) .integrity
        else { x with chip.hif.running := x.chip.hif.running.map fun q =>
          if q = r then { q with await := .hostCopy ctx seg 0 (left - bs.length) arg } else q } : State).settle)) ∧
  (∀ (s : State) (fn which : Nat) (bs : List Byte), s.fnLive fn = true → (s.fn fn).conf.isSome = true →
    ((s.fn fn).mb.reading = true → s.sealSpent fn 1 0 = false → exec (.hostReadCompletion fn 0 which bs false) s =
      .next (((s.respond { caller := { fn := fn, ctag := 0xFFFF }, opc := 0, seq := 0 } .integrity 1).mailboxError fn).sealFault fn 1 0).settle) ∧
    (∀ f, (s.fn fn).mb.fetched.find? (fun f => f.ctag == which && f.xwait) = some f →
      exec (.hostReadCompletion fn 2 which bs false) s = .next (s.endFetched fn f .integrity).settle) ∧
    (∀ r, Tab.look (s.fn fn).sub which = some r → r.reading = true → s.sealSpent fn 3 which = false →
      exec (.hostReadCompletion fn 1 which bs false) s = .next ((s.ringError fn which r).sealFault fn 3 which).settle) ∧
    (∀ r c ctx seg left arg, s.chip.hif.running.find? (isCopyOf fn which) = some r → r.await = .hostCopy ctx seg 0 left arg →
      r.caller.fn = fn → s.ctx? ctx = some c → s.sealSpent fn 5 0 = false →
      exec (.hostReadCompletion fn 3 which bs false) s = .next (s.answerRun (· == r) .integrity).settle)) ∧
  (∀ (s : State) (fn which : Nat) (late : Bool), s.fnLive fn = true →
    (∀ f, (s.fn fn).mb.fetched.find? (fun f => f.ctag == which && f.xwait) = some f → exec (.hostReadError fn 2 which late) s =
      .next ((s.endFetched fn f (if late then .timeout else .aborted)).raise { src := 0x08, unit := fn, detail := 2 }).settle) ∧
    ((s.fn fn).mb.reading = true → exec (.hostReadError fn 0 which late) s =
      .next (((s.modFn fn fun f => { f with mb := { f.mb with err := true, reading := false } }).setIsr fn isrRingerr).raise
        { src := 0x08, unit := fn, detail := 0 }).settle) ∧
    (∀ r, Tab.look (s.fn fn).sub which = some r → r.reading = true → exec (.hostReadError fn 1 which late) s =
      .next (((s.modFn fn fun f => { f with sub := Tab.put f.sub which { r with err := true, reading := false } }).setIsr fn isrRingerr).raise
        { src := 0x08, unit := fn, detail := 1, info := which }).settle) ∧
    exec (.hostReadError fn 3 which late) s = .next (s.answerRun (isCopyOf fn which) (if late then .timeout else .aborted)).settle)

/-- Timers of contexts (R222, R223, R466, R467, R471): a wait blocked for DTMO in an ACTIVE context without error stop raises fault 0x30
and tears the context down; the preemption deadline acts on every core of a stopping context; a stopping context that is quiet becomes
STOPPED and its stops are answered OK; one that is not by the stop limit raises fault 0x17, is answered TIMEOUT and torn down; the end of
a teardown frees the number, lowers RUNNING and answers the destroy.
Commands that wait (R263, R169, R316): the end of its zeroing enters a new segment in its context's table, and answers the command
OK; a new layout's zeroing is answered once the eighths are zeroed; the working copies are regenerated once no tile is out, else the
limit raises fault 0x43 and answers TIMEOUT.
Where it rests on choices of the model, these are log entries 19, 27, 28, 35, 68, 81, 95. -/
def Obligations.ContextTimersAndCompletions : Prop :=
  ((∀ (s : State) (core ctx kind which i : Nat) (t : Word) (c : Context), s.ctx? ctx = some c → s.blockedWait core ctx kind which = some (i, t) →
    c.st = .active → c.estop = false → s.coreInPart (ctxPart ctx) core = true →
    exec (.dependencyTimeout core ctx kind which) s = .next (((s.raise { src := 0x30, unit := core, ctx := some ctx, detail := kind
                                                                         info := packInfo 0 [(1, i), (4, t.toNat), (4, if kind = 4 then 0 else
                                                                           (s.counterOf ctx core i).toNat)] }).teardown ctx false).settle)) ∧
  (∀ (s : State) (ctx : Nat), s.isStopping ctx = true →
    exec (.preemptionDeadline ctx) s = .next ((s.ctxCores ctx).foldl (fun a k => a.deadlineOn ctx k) s).settle ∧
    (s.quiet ctx = true → exec (.contextStopped ctx) s =
      .next ((s.modCtx ctx fun c => { c with st := .stopped }).answer (fun w => w == .stop ctx) .ok).settle) ∧
    (∀ k tid, s.stuckOn ctx = some (k, tid) → exec (.stopTimeout ctx) s =
      .next (((s.raise { src := 0x17, unit := k, ctx := some ctx, info := tid }).answer (fun w => w == .stop ctx) .timeout).teardown ctx false).settle)) ∧
  (∀ (s : State) (ctx : Nat) (c : Context), s.ctx? ctx = some c → c.st = .dead →
    exec (.teardownComplete ctx) s = .next (({ s with
      chip.ctxs := Tab.erase s.chip.ctxs ctx
      chip.clients := Tab.adjust s.chip.clients c.client fun k => { k with running := k.running - 1 } } : State).answer
        (fun w => w == .teardown ctx) .ok).settle)) ∧
  (∀ (s : State) (seq : Nat) (r : Running), s.chip.hif.running.find? (fun r => r.seq == seq) = some r →
    (∀ ctx id g, r.await = .newSeg ctx id g →
      exec (.zeroingComplete seq) s = .next ((s.addSegment ctx id g).answerRun (fun x => x.seq == seq) .ok).settle) ∧
    (∀ e, r.await = .newLayout e →
      exec (.zeroingComplete seq) s = .next (((setBits 8 e).foldl State.zeroEighth s).answerRun (fun x => x.seq == seq) .ok).settle) ∧
    (∀ level, r.await = .zeroise level → exec (.zeroingComplete seq) s = .next (s.openDebug level).settle)) ∧
  (∀ (s : State) (st gid : Nat) (g : Group), s.group? st gid = some g → s.chip.hif.running.any (fun r => isLoad st gid r.await) = true →
    (g.outstanding = 0 → exec (.regenerationComplete st gid) s = .next (s.regenerate st gid g).settle) ∧
    (g.outstanding ≠ 0 → exec (.regenerationTimeout st gid) s = .next ((s.raise { src := 0x43, unit := st, ctx := some g.ctx, detail := g.set
                                                                                  info := packInfo 0 [(2, gid), (4, g.outstanding)] }).answer
      (isLoad st gid) .timeout).settle))

/-- An accepted submission entry takes its place in its core's queue and the entry is taken from the ring: a native TASK entry
(R463, R503), a Merzar Q1 entry after translation (R148), a descriptor that had to wait at the ring's head. -/
def Obligations.SubmissionEntriesPlaced : Prop :=
  (∀ (s : State) (fn ring : Nat) (r : SubRing) (e : List Byte) (c : Context), Tab.look (s.fn fn).sub ring = some r → r.q1 = false →
    r.err = false → r.checked = none → s.serving = true → r.head = some e → s.ringCtx r = some c → num e 0 1 ≠ 2 → s.entryHeaderOk r.ctx e = true →
    s.acceptCheck r.ctx c 2 (slice e 16 256) = none → s.mayHold (fld e 2 0 10) r.ctx = true →
    exec (.submissionTaskEntry fn ring) s = .next ((s.enqueue (fld e 2 0 10)
      { ctx := r.ctx, desc := slice e 16 256, origin := some (ring, r.cons % 2 ^ 16) }).takeEntry fn ring r)) ∧
  (∀ (s : State) (fn ring : Nat) (r : SubRing) (e : List Byte) (c : Context), Tab.look (s.fn fn).sub ring = some r → r.q1 = true →
    r.err = false → r.checked = none → s.serving = true → r.head = some e → s.ringCtx r = some c → num e 0 1 = 1 → s.entryHeaderOk r.ctx e = true →
    q1Ok (slice e 16 128) = true → s.coreInPart (ctxPart r.ctx) (qeng (slice e 16 128) / 4) = true →
    s.acceptCheck r.ctx c 0x12 (q1Translate (slice e 16 128)) = none → s.mayHold (qeng (slice e 16 128) / 4) r.ctx = true →
    exec (.q1SubmissionEntry fn ring) s = .next ((s.enqueue (qeng (slice e 16 128) / 4)
      { ctx := r.ctx, desc := q1Translate (slice e 16 128), origin := some (ring, r.cons % 2 ^ 16) }).takeEntry fn ring r)) ∧
  (∀ (s : State) (fn ring : Nat) (r : SubRing) (core : Nat) (d : List Byte) (c : Context), Tab.look (s.fn fn).sub ring = some r →
    s.serving = true → r.checked = some (core, d) → s.ringCtx r = some c → s.mayHold core r.ctx = true →
    exec (.queueEntryPlaced fn ring) s = .next ((s.enqueue core
      { ctx := r.ctx, desc := d, origin := some (ring, r.cons % 2 ^ 16) }).takeEntry fn ring r))

/-- A dispatched task whose checks all pass runs with what it latched (R116, R117); one whose header or mask words are poisoned (R162), or
that fails a check, ends so; ageing marks the oldest ready task of its
context (R464); a task with nothing left to do ends with OK, one that has failed ends with its status (R142, R143); a signal raises
its counter modulo 2^32 (R120).
Where it rests on choices of the model, these are log entries 111, 112, 113. -/
def Obligations.TasksRunAndEnd : Prop :=
  (∀ (s : State) (core ctx i : Nat) (t : Task) (c : Context) (x : Dispatch), s.chooseTask core = some (ctx, i, t) → s.ctx? ctx = some c →
    (∀ h, (s.countDispatch core t.ctx).readHeads core t.ctx c t.desc = (h, true) →
      exec (.taskDispatch core) s = .next (h.endFailed core i t .integrity 0 0 false).settle) ∧
    ∀ h, (s.countDispatch core t.ctx).readHeads core t.ctx c t.desc = (h, false) →
      ((s.countDispatch core t.ctx).dispatchChecks core t.ctx c t.desc t.images.isSome = .inl x →
        ∀ m bad, x.maskKey.elim (h, false) (fun k => h.isleRead core k 512) = (m, bad) → exec (.taskDispatch core) s = .next (if bad
          then m.endFailed core i t .integrity 0 0 false else m.setTask core i { t with stage := .running, run := some x.run }).settle) ∧
      ∀ f, (s.countDispatch core t.ctx).dispatchChecks core t.ctx c t.desc t.images.isSome = .inr f → exec (.taskDispatch core) s =
        .next ((f.fault.elim h h.raise).endFailed core i t f.status f.detail 0 false).settle) ∧
  (∀ (s : State) (core ctx i : Nat) (t : Task), (s.dispatchable core).find? (fun x => x.1 == ctx) = some (ctx, i, t) →
    exec (.dispatchAgeing core ctx) s = .next (s.setTask core i { t with aged := true })) ∧
  (∀ (s : State) (core i cycles : Nat) (t : Task) (r : Run) (c : Context), (s.core core).queue[i]? = some t → t.run = some r →
    s.ctx? t.ctx = some c → t.stage = .running ∨ t.stage = .stopping → r.fail = none → taskDone t.desc r = true →
    ∀ a r1, s.lastWork core t c r = (a, r1) →
      (∀ st d, r1.fail = some (st, d) →
        exec (.taskEnd core i cycles) s = .next (a.endFailed core i { t with run := some r1 } st d cycles false).settle) ∧
      (r1.fail = none → ∀ b r2, a.closeOuts core r1 = (b, r2) →
        (∀ st d, r2.fail = some (st, d) →
          exec (.taskEnd core i cycles) s = .next (b.endFailed core i { t with run := some r2 } st d cycles false).settle) ∧
        (r2.fail = none → exec (.taskEnd core i cycles) s = .next (b.endOk core i { t with run := some r2 } r2 cycles).settle))) ∧
  (∀ (s : State) (core i cycles : Nat) (t : Task) (r : Run) (c : Context) (st : Status) (d : Nat), (s.core core).queue[i]? = some t →
    t.run = some r → s.ctx? t.ctx = some c → t.stage = .running ∨ t.stage = .stopping → r.fail = some (st, d) →
    exec (.taskEnd core i cycles) s = .next (s.endFailed core i t st d cycles false).settle) ∧
  (∀ (s : State) (n : Nat) (g : Signal) (c : Context), s.chip.sigs[n]? = some g → s.ctx? g.ctx = some c →
    exec (.signalArrival n) s = .next ({ s with chip.sigs := s.chip.sigs.eraseIdx n }.setCtx g.ctx
      { c with cnt := Tab.set c.cnt 0#32 (g.core * 64 + g.idx) (c.counter g.core g.idx + BitVec.ofNat 32 g.inc) }))

/-- The work of a running task: a pass of an engine (R75, R79, R80, R87) with the weights of its active set, while those of the next pass
come into the shadow set; a weight row's parity, flipped accumulator bits and poisoned operands end it with INTEGRITY (R82, R160, R165);
the drain of its oldest waiting chunk (R92); the read and the write phase of a COPY's staged block, once every request of the phase is
answered, and what flipped bits of a staged word do (R166, R167, R252, R253).
Where it rests on choices of the model, these are log entries 9, 104, 110. -/
def Obligations.RunningTasksAdvance : Prop :=
  (∀ (s : State) (core e : Nat) (par : Option Nat) (ups : List (Nat × Nat)) (i : Nat) (t : Task) (r : Run) (p : Pos) (c : Context) (a b : Hdr × Nat),
    (s.core core).engineTask e = some (i, t, r, p) → s.ctx? t.ctx = some c → r.a = some a → r.b = some b → p.halted = false →
    r.fail = none → p.chunk < (blocksFor t.desc r e).length * chunksPer t.desc → passFree t.desc p = true →
    exec (.passEnd core e par ups) s =
      let bl := blocksFor t.desc r e
      let p1 := p.afterPass t.desc r.mask bl (t.stage == .stopping)
      let w0 := (s.upset core e ups).firstLoad core e c t.desc b bl p
      let rows := w0.1.feedRows core c t.desc a bl r p
      let run := rows.1.runPass core e t.ctx c t.desc a b bl p.chunk p.pass
      let w1 := run.1.nextLoad core e c t.desc b bl p1
      let row := if p.loaded && !p1.loaded then none else par
      .next ((w1.1.rowParity core e t row).setTask core i (t.settleStop
        { ((r.feed p).setPos p1).failWith (row.isSome || w0.2 || rows.2 || run.2.2 || w1.2) with flags := r.flags.or run.2.1 })).settle) ∧
  (∀ (s : State) (core e i : Nat) (t : Task) (r : Run) (p : Pos) (c : Context) (o : Nat) (rest : List Nat),
    (s.core core).engineTask e = some (i, t, r, p) → s.ctx? t.ctx = some c → p.drains = o :: rest → r.fail = none →
    exec (.chunkDrainEnd core e) s =
      let x := s.drainChunk core e t.ctx c t.desc (blocksFor t.desc r e) o r
      .next (x.1.setTask core i (t.settleStop (x.2.setPos
        { p with drains := rest, halted := p.halted || (t.stage == .stopping && !accSplit t.desc) }))).settle) ∧
  (∀ (s : State) (core i w fl : Nat) (t : Task) (r : Run) (c : Context) (a : Hdr × Nat) (o : OutTile), (s.core core).queue[i]? = some t →
    t.run = some r → s.ctx? t.ctx = some c → r.a = some a → r.outs.head? = some o → t.stage = .running → isCopy t.desc = true →
    r.fail = none → r.copyAt < o.hdr.count → (s.copyNeeds c t.desc r).length ≤ r.acks →
    (r.staged = none → (s.core core).staging = none → exec (.copyBlockEnd core i w fl) s =
      let x := s.copyRead core c t.desc r a o
      .next ((x.1.setTask core i { t with run := some { x.2 with issued := 0, acks := 0 } }).modCore core fun q =>
        { q with staging := if x.2.staged.isSome then some t.ctx else none }).settle) ∧
    ∀ stop vs, r.staged = some (stop, vs) →
      let s0 := s.modCore core fun q => { q with staging := none }
      let ends (x : State × Run) : State := (x.1.setTask core i { t with run := some { x.2 with issued := 0, acks := 0 } }).settle
      (fl = 0 → exec (.copyBlockEnd core i w fl) s = .next (ends (s0.copyWrite core t.desc r a o stop vs))) ∧
      (fl ≠ 0 → flips fl = 1 → exec (.copyBlockEnd core i w fl) s =
        .next (ends (((s0.modCore core fun q => { q with sce := satAdd 8 q.sce 1 }).raise
          { src := 0x23, unit := core, ctx := some t.ctx, info := w }).copyWrite core t.desc r a o stop vs))) ∧
      (fl ≠ 0 → flips fl ≠ 1 → exec (.copyBlockEnd core i w fl) s =
        .next (ends (((s0.modCore core fun q => { q with sue := satAdd 8 q.sue 1 }).raise
          { src := 0x24, unit := core, ctx := some t.ctx, info := packInfo 0 [(2, w), (2, taskId t.desc)] }).copyCut core t.desc r a o stop vs w))))

/-- The state mover and the scrubs: a table set comes into a free place of the activation unit, or into that of the victim, whose dirty
tables are written to its save area first, and its tables are read back where they were saved (R174); a stopped task whose engines
another context's task waits for is saved with the halves that hold its values, a saved one restored to idle engines and run on (R175);
a failed save or restore raises fault 0x25 and ends the waiting task with INTEGRITY (R176); a granted scrub gives a word fresh check bits,
an abandoned one only leaves the list (R161).
Where it rests on choices of the model, these are log entries 110, 144. -/
def Obligations.StateMoverAndScrubs : Prop :=
  (∀ (s s2 : State) (core ctx : Nat) (c : Context) (v : Option Resident) (errs : List (Nat × Nat)) (crc : Bool),
    (s.core core).resident.any (·.ctx == ctx) = false → (s.core core).needsSet ctx = true → s.ctx? ctx = some c →
    ((s.core core).resident.length < 4 ∧ v = none) ∨ (4 ≤ (s.core core).resident.length ∧ (s.core core).victim = v ∧ v ≠ none) →
    s2 = (v.elim s (s.evictTables core)).modCore core (fun a => { a with
      resident := (a.resident.filter fun r => v.map (·.ctx) != some r.ctx) ++ [{ ctx := ctx, used := Tab.get (s.core core).lastDisp 0 ctx }] }) →
    (∀ k, s2.saveArea core ctx = some k → s2.recordTset k = false → exec (.tableSetSwap core ctx ⟨errs, crc⟩) s = .next s2.settle) ∧
    ∀ k x f, s2.saveArea core ctx = some k → s2.recordTset k = true → s2.moverRead k [(k + 0x1000, 66048)] errs crc = (x, f) →
      exec (.tableSetSwap core ctx ⟨errs, crc⟩) s = .next (match f with
        | some cause => x.moverFail core ctx cause ((x.core core).oldest ctx)
        | none => x.modCtx ctx fun c => { c with tables :=
            (setBits 16 (s2.recordTloaded k)).foldl (fun m t => Tab.put m (core * 16 + t) (s2.rdN (k + 0x1000 + 4128 * t) 4128)) c.tables } : State).settle) ∧
  (∀ (s s0 x : State) (core ctx i k : Nat) (t : Task) (r : Run) (ups : List (Nat × Nat × Nat)) (bad : Bool), t.run = some r →
    ((List.range (s.core core).queue.length).zip (s.core core).queue).find? (fun p => p.2.ctx == ctx && p.2.stage == .stopped &&
      (s.engineWaiter core ctx (p.2.run.elim [] fun r => r.pos.map (·.eng))).isSome) = some (i, t) → s.saveArea core ctx = some k →
    s0 = ups.foldl (fun a u => a.upset core u.1 [u.2]) s →
    (r.heldList t.desc).foldl (fun (a : State × Bool) eh =>
      let y := a.1.readHalf core eh.1 eh.2 ctx (taskId t.desc); (y.1, a.2 || y.2)) (s0, false) = (x, bad) →
    (bad = true → exec (.stateSaveComplete core ctx ups) s =
      .next (x.moverFail core ctx 2 (x.engineWaiter core ctx (r.pos.map (·.eng)))).settle) ∧
    (bad = false → ∀ y, y = ((r.heldList t.desc).foldl (fun a eh => a.writeHalf core k eh.1 eh.2) x).setTask core i { t with stage := .saved } →
      exec (.stateSaveComplete core ctx ups) s = .next (y.storeRecord core ctx k (y.recordTset k) (y.recordTloaded k)).settle)) ∧
  (∀ (s x : State) (core ctx i k : Nat) (t : Task) (r : Run) (c : Context) (errs : List (Nat × Nat)) (crc : Bool) (f : Option Nat),
    t.run = some r → s.ctx? ctx = some c → c.st = .active →
    ((List.range (s.core core).queue.length).zip (s.core core).queue).find? (fun p => p.2.ctx == ctx && p.2.stage == .saved) = some (i, t) →
    s.saveArea core ctx = some k → r.pos.any (fun p => (s.core core).engineBusy p.eng) = false →
    s.moverRead k ((r.heldList t.desc).map fun eh => (halfKey k eh.1 eh.2, 0x8000)) errs crc = (x, f) →
    (f = none → exec (.stateRestoreComplete core ctx ⟨errs, crc⟩) s = .next (((r.heldList t.desc).foldl (fun a eh => a.readBack core k eh.1 eh.2 ctx
        (match r.a, r.b with
          | some a, some b => if a.1.fmt = .int8 then some (a.1.scale + b.1.scale) else none
          | _, _ => none)) x).setTask core i
      { t with stage := .running, run := some { r with pos := r.pos.map fun p => { p with halted := false, loaded := false } } }).settle) ∧
    (∀ cause, f = some cause → exec (.stateRestoreComplete core ctx ⟨errs, crc⟩) s = .next
      (let y := (x.raise { src := 0x25, unit := core, ctx := some t.ctx, detail := cause, info := taskId t.desc }).endCycles t
       y.1.endFailed core i t .integrity 0 y.2 false).settle)) ∧
  (∀ (s : State) (core word n : Nat), Tab.look (s.core core).scrubs word = some n →
    exec (.isleScrubWrite core word) s = .next { (s.wakeBanks core [4 * word]).modCore core (fun q => { q with scrubs := Tab.erase q.scrubs word }) with
      chip.isleErr := Tab.set ((s.wakeBanks core [4 * word]).modCore core (fun q => { q with scrubs := Tab.erase q.scrubs word })).chip.isleErr 0 word 0 }) ∧
  (∀ (s : State) (core word : Nat), exec (.scrubAbandon core word) s = .next (s.modCore core fun q => { q with scrubs := Tab.erase q.scrubs word }))

/-- Arms and requests: an ARM entry that passes its checks becomes the slot's current or shadow arm and is taken from the ring, one
that fails gets a stream record with detail 48 plus the check (R183, R184, R504); the stream engine issues the request of the slot, or of
the COPY channel, that R205 to R208 choose under the lowest free tag; a background channel that could issue is marked as aged.
Where it rests on choices of the model, these are log entries 50, 52, 111, 112, 152, 153. -/
def Obligations.ArmsAcceptedAndIssued : Prop :=
  (∀ (s : State) (fn ring : Nat) (r : SubRing) (e : List Byte) (c : Context), Tab.look (s.fn fn).sub ring = some r → r.q1 = false →
    r.err = false → r.checked = none → s.serving = true → r.head = some e → s.ringCtx r = some c → num e 0 1 ≠ 1 → s.entryHeaderOk r.ctx e = true →
    zeroRange e 80 192 = true → s.armCheck (fld e 2 0 10) r.ctx c (slice e 16 64) = none →
    exec (.submissionArmEntry fn ring) s =
      .next (((s.takeArm (fld e 2 0 10) r.ctx (slice e 16 64) (some (ring, r.cons % 2 ^ 16))).takeEntry fn ring r).settle)) ∧
  (∀ (s : State) (fn ring : Nat) (r : SubRing) (e : List Byte) (c : Context) (n : Nat) (st : Status), Tab.look (s.fn fn).sub ring = some r →
    r.q1 = false → r.err = false → r.checked = none → s.serving = true → r.head = some e → s.ringCtx r = some c → num e 0 1 ≠ 1 →
    s.entryHeaderOk r.ctx e = true → zeroRange e 80 192 = true → s.armCheck (fld e 2 0 10) r.ctx c (slice e 16 64) = some (n, st) →
    exec (.submissionArmEntry fn ring) s = .next (((s.post r.ctx
      (streamRecord (adArmid (slice e 16 64)) st (fld e 2 0 10) (48 + n) 0 (adSid (slice e 16 64)) r.ctx)
      (some (ring, r.cons % 2 ^ 16))).takeEntry fn ring r).settle)) ∧
  (∀ (s : State) (core ctx k tag : Nat) (x : Cand) (a : Arm) (pr : Prep) (r : Req) (ts : List Nat),
    s.mcastDiffers core = none →
    (s.candidates core).find? (fun x => x.2.2.2.moved && x.2.2.2.req.isNone) = none →
    chooseCand (s.core core).rr (s.cands core) = some x → x.act = .inl (ctx, pr) →
    pr.req = some (k, r) → (pr.s.slot? core x.sid).bind (·.cur) = some a → (pr.s.core core).freeTags = tag :: ts →
    exec (.streamIssue core) s = .next (pr.s.issueReq core x.sid ctx a k r tag).settle) ∧
  (∀ (s : State) (core i b tag : Nat) (x : Cand) (ts : List Nat), s.mcastDiffers core = none →
    (s.candidates core).find? (fun x => x.2.2.2.moved && x.2.2.2.req.isNone) = none →
    chooseCand (s.core core).rr (s.cands core) = some x → x.act = .inr (i, b) → (s.core core).freeTags = tag :: ts →
    exec (.streamIssue core) s = .next (s.issueCopy core i tag b).settle) ∧
  (∀ (s : State) (core sid : Nat) (x : Cand), (s.cands core).find? (fun x => x.sid == sid && !x.rated) = some x →
    (∀ ctx pr a, x.act = .inl (ctx, pr) → (s.slot? core sid).bind (·.cur) = some a →
      exec (.backgroundAgeing core sid) s = .next (s.setArm core sid { a with bgWait := true })) ∧
    (∀ i b, x.act = .inr (i, b) →
      exec (.backgroundAgeing core sid) s = .next (s.modCore core fun q => { q with copyWait := true })))

/-- What reaches a stream engine (R198, R203): a response of a stale generation is discarded and counted; one of the tag's generation
frees the tag, and a failed request ends its arm, an index response fills the index queue (R210), a data response fills the tile's slot;
an unanswered tag is abandoned, raises fault 0x31 and ends its arm with TIMEOUT 18 (R204); a quarantined tag becomes usable again.
An answer to the COPY channel is counted, and its unanswered request is issued again (R200).
Where it rests on choices of the model, these are log entries 42, 49, 95, 152. -/
def Obligations.ResponsesAndTags : Prop :=
  (∀ (s : State) (core tag gen : Nat) (p : Resp), s.chip.resps.find? (fun p => p.core == core && p.tag == tag && p.gen == gen) = some p →
    (((s.core p.core).tag p.tag).req = none ∨ ((s.core p.core).tag p.tag).gen ≠ p.gen) →
    exec (.streamResponse core tag gen) s = .next (({ s with chip.resps := s.chip.resps.erase p } : State).staleResp p.core p.sid).settle) ∧
  (∀ (s : State) (core tag gen : Nat) (p : Resp) (o : Outst) (a : Arm) (sl : Slot) (f : State),
    s.chip.resps.find? (fun p => p.core == core && p.tag == tag && p.gen == gen) = some p →
    ((s.core p.core).tag p.tag).req = some o → ((s.core p.core).tag p.tag).gen = p.gen →
    f = ({ s with chip.resps := s.chip.resps.erase p } : State).modCore p.core (fun q => { q with tags := Tab.set q.tags {} p.tag { gen := p.gen, req := none } }) →
    o.sid ≠ copySid → f.slot? p.core o.sid = some sl → sl.cur = some a → sl.ctx = o.ctx → a.seq = o.seq →
    (p.status ≠ .ok → exec (.streamResponse core tag gen) s = .next (f.failArm p.core o.sid p.status p.detail).settle) ∧
    (p.status = .ok → o.req.kind = .index →
      exec (.streamResponse core tag gen) s = .next (f.setArm p.core o.sid (a.indexResp p.data)).settle) ∧
    (∀ x, p.status = .ok → o.req.kind = .data → Tab.look a.tiles o.tile = some x → adOut a.desc = false →
      exec (.streamResponse core tag gen) s =
        .next (f.dataResp p.core o.sid o.ctx a o.tile { x with live := x.live - 1 } o.req p.data).settle) ∧
    (∀ x, p.status = .ok → o.req.kind = .head → Tab.look a.tiles o.tile = some x →
      exec (.streamResponse core tag gen) s = .next (f.headResp p.core o.sid o.ctx a o.tile { x with live := x.live - 1 } p.data).settle)) ∧
  (∀ (s : State) (core tag gen : Nat) (p : Resp) (o : Outst), s.chip.resps.find? (fun p => p.core == core && p.tag == tag && p.gen == gen) = some p →
    ((s.core p.core).tag p.tag).req = some o → ((s.core p.core).tag p.tag).gen = p.gen → o.sid = copySid →
    exec (.streamResponse core tag gen) s = .next ((({ s with chip.resps := s.chip.resps.erase p } : State).modCore p.core
      (fun q => { q with tags := Tab.set q.tags {} p.tag { gen := p.gen, req := none } })).copyResp p.core o.ctx).settle) ∧
  (∀ (s : State) (core tag i : Nat) (o : Outst) (t : Task) (r : Run), ((s.core core).tag tag).req = some o → o.sid = copySid →
    ((s.abandon core fun t _ => t == tag).core core).copyTask = some (i, t, r) → t.ctx = o.ctx →
    exec (.tagTimeout core tag) s =
      .next ((s.abandon core fun t _ => t == tag).setTask core i { t with run := some { r with issued := r.issued - 1 } }).settle) ∧
  (∀ (s : State) (core tag : Nat) (o : Outst) (sl : Slot) (a : Arm), ((s.core core).tag tag).req = some o → o.sid ≠ copySid →
    (s.abandon core fun t _ => t == tag).slot? core o.sid = some sl → sl.cur = some a → a.seq = o.seq → sl.ctx = o.ctx →
    exec (.tagTimeout core tag) s = .next (((s.abandon core fun t _ => t == tag).raise
      { src := 0x31, unit := core, ctx := some o.ctx, detail := o.sid, info := packInfo 0 [(2, adArmid a.desc), (4, o.tile)] }).failArm core o.sid .timeout 18).settle) ∧
  (∀ (s : State) (core tag : Nat), exec (.tagQuarantineEnd core tag) s =
    .next (s.modCore core fun q => { q with tags := Tab.set q.tags {} tag { q.tag tag with quarantine := false } }))

/-- Multicast and versions: a credit flit raises the credits its leader's MCAST arm holds for the member and reports its slack (R206,
R214); a multicast header is checked and written as pending, a tile is written behind it and completes a tile of the member's arm, one
that the member has complete already is passed over (R215, R216, R226); the NMU's answer gives an arm the slot that holds its epoch, or
ends it with STATE 20 (R290).
Where it rests on choices of the model, these are log entries 49. -/
def Obligations.MulticastAndVersions : Prop :=
  (∀ (s : State) (group member sid : Nat) (g : McastGroup) (fl : McastCredit) (a : Arm), Tab.look s.chip.mcast group = some g →
    s.chip.credits.find? (fun x => x.group == group && x.member == member) = some fl → s.mcastSlot g.leader g.ctx group = some (sid, a) →
    a.effect = true → adKind a.desc = 5 →
    exec (.mcastCredit group member) s = .next (({ s with chip.credits := s.chip.credits.erase fl } : State).setArm g.leader sid
      { a with credits := Tab.put a.credits member (max (fl.tile + 1) (Tab.get a.credits 0 member)), slacks := Tab.put a.slacks member fl.slack })) ∧
  (∀ (s f : State) (group member sid : Nat) (g : McastGroup) (t : McastTile) (a : Arm), Tab.look s.chip.mcast group = some g →
    s.chip.mtiles.find? (fun x => x.group == group && x.member == member) = some t → f = { s with chip.mtiles := s.chip.mtiles.erase t } →
    f.mcastSlot member g.ctx group = some (sid, a) →
    ((t.tile < a.sig ∨ t.tile ∈ a.done) → exec (.mcastTileArrival group member) s = .next f.settle) ∧
    (¬(t.tile < a.sig ∨ t.tile ∈ a.done) →
      (∀ e, hdrCheck (f.ctxOk (ctxPart g.ctx)) (slice t.bytes 0 16) = some e → exec (.mcastTileArrival group member) s =
        .next ((f.headerFault member g.ctx e (a.slotCva t.tile)).mcastFail g.ctx group a.led .integrity e).settle) ∧
      (∀ h w v, h = Hdr.parse (slice t.bytes 0 16) → hdrCheck (f.ctxOk (ctxPart g.ctx)) (slice t.bytes 0 16) = none → h.total ≤ adSlotBytes a.desc →
        w = f.ringWrite member (a.slotKey t.tile) 0 (if t.head then h.pendingBytes else h.pendingBytes ++ t.bytes.drop 16) → w.2 = false →
        v = w.1.ringWrite member (a.slotKey t.tile) 0 (slice t.bytes 0 16) →
        (t.head = true → exec (.mcastTileArrival group member) s = .next w.1.settle) ∧
        (t.head = false → v.2 = false →
          exec (.mcastTileArrival group member) s = .next (v.1.tileDone member sid g.ctx a t.tile h.total).settle)))) ∧
  (∀ (s : State) (core sid st gid : Nat) (sl : Slot) (a : Arm) (g : Group), s.slot? core sid = some sl → sl.cur = some a → a.resolving = true →
    a.vgrp = some (st, gid) → s.group? st gid = some g →
    (∀ v, g.resolve (adEpoch a.desc) = some v → exec (.versionResolution core sid) s =
      .next (s.setArm core sid { a with resolving := false, vslot := some v, voff := v * g.vsize }).settle) ∧
    (g.resolve (adEpoch a.desc) = none → exec (.versionResolution core sid) s =
      .next ((s.setArm core sid { a with resolving := false }).failArm core sid .state 20).settle))

/-- The mesh's oldest request for a core's Isle is granted: a read answers the bytes, a write stores exactly its bytes and cancels the
scrubs of its words, where no word it touches has flipped bits; a read that meets a word with two or more, or a write that drops bytes at
one, is answered INTEGRITY 17; a request of another partition's context only raises fault 0x22 (R152, R156, R160 to R163, R170). -/
def Obligations.IsleAccesses : Prop :=
  (∀ (s : State) (core : Nat) (fl : List (Nat × Nat)), exec (.isleAccess core fl) s = exec (.isleAccess core [])
    (s.flipWords (fl.filter fun x => decide (isleBase core ≤ 4 * x.1) && decide (4 * x.1 < isleBase core + isleBytes)))) ∧
  (∀ (s f : State) (core : Nat) (m : MReq) (ks : List Nat) (p : Resp),
    let answered (x : State) (r : Resp) : State := { x with chip.resps := x.chip.resps ++ [r] }
    s.chip.mesh.find? (fun m => !m.toStack && m.dst == core) = some m →
    f = { s with chip.mesh := s.chip.mesh.erase m } → ctxPart m.req.ctx = partOf s.chip.start (eighthOfCore core) →
    ks = (List.range m.req.data.length).map (m.req.addr + ·) →
    p = { core := m.req.core, sid := m.req.sid, tag := m.req.tag, gen := m.req.gen, data := [] } →
    (m.req.write = false → s.isleErrs m.req.addr m.req.len = [] → exec (.isleAccess core []) s =
      .next (answered (f.wakeBanks core (lineKeys m.req.addr m.req.len)) { p with data := s.rdN m.req.addr m.req.len }).settle) ∧
    (m.req.write = true → s.isleErrs m.req.addr m.req.data.length = [] → exec (.isleAccess core []) s =
      .next (answered (((f.wakeBanks core ks).wrN m.req.addr m.req.data).modCore core fun q =>
        { q with scrubs := q.scrubs.filter fun w => !ks.any fun k => k / 4 == w.1 }) p).settle) ∧
    (∀ e, m.req.write = false → e ∈ s.isleErrs m.req.addr m.req.len → 2 ≤ flips e.2 → exec (.isleAccess core []) s =
      .next (answered (f.isleRead core m.req.addr m.req.len).1 { p with status := .integrity, detail := 17 }).settle) ∧
    (m.req.write = true → (f.isleWrite core m.req.addr m.req.data).2 = true → exec (.isleAccess core []) s =
      .next (answered (f.isleWrite core m.req.addr m.req.data).1 { p with status := .integrity, detail := 17 }).settle)) ∧
  (∀ (s : State) (core : Nat) (m : MReq), s.chip.mesh.find? (fun m => !m.toStack && m.dst == core) = some m →
    ctxPart m.req.ctx ≠ partOf s.chip.start (eighthOfCore core) →
    exec (.isleAccess core []) s = .next (({ s with chip.mesh := s.chip.mesh.erase m } : State).raise
      { src := 0x22, unit := core, info := ctxPart m.req.ctx }).settle)

/-- Requests at a stack: the oldest one of a core enters the ingress store and wakes NMU and DRAM (R571); the oldest whose bank has room in the window, and that no
earlier one still waiting for admission touches, is admitted, its data being pulled, a write of whole sectors being acknowledged then
(R273, R275); the bank's chosen entry is served: a read without sectors in error answers the stored bytes and serves the reads that
arrived later, a write stores exactly its bytes (R274, R275, R278), an ACCUM request adds (R312); a refresh changes no data (R255).
Where it rests on choices of the model, these are log entries 51, 53, 110, 111, 127, 156, 157. -/
def Obligations.StackRequestsServed : Prop :=
  (∀ (s : State) (st core : Nat) (m : MReq), s.chip.mesh.find? (fun m => m.forStack st && m.req.core == core) = some m →
    exec (.nmuRequestArrival st core) s = .next (({ s with chip.mesh := s.chip.mesh.erase m } : State).modNmu st fun n =>
      { n.awake with ingress := n.ingress ++ [{ m.req with arr := n.events }], events := n.events + 1 })) ∧
  (∀ (s : State) (st i : Nat) (r : NReq) (x : State × Option NReq × Bool), (s.nmu st).window.length < 4096 →
    ((List.range (s.nmu st).ingress.length).zip (s.nmu st).ingress).find? (fun p =>
      decide (((s.nmu st).window.filter fun w => bankIndex w.addr == bankIndex p.2.addr).length < 32) &&
        !((s.nmu st).ingress.take p.1).any fun e => e.conflicts p.2) = some (i, r) →
    x = (s.modNmu st fun m => { m with ingress := m.ingress.erase r }).pull r →
    (x.2.1 = none → exec (.sorterAdmit st) s = .next (if x.2.2 then x.1.reply r .integrity 17 [] else x.1).settle) ∧
    (∀ r1 ack, x.2.1 = some r1 → ack = (r1.write && r1.accum.isNone && r1.whole) →
      let t := x.1.modNmu st fun m => { m with window := m.window ++ [{ r1 with acked := ack, adm := m.events }], events := m.events + 1 }
      exec (.sorterAdmit st) s = .next (if ack then t.reply r1 .ok 0 [] else t).settle)) ∧
  (∀ (s : State) (st ch pc bank aged : Nat) (errs : List (Nat × Nat)) (r : NReq), (s.nmu st).pick (ch * 128 + pc * 64 + bank) aged = some r →
    exec (.bankService st ch pc bank aged errs) s =
      exec (.bankService st ch pc bank aged []) (s.flipSectors (errs.filter fun e => s.reach r e.1))) ∧
  (∀ (s t : State) (st ch pc bank aged : Nat) (r : NReq), (s.nmu st).pick (ch * 128 + pc * 64 + bank) aged = some r →
    t = s.modNmu st (fun n => { n with window := n.window.erase r, open_ := Tab.put n.open_ (bankIndex r.addr) (dramRow r.addr) }) →
    (r.accum = none → r.comp = false → r.write = false → (∀ m ∈ r.sectors, s.sectorErrs (32 * m) 32 = [] ∧ Tab.look r.met m ≠ some true) →
      exec (.bankService st ch pc bank aged []) s =
        .next ((t.reply r .ok 0 (s.rdN r.addr r.len)).shareRead st r (r.sectors.map fun m => (m, false))).settle) ∧
    (r.accum = none → r.comp = false → r.write = true → s.sectorErrs r.addr r.data.length = [] →
      exec (.bankService st ch pc bank aged []) s =
        .next (if r.acked then t.wrN r.addr r.data else (t.wrN r.addr r.data).reply r .ok 0 []).settle) ∧
    (∀ a, r.accum = some a → exec (.bankService st ch pc bank aged []) s = .next (t.serveAccum r a).settle)) ∧
  (∀ (s : State) (st : Nat), exec (.dramRefresh st) s = .next (s.modNmu st fun n => { n with refresh := n.refresh + 1 }))

/-- A staged update (R302 to R305): once every claim is granted and nothing holds the gradients, step 2 begins; a set still in step 1 after STMO ends STAGED with ERR and TIMEOUT, each waiting claim raising fault 0x43 (the detail of the
ERR is a free value, place 18 of log 1); the kernels run and the set is STAGED; the oldest waiting format refresh runs (R337).
Where it rests on choices of the model, these are log entries 1, 4, 35, 38, 39, 41, 95, 129. -/
def Obligations.UpdatesStaged : Prop :=
  (∀ (s : State) (part set : Nat) (x : OptSet), s.set? part set = some x → x.st = .staging → x.kernels = false →
    s.loading part set = false →
    s.claimsGranted part set = true → s.held part (s.gradRanges part set) = false →
    exec (.stageClaimsGranted part set) s =
      .next (((s.modSet part set fun y => { y with kernels := true }).serveAll).settle)) ∧
  (∀ (s : State) (part set : Nat) (x : OptSet) (p : Nat × Nat × Group) (ps : List (Nat × Nat × Group)), s.set? part set = some x →
    x.st = .staging → x.kernels = false →
    ((s.setGroups part set).filter fun p => (p.2.2.slot p.2.2.target).claimed) = p :: ps →
    exec (.stageTimeout part set) s = .next (((p :: ps).foldl (fun (a : State) p => a.raise { src := 0x43, unit := p.1, ctx := some p.2.2.ctx
                                                                                              detail := set
                                                                                              info := packInfo 0 [(2, p.2.1), (4, (p.2.2.slot p.2.2.target).count)] })
      ((s.draw 18).1.modSet part set fun y => y.noteErr .timeout ((s.draw 18).2 % 256) p.2.1 p.1)).modSet part set fun y => { y with st := .staged, kernels := false }).settle) ∧
  (∀ (s : State) (part set : Nat) (x : OptSet), s.set? part set = some x → x.st = .staging → x.kernels = true →
    exec (.stageKernelsEnd part set) s = .next (s.serveAll.runKernels part set).settle) ∧
  (∀ (s : State) (part set : Nat), exec (.formatRefresh part set) s = .next (s.serveAll.refreshSet part set).settle)

/-- Migration and deletion (R267, R268): once nothing holds the segment, a deletion drops it with its frames and is answered OK, a
migration begins to copy; one that waits too long is answered TIMEOUT with MIG cleared; a copy that ends swaps the entry, keeping RD and
WR, and zeroes the old frames; one that met an uncorrectable byte ends with INTEGRITY and changes no placement.
Where it rests on choices of the model, these are log entries 3, 19, 32. -/
def Obligations.MigrationsRun : Prop :=
  (∀ (s : State) (ctx seg : Nat) (w : Await), s.mover? ctx seg = some w → s.segHeld ctx seg = false →
    (w = .delete ctx seg →
      exec (.migrationHoldersEnded ctx seg) s = .next ((s.dropSegment ctx seg).answer (· == w) .ok).settle) ∧
    (∀ n, w = .migrate ctx seg n 0 → exec (.migrationHoldersEnded ctx seg) s = .next (s.reawait w (.migrate ctx seg n 1)).settle)) ∧
  (∀ (s : State) (ctx seg : Nat) (n : Segment), s.mover? ctx seg = some (.migrate ctx seg n 0) →
    exec (.migrationTimeout ctx seg) s = .next ((s.modCtx ctx fun c =>
      { c with segs := Tab.adjust c.segs seg fun g => { g with mig := false } }).answer (· == .migrate ctx seg n 0) .timeout).settle) ∧
  (∀ (s : State) (ctx seg : Nat) (n g : Segment) (c : Context), s.serveAll.mover? ctx seg = some (.migrate ctx seg n 1) →
    s.serveAll.ctx? ctx = some c → Tab.look c.segs seg = some g →
    let x := (s.serveAll.zeroAll (n.keyRuns ++ n.metaRuns)).copySegment g n
    (x.2 = false → exec (.migrationCopyComplete ctx seg) s = .next ((((x.1.modCtx ctx fun c =>
        { c with segs := Tab.put c.segs seg { n with rd := g.rd, wr := g.wr, mig := false } }).answer (· == .migrate ctx seg n 1) .ok).zeroOld g).settle)) ∧
    (x.2 = true → exec (.migrationCopyComplete ctx seg) s = .next (x.1.moveFails ctx seg (.migrate ctx seg n 1) .integrity).settle))

/-- Training (R362, R363, R382): an intact control field is taken in by its lane and the lane answers with its own, and a step is left
once its condition holds; a step that takes too long ends as R363 says for it; the wait of step 8 leads back to DETECT; a fast retrain
that takes too long loses the link (R383).
Where it rests on choices of the model, these are log entries 2, 96, 107, 160. -/
def Obligations.LinksTrain : Prop :=
  (∀ (s : State) (n lane ctl : Nat) (rx : LaneRx) (rdy pre : Bool) (preset ask : Nat) (p q : Port), n < 16 → lane < 8 → p = s.port n →
    p.st = .detect ∨ p.st = .lock ∨ p.st = .eq ∨ p.st = .retrain →
    (frameOk ctl = true → q = p.setLane lane ((p.lane lane).frame p.st ctl rx.flip rx.locked rdy pre)) → (frameOk ctl = false → q = p) →
    exec (.trainingFrame n lane ctl rx rdy pre preset ask) s = .next ((((s.setPort n
      (q.setLane lane { q.lane lane with ask := preset % 4 * 2 ^ 10 + ask % 2 ^ 10 })).sendFrame n lane).trainStep n).settle)) ∧
  (∀ (s : State) (n : Nat) (p : Port), n < 16 → p = s.port n → p.fast = false →
    (p.st = .detect → exec (.trainingTimeout n) s = .next (s.setPort n { p with st := .noPartner }).settle) ∧
    (p.st = .lock → exec (.trainingTimeout n) s =
      .next ((s.setPort n { p.spoil (fun x => !x.locked) with st := .eq }).sendFrames n).settle) ∧
    (p.st = .eq → exec (.trainingTimeout n) s =
      .next ((s.setPort n (p.spoil fun x => !(x.rdySent && x.rdyRcvd))).chooseWidth n).settle) ∧
    (p.st = .align → exec (.trainingTimeout n) s = .next (s.trainingFails n 5).settle) ∧
    (p.st = .config → exec (.trainingTimeout n) s = .next (s.trainingFails n 6).settle)) ∧
  (∀ (s : State) (n : Nat), n < 16 → (s.port n).st = .wait ∨ (s.port n).st = .noPartner →
    exec (.trainingWaitEnd n) s = .next (s.detect n)) ∧
  (∀ (s : State) (n : Nat), n < 16 → (s.port n).fast = true →
    (s.port n).st = .retrain ∨ (s.port n).st = .align ∨ (s.port n).st = .config →
    exec (.fastRetrainTimeout n) s = .next (s.loseLink n).settle)

/-- Codewords (R358, R361, R387): in ALIGN the 64th good codeword in sequence leads to CONFIG, a good one out of sequence is the first of a
new one, an uncorrectable one ends it; in CONFIG and ACTIVE corrected symbols are charged to their lanes, uncorrectable codewords are
counted and fail every flit with a bit in them, and eight uncorrectable ones in a row, or four of eight with an unexpected count, start
a fast retrain; a codeword with more than 15 errors is uncorrectable.
Where it rests on choices of the model, these are log entries 106, 107, 108. -/
def Obligations.CodewordsCounted : Prop :=
  (∀ (s : State) (n ctl : Nat) (cor : List Nat) (bad : Bool), correctedOk cor = false →
    exec (.codeword n ctl cor bad) s = exec (.codeword n ctl [] true) s) ∧
  (∀ (s : State) (n ctl : Nat) (cor : List Nat) (bad : Bool) (p : Port), n < 16 → p = s.port n → p.st = .align → correctedOk cor = true →
    (bad = true → exec (.codeword n ctl cor bad) s =
      .next (s.setPort n { p.charge cor true with cwGood := 0, cwNum := p.cwNum + 1 }).settle) ∧
    (bad = false → 0 < p.cwGood → ctl % 4096 = p.cwNum % 4096 →
      let q := { p.charge cor false with cwGood := p.cwGood + 1, cwNum := p.cwNum + 1 }
      exec (.codeword n ctl cor bad) s = .next (if 64 ≤ p.cwGood + 1 then
        (s.setPort n { q with rxFlit := cwFirst (p.cwNum + 1), spoilt := [] }).enterConfig n else s.setPort n q).settle) ∧
    (bad = false → p.cwGood = 0 ∨ ctl % 4096 ≠ p.cwNum % 4096 → exec (.codeword n ctl cor bad) s =
      .next (s.setPort n { ({ p with cwNum := ctl % 4096 } : Port).charge cor false with cwGood := 1, cwNum := ctl % 4096 + 1 }).settle)) ∧
  (∀ (s : State) (n ctl : Nat) (cor : List Nat) (bad : Bool) (p : Port) (hist : List (Bool × Bool)), n < 16 → p = s.port n →
    p.st = .config ∨ p.st = .active → correctedOk cor = true →
    hist = ((p.cwHist ++ [(bad, !bad && ctl % 4096 != p.cwNum % 4096)]).reverse.take 8).reverse →
    let t := s.setPort n { p.charge cor bad with
      spoilt := if bad then p.spoilt ++ (cwFlits p.cwNum).filter fun f => decide (p.rxFlit ≤ f) && !p.spoilt.contains f else p.spoilt
      cwHist := hist, cwNum := p.cwNum + 1 }
    exec (.codeword n ctl cor bad) s =
      .next (if (hist.length = 8 ∧ hist.all (·.1)) ∨ 4 ≤ (hist.filter (·.2)).length then t.fastRetrain n false else t).settle)

/-- What a received flit does on an ACTIVE port (R369, R370): its acknowledgement and credit fields are taken, and an intact DATA flit
that carries the expected SEQ puts its 240 bytes behind the stream of its channel; one that fails its check, or that an uncorrectable
codeword failed (R361), is counted and starts the recovery; a channel's buffer is released once its bytes have been taken (R376, R377).
Where it rests on choices of the model, these are log entries 108, 109. -/
def Obligations.FlitsReceived : Prop :=
  (∀ (s u t : State) (n : Nat) (f : List Byte) (p : Port), n < 16 → p = s.port n → p.st = .active → num f 248 8 = crc64 (slice f 0 248) →
    fld f 0 12 4 = 1 → p.rxFlit ∉ p.spoilt → u = s.setPort n p.nextFlit.1 →
    t = u.fieldsIn n f → (t.port n).st = .active → fld f 0 0 12 = (t.port n).rxX →
    let q := t.port n
    let v := fld f 6 0 3
    exec (.flitReceive n f false) s = .next (t.setPort n { q with
      rxX := (q.rxX + 1) % 4096, recovering := false
      rx := Tab.set q.rx [] v (Tab.get q.rx [] v ++ slice f 8 240), heldBuf := q.heldBuf.set v (q.heldBuf.getD v 0 + 1) }).settle) ∧
  (∀ (s u : State) (n : Nat) (f : List Byte) (failed : Bool) (p : Port), n < 16 → p = s.port n → p.st = .active → u = s.setPort n p.nextFlit.1 →
    failed = true ∨ num f 248 8 ≠ crc64 (slice f 0 248) ∨ p.rxFlit ∈ p.spoilt →
    exec (.flitReceive n f failed) s =
      .next ((u.modPort n fun q => { q with crcerr := satAdd 32 q.crcerr 1 }).modPort n Port.flitError).settle) ∧
  (∀ (s : State) (n vc h : Nat), n < 16 → vc < 8 → (s.port n).heldBuf.getD vc 0 = h + 1 → (Tab.get (s.port n).rx [] vc).length ≤ 240 * h →
    exec (.creditRelease n vc) s = .next (s.setPort n { s.port n with
      heldBuf := (s.port n).heldBuf.set vc h, freed := (s.port n).freed.set vc (((s.port n).freed.getD vc 0 + 1) % 4096) }))

/-- Messages (R384, R385): an in-order RETRAIN starts a fast retrain of at most the width it names, unless it crossed this end's own (R390),
DOWN leads to WAIT with everything held dropped, ECHO_REQ queues an ECHO_RSP with the same eight bytes, ECHO_RSP changes nothing more; in
CONFIG the partner's CONFIG is taken in, and one of another version fails the training at step 6 or loses the link of a fast retrain.
Where it rests on choices of the model, these are log entries 106, 109. -/
def Obligations.MessagesActedOn : Prop :=
  (∀ (s t u : State) (n : Nat) (f : List Byte) (p : Port), n < 16 → p = s.port n → p.st = .active → num f 248 8 = crc64 (slice f 0 248) →
    fld f 0 12 4 = 2 → p.rxFlit ∉ p.spoilt →
    t = (s.setPort n p.nextFlit.1).fieldsIn n f → (t.port n).st = .active → fld f 0 0 12 = (t.port n).rxX →
    u = t.modPort n (fun q => { q with rxX := (q.rxX + 1) % 4096, recovering := false }) →
    (num f 8 1 = 2 → exec (.retrain n f false) s = .next (if (t.port n).crossed then u.modPort n fun q => { q with crossed := false }
      else u.fastRetrain n true (num (slice f 8 240) 1 1)).settle) ∧
    (num f 8 1 = 3 → exec (.down n f false) s = .next (u.modPort n fun p =>
      { p with st := .wait, fast := false, down := true, buf := [], ctrl := [], replayAt := none, replayFrom := none, streak := 0 }).settle) ∧
    (num f 8 1 = 4 → exec (.echoReq n f false) s = .next (u.modPort n fun p =>
      { p with ctrl := p.ctrl ++ [leBytes 1 5 ++ List.replicate 7 0#8 ++ slice (slice f 8 240) 8 8] }).settle) ∧
    (num f 8 1 = 5 → exec (.echoRsp n f false) s = .next u.settle)) ∧
  (∀ (s u : State) (n : Nat) (f : List Byte) (p : Port), n < 16 → p = s.port n → p.st = .config → num f 248 8 = crc64 (slice f 0 248) →
    fld f 0 12 4 = 2 → num f 8 1 = 1 → p.rxFlit ∉ p.spoilt → u = s.setPort n p.nextFlit.1 →
    (num (slice f 8 240) 1 1 ≠ 1 → exec (.config n f false) s = .next (if p.fast then u.loseLink n else u.trainingFails n 6).settle) ∧
    (num (slice f 8 240) 1 1 = 1 → exec (.config n f false) s = .next (u.configIn n (slice f 8 240)).settle))

/-- What an ACTIVE port sends: the next flit of a replay with current fields (R372), else the oldest waiting message, else a DATA flit of
channel 6, 7, or 0 to 5 in turn (R375); in CONFIG its CONFIG; after 32 idle flit times an IDLE flit (R371); 4 µs after the oldest flit
what a NAK for it does (R372); a repeated NAK (R370). -/
def Obligations.FlitsSent : Prop :=
  (∀ (s : State) (n : Nat) (p : Port), n < 16 → p = s.port n → p.st = .active →
    (∀ i f, p.replayAt = some i → p.buf[i]? = some f → exec (.flitTransmit n) s =
      .next ((s.setPort n { p with replayAt := if i + 1 < p.buf.length then some (i + 1) else none }).resend n f.2)) ∧
    (∀ m ms, p.replayAt = none → p.buf.length < 2048 → p.ctrl = m :: ms → exec (.flitTransmit n) s =
      .next ((s.setPort n { p with ctrl := ms }).sendSequenced n 2 0 0 m)) ∧
    (∀ v, p.replayAt = none → p.buf.length < 2048 → p.ctrl = [] → p.draining = false →
      (([6, 7] : List Nat) ++ (List.range 6).map fun i => (p.rr + i) % 6).find? p.canSend = some v →
      exec (.flitTransmit n) s = .next (s.sendData n v)) ∧
    exec (.idleFlitTimer n) s = .next (s.sendUnsequenced n 0 []) ∧
    (∀ f fs, p.buf = f :: fs → exec (.replayTimeout n) s = .next (s.nakIn n ((f.1 + 4095) % 4096)).settle) ∧
    (p.recovering = true → exec (.recoveryTimeout n) s = .next (s.setPort n { p with nak := true }))) ∧
  (∀ (s : State) (n : Nat), n < 16 → (s.port n).st = .config → exec (.flitTransmit n) s = .next (s.sendUnsequenced n 2 (s.configPayload n)))

/-- Lanes of a port (R378, R386, R390): a 1 ms window notes LSYM, and in ACTIVE more than 4,250 corrected symbols in it make the pair that
receives the lane bad; a lane that loses lock in ACTIVE or in a fast retrain becomes bad; the end of a disable's 100 µs turns the port
off, with fault 0x52 where flits are lost.
Where it rests on choices of the model, these are log entries 4, 45, 96, 106. -/
def Obligations.LanesWatched : Prop :=
  (∀ (s t : State) (n lane : Nat) (p : Port), n < 16 → lane < 8 → p = s.port n →
    t = s.setPort n (p.setLane lane { p.lane lane with win := (p.lane lane).lsym }) →
    exec (.lsymWindowEnd n lane) s =
      .next (if p.st = .active ∧ 4250 < (p.lane lane).lsym - (p.lane lane).win then t.badLanes n [p.rxOf lane] else t).settle) ∧
  (∀ (s : State) (n lane : Nat) (p : Port), n < 16 → lane < 8 → p = s.port n → p.st = .active ∨ p.fast = true → (p.lane lane).locked = true →
    exec (.laneLockLoss n lane) s = .next ((s.setPort n (p.setLane lane { p.lane lane with locked := false })).badLanes n [lane]).settle) ∧
  (∀ (s : State) (n : Nat), n < 16 → (s.port n).draining = true →
    ((s.port n).buf = [] → exec (.disableDrainTimeout n) s = .next (s.portOff n).settle) ∧
    ((s.port n).buf ≠ [] → exec (.disableDrainTimeout n) s =
      .next ((s.raise { src := 0x52, unit := n, info := (s.port n).buf.length }).portOff n).settle))

/-- Remote memory (R403 to R405): a PUT that passes the window checks is written at the window and acknowledged, one that fails a check,
or drops bytes, is answered with a NACK, check 5 raising the header fault with check 1 of R57 (R59); a GET_REQ is answered with the bytes
read; the answers reach the stream engine of the core that asked, a NACK as DENIED 22 or, for STATUS 6, INTEGRITY 17.
Where it rests on choices of the model, these are log entries 60. -/
def Obligations.RemoteMemoryAnswered : Prop :=
  (∀ (s f : State) (n vc : Nat) (p : List Byte) (w : Window) (c : Context), s.delivers n vc p = true → f = s.takePacket n vc p →
    f.windowCtx p = some (w, c) →
    (∀ pay, pkType p = 1 → f.windowCheck p (pkLen p) = none →
      pay = (if pkHdr p then arriveHeader (slice p 32 16) w.ctx ++ slice p 48 (pkLen p - 16) else pkPayload p) →
      exec (.put n vc) s = .next (if (f.writeCva c (w.cbase + pkOffset p) pay).2 then (f.writeCva c (w.cbase + pkOffset p) pay).1.nack p 6
        else (f.writeCva c (w.cbase + pkOffset p) pay).1.answerPacket p 3 (b2n (pkHdr p) * 16) []).settle) ∧
    (pkType p = 1 → f.windowCheck p (pkLen p) = some 5 → exec (.put n vc) s = .next ((f.raise
      { src := 0x10, unit := f.eventPort n (ctxPart w.ctx), ctx := some w.ctx, detail := 1, info := w.cbase + pkOffset p, ukind := some 4 }).nack
        p 5).settle) ∧
    (∀ k, pkType p = 1 → k ≠ 5 → f.windowCheck p (pkLen p) = some k → exec (.put n vc) s = .next (f.nack p k).settle) ∧
    (pkType p = 2 → f.windowCheck p (pkGlen p) = none → (f.readCva c (w.cbase + pkOffset p) (pkGlen p)).2.1 = false →
      exec (.getReq n vc) s = .next ((f.readCva c (w.cbase + pkOffset p) (pkGlen p)).1.answerPacket p 4 (b2n (pkHdr p) * 16)
        (f.readCva c (w.cbase + pkOffset p) (pkGlen p)).2.2).settle) ∧
    (pkType p = 2 → f.windowCheck p (pkGlen p) = none → (f.readCva c (w.cbase + pkOffset p) (pkGlen p)).2.1 = true →
      exec (.getReq n vc) s = .next ((f.readCva c (w.cbase + pkOffset p) (pkGlen p)).1.nack p 6).settle) ∧
    (∀ k, pkType p = 2 → f.windowCheck p (pkGlen p) = some k → exec (.getReq n vc) s = .next (f.nack p k).settle)) ∧
  (∀ (s f : State) (n vc : Nat) (p : List Byte), s.delivers n vc p = true → f = s.takePacket n vc p → pkScore p < 576 →
    let r (data : List Byte) (st : Status) (d : Nat) : Resp :=
      { core := pkScore p, sid := pkFlow p % 32, tag := pkTag p, gen := pkGen p, data := data, status := st, detail := d }
    (pkType p = 3 → exec (.putAck n vc) s = .next (f.takeResp (r [] .ok 0)).settle) ∧
    (pkType p = 4 → exec (.getRsp n vc) s = .next (f.takeResp (r (if pkHdr p then
        arriveHeader (slice (pkPayload p) 0 16) (((f.core (pkScore p)).tag (pkTag p)).req.elim 0 (·.ctx)) ++ (pkPayload p).drop 16
      else pkPayload p) .ok 0)).settle) ∧
    (pkType p = 5 → pkStatus p ≠ 6 → exec (.nack n vc) s = .next (f.takeResp (r [] .denied 22)).settle) ∧
    (pkType p = 5 → pkStatus p = 6 → exec (.nack n vc) s = .next (f.takeResp (r [] .integrity 17)).settle))

/-- The packets of a collective whose digest is right (R411 to R416): RED and BAR chunks are parked and added as far as they are ready, a
DLV is written at the receiver's window, a REP and a BAR_REL act here and go on; one that is no chunk of it is dropped and counted
(R395, R396); CTMO without progress raises fault 0x54 and ends the collective with TIMEOUT 25 (R418).
Where it rests on choices of the model, these are log entries 59, 60, 118, 119, 130. -/
def Obligations.CollectivePackets : Prop :=
  (∀ (s f : State) (n vc : Nat) (p : List Byte) (x : Coll) (m : Member), s.delivers n vc p = true → f = s.takePacket n vc p →
    f.collOf p = some (x, m) → pkDdig p = ddig x.desc →
    (pkType p = 6 → s.pruRoom n vc = true → chunkOk x.desc (pkTile p) (pkChunk p) (pkLen p) = true →
      exec (.red n vc) s = .next (f.parkChunk x m p).settle) ∧
    (pkType p = 7 → chunkOk x.desc (pkTile p) (pkChunk p) (pkLen p) = true → exec (.dlv n vc) s = .next (f.deliverIn x p (pkFlags p)).settle) ∧
    (pkType p = 8 → chunkOk x.desc (pkTile p) (pkChunk p) (pkLen p) = true → exec (.rep n vc) s = .next (f.repIn x m p).settle) ∧
    (chunkOk x.desc (pkTile p) (pkChunk p) (pkLen p) = false →
      let g := f.portCount n fun q => { q with badpkt := satAdd 32 q.badpkt 1 }
      (pkType p = 6 → s.pruRoom n vc = true → exec (.red n vc) s = .next g.settle) ∧ (pkType p = 7 → exec (.dlv n vc) s = .next g.settle) ∧
        (pkType p = 8 → exec (.rep n vc) s = .next g.settle)) ∧
    (pkType p = 9 → exec (.bar n vc) s = .next (f.parkChunk x m p).settle) ∧
    (pkType p = 10 → exec (.barRel n vc) s = .next (f.barRelIn x m p).settle)) ∧
  (∀ (s : State) (part job coll : Nat) (x : Coll), s.coll? part job coll = some x →
    exec (.collectiveTimeout part job coll) s = .next ((s.raise { src := 0x54, unit := s.eventPort 16 part, detail := job
                                                                  ctx := some (cdCtx x.desc), info := coll }).endColl x .timeout 25).settle)

/-- Routing (R397, R399): a transit packet goes on through the port its route gives with HOPS one higher and is counted, one with 31 hops
is dropped and counted; a packet that originated here takes its route, whose port counts a NACK (R421); one without a route is dropped and
counted; one that has waited 1 ms in an output queue is dropped and counted at the port it came by.
Where it rests on choices of the model, these are log entries 60, 118, 161. -/
def Obligations.PacketsRouted : Prop :=
  (∀ (s f : State) (n vc out cls : Nat) (p : List Byte), n < 16 → s.headPacket n vc = some p → some (pkDst p) ≠ s.chip.devid →
    f = s.takePacket n vc p → f.route (some n) p = some (out, cls) →
    (pkHops p ≠ 31 → exec (.packetForward n vc) s =
      .next ((f.portCount n fun q => { q with transit := satAdd 32 q.transit 1 }).enqueuePacket out cls (pkHops p + 1) n p).settle) ∧
    (pkHops p = 31 → exec (.packetForward n vc) s = .next (f.portCount n fun q => { q with lifedrop := satAdd 32 q.lifedrop 1 }).settle)) ∧
  (∀ (s f : State) (n vc out cls : Nat) (p : List Byte), 16 ≤ n →
    s.chip.orig.find? (fun p => some (pkDst p) != s.chip.devid && vcOf (pkType p) (pkCls p) == vc) = some p →
    f = { s with chip.orig := s.chip.orig.erase p } → f.route none p = some (out, cls) →
    exec (.packetForward n vc) s = .next ((if pkType p = 5 then f.portCount out fun q => { q with nacks := satAdd 32 q.nacks 1 } else f).enqueuePacket
      out cls (pkHops p) out p).settle) ∧
  (∀ (s f : State) (n vc : Nat) (p : List Byte),
    (n < 16 → s.headPacket n vc = some p → some (pkDst p) ≠ s.chip.devid → f = s.takePacket n vc p → f.route (some n) p = none →
      exec (.packetForward n vc) s = .next (f.portCount n fun q => { q with unroute := satAdd 32 q.unroute 1 }).settle) ∧
    (16 ≤ n → s.chip.orig.find? (fun p => some (pkDst p) != s.chip.devid && vcOf (pkType p) (pkCls p) == vc) = some p →
      f = { s with chip.orig := s.chip.orig.erase p } → f.route none p = none →
      exec (.packetForward n vc) s = .next (f.portCount (s.lostPort p) fun q => { q with unroute := satAdd 32 q.unroute 1 }).settle)) ∧
  (∀ (s : State) (n vc from_ : Nat) (p : List Byte) (t : List (Nat × List Byte)), n < 16 → Tab.get (s.port n).outq [] vc = (from_, p) :: t →
    exec (.packetQueueTimeout n vc) s = .next ((s.modPort n fun q => { q with outq := Tab.set q.outq [] vc t }).portCount from_ fun q =>
      { q with lifedrop := satAdd 32 q.lifedrop 1 }).settle)

/-- Forming a tree and voting (R431, R434, R437 to R439): a HELLO waits for its tree or counts once for its child, with DIS where its
digest differs; TREE_OK is acted on below the root; a form not complete within its time keeps no tree and is answered TIMEOUT; a child's
VOTE of the round counts once; VTMO gives an incomplete membership its late vote, or sends the combined one; DECIDE is acted on below the
root; without one in DECTMO every NORMAL membership gets a cause with TIMEOUT (R441).
Where it rests on choices of the model, these are log entries 19, 60, 66. -/
def Obligations.TreesFormAndDecide : Prop :=
  (∀ (s f : State) (n vc : Nat) (p : List Byte), s.delivers n vc p = true → f = s.takePacket n vc p → pkType p = 0x10 →
    (f.tree? (pkJob p) = none →
      exec (.hello n vc) s = .next ({ f with chip.hellos := f.chip.hellos ++ [(pkJob p, pkSrc p, pkPayload p)] } : State).settle) ∧
    (∀ t m, f.tree? (pkJob p) = some t → t.formed = false → t.helloSent = false → t.hasChild (pkSrc p) = true →
      m = (if jbTdig (pkPayload p) = t.tdig then JobMsg.parse (pkPayload p) else (JobMsg.parse (pkPayload p)).set fDis true) →
      exec (.hello n vc) s = .next (f.putTree (pkJob p) { t with hellos := keepMsg t.hellos (pkSrc p) m }).settle)) ∧
  (∀ (s f : State) (n vc : Nat) (p : List Byte) (t : Tree), s.chip.hif.fatal = false → s.delivers n vc p = true → f = s.takePacket n vc p →
    f.tree? (pkJob p) = some t → jbTdig (pkPayload p) = t.tdig →
    (pkType p = 0x11 → t.formed = false → t.parent ≠ none →
      exec (.treeOk n vc) s = .next (f.treeOk (pkJob p) t (JobMsg.parse (pkPayload p))).settle) ∧
    (pkType p = 0x12 → jbSeq (pkPayload p) = t.dseq → t.formed = true → t.voted = false → t.hasChild (pkSrc p) = true →
      exec (.vote n vc) s = .next (f.putTree (pkJob p) { t with votes := keepMsg t.votes (pkSrc p) (JobMsg.parse (pkPayload p)) }).settle) ∧
    (pkType p = 0x13 → jbSeq (pkPayload p) = t.dseq → t.formed = true → t.parent ≠ none →
      exec (.decide n vc) s = .next (f.applyDecide (pkJob p) t (JobMsg.parse (pkPayload p))).settle)) ∧
  (∀ (s : State) (job : Nat) (t : Tree), s.chip.hif.fatal = false → s.tree? job = some t → t.formed = false →
    exec (.treeFormTimeout job) s = .next ((({ s with chip.trees := Tab.erase s.chip.trees job } : State).answer (isTreeOf job) .timeout).settle)) ∧
  (∀ (s : State) (job who : Nat) (t : Tree), s.chip.hif.fatal = false → s.tree? job = some t → t.formed = true → t.voted = false → t.restarting = false →
    (∀ m, who < 8 → s.member? who job = some m → m.st = .normal → (s.memSets m).any (fun x => x.st == .staged) = true →
      (s.memSets m).all (fun x => x.st == .staged) = false → t.votes.any (fun v => v.1 == 2 ^ 15 + who) = false →
      exec (.voteTimeout job who) s = .next (s.putTree job { t with votes := t.votes ++ [(2 ^ 15 + who, s.memVote t m true)] }).settle) ∧
    (8 ≤ who → t.votes ≠ [] → exec (.voteTimeout job who) s = .next (s.sendVote job t true).settle)) ∧
  (∀ (s : State) (job : Nat) (t : Tree), s.chip.hif.fatal = false → s.tree? job = some t → t.formed = true → t.voted = true → t.restarting = false → t.parent ≠ none →
    exec (.decisionTimeout job) s = .next ((s.jobMembers job).foldl (fun a m => if m.st = .normal then
      a.modMember m.part job fun y => { y with causes := y.causes ++ [(2, Status.timeout.code)] } else a) s).settle)

/-- The job-wide restart (R442 to R447): the root answers a FAULT of the current attempt with a new attempt; RESTART starts a later
attempt; contexts at rest end step 2, those that are not in time are torn down; a child's report counts once; the root resumes the job
once every member has reported, or with FAIL, CODE 1 where the time ends; RESUME is acted on below the root; without a message for RSTMO
the memberships become LOST with a job record.
Where it rests on choices of the model, these are log entries 27, 60, 68. -/
def Obligations.JobsRestart : Prop :=
  (∀ (s f : State) (n vc : Nat) (p : List Byte) (t : Tree), s.chip.hif.fatal = false → s.delivers n vc p = true → f = s.takePacket n vc p →
    f.tree? (pkJob p) = some t → jbTdig (pkPayload p) = t.tdig →
    (pkType p = 0x14 → jbSeq (pkPayload p) = t.attempt → t.formed = true → t.parent = none →
      exec (.fault n vc) s = .next (f.startRestart (pkJob p) t).settle) ∧
    (pkType p = 0x15 → t.formed = true → t.parent ≠ none → t.attempt < jbSeq (pkPayload p) →
      exec (.restart n vc) s = .next (f.enterRestart (pkJob p) t (jbSeq (pkPayload p))).settle) ∧
    (pkType p = 0x16 → jbSeq (pkPayload p) = t.attempt → t.restarting = true → t.rptSent = false → t.hasChild (pkSrc p) = true →
      exec (.stateRpt n vc) s = .next (f.putTree (pkJob p) { t with rpts := keepMsg t.rpts (pkSrc p) (JobMsg.parse (pkPayload p)) }).settle) ∧
    (pkType p = 0x17 → jbSeq (pkPayload p) = t.attempt → t.restarting = true → t.parent ≠ none →
      exec (.resume n vc) s = .next (f.applyResume (pkJob p) t (JobMsg.parse (pkPayload p))).settle)) ∧
  (∀ (s : State) (job : Nat) (t : Tree), s.chip.hif.fatal = false → s.tree? job = some t → t.restarting = true → t.reported = false →
    (t.stopped = true → (s.jobCtxs job).all (fun p => p.2.atRest) = true →
      exec (.restartStopComplete job) s = .next (s.restartStopped job t).settle) ∧
    exec (.restartStopTimeout job) s = .next ((((s.jobCtxs job).foldl (fun a p => if p.2.atRest then a else a.teardown p.1 false) s).clearCauses
      job).putTree job { t with stopped := true }).settle) ∧
  (∀ (s : State) (job : Nat) (t : Tree), s.chip.hif.fatal = false → s.tree? job = some t → t.restarting = true → t.parent = none →
    (s.fullReport job t = true →
      exec (.restartHoldEnd job) s = .next (s.applyResume job t (resumeOf (s.reportOf job t) t.dseq)).settle) ∧
    (s.fullReport job t = false →
      exec (.stateReportTimeout job) s = .next (s.applyResume job t { flags := fFail, code := 1, ephi := t.dseq }).settle)) ∧
  (∀ (s : State) (job : Nat) (t : Tree), s.chip.hif.fatal = false → s.tree? job = some t → t.formed = true → t.parent ≠ none →
    exec (.restartTimeout job) s = .next ((s.jobMembers job).foldl (fun a m =>
      if m.st = .faulted ∨ m.st = .restarting then
        (a.modMember m.part job fun y => { y with st := .lost }).jobRecord m 6 (t.attempt % 2 ^ 16) Status.timeout.code 0 0
      else a) (s.putTree job { t with restarting := false })).settle)

/-- Watchdogs, FAULT_N and block resets (R547, R548, R554, R555, R561, R562): a kick restarts the count; the first expiry raises fault 0x03
with DETAIL 1, the second with DETAIL 2 and Drover stops; the enclave's raises 0x06; a pulse ends and its gap begins, after which a deferred
occurrence asserts FAULT_N again; releasing a held FAULT_N lets every condition still present assert it; the sweep collects what N does not
announce; the end of a block reset zeroes what the block holds and records its faults again.
Patrols (R556 to R558): a line of an Isle is read with its flipped bits, each word that is wrong is met and the position moves on;
a patrol stands still at period 0; the control SRAM's patrol raises 0x04, or 0x05 and stops Drover.
Where it rests on choices of the model, these are log entries 33, 53, 97, 99, 110, 123, 127. -/
def Obligations.FaultEventsAndPatrols : Prop :=
  ((∀ (s : State), exec .faultSweep s = .next { s with chip.fc.sweep := [] }) ∧
  (∀ (s : State), s.droverRuns = true →
    exec .watchdogKick s = .next { s with chip.fc := { s.chip.fc with wdFirst := false, kick := s.now } } ∧
    (s.chip.fc.wdFirst = false → exec .watchdogFirstExpiry s =
      .next (({ s with chip.fc.wdFirst := true } : State).raise { src := 0x03, detail := 1, info := s.chip.fc.kick }).settle) ∧
    (s.chip.fc.wdFirst = true → exec .watchdogSecondExpiry s =
      .next ((s.raise { src := 0x03, detail := 2, info := s.chip.fc.kick }).droverStops).settle)) ∧
  (∀ (s : State), s.chip.boot ≠ .held → s.chip.boot ≠ .pll → exec .enclaveWatchdogExpiry s = .next (s.raise { src := 0x06 }).settle) ∧
  (∀ (s : State), s.aon.fnOn = true → s.aon.fnPulse = true →
    exec .faultNPulseEnd s = .next { s with aon := { s.aon with fnOn := false, fnPulse := false, fnGap := true } }) ∧
  (∀ (s : State), s.aon.fnGap = true →
    (s.aon.fnDefer = none → exec .faultNGapEnd s = .next { s with aon.fnGap := false }) ∧
    (∀ src, s.aon.fnDefer = some src → exec .faultNGapEnd s = .next { s with aon := s.aon.assertN src (!s.aon.fnMode) })) ∧
  (∀ (s : State), s.aon.answers = true →
    (s.aon.hold = true → exec (.faultNHoldRelease true) s = .next (s.presentSources.foldl (fun a src => { a with aon := a.aon.faultN src })
      { s with aon := { s.aon with hold := false, fnOn := false } })) ∧
    exec (.faultNHoldRelease false) s = .next { s with aon.pecErr := true }) ∧
  (∀ (s t : State) (unit : Nat), (∀ k, (k, unit) ∈ s.chip.fc.blk → t = { s with chip.fc.blk := s.chip.fc.blk.erase (k, unit) } →
    exec (.blockResetComplete k unit) s = .next (if k = 1 then t.clearCore unit else if k = 2 then t.clearCore (unit / 4)
      else if k = 3 then (t.clearStack unit).modNmu unit fun m => { m with tries := 0 } else t).settle))) ∧
  (∀ (s t u : State) (core l : Nat) (fl : List (Nat × Nat)), core < 576 → s.chip.fc.iper ≠ 0 →
    (s.core core).nextLine (s.core core).patrol = some l →
    t = { s with chip.isleErr := (fl.filter fun p => decide (isleBase core + 64 * l ≤ 4 * p.1) && decide (4 * p.1 < isleBase core + 64 * l + 64)).foldl
                   (fun m x => Tab.set m 0 x.1 (Tab.get m 0 x.1 ^^^ x.2 % 2 ^ 39)) s.chip.isleErr } →
    u = t.modCore core (fun q => { q with patrol := (l + 1) % 24576 }) →
    exec (.islePatrolRead core fl) s = .next ((u.isleErrs (isleBase core + 64 * l) 64).foldl (fun a p => a.meetWord core 1 p.1 p.2) u).settle) ∧
  (∀ (s t : State) (stack u : Nat) (errs : List (Nat × Nat)), stack < 32 → s.chip.fc.sper ≠ 0 → (s.nmu stack).dram = 0 →
    (s.grantedUnit stack (s.nmu stack).patrol).or (s.grantedUnit stack 0) = some u →
    (s.nmu stack).window.any (fun r => bankIndex r.addr == bankIndex (stackKey stack (1024 * u))) = false →
    t = (s.flipSectors (errs.filter fun e => decide (stackKey stack (1024 * u) / 32 ≤ e.1) && decide (e.1 < stackKey stack (1024 * u) / 32 + 32))).modNmu
      stack (fun m => { m with patrol := u + 1 }) →
    exec (.stackPatrolRead stack errs) s = .next (t.meetSectors 1 1 (if (t.mdataKey (stackKey stack (1024 * u))).isSome then
      t.unitErrs (stackKey stack (1024 * u)) else t.sectorErrs (stackKey stack (1024 * u)) 1024)).1.settle) ∧
  (∀ (s t : State) (w m : Nat), s.chip.sram ≠ none → s.chip.sramErr = [] → m ≠ 0 → t = { s with chip.sramErr := [(w, m)] } →
    exec (.controlSramPatrol []) s = .next s.settle ∧
    exec (.controlSramPatrol [(w, m)]) s = exec (.controlSramPatrol []) t ∧
    (flips m = 1 → exec (.controlSramPatrol []) t = .next (s.raise { src := 0x04, info := 4 * w }).settle) ∧
    (flips m ≠ 1 → exec (.controlSramPatrol []) t = .next ((t.raise { src := 0x05, info := 4 * w }).droverStops).settle))

/-- Input power and temperature (R565 to R567, R579 to R581): a sample is stored and its energy added; a low voltage raises 0x70 once; a
voltage out of range, an overcurrent and a trip raise 0x71, 0x72 and 0x74 and switch the main conversion off; the fast limit begins and
ends; a thermal sample of all sensors is stored; an eighth's hot window raises its divider, a cool one lowers it.
The power cap (R578): a window whose average is above the cap raises the cap's divider by one, at most to 16; ten in a row below 95
percent of it lower it by one, at least to 6; the first rise from 6 raises fault 0x77.
Where it rests on choices of the model, these are log entries 90, 91, 92. -/
def Obligations.PowerHeatAndCapFollowed : Prop :=
  ((∀ (s : State) (v i : Nat), s.aon.up = true →
    exec (.powerSample v i) s = .next ({ s with aon := { s.aon with vin := v, iin := i, energy := s.aon.energy + v * i
                                                                    vlow := s.aon.vlow && decide (v < 63000) } } : State).tryStart) ∧
  (∀ (s : State), s.aon.up = true → s.aon.vlow = false → s.aon.vin < 62000 →
    exec .inputVoltageLow s = .next (({ s with aon.vlow := true } : State).raise { src := 0x70, info := s.aon.vin }).settle) ∧
  (∀ (s : State), s.powered = true →
    (s.aon.vin < 58000 → exec .inputVoltageOutOfRange s = .next ((s.raise { src := 0x71, detail := 0, info := s.aon.vin }).mainOff true).settle) ∧
    (82000 < s.aon.vin → exec .inputVoltageOutOfRange s = .next ((s.raise { src := 0x71, detail := 1, info := s.aon.vin }).mainOff true).settle) ∧
    (120000 < s.aon.iin → exec .inputOvercurrent s = .next ((s.raise { src := 0x72, info := s.aon.iin }).mainOff true).settle) ∧
    (∀ k i t, s.chip.pwr.tripping = some (k, i, t) → exec .thermalTrip s =
      .next (({ s.raise { src := 0x74, detail := Config.sensorNumber k i % 65536, info := tempInfo t } with aon.ttrip := true } : State).mainOff true).settle)) ∧
  (∀ (s : State), (s.aon.mainOn = true → 112000 < s.aon.iin →
      exec .fastLimit s = .next (({ s with chip.pwr.fast := true } : State).raise { src := 0x77 }).settle) ∧
    exec .fastLimitEnd s = .next { s with chip.pwr.fast := false }) ∧
  (∀ (s t : State) (j m o : List Int), s.aon.up = true → j.length = 144 → m.length = 32 →
    t = { s with
      aon := { s.aon with sensorHot := (j ++ m ++ o).any (fun x => decide (800 < x))
                          ttrip := s.aon.ttrip && ((j ++ m ++ o).any (fun x => decide (800 < x)) || s.aon.pins.pwrEn) }
      chip.pwr.junction := j, chip.pwr.stackT := m } →
    exec (.thermalSample j m o) s = .next (if s.aon.mainOn then ((List.range 32).zip m).foldl (fun a p => a.stackReading p.1 p.2) t else t).settle) ∧
  (∀ (s : State) (h d : Nat), s.aon.mainOn = true → h < 8 → d = s.chip.pwr.thermDiv h →
    (s.chip.pwr.hot h = true → d ≠ 6 → exec (.thermalWindow h) s =
      .next ({ s with chip.pwr.therm := Tab.set s.chip.pwr.therm 6 h (min 16 (d + 1)) } : State).settle) ∧
    (s.chip.pwr.hot h = true → d = 6 → exec (.thermalWindow h) s =
      .next (({ s with chip.pwr.therm := Tab.set s.chip.pwr.therm 6 h 7 } : State).throttle 0 (s.chip.pwr.hottest h).1 (s.chip.pwr.hottest h).2).settle) ∧
    (s.chip.pwr.hot h = false → s.chip.pwr.cool h = true → exec (.thermalWindow h) s =
      .next ({ s with chip.pwr.therm := Tab.set s.chip.pwr.therm 6 h (max 6 (d - 1)) } : State).settle))) ∧
  ∀ (s : State) (avg : Nat) (p : Pwr), s.aon.mainOn = true → p = s.chip.pwr →
    (1000 * p.cap < avg → p.capDiv ≠ 6 → exec (.powerCapWindow avg) s =
      .next ({ s with chip.pwr := { p with pin := avg / 1000, capDiv := min 16 (p.capDiv + 1), below := 0, cap := p.capNew } } : State).settle) ∧
    (1000 * p.cap < avg → p.capDiv = 6 → exec (.powerCapWindow avg) s = .next (({ s with chip.pwr := { p with
      pin := avg / 1000, capDiv := 7, below := 0, cap := p.capNew } } : State).raise { src := 0x77, info := p.cap }).settle) ∧
    (100 * avg < 95 * (1000 * p.cap) → p.below < 9 → exec (.powerCapWindow avg) s =
      .next ({ s with chip.pwr := { p with pin := avg / 1000, below := p.below + 1, cap := p.capNew } } : State).settle) ∧
    (100 * avg < 95 * (1000 * p.cap) → 9 ≤ p.below → exec (.powerCapWindow avg) s =
      .next ({ s with chip.pwr := { p with pin := avg / 1000, capDiv := max 6 (p.capDiv - 1), below := 0, cap := p.capNew } } : State).settle) ∧
    (avg ≤ 1000 * p.cap → 95 * (1000 * p.cap) ≤ 100 * avg → exec (.powerCapWindow avg) s =
      .next ({ s with chip.pwr := { p with pin := avg / 1000, below := 0, cap := p.capNew } } : State).settle)

/-- Clocks, rails and domains (R568 to R577, R593): a PLL locks, or fault 0x76 with DETAIL 0xFFFF is raised; a rail that is lost deasserts
PWR_GOOD and raises 0x76; an eighth takes its effective divider and the commands that wait for it are answered; an idle core goes one state
down where its tolerance allows it, a domain wakes to ON unless it is forced OFF, and a forced domain reaches its state and answers.
Where it rests on choices of the model, these are log entries 14, 19, 88. -/
def Obligations.ClocksAndDomains : Prop :=
  (∀ (s : State), s.chip.boot = .pll →
    exec .pllLock s = .next { s with chip.boot := .enclave } ∧
    exec .pllLockTimeout s = .next (s.raise { src := 0x76, detail := 0xFFFF }).settle) ∧
  (∀ (s : State), s.chip.boot ≠ .held → s.chip.boot ≠ .pll → exec .pllLockLoss s = .next (s.raise { src := 0x76, detail := 0xFFFF }).settle) ∧
  (∀ (s : State) (d : Nat), s.aon.mainOn = true → s.aon.pgood = true →
    exec (.railPowerGoodLost d) s = .next (({ s with aon.pgood := false } : State).raise { src := 0x76, detail := d }).settle) ∧
  (∀ (s t : State) (h : Nat), h < 8 → t = ({ s with chip.pwr.div := Tab.set s.chip.pwr.div 6 h (s.effDiv h) } : State).wakeForLtol →
    exec (.dividerChange h) s = .next (t.answer t.dividerDone .ok).settle) ∧
  (∀ (s : State) (core : Nat), core < 576 →
    ((s.core core).force = none → (s.core core).idle = true → (s.core core).pst < 2 → s.coreStateOk core ((s.core core).pst + 1) = true →
      exec (.domainIdleDescent 0 core 0) s = .next (s.setCore core (s.core core).deeper)) ∧
    ((s.core core).force ≠ some false → exec (.domainWake 0 core 0) s = .next (s.setCore core { s.core core with pst := 0 })) ∧
    (s.chip.hif.running.any (fun r => r.await == .force 0 core true) = true → exec (.forcedStateReached 0 core) s =
      .next ((s.modCore core fun q => { q with pst := 0, banks := [] }).answer (fun w => w == .force 0 core true) .ok).settle)) ∧
  (∀ (s : State) (st : Nat), st < 32 → (s.nmu st).force ≠ some false →
    exec (.domainWake 4 st 0) s = .next (s.setNmu st { s.nmu st with pst := 0 }) ∧
    exec (.domainWake 5 st 0) s = .next (s.setNmu st { s.nmu st with dram := 0 }))

/-- Supplies and pins (R565, R588, R589, R592 to R594): with the always-on supply its block comes up on the levels of its pins; without it
everything but fuses and flash is lost; PWR_EN lets the main conversion start, regulation of every rail ends the start; a rail that stays
out raises 0x76 and switches off; RESET_N and PERST_N reset the chip where it has power, EOFF_N switches it off with fault 0x75; a release
lets the start-up go on; straps follow their pins.
Where it rests on choices of the model, these are log entries 14, 73, 91, 93. -/
def Obligations.SuppliesAndPins : Prop :=
  (∀ (s : State) (vin slot fold : Nat) (p r x e m : Bool), s.aon.up = false → 40000 ≤ vin →
    exec (.alwaysOnPowerUp vin p r x e m slot fold) s = .next ({ s with aon :=
      { up := true, vin := vin, addr := some (0x60 + slot % 8), sdone := true, needCycle := !e
        pins := { pwrEn := p, resetN := r, perstN := x, eoffN := e, mgr := m, slot := slot % 8, fold := fold % 4096 } } } : State).tryStart) ∧
  (∀ (s : State), exec .alwaysOnPowerLoss s = .next { s.mainOff false with aon := {} } ∧
    exec .chipResetHoldEnd s = .next ({ s with aon.holding := false } : State).tryRelease) ∧
  (∀ (s : State), s.aon.starting = true →
    exec .railsInRegulation s = .next ({ s with aon :=
      { s.aon with mainOn := true, starting := false, pgood := true, stby := false, eoff := false } } : State).tryRelease ∧
    ∀ d, exec (.railRegulationTimeout d) s = .next ((s.raise { src := 0x76, detail := d }).mainOff true).settle) ∧
  (∀ (s : State), s.aon.up = true →
    exec .pwrEnAssert s = .next ({ s with aon.pins.pwrEn := true } : State).tryStart ∧
    exec .resetNDeassert s = .next ({ s with aon.pins.resetN := true } : State).tryRelease ∧
    exec .perstNDeassert s = .next ({ s with aon.pins.perstN := true } : State).tryRelease ∧
    exec .eoffNDeassert s = .next { s with aon.pins.eoffN := true } ∧
    ∀ m slot fold, exec (.strapChange m slot fold) s =
      .next { s with aon.pins := { s.aon.pins with mgr := m, slot := slot % 8, fold := fold % 4096 } }) ∧
  (∀ (s t : State), s.aon.up = true →
    (s.aon.pins.perstN = true → s.aon.mainOn = true → exec .perstNAssert s = .next ({ s with aon.pins.perstN := false } : State).chipReset) ∧
    (s.aon.pins.resetN = true → s.aon.mainOn = true → exec .resetNAssert s = .next ({ s with aon := { s.aon with
        pins := { s.aon.pins with resetN := false }, halt := false, cRst := if s.aon.halt then 0 else s.aon.cRst } } : State).chipReset) ∧
    (s.aon.pins.eoffN = true → s.powered = true → t = { s with aon := { s.aon with pins := { s.aon.pins with eoffN := false }, needCycle := true } } →
      exec .eoffNAssert s = .next ({ (t.raise { src := 0x75 }).mainOff true with aon.eoff := true } : State).settle) ∧
    (s.aon.pins.pwrEn = true → s.powered = true → t = { s with aon := { s.aon with
        pins := { s.aon.pins with pwrEn := false }, halt := false, cRst := if s.aon.halt then 0 else s.aon.cRst, needCycle := s.aon.needCycle && !s.aon.pins.eoffN, ttrip := s.aon.ttrip && s.aon.sensorHot } } →
      exec .pwrEnDeassert s = .next (t.chipReset.mainOff false)))

/-- Start-up (R524, R590, R594, R256, R100): a failed self-test of the enclave stops it; otherwise every image is chosen, copy A before
copy B, and the module is initialising; a stack's first training timeout is retried, its second makes it unavailable with fault 0x40;
Drover's initialisation limit acts as its watchdog's second expiry; READY is reached from initialising with the configuration image; an engine's
test stores its spares in use, or, with more defects than the spares that are left, takes it out with cause 1 and fault 0x14.
Where it rests on choices of the model, these are log entries 14, 15, 83, 95, 116, 162. -/
def Obligations.StartUpRuns : Prop :=
  (∀ (s : State), s.chip.boot = .enclave →
    exec (.enclaveBootComplete false) s = .next ({ s with chip.boot := .encHalt } : State).settle ∧
    (∀ k1 k3 k2 t, s.chooseImage 1 = .inl k1 → s.chooseImage 3 = .inl k3 → s.chooseImage 2 = .inl k2 →
      t = { s with chip.enc.images := Tab.put (Tab.put (Tab.put s.chip.enc.images 1 k1) 3 k3) 2 k2 } →
      exec (.enclaveBootComplete true) s = .next ((List.range 16).foldl (fun (a : State) n => a.detect n) { t.deriveAlias with
        chip.boot := .init
        chip.sram := some (Tab.get s.nv.flash .factory (if (s.copyOf 2 0).1 = 0 then 4 else 5)) }).settle) ∧
    ∀ f, s.chooseImage 1 = .inr f → exec (.enclaveBootComplete true) s =
      .next (({ s with chip.boot := .recovery, chip.hif.fatal := true, chip.hif.fatalAt := s.aon.time } : State).raise
        { src := 0x07, detail := 1, info := packInfo 0 [(1, f.1), (1, f.2)] }).settle) ∧
  (∀ (s : State) (st step : Nat), st < 32 → s.trains st = true → (s.nmu st).avail = true →
    ((s.nmu st).tries = 0 → exec (.stackTrainingTimeout st step) s = .next (s.setNmu st { s.nmu st with tries := 1 }).settle) ∧
    ((s.nmu st).tries ≠ 0 → exec (.stackTrainingTimeout st step) s = .next ((s.setNmu st { s.nmu st with tries := 0, avail := false }).raise
      { src := 0x40, unit := st, detail := 2, info := step }).settle)) ∧
  (∀ (s : State), s.chip.boot = .init → s.chip.hif.fatal = false →
    exec .droverInitTimeout s = .next s.secondExpiry.settle ∧
    (s.chip.hif.configReady = true → exec .ready s = .next s.reachReady.settle)) ∧
  (∀ (s : State) (g r c : Nat) (e : Eng), g < 2304 → s.tests (g / 4) = true → e = (s.core (g / 4)).engine (g % 4) → e.present = true →
    r + (Tab.get s.nv.repair (0, 0) g).1 ≤ 2 → c + (Tab.get s.nv.repair (0, 0) g).2 ≤ 2 →
    exec (.arraySelfTestComplete [(g, r, c, true)]) s = .next (s.modCore (g / 4) fun q => q.setEngine (g % 4)
      { e with srow := r, scol := c, present := true, cause := 0 }).settle) ∧
  (∀ (s : State) (g r c : Nat) (e : Eng), g < 2304 → s.tests (g / 4) = true → e = (s.core (g / 4)).engine (g % 4) → e.present = true →
    2 < r + (Tab.get s.nv.repair (0, 0) g).1 ∨ 2 < c + (Tab.get s.nv.repair (0, 0) g).2 → (Tab.get s.nv.repair (0, 0) g).1 ≤ 2 →
    (Tab.get s.nv.repair (0, 0) g).2 ≤ 2 → exec (.arraySelfTestComplete [(g, r, c, true)]) s =
      .next ((s.modCore (g / 4) fun q => q.setEngine (g % 4) { e with
        srow := min r (2 - (Tab.get s.nv.repair (0, 0) g).1), scol := min c (2 - (Tab.get s.nv.repair (0, 0) g).2)
        present := false, cause := 1 }).raise { src := 0x14, unit := g, detail := 1 }).settle)

/-- Firmware writes and crash captures (R601, R604): copy B programmed and its checks passed, copy A follows; a check that fails leaves
copy B invalid and ends with INTEGRITY and the check's number; with copy A programmed the write ends OK; a capture goes before both and
keeps its content.
Where it rests on choices of the model, these are log entries 17. -/
def Obligations.FlashProgrammed : Prop :=
  (∀ (s : State) (w : FwWrite), s.aon.fw = some w → s.aon.capture = false → w.len ≤ w.bytes.length →
    (w.copyA = true → exec .flashProgrammingComplete s =
      .next (({ s with nv.flash := Tab.put s.nv.flash (flashKey w.kind 0) (.written w.bytes) } : State).fwEnd w .ok 0).settle) ∧
    (w.copyA = false → s.imageFails w.kind w.bytes = 0 → exec .flashProgrammingComplete s = .next ({ s with
      nv.flash := Tab.put (Tab.put s.nv.flash (flashKey w.kind 1) (.written w.bytes)) (flashKey w.kind 0) .invalid
      aon.fw := some { w with copyA := true } } : State).settle) ∧
    (w.copyA = false → ∀ n, s.imageFails w.kind w.bytes = n → n ≠ 0 → exec .flashProgrammingComplete s =
      .next (({ s with nv.flash := Tab.put s.nv.flash (flashKey w.kind 1) .invalid } : State).fwEnd w .integrity n).settle)) ∧
  (∀ (s : State), s.aon.capture = true →
    exec .crashCaptureComplete s = .next { s with aon.capture := false, nv.dump := some (s.nv.dump.elim 0 (· + 1)) })

/-- The sideband's registers (R595 to R599): a transaction with a wrong PEC is discarded and reported; the read pointer is set, a register
reads its four bytes, an offset that is not listed is reported; LEN is written while the mailbox is free, else MBERR; events clear by
writing ones; the alert response answers the address of a module that alerts.
Where it rests on choices of the model, these are log entries 2, 73, 74, 75, 120. -/
def Obligations.SidebandRegisters : Prop :=
  (∀ (s : State) (v : Nat), s.aon.answers = true →
    exec (.sbSetReadPointer v true) s = .next { s with aon.rdPtr := v % 65536 } ∧
    exec (.sbSetReadPointer v false) s = .next { s with aon.pecErr := true } ∧
    exec (.sbMbLenWrite v true) s = .next (if s.aon.mb.busy then s.mbErr else { s with aon.mb.len := v % 2 ^ 32 }) ∧
    exec (.sbEvtClear v true) s = .next { s with aon.evt := s.aon.evt &&& (0x1F - v % 32) } ∧
    (∀ x, s.sbReg s.aon.rdPtr = some x → exec .sbRegisterRead s = .next (s.send (.smbus (leBytes 4 x))).settle) ∧
    (s.sbReg s.aon.rdPtr = none → exec .sbRegisterRead s = .next (s.unmapped 9 s.aon.rdPtr 4 false).settle)) ∧
  (∀ (s : State) (n : Nat), s.aon.answers = true → s.aon.alert = true → s.aon.addr = some n →
    exec .smbusAlertResponse s = .next (s.send (.smbus [BitVec.ofNat 8 (2 * n)])))

/-- The sideband's mailbox (R599 to R601): an operation that a free mailbox takes sets BUSY; a firmware write waits for its
words, taken one by one; data goes out one word a read, the last one ends the operation; LOG_READ before READY and DUMP_READ without a
dump end with STATE; a second operation while one runs sets MBERR; an abort, whose OP and
ARG are stored (R14), and the word limit end what runs.
Where it rests on choices of the model, these are log entries 1, 2, 15, 17, 73, 76, 83, 120, 126. -/
def Obligations.SidebandMailbox : Prop :=
  (∀ (s t : State), s.aon.answers = true → s.aon.mb.busy = false → s.chip.boot ≠ .recovery →
    (∀ kind, fwKindOk (kind % 256) = true → fwLenOk (kind % 256) s.aon.mb.len = true → s.aon.fw = none → s.aon.capture = false →
      t = { s with aon.mb := { s.aon.mb with op := 1, arg := kind % 256, busy := true, data := [] } } →
      exec (.fwWrite kind true) s = .next ({ t with aon.fw := some { kind := kind % 256, host := none, len := s.aon.mb.len } } : State).settle) ∧
    (t = { s with aon.mb := { s.aon.mb with op := 2, arg := 0, busy := true, data := [] } } →
      (s.chip.hif.ready = false → exec (.sbLogRead true) s = .next (t.sbEnd .state).settle) ∧
      (s.chip.hif.ready = true → s.chip.hif.fatal = false → exec (.sbLogRead true) s = .next (t.logWords.1.sbSupply t.logWords.2).settle)) ∧
    (t = { s with aon.mb := { s.aon.mb with op := 3, arg := 0, busy := true, data := [] } } →
      (s.nv.dump = none → exec (.dumpRead true) s = .next (t.sbEnd .state).settle) ∧
      (s.nv.dump.isSome = true → s.chip.enc.dbg = 0 → exec (.dumpRead true) s =
        .next ((t.freeWords 16 1024).1.sbSupply (t.freeWords 16 1024).2).settle)) ∧
    (t = { s with aon.mb := { s.aon.mb with op := 4, arg := 0, busy := true, data := [] } } →
      exec (.dumpClear true) s = .next (({ t with nv.dump := none } : State).sbEnd .ok).settle) ∧
    (t = { s with aon.mb := { s.aon.mb with op := 5, arg := 0, busy := true, data := [] } } →
      exec (.fstoreRead true) s = .next (t.sbSupply s.aon.storeWords).settle) ∧
    (t = { s with aon.mb := { s.aon.mb with op := 6, arg := 0, busy := true, data := [] } } →
      s.aon.mainOn = true → exec (.chipReset true) s = .next (t.sbEnd .ok).chipReset.settle)) ∧
  (∀ (s : State), s.aon.answers = true → s.aon.mb.busy = true →
    (∀ k, exec (.fwWrite k true) s = .next s.mbErr.settle) ∧ exec (.sbLogRead true) s = .next s.mbErr.settle ∧
    exec (.dumpRead true) s = .next s.mbErr.settle ∧ exec (.fstoreRead true) s = .next s.mbErr.settle ∧
    exec (.dumpClear true) s = .next s.mbErr.settle ∧ exec (.chipReset true) s = .next s.mbErr.settle ∧
    (∀ v t, t = ({ s with aon.mb := { s.aon.mb with op := v % 256, arg := v / 256 % 256 } } : State) →
      exec (.sbMbAbort (some v)) s = .next (if v.testBit 31 then t.mbErr.sbCut .aborted else t.sbCut .aborted)) ∧
    (s.sbCnt ≠ 0 → s.aon.capture = false ∨ s.aon.fw = none → exec .sbMbWordTimeout s = .next (s.sbCut .timeout)) ∧
    (∀ w v, s.aon.fw = some w → s.aon.capture = false → w.host = none → w.bytes.length < w.len →
      exec (.sbMbDataWrite v true) s = .next (({ s with aon.mb.data_ := BitVec.ofNat 32 v } : State).fwMore w (leBytes 4 v)).settle)) ∧
  (∀ (s t : State) (w : Word) (ws : List Word), s.aon.answers = true → s.aon.mb.data = w :: ws →
    t = ({ s with aon.mb := { s.aon.mb with data := ws, data_ := w } } : State).send (.smbus (leBytes 4 w.toNat)) →
    exec .sbMbDataRead s = .next (if ws.isEmpty then t.sbEnd .ok else t)) ∧
  (∀ (s : State), s.aon.answers = true → s.aon.mb.data = [] → exec .sbMbDataRead s = .next (s.send (.smbus (leBytes 4 0xFFFFFFFF))))

/-- MCTP (R602): the control commands answer with their completion code and data; a message in one packet is taken whole, one in several
is assembled, and the reassembly limit drops what has arrived.
Where it rests on choices of the model, these are log entries 1, 5, 75, 129. -/
def Obligations.MctpAnswered : Prop :=
  (∀ (s : State), s.aon.answers = true →
    (∀ eid, eid < 256 → eid ≠ 0 → eid ≠ 0xFF → exec (.setEndpointId eid) s =
      .next (({ s with aon.eid := eid } : State).mctpAnswer 0 1 0 (leBytes 1 0 ++ leBytes 1 eid ++ leBytes 1 0))) ∧
    exec .getEndpointId s = .next (s.mctpAnswer 0 2 0 (leBytes 1 s.aon.eid ++ leBytes 2 0)) ∧
    exec .getEndpointUuid s = .next (s.mctpAnswer 0 3 0 (beBytes 16 devuid)) ∧
    exec .getMctpVersionSupport s = .next ((s.draw 17).1.mctpAnswer 0 4 0 (leBytes 1 1 ++ leBytes 4 (s.draw 17).2)) ∧
    exec .getMessageTypeSupport s = .next (s.mctpAnswer 0 5 0 (leBytes 1 3 ++ leBytes 1 0x00 ++ leBytes 1 0x05 ++ leBytes 1 0x06)) ∧
    (∀ b o e, b.length ≤ 64 → exec (.mctpPacket true true b o e true) s =
      .next (({ s with aon.mctp := [] } : State).mctpMessage b o e).settle ∧
      exec (.mctpPacket true false b o e true) s = .next ({ s with aon.mctp := b } : State).settle) ∧
    (∀ b o e, b.length ≤ 64 → s.aon.mctp ≠ [] → (s.aon.mctp ++ b).length ≤ 4160 → exec (.mctpPacket false true b o e true) s =
      .next (({ s with aon.mctp := [] } : State).mctpMessage (s.aon.mctp ++ b) o e).settle)) ∧
  (∀ (s : State), exec .mctpReassemblyTimeout s = .next { s with aon.mctp := [] })

/-- The test access port (R605): every instruction is loaded; SAMPLE_PRELOAD always captures the 321 cells (the output cells
hold what the module gives out) and loads them, the tests only where RESET_N and PWR_GOOD are both asserted; a private instruction is served at debug level 2, else it is BYPASS; a reset loads BYPASS.
Where it rests on choices of the model, these are log entries 2, 114. -/
def Obligations.TestAccessPort : Prop :=
  (∀ (s : State), s.aon.up = true →
    exec .clamp s = .next { s with aon.tapIr := 3 } ∧ exec .highz s = .next { s with aon.tapIr := 4 } ∧
    exec .bypass s = .next { s with aon.tapIr := 0xFF } ∧ exec .tapReset s = .next { s with aon.tapIr := 0xFF } ∧
    (∀ op, 0x80 ≤ op → op ≤ 0xFE → exec (.tapPrivateInstruction op) s =
      .next { s with aon.tapIr := if s.chip.enc.dbg = 2 then op else 0xFF }) ∧
    ∀ cells load, cells.length = 321 → load.length = 321 →
      exec (.samplePreload cells load) s = .next (({ s with aon := { s.aon with tapIr := 1, bscan := load } } : State).send (.scan (s.aon.captured cells))) ∧
      (s.aon.tapActs = true →
        exec (.extest cells load) s = .next (({ s with aon := { s.aon with tapIr := 2, bscan := load } } : State).send (.scan (s.aon.captured cells))) ∧
        exec (.extestPulse cells load) s = .next (({ s with aon := { s.aon with tapIr := 5, bscan := load } } : State).send (.scan (s.aon.captured cells))) ∧
        exec (.extestTrain cells load) s = .next (({ s with aon := { s.aon with tapIr := 6, bscan := load } } : State).send (.scan (s.aon.captured cells)))) ∧
      (s.aon.tapActs = false → exec (.extest cells load) s = .next { s with aon.tapIr := 2 }))
end

