-- ==== Sys2Proof/Laws/Kept.lean ====
section
/-! SUPPORT. What the operations leave alone: the queue of waiting commands and the fuse array (R518). One lemma per
operation that answers a state; later proofs cite these and unfold none of the operations. -/

namespace Sys2Proof.Machine
open Sys2Proof

/-- What only a start-up and the sender change: the waiting commands and the fuses. -/
def State.kept (s : State) : List Instr × Bool × Nat × List Nat × Bool × Tab (Nat × Nat) :=
  (s.pending, s.nv.b0, s.nv.keyrev, s.nv.svn, s.nv.dbgdis, s.nv.repair)

@[simp] theorem kept_mk (p : List Instr) (fr : Nat) (o : List Out) (m : List Host.Cell) (e h : Tab Nat) (nv : NonVolatile) (a : Aon) (c : Chip) :
    State.kept ⟨p, fr, o, m, e, h, nv, a, c⟩ = (p, nv.b0, nv.keyrev, nv.svn, nv.dbgdis, nv.repair) := rfl
@[simp] theorem kept_fold (s : State) : (s.pending, s.nv.b0, s.nv.keyrev, s.nv.svn, s.nv.dbgdis, s.nv.repair) = s.kept := rfl
@[simp] theorem kept_ite (c : Prop) [Decidable c] (a b : State) : (if c then a else b).kept = if c then a.kept else b.kept := by split <;> rfl
theorem foldl_kept {β : Type} (g : State → β → State) (h : ∀ a b, (g a b).kept = a.kept) (l : List β) (s : State) : (l.foldl g s).kept = s.kept := by
  induction l generalizing s with
  | nil => rfl
  | cons x t ih => rw [List.foldl_cons, ih, h]
theorem foldl_kept1 {β γ : Type} (g : State × γ → β → State × γ) (h : ∀ a b, (g a b).1.kept = a.1.kept) (l : List β) (s : State × γ) :
    (l.foldl g s).1.kept = s.1.kept := by
  induction l generalizing s with
  | nil => rfl
  | cons x t ih => rw [List.foldl_cons, ih, h]
theorem foldl_kept_eq {β : Type} {g : State → β → State} {l : List β} {s x : State} (h : ∀ a b, (g a b).kept = a.kept)
    (hs : s.kept = x.kept) : (l.foldl g s).kept = x.kept := (foldl_kept g h l s).trans hs
theorem foldl_kept1_eq {β γ : Type} {g : State × γ → β → State × γ} {l : List β} {s : State × γ} {x : State}
    (h : ∀ a b, (g a b).1.kept = a.1.kept) (hs : s.1.kept = x.kept) : (l.foldl g s).1.kept = x.kept := (foldl_kept1 g h l s).trans hs
theorem foldr_kept_eq {β : Type} {g : β → State → State} {l : List β} {s x : State} (h : ∀ b a, (g b a).kept = a.kept)
    (hs : s.kept = x.kept) : (l.foldr g s).kept = x.kept := by
  induction l with
  | nil => exact hs
  | cons y t ih => rw [List.foldr_cons, h, ih]
theorem elim_kept_eq {β : Type} {o : Option β} {d x : State} {f : β → State} (h : ∀ a, (f a).kept = x.kept) (hd : d.kept = x.kept) :
    (o.elim d f).kept = x.kept := by cases o <;> simp [h, hd]
theorem elim_kept1_eq {β γ : Type} {o : Option β} {d : State × γ} {x : State} {f : β → State × γ} (h : ∀ a, (f a).1.kept = x.kept)
    (hd : d.1.kept = x.kept) : (o.elim d f).1.kept = x.kept := by cases o <;> simp [h, hd]
@[simp] theorem kept_upd (x : State) (fr : Nat) (o : List Out) (m : List Host.Cell) (e h : Tab Nat) (a : Aon) (c : Chip) :
    State.kept ⟨x.pending, fr, o, m, e, h, x.nv, a, c⟩ = x.kept := rfl

/-! ### Ops -/
@[simp] theorem wr_kept (s : State) (k : Nat) (b : Byte) : (State.wr s k b).kept = s.kept := by
  simp [State.wr]
@[simp] theorem wrN_kept (s : State) (k : Nat) (bs : List Byte) : (State.wrN s k bs).kept = s.kept := by
  induction bs generalizing s k with
  | nil => rfl
  | cons b t ih => simp [State.wrN, ih]
@[simp] theorem zero_kept (s : State) (lo n : Nat) : (State.zero s lo n).kept = s.kept := by
  simp [State.zero]
@[simp] theorem zeroAll_kept (s : State) (rs : List (Nat × Nat)) : (State.zeroAll s rs).kept = s.kept := by
  unfold State.zeroAll
  apply foldl_kept; intro a b; (repeat' split) <;> simp
@[simp] theorem setCtx_kept (s : State) (n : Nat) (c : Context) : (State.setCtx s n c).kept = s.kept := by
  simp [State.setCtx]
@[simp] theorem modCtx_kept (s : State) (n : Nat) (f : Context → Context) : (State.modCtx s n f).kept = s.kept := by
  simp [State.modCtx]
@[simp] theorem setCore_kept (s : State) (n : Nat) (c : Core) : (State.setCore s n c).kept = s.kept := by
  simp [State.setCore]
@[simp] theorem modCore_kept (s : State) (n : Nat) (f : Core → Core) : (State.modCore s n f).kept = s.kept := by
  simp [State.modCore]
@[simp] theorem setNmu_kept (s : State) (n : Nat) (c : Nmu) : (State.setNmu s n c).kept = s.kept := by
  simp [State.setNmu]
@[simp] theorem modNmu_kept (s : State) (n : Nat) (f : Nmu → Nmu) : (State.modNmu s n f).kept = s.kept := by
  simp [State.modNmu]
@[simp] theorem setFn_kept (s : State) (n : Nat) (f : Fn) : (State.setFn s n f).kept = s.kept := by
  simp [State.setFn]
@[simp] theorem modFn_kept (s : State) (n : Nat) (f : Fn → Fn) : (State.modFn s n f).kept = s.kept := by
  simp [State.modFn]
@[simp] theorem signal_kept (s : State) (ctx core i n : Nat) : (State.signal s ctx core i n).kept = s.kept := by
  simp [State.signal]
@[simp] theorem stick_kept (s : State) (ctx : Nat) (f : Flags) : (State.stick s ctx f).kept = s.kept := by
  simp [State.stick]
@[simp] theorem errorStop_kept (s : State) (ctx : Nat) : (State.errorStop s ctx).kept = s.kept := by
  simp [State.errorStop]
@[simp] theorem draw_kept (s : State) (place : Nat) : (State.draw s place).1.kept = s.kept := by
  simp [State.draw]
@[simp] theorem emit_kept (s : State) (fn : Nat) (o : Out) : (State.emit s fn o).kept = s.kept := by
  simp [State.emit]
@[simp] theorem send_kept (s : State) (o : Out) : (State.send s o).kept = s.kept := by
  simp [State.send]
@[simp] theorem msix_kept (s : State) (fn v : Nat) : (State.msix s fn v).kept = s.kept := by
  simp [State.msix]
@[simp] theorem setIsr_kept (s : State) (fn bit : Nat) : (State.setIsr s fn bit).kept = s.kept := by
  simp [State.setIsr]
@[simp] theorem countSeal_kept (s : State) (fn chan ring : Nat) : (State.countSeal s fn chan ring).kept = s.kept := by
  simp [State.countSeal]
@[simp] theorem toHostUnder_kept (s : State) (fn chan ring counter addr : Nat) (bytes : List Byte) : (State.toHostUnder s fn chan ring counter addr bytes).kept = s.kept := by
  unfold State.toHostUnder
  try dsimp only
  repeat' first | with_reducible rfl | (with_reducible refine foldl_kept_eq (fun a b => ?_) ?_) | (with_reducible refine foldl_kept1_eq (fun a b => ?_) ?_) | (with_reducible refine foldr_kept_eq (fun a b => ?_) ?_) | (with_reducible refine elim_kept_eq (fun a => ?_) ?_) | (with_reducible refine elim_kept1_eq (fun a => ?_) ?_) | split | simp
@[simp] theorem toHost_kept (s : State) (fn chan ring addr : Nat) (bytes : List Byte) : (State.toHost s fn chan ring addr bytes).kept = s.kept := by
  unfold State.toHost; repeat' split
  all_goals simp
@[simp] theorem record_kept (s : State) (r : FaultRec) : (State.record s r).1.kept = s.kept := by
  unfold State.record; repeat' split
  all_goals simp
@[simp] theorem faultIrq_kept (s : State) (part : Option Nat) : (State.faultIrq s part).kept = s.kept := by
  unfold State.faultIrq; repeat' split
  all_goals simp
@[simp] theorem raise_kept (s : State) (o : Occ) : (State.raise s o).kept = s.kept := by
  simp [State.raise]
@[simp] theorem wakeBanks_kept (s : State) (core : Nat) (ks : List Nat) : (State.wakeBanks s core ks).kept = s.kept := by
  unfold State.wakeBanks
  try dsimp only
  repeat' first | with_reducible rfl | (with_reducible refine foldl_kept_eq (fun a b => ?_) ?_) | (with_reducible refine foldl_kept1_eq (fun a b => ?_) ?_) | (with_reducible refine foldr_kept_eq (fun a b => ?_) ?_) | (with_reducible refine elim_kept_eq (fun a => ?_) ?_) | (with_reducible refine elim_kept1_eq (fun a => ?_) ?_) | split | simp
@[simp] theorem meetWord_kept (s : State) (core detail : Nat) (w mask : Nat) : (State.meetWord s core detail w mask).kept = s.kept := by
  simp [State.meetWord]
@[simp] theorem isleRead_kept (s : State) (core k n : Nat) : (State.isleRead s core k n).1.kept = s.kept := by
  unfold State.isleRead
  try dsimp only
  repeat' first | with_reducible rfl | (with_reducible refine foldl_kept_eq (fun a b => ?_) ?_) | (with_reducible refine foldl_kept1_eq (fun a b => ?_) ?_) | (with_reducible refine foldr_kept_eq (fun a b => ?_) ?_) | (with_reducible refine elim_kept_eq (fun a => ?_) ?_) | (with_reducible refine elim_kept1_eq (fun a => ?_) ?_) | split | simp
@[simp] theorem isleStore_kept (s : State) (core : Nat) (bs : List (Nat × Byte)) : (State.isleStore s core bs).1.kept = s.kept := by
  unfold State.isleStore
  try dsimp only
  repeat' first | with_reducible rfl | (with_reducible refine foldl_kept_eq (fun a b => ?_) ?_) | (with_reducible refine foldl_kept1_eq (fun a b => ?_) ?_) | (with_reducible refine foldr_kept_eq (fun a b => ?_) ?_) | (with_reducible refine elim_kept_eq (fun a => ?_) ?_) | (with_reducible refine elim_kept1_eq (fun a => ?_) ?_) | split | simp
@[simp] theorem isleWrite_kept (s : State) (core k : Nat) (bs : List Byte) : (State.isleWrite s core k bs).1.kept = s.kept := by
  unfold State.isleWrite
  try dsimp only
  repeat' first | with_reducible rfl | (with_reducible refine foldl_kept_eq (fun a b => ?_) ?_) | (with_reducible refine foldl_kept1_eq (fun a b => ?_) ?_) | (with_reducible refine foldr_kept_eq (fun a b => ?_) ?_) | (with_reducible refine elim_kept_eq (fun a => ?_) ?_) | (with_reducible refine elim_kept1_eq (fun a => ?_) ?_) | split | simp
@[simp] theorem writeRecord_kept (s : State) (fn ring : Nat) (r : CplRing) (body : List Byte) : (State.writeRecord s fn ring r body).kept = s.kept := by
  simp [State.writeRecord]
@[simp] theorem post_kept (s : State) (ctx : Nat) (rec : List Byte) (origin : Option (Nat × Nat)) : (State.post s ctx rec origin).kept = s.kept := by
  unfold State.post; repeat' split
  all_goals simp
@[simp] theorem drainHeld_kept (s : State) (fn ring : Nat) (x0 : Nat) : (State.drainHeld s fn ring x0).kept = s.kept := by
  induction x0 generalizing s with
  | zero => rfl
  | succ n ih => unfold State.drainHeld; (repeat' split) <;> simp [ih]
@[simp] theorem accept_kept (s : State) (c : Caller) (opc : Nat) : (State.accept s c opc).1.kept = s.kept := by
  unfold State.accept; repeat' split
  all_goals simp
@[simp] theorem respond_kept (s : State) (m : Cmd) (st : Status) (detail : Nat := 0) (result : Nat := 0) (data : List Byte := []) (need : Nat := 0) : (State.respond s m st detail result data need).kept = s.kept := by
  simp [State.respond]
@[simp] theorem mbox_kept (s : State) (c : Caller) (opc : Nat) (objs : List Obj) (need : Nat) (checks : List (Bool × Status × Nat)) (body : Cmd → State → State) (h_body : ∀ (y0 : Cmd) (y1 : State), (body y0 y1).kept = y1.kept) : (State.mbox s c opc objs need checks body).kept = s.kept := by
  unfold State.mbox; dsimp only; repeat' split
  all_goals (try simp_all)
@[simp] theorem run_kept (s : State) (m : Cmd) (objs : List Obj) (w : Await) (result : Nat := 0) (data : List Byte := []) : (State.run s m objs w result data).kept = s.kept := by
  simp [State.run]
@[simp] theorem answerRun_kept (s : State) (p : Running → Bool) (st : Status) (detail : Nat := 0) : (State.answerRun s p st detail).kept = s.kept := by
  unfold State.answerRun
  apply foldl_kept; intro a b; (repeat' split) <;> simp
@[simp] theorem answer_kept (s : State) (p : Await → Bool) (st : Status) (detail : Nat := 0) : (State.answer s p st detail).kept = s.kept := by
  simp [State.answer]
/-! ### Segments -/
@[simp] theorem modGroup_kept (s : State) (st gid : Nat) (f : Group → Group) : (State.modGroup s st gid f).kept = s.kept := by
  simp [State.modGroup]
/-! ### TaskOps -/
@[simp] theorem enqueue_kept (s : State) (core : Nat) (t : Task) : (State.enqueue s core t).kept = s.kept := by
  simp [State.enqueue]
@[simp] theorem setTask_kept (s : State) (core i : Nat) (t : Task) : (State.setTask s core i t).kept = s.kept := by
  simp [State.setTask]
@[simp] theorem dropTask_kept (s : State) (core i : Nat) : (State.dropTask s core i).kept = s.kept := by
  simp [State.dropTask]
@[simp] theorem putCodes_kept (s : State) (core : Nat) (o : OutTile) (cs scales : List (Nat × Nat)) : (State.putCodes s core o cs scales).1.kept = s.kept := by
  unfold State.putCodes
  try dsimp only
  repeat' first | with_reducible rfl | (with_reducible refine foldl_kept_eq (fun a b => ?_) ?_) | (with_reducible refine foldl_kept1_eq (fun a b => ?_) ?_) | (with_reducible refine foldr_kept_eq (fun a b => ?_) ?_) | (with_reducible refine elim_kept_eq (fun a => ?_) ?_) | (with_reducible refine elim_kept1_eq (fun a => ?_) ?_) | split | simp
@[simp] theorem flushOut_kept (s : State) (core : Nat) (d : List Byte) (o : OutTile) : (State.flushOut s core d o).1.kept = s.kept := by
  unfold State.flushOut; dsimp only
  repeat' split
  all_goals (simp (disch := (intros; dsimp only; (repeat' split) <;> simp)) [foldl_kept, foldl_kept1])
@[simp] theorem beginOuts_kept (s : State) (core : Nat) (r : Run) : (State.beginOuts s core r).1.kept = s.kept := by
  unfold State.beginOuts
  try dsimp only
  repeat' first | with_reducible rfl | (with_reducible refine foldl_kept_eq (fun a b => ?_) ?_) | (with_reducible refine foldl_kept1_eq (fun a b => ?_) ?_) | (with_reducible refine foldr_kept_eq (fun a b => ?_) ?_) | (with_reducible refine elim_kept_eq (fun a => ?_) ?_) | (with_reducible refine elim_kept1_eq (fun a => ?_) ?_) | split | simp
@[simp] theorem flushAll_kept (s : State) (core : Nat) (d : List Byte) (r : Run) : (State.flushAll s core d r).1.kept = s.kept := by
  unfold State.flushAll; dsimp only
  repeat' split
  all_goals (simp (disch := (intros; dsimp only; (repeat' split) <;> simp)) [foldl_kept, foldl_kept1])
@[simp] theorem meetEntry_kept (s : State) (core e ctx tid key : Nat) : (State.meetEntry s core e ctx tid key).1.kept = s.kept := by
  simp only [State.meetEntry]; repeat' split
  all_goals simp
@[simp] theorem runPass_kept (s : State) (core e ctx : Nat) (c : Context) (d : List Byte) (a b : Hdr × Nat) (blocks : List Nat) (o p : Nat) : (State.runPass s core e ctx c d a b blocks o p).1.kept = s.kept := by
  unfold State.runPass; dsimp only
  repeat' split
  all_goals (simp (disch := (intros; dsimp only; (repeat' split) <;> simp)) [foldl_kept, foldl_kept1])
@[simp] theorem meetKeys_kept (s : State) (core : Nat) (ks : List Nat) : (State.meetKeys s core ks).1.kept = s.kept := by
  unfold State.meetKeys; dsimp only
  repeat' split
  all_goals first | rfl | (simp; done) | (rw [foldl_kept] <;> simp <;> intros <;> (repeat' split) <;> simp)
@[simp] theorem loadShadow_kept (s : State) (core e : Nat) (c : Context) (d : List Byte) (b : Hdr × Nat) (blocks : List Nat) (o p : Nat) : (State.loadShadow s core e c d b blocks o p).1.kept = s.kept := by
  unfold State.loadShadow
  try dsimp only
  repeat' first | with_reducible rfl | (with_reducible refine foldl_kept_eq (fun a b => ?_) ?_) | (with_reducible refine foldl_kept1_eq (fun a b => ?_) ?_) | (with_reducible refine foldr_kept_eq (fun a b => ?_) ?_) | (with_reducible refine elim_kept_eq (fun a => ?_) ?_) | (with_reducible refine elim_kept1_eq (fun a => ?_) ?_) | split | simp
@[simp] theorem swapSets_kept (s : State) (core e : Nat) : (State.swapSets s core e).kept = s.kept := by
  unfold State.swapSets
  try dsimp only
  repeat' first | with_reducible rfl | (with_reducible refine foldl_kept_eq (fun a b => ?_) ?_) | (with_reducible refine foldl_kept1_eq (fun a b => ?_) ?_) | (with_reducible refine foldr_kept_eq (fun a b => ?_) ?_) | (with_reducible refine elim_kept_eq (fun a => ?_) ?_) | (with_reducible refine elim_kept1_eq (fun a => ?_) ?_) | split | simp
@[simp] theorem drainChunk_kept (s : State) (core e ctx : Nat) (c : Context) (d : List Byte) (blocks : List Nat) (o : Nat) (r : Run) : (State.drainChunk s core e ctx c d blocks o r).1.kept = s.kept := by
  unfold State.drainChunk
  try dsimp only
  repeat' first | with_reducible rfl | (with_reducible refine foldl_kept_eq (fun a b => ?_) ?_) | (with_reducible refine foldl_kept1_eq (fun a b => ?_) ?_) | (with_reducible refine foldr_kept_eq (fun a b => ?_) ?_) | (with_reducible refine elim_kept_eq (fun a => ?_) ?_) | (with_reducible refine elim_kept1_eq (fun a => ?_) ?_) | split | simp
@[simp] theorem runVecop_kept (s : State) (core : Nat) (c : Context) (d : List Byte) (r : Run) : (State.runVecop s core c d r).1.kept = s.kept := by
  unfold State.runVecop
  try dsimp only
  repeat' first | with_reducible rfl | (with_reducible refine foldl_kept_eq (fun a b => ?_) ?_) | (with_reducible refine foldl_kept1_eq (fun a b => ?_) ?_) | (with_reducible refine foldr_kept_eq (fun a b => ?_) ?_) | (with_reducible refine elim_kept_eq (fun a => ?_) ?_) | (with_reducible refine elim_kept1_eq (fun a => ?_) ?_) | split | simp
@[simp] theorem copyRead_kept (s : State) (core : Nat) (c : Context) (d : List Byte) (r : Run) (a : Hdr × Nat) (o : OutTile) : (State.copyRead s core c d r a o).1.kept = s.kept := by
  simp only [State.copyRead]; repeat' split
  all_goals simp
@[simp] theorem copyWrite_kept (s : State) (core : Nat) (d : List Byte) (r : Run) (a : Hdr × Nat) (o : OutTile) (stop : Nat) (vs : List Word) : (State.copyWrite s core d r a o stop vs).1.kept = s.kept := by
  unfold State.copyWrite; repeat' split
  all_goals simp
@[simp] theorem copyCut_kept (s : State) (core : Nat) (d : List Byte) (r : Run) (a : Hdr × Nat) (o : OutTile) (stop : Nat) (vs : List Word) (word : Nat) : (State.copyCut s core d r a o stop vs word).1.kept = s.kept := by
  unfold State.copyCut
  try dsimp only
  repeat' first | with_reducible rfl | (with_reducible refine foldl_kept_eq (fun a b => ?_) ?_) | (with_reducible refine foldl_kept1_eq (fun a b => ?_) ?_) | (with_reducible refine foldr_kept_eq (fun a b => ?_) ?_) | (with_reducible refine elim_kept_eq (fun a => ?_) ?_) | (with_reducible refine elim_kept1_eq (fun a => ?_) ?_) | split | simp
@[simp] theorem runTblload_kept (s : State) (core : Nat) (ctx : Nat) (t : Task) (r : Run) : (State.runTblload s core ctx t r).1.kept = s.kept := by
  simp only [State.runTblload]; repeat' split
  all_goals simp
@[simp] theorem endCycles_kept (s : State) (t : Task) : (State.endCycles s t).1.kept = s.kept := by
  unfold State.endCycles
  try dsimp only
  repeat' first | with_reducible rfl | (with_reducible refine foldl_kept_eq (fun a b => ?_) ?_) | (with_reducible refine foldl_kept1_eq (fun a b => ?_) ?_) | (with_reducible refine foldr_kept_eq (fun a b => ?_) ?_) | (with_reducible refine elim_kept_eq (fun a => ?_) ?_) | (with_reducible refine elim_kept1_eq (fun a => ?_) ?_) | split | simp
@[simp] theorem endFailed_kept (s : State) (core i : Nat) (t : Task) (st : Status) (detail cycles : Nat) (quiet : Bool) : (State.endFailed s core i t st detail cycles quiet).kept = s.kept := by
  simp [State.endFailed]
@[simp] theorem padOut_kept (s : State) (core : Nat) (o : OutTile) : (State.padOut s core o).1.kept = s.kept := by
  unfold State.padOut
  try dsimp only
  repeat' first | with_reducible rfl | (with_reducible refine foldl_kept_eq (fun a b => ?_) ?_) | (with_reducible refine foldl_kept1_eq (fun a b => ?_) ?_) | (with_reducible refine foldr_kept_eq (fun a b => ?_) ?_) | (with_reducible refine elim_kept_eq (fun a => ?_) ?_) | (with_reducible refine elim_kept1_eq (fun a => ?_) ?_) | split | simp
@[simp] theorem sealOuts_kept (s : State) (core : Nat) (r : Run) : (State.sealOuts s core r).1.kept = s.kept := by
  unfold State.sealOuts
  try dsimp only
  repeat' first | with_reducible rfl | (with_reducible refine foldl_kept_eq (fun a b => ?_) ?_) | (with_reducible refine foldl_kept1_eq (fun a b => ?_) ?_) | (with_reducible refine foldr_kept_eq (fun a b => ?_) ?_) | (with_reducible refine elim_kept_eq (fun a => ?_) ?_) | (with_reducible refine elim_kept1_eq (fun a => ?_) ?_) | split | simp
@[simp] theorem fillMasked_kept (s : State) (core : Nat) (c : Context) (d : List Byte) (r : Run) : (State.fillMasked s core c d r).1.kept = s.kept := by
  unfold State.fillMasked; repeat' split
  all_goals simp
@[simp] theorem sendSignals_kept (s : State) (ctx : Nat) (d : List Byte) : (State.sendSignals s ctx d).kept = s.kept := by
  simp [State.sendSignals]
@[simp] theorem closeOuts_kept (s : State) (core : Nat) (r : Run) : (State.closeOuts s core r).1.kept = s.kept := by
  unfold State.closeOuts
  try dsimp only
  repeat' first | with_reducible rfl | (with_reducible refine foldl_kept_eq (fun a b => ?_) ?_) | (with_reducible refine foldl_kept1_eq (fun a b => ?_) ?_) | (with_reducible refine foldr_kept_eq (fun a b => ?_) ?_) | (with_reducible refine elim_kept_eq (fun a => ?_) ?_) | (with_reducible refine elim_kept1_eq (fun a => ?_) ?_) | split | simp
@[simp] theorem endOk_kept (s : State) (core i : Nat) (t : Task) (r : Run) (cycles : Nat) : (State.endOk s core i t r cycles).kept = s.kept := by
  simp [State.endOk]
/-! ### StreamOps -/
@[simp] theorem setSlot_kept (s : State) (core sid : Nat) (x : Slot) : (State.setSlot s core sid x).kept = s.kept := by
  simp [State.setSlot]
@[simp] theorem setArm_kept (s : State) (core sid : Nat) (a : Arm) : (State.setArm s core sid a).kept = s.kept := by
  simp [State.setArm]
@[simp] theorem sendSig_kept (s : State) (ctx core idx inc : Nat) : (State.sendSig s ctx core idx inc).kept = s.kept := by
  simp [State.sendSig]
@[simp] theorem lowerVer_kept (s : State) (v : Option (Nat × Nat × Nat)) (n : Nat) : (State.lowerVer s v n).kept = s.kept := by
  unfold State.lowerVer
  try dsimp only
  repeat' first | with_reducible rfl | (with_reducible refine foldl_kept_eq (fun a b => ?_) ?_) | (with_reducible refine foldl_kept1_eq (fun a b => ?_) ?_) | (with_reducible refine foldr_kept_eq (fun a b => ?_) ?_) | (with_reducible refine elim_kept_eq (fun a => ?_) ?_) | (with_reducible refine elim_kept1_eq (fun a => ?_) ?_) | split | simp
@[simp] theorem lowerCount_kept (s : State) (a : Arm) (n : Nat) : (State.lowerCount s a n).kept = s.kept := by
  unfold State.lowerCount; repeat' split
  all_goals simp
@[simp] theorem abandon_kept (s : State) (core : Nat) (p : Nat → Outst → Bool) : (State.abandon s core p).kept = s.kept := by
  simp [State.abandon]
@[simp] theorem armRecord_kept (s : State) (core sid ctx : Nat) (a : Arm) (st : Status) (detail : Nat) : (State.armRecord s core sid ctx a st detail).kept = s.kept := by
  simp [State.armRecord]
@[simp] theorem letGo_kept (s : State) (ks : List KeptTile) : (State.letGo s ks).kept = s.kept := by
  unfold State.letGo
  try dsimp only
  repeat' first | with_reducible rfl | (with_reducible refine foldl_kept_eq (fun a b => ?_) ?_) | (with_reducible refine foldl_kept1_eq (fun a b => ?_) ?_) | (with_reducible refine foldr_kept_eq (fun a b => ?_) ?_) | (with_reducible refine elim_kept_eq (fun a => ?_) ?_) | (with_reducible refine elim_kept1_eq (fun a => ?_) ?_) | split | simp
@[simp] theorem memberFreed_kept (s : State) (core ctx group : Nat) : (State.memberFreed s core ctx group).kept = s.kept := by
  unfold State.memberFreed
  try dsimp only
  repeat' first | with_reducible rfl | (with_reducible refine foldl_kept_eq (fun a b => ?_) ?_) | (with_reducible refine foldl_kept1_eq (fun a b => ?_) ?_) | (with_reducible refine foldr_kept_eq (fun a b => ?_) ?_) | (with_reducible refine elim_kept_eq (fun a => ?_) ?_) | (with_reducible refine elim_kept1_eq (fun a => ?_) ?_) | split | simp
@[simp] theorem endArm_kept (s : State) (core sid : Nat) (st : Status) (detail : Nat) (quiet : Bool) : (State.endArm s core sid st detail quiet).kept = s.kept := by
  unfold State.endArm
  try dsimp only
  repeat' first | with_reducible rfl | (with_reducible refine foldl_kept_eq (fun a b => ?_) ?_) | (with_reducible refine foldl_kept1_eq (fun a b => ?_) ?_) | (with_reducible refine foldr_kept_eq (fun a b => ?_) ?_) | (with_reducible refine elim_kept_eq (fun a => ?_) ?_) | (with_reducible refine elim_kept1_eq (fun a => ?_) ?_) | split | simp
@[simp] theorem landHead_kept (s : State) (ctx : Nat) (t : McastTile) : (State.landHead s ctx t).kept = s.kept := by
  unfold State.landHead
  try dsimp only
  repeat' first | with_reducible rfl | (with_reducible refine foldl_kept_eq (fun a b => ?_) ?_) | (with_reducible refine foldl_kept1_eq (fun a b => ?_) ?_) | (with_reducible refine foldr_kept_eq (fun a b => ?_) ?_) | (with_reducible refine elim_kept_eq (fun a => ?_) ?_) | (with_reducible refine elim_kept1_eq (fun a => ?_) ?_) | split | simp
@[simp] theorem mcastFail_kept (s : State) (ctx group : Nat) (led : Bool) (st : Status) (detail : Nat) : (State.mcastFail s ctx group led st detail).kept = s.kept := by
  unfold State.mcastFail
  try dsimp only
  repeat' first | with_reducible rfl | (with_reducible refine foldl_kept_eq (fun a b => ?_) ?_) | (with_reducible refine foldl_kept1_eq (fun a b => ?_) ?_) | (with_reducible refine foldr_kept_eq (fun a b => ?_) ?_) | (with_reducible refine elim_kept_eq (fun a => ?_) ?_) | (with_reducible refine elim_kept1_eq (fun a => ?_) ?_) | split | simp
@[simp] theorem failArm_kept (s : State) (core sid : Nat) (st : Status) (detail : Nat) : (State.failArm s core sid st detail).kept = s.kept := by
  unfold State.failArm; repeat' split
  all_goals simp
@[simp] theorem headerFault_kept (s : State) (core ctx n cva : Nat) : (State.headerFault s core ctx n cva).kept = s.kept := by
  simp [State.headerFault]
@[simp] theorem tryEffect_kept (s : State) (core sid : Nat) : (State.tryEffect s core sid).kept = s.kept := by
  unfold State.tryEffect; repeat' split
  all_goals simp
@[simp] theorem takeArm_kept (s : State) (core ctx : Nat) (d : List Byte) (origin : Option (Nat × Nat)) : (State.takeArm s core ctx d origin).kept = s.kept := by
  unfold State.takeArm; repeat' split
  all_goals simp
@[simp] theorem sendCredits_kept (s : State) (core sid ctx : Nat) (x0 : Nat) (x1 : Arm) : (State.sendCredits s core sid ctx x0 x1).kept = s.kept := by
  induction x0 generalizing s x1 with
  | zero => simp [State.sendCredits]
  | succ n ih => unfold State.sendCredits; split <;> simp [ih]
@[simp] theorem pokeKept_kept (s : State) (core sid : Nat) : (State.pokeKept s core sid).kept = s.kept := by
  unfold State.pokeKept
  try dsimp only
  repeat' first | with_reducible rfl | (with_reducible refine foldl_kept_eq (fun a b => ?_) ?_) | (with_reducible refine foldl_kept1_eq (fun a b => ?_) ?_) | (with_reducible refine foldr_kept_eq (fun a b => ?_) ?_) | (with_reducible refine elim_kept_eq (fun a => ?_) ?_) | (with_reducible refine elim_kept1_eq (fun a => ?_) ?_) | split | simp
@[simp] theorem pokeSlot_kept (s0 : State) (core sid : Nat) : (State.pokeSlot s0 core sid).kept = s0.kept := by
  simp only [State.pokeSlot]; repeat' split
  all_goals simp
@[simp] theorem pokeAll_kept (s : State) : (State.pokeAll s).kept = s.kept := by
  unfold State.pokeAll
  try dsimp only
  repeat' first | with_reducible rfl | (with_reducible refine foldl_kept_eq (fun a b => ?_) ?_) | (with_reducible refine foldl_kept1_eq (fun a b => ?_) ?_) | (with_reducible refine foldr_kept_eq (fun a b => ?_) ?_) | (with_reducible refine elim_kept_eq (fun a => ?_) ?_) | (with_reducible refine elim_kept1_eq (fun a => ?_) ?_) | split | simp
@[simp] theorem ringWrite_kept (s : State) (core : Nat) (key off : Nat) (bs : List Byte) : (State.ringWrite s core key off bs).1.kept = s.kept := by
  simp [State.ringWrite]
@[simp] theorem writePieces_kept (s : State) (core key : Nat) (ps : List (Nat × List Byte)) : (State.writePieces s core key ps).1.kept = s.kept := by
  unfold State.writePieces
  try dsimp only
  repeat' first | with_reducible rfl | (with_reducible refine foldl_kept_eq (fun a b => ?_) ?_) | (with_reducible refine foldl_kept1_eq (fun a b => ?_) ?_) | (with_reducible refine foldr_kept_eq (fun a b => ?_) ?_) | (with_reducible refine elim_kept_eq (fun a => ?_) ?_) | (with_reducible refine elim_kept1_eq (fun a => ?_) ?_) | split | simp
@[simp] theorem sendHeads_kept (s : State) (core : Nat) (a : Arm) (k : Nat) (h : List Byte) : (State.sendHeads s core a k h).kept = s.kept := by
  unfold State.sendHeads
  try dsimp only
  repeat' first | with_reducible rfl | (with_reducible refine foldl_kept_eq (fun a b => ?_) ?_) | (with_reducible refine foldl_kept1_eq (fun a b => ?_) ?_) | (with_reducible refine foldr_kept_eq (fun a b => ?_) ?_) | (with_reducible refine elim_kept_eq (fun a => ?_) ?_) | (with_reducible refine elim_kept1_eq (fun a => ?_) ?_) | split | simp
@[simp] theorem openIn_kept (s : State) (core ctx : Nat) (c : Context) (a : Arm) (k : Nat) : (s.openIn core ctx c a k).s.kept = s.kept := by
  unfold State.openIn; dsimp only; (repeat' split) <;> simp
@[simp] theorem outHeader_kept (s : State) (core ctx : Nat) (a : Arm) (k : Nat) : (State.outHeader s core ctx a k).1.kept = s.kept := by
  simp only [State.outHeader]; repeat' split
  all_goals simp
@[simp] theorem openOut_kept (s : State) (core ctx : Nat) (c : Context) (a : Arm) (k : Nat) : (s.openOut core ctx c a k).s.kept = s.kept := by
  unfold State.openOut; dsimp only; (repeat' split) <;> simp
@[simp] theorem openRow_kept (s : State) (core : Nat) (a : Arm) (k : Nat) (t : TileX) (l : Layout) (v : Int) : (State.openRow s core a k t l v).1.1.kept = s.kept := by
  unfold State.openRow
  try dsimp only
  repeat' first | with_reducible rfl | (with_reducible refine foldl_kept_eq (fun a b => ?_) ?_) | (with_reducible refine foldl_kept1_eq (fun a b => ?_) ?_) | (with_reducible refine foldr_kept_eq (fun a b => ?_) ?_) | (with_reducible refine elim_kept_eq (fun a => ?_) ?_) | (with_reducible refine elim_kept1_eq (fun a => ?_) ?_) | split | simp
@[simp] theorem sigRun_kept (s : State) (ctx : Nat) (x0 : Nat) (x1 : Arm) : (State.sigRun s ctx x0 x1).1.kept = s.kept := by
  induction x0 generalizing s x1 with
  | zero => rfl
  | succ n ih => unfold State.sigRun; split
                 · dsimp only; rw [ih]; split <;> simp
                 · rfl
@[simp] theorem tileDone_kept (s : State) (core sid ctx : Nat) (a : Arm) (k bytes : Nat) : (State.tileDone s core sid ctx a k bytes).kept = s.kept := by
  simp [State.tileDone]
@[simp] theorem finishIn_kept (s : State) (core sid ctx : Nat) (a : Arm) (k : Nat) (t : TileX) : (State.finishIn s core sid ctx a k t).kept = s.kept := by
  unfold State.finishIn
  try dsimp only
  repeat' first | with_reducible rfl | (with_reducible refine foldl_kept_eq (fun a b => ?_) ?_) | (with_reducible refine foldl_kept1_eq (fun a b => ?_) ?_) | (with_reducible refine foldr_kept_eq (fun a b => ?_) ?_) | (with_reducible refine elim_kept_eq (fun a => ?_) ?_) | (with_reducible refine elim_kept1_eq (fun a => ?_) ?_) | split | simp
@[simp] theorem tileStep_kept (s : State) (core sid ctx : Nat) (a : Arm) (k : Nat) (t : TileX) : (State.tileStep s core sid ctx a k t).kept = s.kept := by
  simp [State.tileStep]
@[simp] theorem accBody_kept (s : State) (core sid ctx : Nat) (a : Arm) (k : Nat) (t : TileX) (fh : List Byte) : (State.accBody s core sid ctx a k t fh).kept = s.kept := by
  unfold State.accBody
  try dsimp only
  repeat' first | with_reducible rfl | (with_reducible refine foldl_kept_eq (fun a b => ?_) ?_) | (with_reducible refine foldl_kept1_eq (fun a b => ?_) ?_) | (with_reducible refine foldr_kept_eq (fun a b => ?_) ?_) | (with_reducible refine elim_kept_eq (fun a => ?_) ?_) | (with_reducible refine elim_kept1_eq (fun a => ?_) ?_) | split | simp
@[simp] theorem prepare_kept (s : State) (core sid ctx : Nat) (c : Context) (n : Nat) : (s.prepare core sid ctx c n).s.kept = s.kept := by
  induction n generalizing s with
  | zero => rfl
  | succ n ih => unfold State.prepare; dsimp only; (repeat' split) <;> simp [ih]
@[simp] theorem originate_kept (s : State) (p : List Byte) : (State.originate s p).kept = s.kept := by
  unfold State.originate
  try dsimp only
  repeat' first | with_reducible rfl | (with_reducible refine foldl_kept_eq (fun a b => ?_) ?_) | (with_reducible refine foldl_kept1_eq (fun a b => ?_) ?_) | (with_reducible refine foldr_kept_eq (fun a b => ?_) ?_) | (with_reducible refine elim_kept_eq (fun a => ?_) ?_) | (with_reducible refine elim_kept1_eq (fun a => ?_) ?_) | split | simp
@[simp] theorem takeBytes_kept (s : State) (core key len : Nat) (ps : List (Nat × Nat × Nat)) : (State.takeBytes s core key len ps).1.kept = s.kept := by
  unfold State.takeBytes
  try dsimp only
  repeat' first | with_reducible rfl | (with_reducible refine foldl_kept_eq (fun a b => ?_) ?_) | (with_reducible refine foldl_kept1_eq (fun a b => ?_) ?_) | (with_reducible refine foldr_kept_eq (fun a b => ?_) ?_) | (with_reducible refine elim_kept_eq (fun a => ?_) ?_) | (with_reducible refine elim_kept1_eq (fun a => ?_) ?_) | split | simp
@[simp] theorem reqData_kept (s : State) (core : Nat) (a : Arm) (k : Nat) (t : TileX) (r : Req) : (State.reqData s core a k t r).1.kept = s.kept := by
  unfold State.reqData; dsimp only
  repeat' split
  all_goals (simp (disch := (intros; dsimp only; (repeat' split) <;> simp)) [foldl_kept, foldl_kept1])
@[simp] theorem holdTag_kept (s : State) (core t : Nat) (bg : Bool) (o : Outst) : (State.holdTag s core t bg o).kept = s.kept := by
  unfold State.holdTag
  try dsimp only
  repeat' first | with_reducible rfl | (with_reducible refine foldl_kept_eq (fun a b => ?_) ?_) | (with_reducible refine foldl_kept1_eq (fun a b => ?_) ?_) | (with_reducible refine foldr_kept_eq (fun a b => ?_) ?_) | (with_reducible refine elim_kept_eq (fun a => ?_) ?_) | (with_reducible refine elim_kept1_eq (fun a => ?_) ?_) | split | simp
@[simp] theorem issueReq_kept (s : State) (core sid ctx : Nat) (a : Arm) (k : Nat) (r : Req) (t : Nat) : (State.issueReq s core sid ctx a k r t).kept = s.kept := by
  simp only [State.issueReq]; repeat' split
  all_goals simp
@[simp] theorem issueCopy_kept (s : State) (core i t b : Nat) : (State.issueCopy s core i t b).kept = s.kept := by
  unfold State.issueCopy
  try dsimp only
  repeat' first | with_reducible rfl | (with_reducible refine foldl_kept_eq (fun a b => ?_) ?_) | (with_reducible refine foldl_kept1_eq (fun a b => ?_) ?_) | (with_reducible refine foldr_kept_eq (fun a b => ?_) ?_) | (with_reducible refine elim_kept_eq (fun a => ?_) ?_) | (with_reducible refine elim_kept1_eq (fun a => ?_) ?_) | split | simp
theorem candidates_kept (s : State) (core : Nat) : ∀ x ∈ s.candidates core, x.2.2.2.s.kept = s.kept := by
  intro x hx
  simp only [State.candidates, List.mem_filterMap] at hx
  obtain ⟨p, -, hp⟩ := hx
  split at hp
  · split at hp
    · cases hp
    · cases hp; simp
  · cases hp
theorem cands_kept (s : State) (core ctx : Nat) (pr : Prep) : ∀ c ∈ s.cands core, c.act = .inl (ctx, pr) → pr.s.kept = s.kept := by
  intro c hc h
  simp only [State.cands, List.mem_append, List.mem_map, List.mem_filter] at hc
  rcases hc with ⟨x, ⟨hx, -⟩, rfl⟩ | ⟨x, -, rfl⟩
  · simp only [Sum.inl.injEq, Prod.mk.injEq] at h
    rw [← h.2]; exact candidates_kept s core x hx
  · cases h
theorem foldl_pick_mem {β : Type} (f : β → β → Bool) (t : List β) (b : β) : t.foldl (fun b y => if f y b then y else b) b ∈ b :: t := by
  induction t generalizing b with
  | nil => exact List.mem_cons_self
  | cons y t ih =>
    rw [List.foldl_cons]
    split
    · exact List.mem_cons_of_mem _ (ih y)
    · rcases List.mem_cons.mp (ih b) with h | h
      · rw [h]; exact List.mem_cons_self
      · exact List.mem_cons_of_mem _ (List.mem_cons_of_mem _ h)
theorem chooseCand_mem (rr : Nat) (cs : List Cand) (c : Cand) (h : chooseCand rr cs = some c) : c ∈ cs := by
  unfold chooseCand at h
  split at h
  · rename_i x t hx
    cases h
    exact List.mem_of_mem_filter (hx ▸ foldl_pick_mem Cand.better t x)
  · split at h
    · rename_i x hx; cases h; exact List.mem_of_find?_eq_some hx
    · exact List.mem_of_head? h
@[simp] theorem streamIssue_kept (s : State) (core : Nat) : (State.streamIssue s core).kept = s.kept := by
  unfold State.streamIssue
  split
  · simp
  · split
    · rename_i x hx; exact candidates_kept s core x (List.mem_of_find?_eq_some hx)
    · split
      · rfl
      · rename_i c hc
        split
        · exact elim_kept_eq (fun a => by simp) rfl
        · rename_i ctx pr ha
          have hm := cands_kept s core ctx pr c (chooseCand_mem _ _ _ hc) ha
          split
          · simpa using hm
          · exact hm
@[simp] theorem staleResp_kept (s : State) (core sid : Nat) : (State.staleResp s core sid).kept = s.kept := by
  simp [State.staleResp]
@[simp] theorem headResp_kept (s : State) (core sid ctx : Nat) (a : Arm) (k : Nat) (t : TileX) (data : List Byte) : (State.headResp s core sid ctx a k t data).kept = s.kept := by
  simp only [State.headResp]; repeat' split
  all_goals simp
@[simp] theorem dataResp_kept (s : State) (core sid ctx : Nat) (a : Arm) (k : Nat) (t : TileX) (r : Req) (data : List Byte) : (State.dataResp s core sid ctx a k t r data).kept = s.kept := by
  unfold State.dataResp; dsimp only
  repeat' split
  all_goals (simp (disch := (intros; dsimp only; (repeat' split) <;> simp)) [foldl_kept, foldl_kept1])
@[simp] theorem copyResp_kept (s : State) (core ctx : Nat) : (State.copyResp s core ctx).kept = s.kept := by
  unfold State.copyResp
  try dsimp only
  repeat' first | with_reducible rfl | (with_reducible refine foldl_kept_eq (fun a b => ?_) ?_) | (with_reducible refine foldl_kept1_eq (fun a b => ?_) ?_) | (with_reducible refine foldr_kept_eq (fun a b => ?_) ?_) | (with_reducible refine elim_kept_eq (fun a => ?_) ?_) | (with_reducible refine elim_kept1_eq (fun a => ?_) ?_) | split | simp
@[simp] theorem takeResp_kept (s : State) (p : Resp) : (State.takeResp s p).kept = s.kept := by
  simp only [State.takeResp]; repeat' split
  all_goals simp
/-! ### NmuOps -/
@[simp] theorem correct_kept (s : State) (detail sec mask : Nat) : (State.correct s detail sec mask).kept = s.kept := by
  simp [State.correct]
@[simp] theorem uncorrectable_kept (s : State) (detail sec : Nat) : (State.uncorrectable s detail sec).kept = s.kept := by
  simp [State.uncorrectable]
@[simp] theorem flipSectors_kept (s : State) (fl : List (Nat × Nat)) : (State.flipSectors s fl).kept = s.kept := by
  simp [State.flipSectors]
@[simp] theorem fresh_kept (s : State) (k n : Nat) : (State.fresh s k n).kept = s.kept := by
  simp [State.fresh]
@[simp] theorem cacheMeta_kept (s : State) (u : Nat) : (State.cacheMeta s u).kept = s.kept := by
  unfold State.cacheMeta
  try dsimp only
  repeat' first | with_reducible rfl | (with_reducible refine foldl_kept_eq (fun a b => ?_) ?_) | (with_reducible refine foldl_kept1_eq (fun a b => ?_) ?_) | (with_reducible refine foldr_kept_eq (fun a b => ?_) ?_) | (with_reducible refine elim_kept_eq (fun a => ?_) ?_) | (with_reducible refine elim_kept1_eq (fun a => ?_) ?_) | split | simp
@[simp] theorem meetSectors_kept (s : State) (ok bad : Nat) (es : List (Nat × Nat)) : (State.meetSectors s ok bad es).1.kept = s.kept := by
  unfold State.meetSectors
  apply foldl_kept; intro a b; (repeat' split) <;> simp
@[simp] theorem meetUnit_kept (s : State) (ok bad u : Nat) : (State.meetUnit s ok bad u).1.kept = s.kept := by
  unfold State.meetUnit
  try dsimp only
  repeat' first | with_reducible rfl | (with_reducible refine foldl_kept_eq (fun a b => ?_) ?_) | (with_reducible refine foldl_kept1_eq (fun a b => ?_) ?_) | (with_reducible refine foldr_kept_eq (fun a b => ?_) ?_) | (with_reducible refine elim_kept_eq (fun a => ?_) ?_) | (with_reducible refine elim_kept1_eq (fun a => ?_) ?_) | split | simp
@[simp] theorem stackRead_kept (s : State) (k n : Nat) (comp : Bool) : (State.stackRead s k n comp).1.kept = s.kept := by
  unfold State.stackRead; dsimp only
  repeat' split
  all_goals (simp (disch := (intros; dsimp only; (repeat' split) <;> simp)) [foldl_kept, foldl_kept1])
@[simp] theorem noteMeta_kept (s : State) (u : Nat) : (State.noteMeta s u).kept = s.kept := by
  unfold State.noteMeta
  try dsimp only
  repeat' first | with_reducible rfl | (with_reducible refine foldl_kept_eq (fun a b => ?_) ?_) | (with_reducible refine foldl_kept1_eq (fun a b => ?_) ?_) | (with_reducible refine foldr_kept_eq (fun a b => ?_) ?_) | (with_reducible refine elim_kept_eq (fun a => ?_) ?_) | (with_reducible refine elim_kept1_eq (fun a => ?_) ?_) | split | simp
@[simp] theorem noteUnit_kept (s : State) (u : Nat) : (State.noteUnit s u).kept = s.kept := by
  simp [State.noteUnit]
@[simp] theorem writeUnit_kept (s : State) (k : Nat) (bs : List Byte) : (State.writeUnit s k bs).1.kept = s.kept := by
  simp only [State.writeUnit]; repeat' split
  all_goals simp
@[simp] theorem stackWrite_kept (s : State) (k : Nat) (bs : List Byte) (comp : Bool) : (State.stackWrite s k bs comp).1.kept = s.kept := by
  unfold State.stackWrite
  try dsimp only
  repeat' first | with_reducible rfl | (with_reducible refine foldl_kept_eq (fun a b => ?_) ?_) | (with_reducible refine foldl_kept1_eq (fun a b => ?_) ?_) | (with_reducible refine foldr_kept_eq (fun a b => ?_) ?_) | (with_reducible refine elim_kept_eq (fun a => ?_) ?_) | (with_reducible refine elim_kept1_eq (fun a => ?_) ?_) | split | simp
@[simp] theorem reply_kept (s : State) (r : NReq) (st : Status) (detail : Nat) (data : List Byte) : (State.reply s r st detail data).kept = s.kept := by
  simp [State.reply]
@[simp] theorem pull_kept (s : State) (r : NReq) : (State.pull s r).1.kept = s.kept := by
  unfold State.pull
  try dsimp only
  repeat' first | with_reducible rfl | (with_reducible refine foldl_kept_eq (fun a b => ?_) ?_) | (with_reducible refine foldl_kept1_eq (fun a b => ?_) ?_) | (with_reducible refine foldr_kept_eq (fun a b => ?_) ?_) | (with_reducible refine elim_kept_eq (fun a => ?_) ?_) | (with_reducible refine elim_kept1_eq (fun a => ?_) ?_) | split | simp
@[simp] theorem accBlock_kept (s : State) (a : AccReq) (comp : Bool) (b : AccBlock) : (State.accBlock s a comp b).1.kept = s.kept := by
  have hr : ∀ (ts : List (Nat × Nat)) (x : State × Bool),
      (ts.foldl (fun (x : State × Bool) t => let y := x.1.stackRead t.1 t.2 comp; (y.1, x.2 || y.2)) x).1.kept = x.1.kept := by
    intro ts x; apply foldl_kept1; intro a t; simp
  unfold State.accBlock; dsimp only
  split
  · exact hr _ _
  · have hw : ∀ (l : List ((Nat × Word) × Nat)) (x : State),
        (l.foldl (fun x p => ((b.keys[p.1.1]?).map fun k => (x.stackWrite k (leBytes (a.fmt.width / 8) p.2) comp).1).getD x) x).kept = x.kept := by
      intro l x; apply foldl_kept; intro y p; cases b.keys[p.1.1]? <;> simp
    cases b.scale with
    | none => exact (hw _ _).trans (hr _ _)
    | some k => simp only [Option.elim]; rw [stackWrite_kept]; exact (hw _ _).trans (hr _ _)
@[simp] theorem accFlags_kept (s : State) (st layer : Nat) (f : Flags) : (State.accFlags s st layer f).kept = s.kept := by
  simp [State.accFlags]
@[simp] theorem serveHead_kept (s : State) (r : NReq) (l : Ledger) (fin : Bool) (count cva : Nat) : (State.serveHead s r l fin count cva).kept = s.kept := by
  unfold State.serveHead
  try dsimp only
  repeat' first | with_reducible rfl | (with_reducible refine foldl_kept_eq (fun a b => ?_) ?_) | (with_reducible refine foldl_kept1_eq (fun a b => ?_) ?_) | (with_reducible refine foldr_kept_eq (fun a b => ?_) ?_) | (with_reducible refine elim_kept_eq (fun a => ?_) ?_) | (with_reducible refine elim_kept1_eq (fun a => ?_) ?_) | split | simp
@[simp] theorem serveAccum_kept (s : State) (r : NReq) (a : AccReq) : (State.serveAccum s r a).kept = s.kept := by
  unfold State.serveAccum; dsimp only
  repeat' split
  all_goals (simp (disch := (intros; dsimp only; (repeat' split) <;> simp)) [foldl_kept, foldl_kept1])
@[simp] theorem serveRead_kept (s : State) (r : NReq) : (State.serveRead s r).1.kept = s.kept := by
  unfold State.serveRead
  try dsimp only
  repeat' first | with_reducible rfl | (with_reducible refine foldl_kept_eq (fun a b => ?_) ?_) | (with_reducible refine foldl_kept1_eq (fun a b => ?_) ?_) | (with_reducible refine foldr_kept_eq (fun a b => ?_) ?_) | (with_reducible refine elim_kept_eq (fun a => ?_) ?_) | (with_reducible refine elim_kept1_eq (fun a => ?_) ?_) | split | simp
@[simp] theorem answerRead_kept (s : State) (r : NReq) (got : List (Nat × Bool)) : (State.answerRead s r got).kept = s.kept := by
  unfold State.answerRead
  try dsimp only
  repeat' first | with_reducible rfl | (with_reducible refine foldl_kept_eq (fun a b => ?_) ?_) | (with_reducible refine foldl_kept1_eq (fun a b => ?_) ?_) | (with_reducible refine foldr_kept_eq (fun a b => ?_) ?_) | (with_reducible refine elim_kept_eq (fun a => ?_) ?_) | (with_reducible refine elim_kept1_eq (fun a => ?_) ?_) | split | simp
@[simp] theorem shareRead_kept (s : State) (st : Nat) (r : NReq) (got : List (Nat × Bool)) : (State.shareRead s st r got).kept = s.kept := by
  unfold State.shareRead
  try dsimp only
  repeat' first | with_reducible rfl | (with_reducible refine foldl_kept_eq (fun a b => ?_) ?_) | (with_reducible refine foldl_kept1_eq (fun a b => ?_) ?_) | (with_reducible refine foldr_kept_eq (fun a b => ?_) ?_) | (with_reducible refine elim_kept_eq (fun a => ?_) ?_) | (with_reducible refine elim_kept1_eq (fun a => ?_) ?_) | split | simp
@[simp] theorem serve_kept (s : State) (st : Nat) (r : NReq) : (State.serve s st r).kept = s.kept := by
  unfold State.serve; repeat' split
  all_goals simp
@[simp] theorem serveWindow_kept (st n : Nat) (s : State) : (State.serveWindow st n s).kept = s.kept := by
  induction n generalizing s with
  | zero => rfl
  | succ n ih => unfold State.serveWindow; split <;> simp [ih]
@[simp] theorem serveAll_kept (s : State) : (State.serveAll s).kept = s.kept := by
  unfold State.serveAll
  exact foldl_kept _ (fun a b => serveWindow_kept _ _ _) _ _
@[simp] theorem anyRead_kept (s : State) (k n : Nat) (comp : Bool) : (State.anyRead s k n comp).1.kept = s.kept := by
  unfold State.anyRead; repeat' split
  all_goals simp
@[simp] theorem anyWrite_kept (s : State) (k : Nat) (bs : List Byte) (comp : Bool) : (State.anyWrite s k bs comp).1.kept = s.kept := by
  unfold State.anyWrite; repeat' split
  all_goals simp
@[simp] theorem putSet_kept (s : State) (part set : Nat) (x : OptSet) : (State.putSet s part set x).kept = s.kept := by
  simp [State.putSet]
@[simp] theorem modSet_kept (s : State) (part set : Nat) (f : OptSet → OptSet) : (State.modSet s part set f).kept = s.kept := by
  simp [State.modSet]
@[simp] theorem putTile_kept (s : State) (k : Nat) (bs : List Byte) : (State.putTile s k bs).1.kept = s.kept := by
  unfold State.putTile
  try dsimp only
  repeat' first | with_reducible rfl | (with_reducible refine foldl_kept_eq (fun a b => ?_) ?_) | (with_reducible refine foldl_kept1_eq (fun a b => ?_) ?_) | (with_reducible refine foldr_kept_eq (fun a b => ?_) ?_) | (with_reducible refine elim_kept_eq (fun a => ?_) ?_) | (with_reducible refine elim_kept1_eq (fun a => ?_) ?_) | split | simp
@[simp] theorem writeCopies_kept (s : State) (g : Group) (v t ep : Nat) (val : Nat → Nat → Word) : (State.writeCopies s g v t ep val).1.kept = s.kept := by
  unfold State.writeCopies
  try dsimp only
  repeat' first | with_reducible rfl | (with_reducible refine foldl_kept_eq (fun a b => ?_) ?_) | (with_reducible refine foldl_kept1_eq (fun a b => ?_) ?_) | (with_reducible refine foldr_kept_eq (fun a b => ?_) ?_) | (with_reducible refine elim_kept_eq (fun a => ?_) ?_) | (with_reducible refine elim_kept1_eq (fun a => ?_) ?_) | split | simp
@[simp] theorem clearGrads_kept (s : State) (g : Group) (ep : Nat) : (State.clearGrads s g ep).kept = s.kept := by
  unfold State.clearGrads
  apply foldl_kept; intro a b; (repeat' split) <;> simp
@[simp] theorem groupErr_kept (s : State) (part set gid stack : Nat) (st : Status) (detail : Nat) : (State.groupErr s part set gid stack st detail).kept = s.kept := by
  unfold State.groupErr
  try dsimp only
  repeat' first | with_reducible rfl | (with_reducible refine foldl_kept_eq (fun a b => ?_) ?_) | (with_reducible refine foldl_kept1_eq (fun a b => ?_) ?_) | (with_reducible refine foldr_kept_eq (fun a b => ?_) ?_) | (with_reducible refine elim_kept_eq (fun a => ?_) ?_) | (with_reducible refine elim_kept1_eq (fun a => ?_) ?_) | split | simp
@[simp] theorem sectorErr_kept (s : State) (part set gid stack : Nat) : (State.sectorErr s part set gid stack).kept = s.kept := by
  unfold State.sectorErr
  try dsimp only
  repeat' first | with_reducible rfl | (with_reducible refine foldl_kept_eq (fun a b => ?_) ?_) | (with_reducible refine foldl_kept1_eq (fun a b => ?_) ?_) | (with_reducible refine foldr_kept_eq (fun a b => ?_) ?_) | (with_reducible refine elim_kept_eq (fun a => ?_) ?_) | (with_reducible refine elim_kept1_eq (fun a => ?_) ?_) | split | simp
@[simp] theorem tileIn_kept (r : KRun) (g : Group) (gid stack epoch t : Nat) : (r.tileIn g gid stack epoch t).s.kept = r.s.kept := by
  unfold KRun.tileIn; dsimp only; (repeat' split) <;> simp
@[simp] theorem readIn_kept (r : KRun) (g : Group) (gid stack : Nat) (rs : List (Nat × Nat)) : (r.readIn g gid stack rs).s.kept = r.s.kept := by
  have h : ∀ x : State × Bool, (rs.foldl (fun (a : State × Bool) p => let y := a.1.stackRead p.1 p.2 false; (y.1, a.2 || y.2)) x).1.kept = x.1.kept := by
    intro x; apply foldl_kept1; intro a p; simp
  unfold KRun.readIn; dsimp only; split
  · simpa using h (r.s, false)
  · exact h (r.s, false)
@[simp] theorem writeOutK_kept (r : KRun) (g : Group) (gid stack : Nat) (ws : List (Nat × List Word)) : (r.writeOut g gid stack ws).s.kept = r.s.kept := by
  have h : ∀ x : State × Bool, (ws.foldl (fun (a : State × Bool) p =>
      let y := a.1.stackWrite p.1 (p.2.flatMap fun w => leBytes 4 w.toNat) false; (y.1, a.2 || y.2)) x).1.kept = x.1.kept := by
    intro x; apply foldl_kept1; intro a p; simp
  unfold KRun.writeOut; dsimp only; split
  · simpa using h (r.s, false)
  · exact h (r.s, false)
@[simp] theorem pass1_kept (g : Group) (gid stack epoch : Nat) (k : Nat → Word) (t : Nat) (r : KRun × Nat) :
    (KRun.pass1 g gid stack epoch k t r).1.s.kept = r.1.s.kept := by
  unfold KRun.pass1; dsimp only; (repeat' split) <;> simp
@[simp] theorem facStart_kept (r : KRun) (g : Group) (gid stack epoch : Nat) (k : Nat → Word) : (r.facStart g gid stack epoch k).s.kept = r.s.kept := by
  have h : ∀ (l : List Nat) (x : KRun × Nat), (l.foldl (fun a t => KRun.pass1 g gid stack epoch k t a) x).1.s.kept = x.1.s.kept := by
    intro l
    induction l with
    | nil => intro x; rfl
    | cons t l ih => intro x; rw [List.foldl_cons, ih, pass1_kept]
  unfold KRun.facStart; dsimp only; (repeat' split) <;> simp [h]
@[simp] theorem inputs_kept (r : KRun) (g : Group) (gid stack epoch t : Nat) : (r.inputs g gid stack epoch t).s.kept = r.s.kept := by
  unfold KRun.inputs; dsimp only; (repeat' split) <;> simp
@[simp] theorem outputs_kept (r : KRun) (g : Group) (gid stack : Nat) (step : List Byte) (fac : (Nat → FW) × (Nat → FW) × FW) (t : Nat) :
    (r.outputs g gid stack step fac t).s.kept = r.s.kept := by
  unfold KRun.outputs; simp
@[simp] theorem copies_kept (r : KRun) (g : Group) (gid stack v ep t : Nat) : (r.copies g gid stack v ep t).s.kept = r.s.kept := by
  unfold KRun.copies; dsimp only; split <;> simp
@[simp] theorem tileK_kept (g : Group) (gid stack : Nat) (step : List Byte) (v ep epoch : Nat) (fac : (Nat → FW) × (Nat → FW) × FW) (t : Nat) (r : KRun) :
    (KRun.tile g gid stack step v ep epoch fac t r).s.kept = r.s.kept := by
  unfold KRun.tile; dsimp only; (repeat' split) <;> simp
@[simp] theorem runKernel_kept (s : State) (g : Group) (gid stack : Nat) (step : List Byte) (v ep epoch : Nat) :
    (s.runKernel g gid stack step v ep epoch).s.kept = s.kept := by
  have h : ∀ (fac : (Nat → FW) × (Nat → FW) × FW) (l : List Nat) (r : KRun),
      (l.foldl (fun a t => KRun.tile g gid stack step v ep epoch fac t a) r).s.kept = r.s.kept := by
    intro fac l
    induction l with
    | nil => intro r; rfl
    | cons t l ih => intro r; rw [List.foldl_cons, ih, tileK_kept]
  unfold State.runKernel; dsimp only; rw [stick_kept, h]; split <;> simp
@[simp] theorem modGroups_kept (s : State) (part set : Nat) (f : Group → Group) : (State.modGroups s part set f).kept = s.kept := by
  unfold State.modGroups
  apply foldl_kept; intro a b; (repeat' split) <;> simp
@[simp] theorem grantClaims_kept (s : State) : (State.grantClaims s).kept = s.kept := by
  unfold State.grantClaims
  apply foldl_kept; intro a b; (repeat' split) <;> simp
@[simp] theorem nmuResolve_kept (s : State) (part set : Nat) (commit : Bool) (ep : Nat) : (State.nmuResolve s part set commit ep).kept = s.kept := by
  unfold State.nmuResolve
  try dsimp only
  repeat' first | with_reducible rfl | (with_reducible refine foldl_kept_eq (fun a b => ?_) ?_) | (with_reducible refine foldl_kept1_eq (fun a b => ?_) ?_) | (with_reducible refine foldr_kept_eq (fun a b => ?_) ?_) | (with_reducible refine elim_kept_eq (fun a => ?_) ?_) | (with_reducible refine elim_kept1_eq (fun a => ?_) ?_) | split | simp
/-! ### LinkOps -/
@[simp] theorem setPort_kept (s : State) (n : Nat) (p : Port) : (State.setPort s n p).kept = s.kept := by
  simp [State.setPort]
@[simp] theorem modPort_kept (s : State) (n : Nat) (f : Port → Port) : (State.modPort s n f).kept = s.kept := by
  simp [State.modPort]
@[simp] theorem sendFrame_kept (s : State) (n l : Nat) : (State.sendFrame s n l).kept = s.kept := by
  unfold State.sendFrame
  try dsimp only
  repeat' first | with_reducible rfl | (with_reducible refine foldl_kept_eq (fun a b => ?_) ?_) | (with_reducible refine foldl_kept1_eq (fun a b => ?_) ?_) | (with_reducible refine foldr_kept_eq (fun a b => ?_) ?_) | (with_reducible refine elim_kept_eq (fun a => ?_) ?_) | (with_reducible refine elim_kept1_eq (fun a => ?_) ?_) | split | simp
@[simp] theorem sendFrames_kept (s : State) (n : Nat) : (State.sendFrames s n).kept = s.kept := by
  unfold State.sendFrames
  try dsimp only
  repeat' first | with_reducible rfl | (with_reducible refine foldl_kept_eq (fun a b => ?_) ?_) | (with_reducible refine foldl_kept1_eq (fun a b => ?_) ?_) | (with_reducible refine foldr_kept_eq (fun a b => ?_) ?_) | (with_reducible refine elim_kept_eq (fun a => ?_) ?_) | (with_reducible refine elim_kept1_eq (fun a => ?_) ?_) | split | simp
@[simp] theorem sendFlit_kept (s : State) (n : Nat) (f : List Byte) : (State.sendFlit s n f).kept = s.kept := by
  unfold State.sendFlit
  try dsimp only
  repeat' first | with_reducible rfl | (with_reducible refine foldl_kept_eq (fun a b => ?_) ?_) | (with_reducible refine foldl_kept1_eq (fun a b => ?_) ?_) | (with_reducible refine foldr_kept_eq (fun a b => ?_) ?_) | (with_reducible refine elim_kept_eq (fun a => ?_) ?_) | (with_reducible refine elim_kept1_eq (fun a => ?_) ?_) | split | simp
@[simp] theorem sendSequenced_kept (s : State) (n : Nat) (ftype vc foff : Nat) (payload : List Byte) : (State.sendSequenced s n ftype vc foff payload).kept = s.kept := by
  simp [State.sendSequenced]
@[simp] theorem sendMessage_kept (s : State) (n : Nat) (m : List Byte) : (State.sendMessage s n m).kept = s.kept := by
  unfold State.sendMessage
  try dsimp only
  repeat' first | with_reducible rfl | (with_reducible refine foldl_kept_eq (fun a b => ?_) ?_) | (with_reducible refine foldl_kept1_eq (fun a b => ?_) ?_) | (with_reducible refine foldr_kept_eq (fun a b => ?_) ?_) | (with_reducible refine elim_kept_eq (fun a => ?_) ?_) | (with_reducible refine elim_kept1_eq (fun a => ?_) ?_) | split | simp
@[simp] theorem sendUnsequenced_kept (s : State) (n : Nat) (ftype : Nat) (payload : List Byte) : (State.sendUnsequenced s n ftype payload).kept = s.kept := by
  simp [State.sendUnsequenced]
@[simp] theorem resend_kept (s : State) (n : Nat) (f : List Byte) : (State.resend s n f).kept = s.kept := by
  simp [State.resend]
@[simp] theorem detect_kept (s : State) (n : Nat) (keep : Bool := false) : (State.detect s n keep).kept = s.kept := by
  unfold State.detect
  try dsimp only
  repeat' first | with_reducible rfl | (with_reducible refine foldl_kept_eq (fun a b => ?_) ?_) | (with_reducible refine foldl_kept1_eq (fun a b => ?_) ?_) | (with_reducible refine foldr_kept_eq (fun a b => ?_) ?_) | (with_reducible refine elim_kept_eq (fun a => ?_) ?_) | (with_reducible refine elim_kept1_eq (fun a => ?_) ?_) | split | simp
@[simp] theorem loseLink_kept (s : State) (n : Nat) (keep : Bool := false) : (State.loseLink s n keep).kept = s.kept := by
  unfold State.loseLink
  try dsimp only
  repeat' first | with_reducible rfl | (with_reducible refine foldl_kept_eq (fun a b => ?_) ?_) | (with_reducible refine foldl_kept1_eq (fun a b => ?_) ?_) | (with_reducible refine foldr_kept_eq (fun a b => ?_) ?_) | (with_reducible refine elim_kept_eq (fun a => ?_) ?_) | (with_reducible refine elim_kept1_eq (fun a => ?_) ?_) | split | simp
@[simp] theorem trainingFails_kept (s : State) (n step : Nat) : (State.trainingFails s n step).kept = s.kept := by
  simp [State.trainingFails]
@[simp] theorem chooseWidth_kept (s : State) (n : Nat) : (State.chooseWidth s n).kept = s.kept := by
  simp only [State.chooseWidth]; repeat' split
  all_goals simp
@[simp] theorem enterConfig_kept (s : State) (n : Nat) : (State.enterConfig s n).kept = s.kept := by
  simp [State.enterConfig]
@[simp] theorem enterActive_kept (s : State) (n ackseq : Nat) : (State.enterActive s n ackseq).kept = s.kept := by
  simp [State.enterActive]
@[simp] theorem fastRetrain_kept (s : State) (n : Nat) (asked : Bool) (w : Nat := 3) : (State.fastRetrain s n asked w).kept = s.kept := by
  unfold State.fastRetrain
  try dsimp only
  repeat' first | with_reducible rfl | (with_reducible refine foldl_kept_eq (fun a b => ?_) ?_) | (with_reducible refine foldl_kept1_eq (fun a b => ?_) ?_) | (with_reducible refine foldr_kept_eq (fun a b => ?_) ?_) | (with_reducible refine elim_kept_eq (fun a => ?_) ?_) | (with_reducible refine elim_kept1_eq (fun a => ?_) ?_) | split | simp
@[simp] theorem badLanes_kept (s : State) (n : Nat) (ls : List Nat) : (State.badLanes s n ls).kept = s.kept := by
  simp [State.badLanes]
@[simp] theorem portOff_kept (s : State) (n : Nat) : (State.portOff s n).kept = s.kept := by
  simp [State.portOff]
@[simp] theorem portOn_kept (s : State) (n : Nat) : (State.portOn s n).kept = s.kept := by
  simp [State.portOn]
@[simp] theorem portDisable_kept (s : State) (n : Nat) : (State.portDisable s n).1.kept = s.kept := by
  simp only [State.portDisable]; repeat' split
  all_goals simp
@[simp] theorem fullTraining_kept (s : State) (n : Nat) : (State.fullTraining s n).kept = s.kept := by
  simp [State.fullTraining]
/-! ### FabricOps -/
@[simp] theorem modMember_kept (s : State) (part job : Nat) (f : Member → Member) : (State.modMember s part job f).kept = s.kept := by
  simp [State.modMember]
@[simp] theorem portCount_kept (s : State) (n : Nat) (f : Port → Port) : (State.portCount s n f).kept = s.kept := by
  simp [State.portCount]
@[simp] theorem takePacket_kept (s : State) (n vc : Nat) (p : List Byte) : (State.takePacket s n vc p).kept = s.kept := by
  simp [State.takePacket]
@[simp] theorem receive_kept (s : State) (n vc : Nat) (types : Nat → Bool) (act : List Byte → State → State) (h_act : ∀ (y0 : List Byte) (y1 : State), (act y0 y1).kept = y1.kept) : (State.receive s n vc types act).kept = s.kept := by
  unfold State.receive; dsimp only; repeat' split
  all_goals (try simp_all)
@[simp] theorem sendPacket_kept (s : State) (ptype dpart dst job flow score tag gen offset rwin flags coll stage ddig : Nat) (payload : List Byte) : (State.sendPacket s ptype dpart dst job flow score tag gen offset rwin flags coll stage ddig payload).kept = s.kept := by
  simp [State.sendPacket]
@[simp] theorem answerPacket_kept (s : State) (p : List Byte) (ptype flags : Nat) (payload : List Byte) : (State.answerPacket s p ptype flags payload).kept = s.kept := by
  simp [State.answerPacket]
@[simp] theorem nack_kept (s : State) (p : List Byte) (status : Nat) : (State.nack s p status).kept = s.kept := by
  unfold State.nack
  try dsimp only
  repeat' first | with_reducible rfl | (with_reducible refine foldl_kept_eq (fun a b => ?_) ?_) | (with_reducible refine foldl_kept1_eq (fun a b => ?_) ?_) | (with_reducible refine foldr_kept_eq (fun a b => ?_) ?_) | (with_reducible refine elim_kept_eq (fun a => ?_) ?_) | (with_reducible refine elim_kept1_eq (fun a => ?_) ?_) | split | simp
@[simp] theorem unmappedDpa_kept (s : State) (dpa : Nat) : (State.unmappedDpa s dpa).kept = s.kept := by
  unfold State.unmappedDpa
  try dsimp only
  repeat' first | with_reducible rfl | (with_reducible refine foldl_kept_eq (fun a b => ?_) ?_) | (with_reducible refine foldl_kept1_eq (fun a b => ?_) ?_) | (with_reducible refine foldr_kept_eq (fun a b => ?_) ?_) | (with_reducible refine elim_kept_eq (fun a => ?_) ?_) | (with_reducible refine elim_kept1_eq (fun a => ?_) ?_) | split | simp
@[simp] theorem dpaRead_kept (s : State) (g : Segment) (cva n : Nat) : (State.dpaRead s g cva n).1.kept = s.kept := by
  unfold State.dpaRead
  try dsimp only
  repeat' first | with_reducible rfl | (with_reducible refine foldl_kept_eq (fun a b => ?_) ?_) | (with_reducible refine foldl_kept1_eq (fun a b => ?_) ?_) | (with_reducible refine foldr_kept_eq (fun a b => ?_) ?_) | (with_reducible refine elim_kept_eq (fun a => ?_) ?_) | (with_reducible refine elim_kept1_eq (fun a => ?_) ?_) | split | simp
@[simp] theorem dpaWrite_kept (s : State) (g : Segment) (cva : Nat) (bs : List Byte) : (State.dpaWrite s g cva bs).1.kept = s.kept := by
  unfold State.dpaWrite
  try dsimp only
  repeat' first | with_reducible rfl | (with_reducible refine foldl_kept_eq (fun a b => ?_) ?_) | (with_reducible refine foldl_kept1_eq (fun a b => ?_) ?_) | (with_reducible refine foldr_kept_eq (fun a b => ?_) ?_) | (with_reducible refine elim_kept_eq (fun a => ?_) ?_) | (with_reducible refine elim_kept1_eq (fun a => ?_) ?_) | split | simp
@[simp] theorem writeCva_kept (s : State) (c : Context) (cva : Nat) (bs : List Byte) : (State.writeCva s c cva bs).1.kept = s.kept := by
  unfold State.writeCva; dsimp only
  repeat' split
  all_goals (simp (disch := (intros; dsimp only; (repeat' split) <;> simp)) [foldl_kept, foldl_kept1])
@[simp] theorem readCva_kept (s : State) (c : Context) (cva n : Nat) : (State.readCva s c cva n).1.kept = s.kept := by
  unfold State.readCva; dsimp only
  repeat' split
  all_goals (simp (disch := (intros; dsimp only; (repeat' split) <;> simp)) [foldl_kept, foldl_kept1])
@[simp] theorem putColl_kept (s : State) (x : Coll) : (State.putColl s x).kept = s.kept := by
  simp [State.putColl]
@[simp] theorem sendColl_kept (s : State) (x : Coll) (ptype dev part stage t c flags : Nat) (payload : List Byte) : (State.sendColl s x ptype dev part stage t c flags payload).kept = s.kept := by
  simp [State.sendColl]
@[simp] theorem endColl_kept (s : State) (x : Coll) (st : Status) (detail : Nat) : (State.endColl s x st detail).kept = s.kept := by
  simp [State.endColl]
@[simp] theorem spreadChunk_kept (s : State) (x : Coll) (m : Member) (ptype fs ss level t c : Nat) (payload : List Byte) : (State.spreadChunk s x m ptype fs ss level t c payload).kept = s.kept := by
  unfold State.spreadChunk
  apply foldl_kept; intro a b; (repeat' split) <;> simp
@[simp] theorem advance_kept (s : State) (x : Coll) (m : Member) (t c : Nat) (x0 : Nat) : (State.advance s x m t c x0).1.kept = s.kept := by
  induction x0 generalizing s x with
  | zero => rfl
  | succ n ih => unfold State.advance; dsimp only; (repeat' split) <;> simp [ih]
@[simp] theorem drive_kept (s : State) (x : Coll) (m : Member) (x0 : Nat) : (State.drive s x m x0).1.kept = s.kept := by
  induction x0 generalizing s x with
  | zero => rfl
  | succ n ih => unfold State.drive; dsimp only; (repeat' split) <;> simp [ih]
@[simp] theorem deliver_kept (s : State) (x : Coll) (w : Window) (t c flags : Nat) (payload : List Byte) : (State.deliver s x w t c flags payload).1.kept = s.kept := by
  unfold State.deliver
  try dsimp only
  repeat' first | with_reducible rfl | (with_reducible refine foldl_kept_eq (fun a b => ?_) ?_) | (with_reducible refine foldl_kept1_eq (fun a b => ?_) ?_) | (with_reducible refine foldr_kept_eq (fun a b => ?_) ?_) | (with_reducible refine elim_kept_eq (fun a => ?_) ?_) | (with_reducible refine elim_kept1_eq (fun a => ?_) ?_) | split | simp
@[simp] theorem endColls_kept (s : State) : (State.endColls s).kept = s.kept := by
  unfold State.endColls
  apply foldl_kept; intro a b; (repeat' split) <;> simp
@[simp] theorem cancelColls_kept (s : State) (p : Coll → Bool) : (State.cancelColls s p).kept = s.kept := by
  unfold State.cancelColls
  apply foldl_kept; intro a b; (repeat' split) <;> simp
/-! ### CommitOps -/
@[simp] theorem setBuf_kept (s : State) (part buf : Nat) (b : CommitBuf) : (State.setBuf s part buf b).kept = s.kept := by
  simp [State.setBuf]
@[simp] theorem applyAction_kept (s : State) (a : List Byte) : (State.applyAction s a).kept = s.kept := by
  unfold State.applyAction; dsimp only
  repeat' split
  all_goals first | rfl | (simp; done) | (rw [foldl_kept] <;> simp <;> intros <;> (repeat' split) <;> simp)
@[simp] theorem applyBuf_kept (s : State) (part buf : Nat) : (State.applyBuf s part buf).1.kept = s.kept := by
  unfold State.applyBuf; dsimp only
  repeat' split
  all_goals first | rfl | (simp; done) | (rw [foldl_kept] <;> simp <;> intros <;> (repeat' split) <;> simp)
@[simp] theorem resolveBufs_kept (s : State) (part set : Nat) (commit : Bool) : (State.resolveBufs s part set commit).kept = s.kept := by
  unfold State.resolveBufs
  try dsimp only
  repeat' first | with_reducible rfl | (with_reducible refine foldl_kept_eq (fun a b => ?_) ?_) | (with_reducible refine foldl_kept1_eq (fun a b => ?_) ?_) | (with_reducible refine foldr_kept_eq (fun a b => ?_) ?_) | (with_reducible refine elim_kept_eq (fun a => ?_) ?_) | (with_reducible refine elim_kept1_eq (fun a => ?_) ?_) | split | simp
@[simp] theorem resolveSet_kept (s : State) (part set : Nat) (commit ovf : Bool) : (State.resolveSet s part set commit ovf).kept = s.kept := by
  unfold State.resolveSet; repeat' split
  all_goals simp
@[simp] theorem refreshSet_kept (s : State) (part set : Nat) : (State.refreshSet s part set).kept = s.kept := by
  unfold State.refreshSet
  try dsimp only
  repeat' first | with_reducible rfl | (with_reducible refine foldl_kept_eq (fun a b => ?_) ?_) | (with_reducible refine foldl_kept1_eq (fun a b => ?_) ?_) | (with_reducible refine foldr_kept_eq (fun a b => ?_) ?_) | (with_reducible refine elim_kept_eq (fun a => ?_) ?_) | (with_reducible refine elim_kept1_eq (fun a => ?_) ?_) | split | simp
/-! ### CtxOps -/
@[simp] theorem abortTasks_kept (s : State) (core ctx : Nat) (p : Task → Bool) (x0 : Nat) : (State.abortTasks s core ctx p x0).kept = s.kept := by
  induction x0 generalizing s with
  | zero => rfl
  | succ n ih => unfold State.abortTasks; dsimp only; split <;> simp [ih]
@[simp] theorem abortArms_kept (s : State) (core ctx : Nat) : (State.abortArms s core ctx).kept = s.kept := by
  unfold State.abortArms
  apply foldl_kept; intro a b; (repeat' split) <;> simp
@[simp] theorem evictHalves_kept (s : State) (ctx : Nat) : (State.evictHalves s ctx).kept = s.kept := by
  unfold State.evictHalves
  apply foldl_kept; intro a b; (repeat' split) <;> simp
@[simp] theorem stopCtx_kept (s : State) (ctx : Nat) : (State.stopCtx s ctx).kept = s.kept := by
  unfold State.stopCtx
  apply foldl_kept; intro a b; (repeat' split) <;> simp
@[simp] theorem becomeStopped_kept (s : State) (ctx : Nat) : (State.becomeStopped s ctx).kept = s.kept := by
  simp [State.becomeStopped]
@[simp] theorem writeOut_kept (s : State) (core ctx : Nat) : (State.writeOut s core ctx).kept = s.kept := by
  unfold State.writeOut
  try dsimp only
  repeat' first | with_reducible rfl | (with_reducible refine foldl_kept_eq (fun a b => ?_) ?_) | (with_reducible refine foldl_kept1_eq (fun a b => ?_) ?_) | (with_reducible refine foldr_kept_eq (fun a b => ?_) ?_) | (with_reducible refine elim_kept_eq (fun a => ?_) ?_) | (with_reducible refine elim_kept1_eq (fun a => ?_) ?_) | split | simp
@[simp] theorem deadlineOn_kept (s : State) (ctx core : Nat) : (State.deadlineOn s ctx core).kept = s.kept := by
  unfold State.deadlineOn
  try dsimp only
  repeat' first | with_reducible rfl | (with_reducible refine foldl_kept_eq (fun a b => ?_) ?_) | (with_reducible refine foldl_kept1_eq (fun a b => ?_) ?_) | (with_reducible refine foldr_kept_eq (fun a b => ?_) ?_) | (with_reducible refine elim_kept_eq (fun a => ?_) ?_) | (with_reducible refine elim_kept1_eq (fun a => ?_) ?_) | split | simp
@[simp] theorem resumeCtx_kept (s : State) (ctx : Nat) : (State.resumeCtx s ctx).kept = s.kept := by
  unfold State.resumeCtx
  try dsimp only
  repeat' first | with_reducible rfl | (with_reducible refine foldl_kept_eq (fun a b => ?_) ?_) | (with_reducible refine foldl_kept1_eq (fun a b => ?_) ?_) | (with_reducible refine foldr_kept_eq (fun a b => ?_) ?_) | (with_reducible refine elim_kept_eq (fun a => ?_) ?_) | (with_reducible refine elim_kept1_eq (fun a => ?_) ?_) | split | simp
@[simp] theorem resetCtx_kept (s : State) (ctx : Nat) : (State.resetCtx s ctx).kept = s.kept := by
  unfold State.resetCtx
  apply foldl_kept; intro a b; (repeat' split) <;> simp
@[simp] theorem teardownCore_kept (s : State) (ctx core : Nat) : (State.teardownCore s ctx core).kept = s.kept := by
  simp [State.teardownCore]
@[simp] theorem dropGroups_kept (s : State) (ctx : Nat) : (State.dropGroups s ctx).kept = s.kept := by
  unfold State.dropGroups
  try dsimp only
  repeat' first | with_reducible rfl | (with_reducible refine foldl_kept_eq (fun a b => ?_) ?_) | (with_reducible refine foldl_kept1_eq (fun a b => ?_) ?_) | (with_reducible refine foldr_kept_eq (fun a b => ?_) ?_) | (with_reducible refine elim_kept_eq (fun a => ?_) ?_) | (with_reducible refine elim_kept1_eq (fun a => ?_) ?_) | split | simp
@[simp] theorem countTeardown_kept (s : State) (client : Nat) (clean : Bool) : (State.countTeardown s client clean).kept = s.kept := by
  simp [State.countTeardown]
@[simp] theorem teardown_kept (s : State) (ctx : Nat) (destroy : Bool) : (State.teardown s ctx destroy).kept = s.kept := by
  unfold State.teardown
  try dsimp only
  repeat' first | with_reducible rfl | (with_reducible refine foldl_kept_eq (fun a b => ?_) ?_) | (with_reducible refine foldl_kept1_eq (fun a b => ?_) ?_) | (with_reducible refine foldr_kept_eq (fun a b => ?_) ?_) | (with_reducible refine elim_kept_eq (fun a => ?_) ?_) | (with_reducible refine elim_kept1_eq (fun a => ?_) ?_) | split | simp
@[simp] theorem teardownDone_kept (s : State) (ctx : Nat) : (State.teardownDone s ctx).kept = s.kept := by
  unfold State.teardownDone; repeat' split
  all_goals simp
/-! ### TreeOps -/
@[simp] theorem putTree_kept (s : State) (job : Nat) (t : Tree) : (State.putTree s job t).kept = s.kept := by
  simp [State.putTree]
@[simp] theorem modTree_kept (s : State) (job : Nat) (f : Tree → Tree) : (State.modTree s job f).kept = s.kept := by
  simp [State.modTree]
@[simp] theorem sendJob_kept (s : State) (ptype : Nat) (peer : Nat × Nat) (job tdig seq : Nat) (m : JobMsg) : (State.sendJob s ptype peer job tdig seq m).kept = s.kept := by
  simp [State.sendJob]
@[simp] theorem sendDown_kept (s : State) (ptype job seq : Nat) (t : Tree) (m : JobMsg) : (State.sendDown s ptype job seq t m).kept = s.kept := by
  unfold State.sendDown
  apply foldl_kept; intro a b; (repeat' split) <;> simp
@[simp] theorem jobRecord_kept (s : State) (m : Member) (event seq status flags code : Nat) : (State.jobRecord s m event seq status flags code).kept = s.kept := by
  simp [State.jobRecord]
@[simp] theorem jobRecordFree_kept (s : State) (m : Member) (event seq flags code : Nat) : (State.jobRecordFree s m event seq flags code).kept = s.kept := by
  simp [State.jobRecordFree]
@[simp] theorem treeOk_kept (s : State) (job : Nat) (t : Tree) (m : JobMsg) : (State.treeOk s job t m).kept = s.kept := by
  unfold State.treeOk
  try dsimp only
  repeat' first | with_reducible rfl | (with_reducible refine foldl_kept_eq (fun a b => ?_) ?_) | (with_reducible refine foldl_kept1_eq (fun a b => ?_) ?_) | (with_reducible refine foldr_kept_eq (fun a b => ?_) ?_) | (with_reducible refine elim_kept_eq (fun a => ?_) ?_) | (with_reducible refine elim_kept1_eq (fun a => ?_) ?_) | split | simp
@[simp] theorem tryHello_kept (s : State) (job : Nat) (t : Tree) : (State.tryHello s job t).kept = s.kept := by
  unfold State.tryHello; repeat' split
  all_goals simp
@[simp] theorem decideSet_kept (s : State) (part set : Nat) (commit ovf : Bool) : (State.decideSet s part set commit ovf).kept = s.kept := by
  unfold State.decideSet; repeat' split
  all_goals simp
@[simp] theorem applyDecide_kept (s : State) (job : Nat) (t : Tree) (m : JobMsg) : (State.applyDecide s job t m).kept = s.kept := by
  unfold State.applyDecide
  try dsimp only
  repeat' first | with_reducible rfl | (with_reducible refine foldl_kept_eq (fun a b => ?_) ?_) | (with_reducible refine foldl_kept1_eq (fun a b => ?_) ?_) | (with_reducible refine foldr_kept_eq (fun a b => ?_) ?_) | (with_reducible refine elim_kept_eq (fun a => ?_) ?_) | (with_reducible refine elim_kept1_eq (fun a => ?_) ?_) | split | simp
@[simp] theorem sendVote_kept (s : State) (job : Nat) (t : Tree) (late : Bool) : (State.sendVote s job t late).kept = s.kept := by
  unfold State.sendVote; repeat' split
  all_goals simp
@[simp] theorem tryVotes_kept (s : State) (job : Nat) (t : Tree) : (State.tryVotes s job t).kept = s.kept := by
  simp [State.tryVotes]
@[simp] theorem enterRestart_kept (s : State) (job : Nat) (t : Tree) (attempt : Nat) : (State.enterRestart s job t attempt).kept = s.kept := by
  unfold State.enterRestart; dsimp only
  repeat' split
  all_goals first | rfl | (simp; done) | (rw [foldl_kept] <;> simp <;> intros <;> (repeat' split) <;> simp)
@[simp] theorem applyResume_kept (s : State) (job : Nat) (t : Tree) (m : JobMsg) : (State.applyResume s job t m).kept = s.kept := by
  unfold State.applyResume
  try dsimp only
  repeat' first | with_reducible rfl | (with_reducible refine foldl_kept_eq (fun a b => ?_) ?_) | (with_reducible refine foldl_kept1_eq (fun a b => ?_) ?_) | (with_reducible refine foldr_kept_eq (fun a b => ?_) ?_) | (with_reducible refine elim_kept_eq (fun a => ?_) ?_) | (with_reducible refine elim_kept1_eq (fun a => ?_) ?_) | split | simp
@[simp] theorem startRestart_kept (s : State) (job : Nat) (t : Tree) : (State.startRestart s job t).kept = s.kept := by
  simp [State.startRestart]
@[simp] theorem jobCause_kept (s : State) (m : Member) (code status : Nat) : (State.jobCause s m code status).kept = s.kept := by
  unfold State.jobCause; repeat' split
  all_goals simp
@[simp] theorem jobCauses_kept (s : State) : (State.jobCauses s).kept = s.kept := by
  unfold State.jobCauses
  apply foldl_kept; intro a b; (repeat' split) <;> simp
@[simp] theorem tryStops_kept (s : State) (job : Nat) (t : Tree) : (State.tryStops s job t).kept = s.kept := by
  unfold State.tryStops
  try dsimp only
  repeat' first | with_reducible rfl | (with_reducible refine foldl_kept_eq (fun a b => ?_) ?_) | (with_reducible refine foldl_kept1_eq (fun a b => ?_) ?_) | (with_reducible refine foldr_kept_eq (fun a b => ?_) ?_) | (with_reducible refine elim_kept_eq (fun a => ?_) ?_) | (with_reducible refine elim_kept1_eq (fun a => ?_) ?_) | split | simp
@[simp] theorem tryReport_kept (s : State) (job : Nat) (t : Tree) : (State.tryReport s job t).kept = s.kept := by
  unfold State.tryReport; repeat' split
  all_goals simp
@[simp] theorem pokeTree_kept (s : State) (job : Nat) : (State.pokeTree s job).kept = s.kept := by
  simp only [State.pokeTree]; repeat' split
  all_goals simp
@[simp] theorem pokeTrees_kept (s : State) : (State.pokeTrees s).kept = s.kept := by
  unfold State.pokeTrees
  try dsimp only
  repeat' first | with_reducible rfl | (with_reducible refine foldl_kept_eq (fun a b => ?_) ?_) | (with_reducible refine foldl_kept1_eq (fun a b => ?_) ?_) | (with_reducible refine foldr_kept_eq (fun a b => ?_) ?_) | (with_reducible refine elim_kept_eq (fun a => ?_) ?_) | (with_reducible refine elim_kept1_eq (fun a => ?_) ?_) | split | simp
/-! ### ResetOps -/
@[simp] theorem cutWrite_kept (s : State) : (State.cutWrite s).kept = s.kept := by
  unfold State.cutWrite; repeat' split
  all_goals simp
@[simp] theorem portDown_kept (s : State) (n : Nat) : (State.portDown s n).kept = s.kept := by
  unfold State.portDown
  try dsimp only
  repeat' first | with_reducible rfl | (with_reducible refine foldl_kept_eq (fun a b => ?_) ?_) | (with_reducible refine foldl_kept1_eq (fun a b => ?_) ?_) | (with_reducible refine foldr_kept_eq (fun a b => ?_) ?_) | (with_reducible refine elim_kept_eq (fun a => ?_) ?_) | (with_reducible refine elim_kept1_eq (fun a => ?_) ?_) | split | simp
@[simp] theorem allDown_kept (s : State) : (State.allDown s).kept = s.kept := by
  unfold State.allDown
  apply foldl_kept; intro a b; (repeat' split) <;> simp
@[simp] theorem chipReset_kept (s : State) : (State.chipReset s).kept = s.kept := by
  simp [State.chipReset]
@[simp] theorem reactReset_kept (s : State) : (State.reactReset s).kept = s.kept := by
  simp [State.reactReset]
@[simp] theorem mainOff_kept (s : State) (again : Bool) : (State.mainOff s again).kept = s.kept := by
  simp [State.mainOff]
@[simp] theorem tryRelease_kept (s : State) : (State.tryRelease s).kept = s.kept := by
  simp [State.tryRelease]
@[simp] theorem startBlock_kept (s : State) (ukind unit : Nat) : (State.startBlock s ukind unit).kept = s.kept := by
  unfold State.startBlock; dsimp only
  repeat' split
  all_goals first | rfl | (simp; done) | (rw [foldl_kept] <;> simp <;> intros <;> (repeat' split) <;> simp)
@[simp] theorem react_kept (s : State) : (State.react s).kept = s.kept := by
  unfold State.react; dsimp only
  repeat' split
  all_goals first | rfl | (simp; done) | (rw [foldl_kept] <;> simp <;> intros <;> (repeat' split) <;> simp)
@[simp] theorem settle_kept (s : State) : (State.settle s).kept = s.kept := by
  simp [State.settle]
/-! ### PowerOps -/
@[simp] theorem wakeForLtol_kept (s : State) : (State.wakeForLtol s).kept = s.kept := by
  have h1 : ∀ (g : State → Nat → State), (∀ a k, (g a k).kept = a.kept) → ∀ (g2 : State → Nat → State), (∀ a k, (g2 a k).kept = a.kept) →
      ∀ (f : State → State), (∀ a, (f a).kept = a.kept) → ∀ l l2 : List Nat, (f (l2.foldl g2 (l.foldl g s))).kept = s.kept := by
    intro g hg g2 hg2 f hf l l2
    rw [hf, foldl_kept _ hg2, foldl_kept _ hg]
  unfold State.wakeForLtol
  refine h1 _ ?_ _ ?_ (fun s2 => { s2 with chip.pwr := { s2.chip.pwr with mesh := s2.chip.pwr.mesh.filter fun m => s2.meshIdleOk m.1, strait := if s2.straitIdleOk then s2.chip.pwr.strait else [] } }) ?_ _ _
  · intro a k; dsimp only; split <;> simp
  · intro a k; simp
  · intro a; rfl
@[simp] theorem zeroBank_kept (s : State) (core bank : Nat) : (State.zeroBank s core bank).kept = s.kept := by
  simp [State.zeroBank]
@[simp] theorem clearCore_kept (s : State) (core : Nat) : (State.clearCore s core).kept = s.kept := by
  simp [State.clearCore]
@[simp] theorem clearStack_kept (s : State) (st : Nat) : (State.clearStack s st).kept = s.kept := by
  simp [State.clearStack]
/-! ### HostOps -/
@[simp] theorem pumpMailbox_kept (s : State) (fn : Nat) : (State.pumpMailbox s fn).kept = s.kept := by
  simp [State.pumpMailbox]
@[simp] theorem pumpRing_kept (s : State) (fn ring : Nat) : (State.pumpRing s fn ring).kept = s.kept := by
  unfold State.pumpRing; repeat' split
  all_goals simp
@[simp] theorem pumpAll_kept (s : State) : (State.pumpAll s).kept = s.kept := by
  unfold State.pumpAll
  try dsimp only
  repeat' first | with_reducible rfl | (with_reducible refine foldl_kept_eq (fun a b => ?_) ?_) | (with_reducible refine foldl_kept1_eq (fun a b => ?_) ?_) | (with_reducible refine foldr_kept_eq (fun a b => ?_) ?_) | (with_reducible refine elim_kept_eq (fun a => ?_) ?_) | (with_reducible refine elim_kept1_eq (fun a => ?_) ?_) | split | simp
@[simp] theorem zeroW_kept (s : State) (st gid : Nat) : (State.zeroW s st gid).kept = s.kept := by
  unfold State.zeroW; repeat' split
  all_goals simp
@[simp] theorem unloadKey_kept (s : State) (part handle : Nat) : (State.unloadKey s part handle).kept = s.kept := by
  unfold State.unloadKey
  try dsimp only
  repeat' first | with_reducible rfl | (with_reducible refine foldl_kept_eq (fun a b => ?_) ?_) | (with_reducible refine foldl_kept1_eq (fun a b => ?_) ?_) | (with_reducible refine foldr_kept_eq (fun a b => ?_) ?_) | (with_reducible refine elim_kept_eq (fun a => ?_) ?_) | (with_reducible refine elim_kept1_eq (fun a => ?_) ?_) | split | simp
@[simp] theorem eraseKey_kept (s : State) (part handle : Nat) : (State.eraseKey s part handle).kept = s.kept := by
  simp [State.eraseKey]
@[simp] theorem eraseKeys_kept (s : State) (p : Nat → HeldKey → Bool) : (State.eraseKeys s p).kept = s.kept := by
  unfold State.eraseKeys
  apply foldl_kept; intro a b; (repeat' split) <;> simp
@[simp] theorem measured_kept (s : State) (index : Nat) : (State.measured s index).kept = s.kept := by
  simp [State.measured]
@[simp] theorem measuredIf_kept (s : State) (index : Nat) (changed : Bool) : (State.measuredIf s index changed).kept = s.kept := by
  unfold State.measuredIf; split <;> simp
@[simp] theorem resetFn_kept (s : State) (fn : Nat) : (State.resetFn s fn).kept = s.kept := by
  simp [State.resetFn]
@[simp] theorem flrVf_kept (s : State) (fn : Nat) : (State.flrVf s fn).kept = s.kept := by
  unfold State.flrVf
  try dsimp only
  repeat' first | with_reducible rfl | (with_reducible refine foldl_kept_eq (fun a b => ?_) ?_) | (with_reducible refine foldl_kept1_eq (fun a b => ?_) ?_) | (with_reducible refine foldr_kept_eq (fun a b => ?_) ?_) | (with_reducible refine elim_kept_eq (fun a => ?_) ?_) | (with_reducible refine elim_kept1_eq (fun a => ?_) ?_) | split | simp
@[simp] theorem flrPf_kept (s : State) : (State.flrPf s).kept = s.kept := by
  unfold State.flrPf
  try dsimp only
  repeat' first | with_reducible rfl | (with_reducible refine foldl_kept_eq (fun a b => ?_) ?_) | (with_reducible refine foldl_kept1_eq (fun a b => ?_) ?_) | (with_reducible refine foldr_kept_eq (fun a b => ?_) ?_) | (with_reducible refine elim_kept_eq (fun a => ?_) ?_) | (with_reducible refine elim_kept1_eq (fun a => ?_) ?_) | split | simp
@[simp] theorem fatal_kept (s : State) : (State.fatal s).kept = s.kept := by
  unfold State.fatal; dsimp only
  repeat' split
  all_goals first | rfl | (simp; done) | (rw [foldl_kept] <;> simp <;> intros <;> (repeat' split) <;> simp)
/-! ### RegOps -/
@[simp] theorem dberr_kept (s : State) (fn : Nat) : (State.dberr s fn).kept = s.kept := by
  simp [State.dberr]
@[simp] theorem vectorControl_kept (s : State) (fn v value : Nat) : (State.vectorControl s fn v value).kept = s.kept := by
  simp [State.vectorControl]
@[simp] theorem barWrite_kept (s : State) (fn off v : Nat) : (State.barWrite s fn off v).kept = s.kept := by
  simp [State.barWrite]
@[simp] theorem sbWrite_kept (s : State) (ok : Bool) (act : State) (h_act : act.kept = s.kept) : (State.sbWrite s ok act).kept = s.kept := by
  unfold State.sbWrite; dsimp only; repeat' split
  all_goals (try simp_all)
@[simp] theorem mbErr_kept (s : State) : (State.mbErr s).kept = s.kept := by
  simp [State.mbErr]
@[simp] theorem sbEnd_kept (s : State) (st : Status) (detail : Nat := 0) : (State.sbEnd s st detail).kept = s.kept := by
  simp [State.sbEnd]
@[simp] theorem sbGo_kept (s : State) (ok : Bool) (op arg : Nat) (act : State → State) (h_act : ∀ (y0 : State), (act y0).kept = y0.kept) : (State.sbGo s ok op arg act).kept = s.kept := by
  unfold State.sbGo; dsimp only; repeat' split
  all_goals (try simp_all)
@[simp] theorem sbRegWrite_kept (s : State) (off v : Nat) : (State.sbRegWrite s off v).kept = s.kept := by
  simp [State.sbRegWrite]
/-! ### Tasks -/
@[simp] theorem takeEntry_kept (s : State) (fn ring : Nat) (r : SubRing) : (State.takeEntry s fn ring r).kept = s.kept := by
  simp [State.takeEntry]
@[simp] theorem refuseTask_kept (s : State) (fn ring : Nat) (r : SubRing) (core opcode tid detail : Nat) : (State.refuseTask s fn ring r core opcode tid detail).kept = s.kept := by
  simp [State.refuseTask]
@[simp] theorem placeOrWait_kept (s : State) (fn ring : Nat) (r : SubRing) (core : Nat) (d : List Byte) : (State.placeOrWait s fn ring r core d).kept = s.kept := by
  simp [State.placeOrWait]
@[simp] theorem taskEntry_kept (s : State) (fn ring : Nat) : (State.taskEntry s fn ring).kept = s.kept := by
  simp only [State.taskEntry]; repeat' split
  all_goals simp
@[simp] theorem q1Entry_kept (s : State) (fn ring : Nat) : (State.q1Entry s fn ring).kept = s.kept := by
  simp only [State.q1Entry]; repeat' split
  all_goals simp
@[simp] theorem countDispatch_kept (s : State) (core ctx : Nat) : (State.countDispatch s core ctx).kept = s.kept := by
  simp [State.countDispatch]
@[simp] theorem readHeads_kept (s : State) (core ctx : Nat) (c : Context) (d : List Byte) : (State.readHeads s core ctx c d).1.kept = s.kept := by
  unfold State.readHeads
  try dsimp only
  repeat' first | with_reducible rfl | (with_reducible refine foldl_kept_eq (fun a b => ?_) ?_) | (with_reducible refine foldl_kept1_eq (fun a b => ?_) ?_) | (with_reducible refine foldr_kept_eq (fun a b => ?_) ?_) | (with_reducible refine elim_kept_eq (fun a => ?_) ?_) | (with_reducible refine elim_kept1_eq (fun a => ?_) ?_) | split | simp
@[simp] theorem dispatch_kept (s : State) (core i : Nat) (t : Task) (c : Context) : (State.dispatch s core i t c).kept = s.kept := by
  unfold State.dispatch
  try dsimp only
  repeat' first | with_reducible rfl | (with_reducible refine foldl_kept_eq (fun a b => ?_) ?_) | (with_reducible refine foldl_kept1_eq (fun a b => ?_) ?_) | (with_reducible refine foldr_kept_eq (fun a b => ?_) ?_) | (with_reducible refine elim_kept_eq (fun a => ?_) ?_) | (with_reducible refine elim_kept1_eq (fun a => ?_) ?_) | split | simp
@[simp] theorem upset_kept (s : State) (core e : Nat) (upsets : List (Nat × Nat)) : (State.upset s core e upsets).kept = s.kept := by
  unfold State.upset
  try dsimp only
  repeat' first | with_reducible rfl | (with_reducible refine foldl_kept_eq (fun a b => ?_) ?_) | (with_reducible refine foldl_kept1_eq (fun a b => ?_) ?_) | (with_reducible refine foldr_kept_eq (fun a b => ?_) ?_) | (with_reducible refine elim_kept_eq (fun a => ?_) ?_) | (with_reducible refine elim_kept1_eq (fun a => ?_) ?_) | split | simp
@[simp] theorem rowParity_kept (s : State) (core e : Nat) (t : Task) (parity : Option Nat) : (State.rowParity s core e t parity).kept = s.kept := by
  unfold State.rowParity
  try dsimp only
  repeat' first | with_reducible rfl | (with_reducible refine foldl_kept_eq (fun a b => ?_) ?_) | (with_reducible refine foldl_kept1_eq (fun a b => ?_) ?_) | (with_reducible refine foldr_kept_eq (fun a b => ?_) ?_) | (with_reducible refine elim_kept_eq (fun a => ?_) ?_) | (with_reducible refine elim_kept1_eq (fun a => ?_) ?_) | split | simp
@[simp] theorem firstLoad_kept (s : State) (core e : Nat) (c : Context) (d : List Byte) (b : Hdr × Nat) (bl : List Nat) (p : Pos) : (State.firstLoad s core e c d b bl p).1.kept = s.kept := by
  unfold State.firstLoad
  try dsimp only
  repeat' first | with_reducible rfl | (with_reducible refine foldl_kept_eq (fun a b => ?_) ?_) | (with_reducible refine foldl_kept1_eq (fun a b => ?_) ?_) | (with_reducible refine foldr_kept_eq (fun a b => ?_) ?_) | (with_reducible refine elim_kept_eq (fun a => ?_) ?_) | (with_reducible refine elim_kept1_eq (fun a => ?_) ?_) | split | simp
@[simp] theorem nextLoad_kept (s : State) (core e : Nat) (c : Context) (d : List Byte) (b : Hdr × Nat) (bl : List Nat) (p : Pos) : (State.nextLoad s core e c d b bl p).1.kept = s.kept := by
  unfold State.nextLoad
  try dsimp only
  repeat' first | with_reducible rfl | (with_reducible refine foldl_kept_eq (fun a b => ?_) ?_) | (with_reducible refine foldl_kept1_eq (fun a b => ?_) ?_) | (with_reducible refine foldr_kept_eq (fun a b => ?_) ?_) | (with_reducible refine elim_kept_eq (fun a => ?_) ?_) | (with_reducible refine elim_kept1_eq (fun a => ?_) ?_) | split | simp
@[simp] theorem feedRows_kept (s : State) (core : Nat) (c : Context) (d : List Byte) (a : Hdr × Nat) (bl : List Nat) (r : Run) (p : Pos) : (State.feedRows s core c d a bl r p).1.kept = s.kept := by
  unfold State.feedRows
  try dsimp only
  repeat' first | with_reducible rfl | (with_reducible refine foldl_kept_eq (fun a b => ?_) ?_) | (with_reducible refine foldl_kept1_eq (fun a b => ?_) ?_) | (with_reducible refine foldr_kept_eq (fun a b => ?_) ?_) | (with_reducible refine elim_kept_eq (fun a => ?_) ?_) | (with_reducible refine elim_kept1_eq (fun a => ?_) ?_) | split | simp
@[simp] theorem passEnd_kept (s : State) (core e : Nat) (parity : Option Nat) (upsets : List (Nat × Nat)) : (State.passEnd s core e parity upsets).kept = s.kept := by
  unfold State.passEnd
  try dsimp only
  repeat' first | with_reducible rfl | (with_reducible refine foldl_kept_eq (fun a b => ?_) ?_) | (with_reducible refine foldl_kept1_eq (fun a b => ?_) ?_) | (with_reducible refine foldr_kept_eq (fun a b => ?_) ?_) | (with_reducible refine elim_kept_eq (fun a => ?_) ?_) | (with_reducible refine elim_kept1_eq (fun a => ?_) ?_) | split | simp
@[simp] theorem chunkDrainEnd_kept (s : State) (core e : Nat) : (State.chunkDrainEnd s core e).kept = s.kept := by
  unfold State.chunkDrainEnd; repeat' split
  all_goals simp
@[simp] theorem copyBlockEnd_kept (s : State) (core i word fl : Nat) : (State.copyBlockEnd s core i word fl).kept = s.kept := by
  unfold State.copyBlockEnd; repeat' split
  all_goals simp
@[simp] theorem lastWork_kept (s : State) (core : Nat) (t : Task) (c : Context) (r : Run) : (State.lastWork s core t c r).1.kept = s.kept := by
  unfold State.lastWork; repeat' split
  all_goals simp
@[simp] theorem taskEnd_kept (s : State) (core i cycles : Nat) : (State.taskEnd s core i cycles).kept = s.kept := by
  simp only [State.taskEnd]; repeat' split
  all_goals simp
@[simp] theorem moverFail_kept (s : State) (core ctx cause : Nat) (wait : Option (Nat × Task)) : (State.moverFail s core ctx cause wait).kept = s.kept := by
  unfold State.moverFail
  try dsimp only
  repeat' first | with_reducible rfl | (with_reducible refine foldl_kept_eq (fun a b => ?_) ?_) | (with_reducible refine foldl_kept1_eq (fun a b => ?_) ?_) | (with_reducible refine foldr_kept_eq (fun a b => ?_) ?_) | (with_reducible refine elim_kept_eq (fun a => ?_) ?_) | (with_reducible refine elim_kept1_eq (fun a => ?_) ?_) | split | simp
@[simp] theorem moverWrite_kept (s : State) (k n : Nat) (parts : List (Nat × List Byte)) : (State.moverWrite s k n parts).kept = s.kept := by
  unfold State.moverWrite
  try dsimp only
  repeat' first | with_reducible rfl | (with_reducible refine foldl_kept_eq (fun a b => ?_) ?_) | (with_reducible refine foldl_kept1_eq (fun a b => ?_) ?_) | (with_reducible refine foldr_kept_eq (fun a b => ?_) ?_) | (with_reducible refine elim_kept_eq (fun a => ?_) ?_) | (with_reducible refine elim_kept1_eq (fun a => ?_) ?_) | split | simp
@[simp] theorem storeRecord_kept (s : State) (core ctx k : Nat) (tset : Bool) (tloaded : Nat) : (State.storeRecord s core ctx k tset tloaded).kept = s.kept := by
  unfold State.storeRecord
  try dsimp only
  repeat' first | with_reducible rfl | (with_reducible refine foldl_kept_eq (fun a b => ?_) ?_) | (with_reducible refine foldl_kept1_eq (fun a b => ?_) ?_) | (with_reducible refine foldr_kept_eq (fun a b => ?_) ?_) | (with_reducible refine elim_kept_eq (fun a => ?_) ?_) | (with_reducible refine elim_kept1_eq (fun a => ?_) ?_) | split | simp
@[simp] theorem moverRead_kept (s : State) (k : Nat) (ranges : List (Nat × Nat)) (errs : List (Nat × Nat)) (crc : Bool) : (State.moverRead s k ranges errs crc).1.kept = s.kept := by
  unfold State.moverRead
  try dsimp only
  repeat' first | with_reducible rfl | (with_reducible refine foldl_kept_eq (fun a b => ?_) ?_) | (with_reducible refine foldl_kept1_eq (fun a b => ?_) ?_) | (with_reducible refine foldr_kept_eq (fun a b => ?_) ?_) | (with_reducible refine elim_kept_eq (fun a => ?_) ?_) | (with_reducible refine elim_kept1_eq (fun a => ?_) ?_) | split | simp
@[simp] theorem dropTables_kept (s : State) (core ctx : Nat) : (State.dropTables s core ctx).kept = s.kept := by
  unfold State.dropTables
  try dsimp only
  repeat' first | with_reducible rfl | (with_reducible refine foldl_kept_eq (fun a b => ?_) ?_) | (with_reducible refine foldl_kept1_eq (fun a b => ?_) ?_) | (with_reducible refine foldr_kept_eq (fun a b => ?_) ?_) | (with_reducible refine elim_kept_eq (fun a => ?_) ?_) | (with_reducible refine elim_kept1_eq (fun a => ?_) ?_) | split | simp
@[simp] theorem evictTables_kept (s : State) (core : Nat) (v : Resident) : (State.evictTables s core v).kept = s.kept := by
  unfold State.evictTables
  try dsimp only
  repeat' first | with_reducible rfl | (with_reducible refine foldl_kept_eq (fun a b => ?_) ?_) | (with_reducible refine foldl_kept1_eq (fun a b => ?_) ?_) | (with_reducible refine foldr_kept_eq (fun a b => ?_) ?_) | (with_reducible refine elim_kept_eq (fun a => ?_) ?_) | (with_reducible refine elim_kept1_eq (fun a => ?_) ?_) | split | simp
@[simp] theorem tableSetSwap_kept (s : State) (core ctx : Nat) (errs : List (Nat × Nat)) (crc : Bool) : (State.tableSetSwap s core ctx errs crc).kept = s.kept := by
  unfold State.tableSetSwap
  try dsimp only
  repeat' first | with_reducible rfl | (with_reducible refine foldl_kept_eq (fun a b => ?_) ?_) | (with_reducible refine foldl_kept1_eq (fun a b => ?_) ?_) | (with_reducible refine foldr_kept_eq (fun a b => ?_) ?_) | (with_reducible refine elim_kept_eq (fun a => ?_) ?_) | (with_reducible refine elim_kept1_eq (fun a => ?_) ?_) | split | simp
@[simp] theorem readHalf_kept (s : State) (core e h ctx tid : Nat) : (State.readHalf s core e h ctx tid).1.kept = s.kept := by
  unfold State.readHalf
  try dsimp only
  repeat' first | with_reducible rfl | (with_reducible refine foldl_kept_eq (fun a b => ?_) ?_) | (with_reducible refine foldl_kept1_eq (fun a b => ?_) ?_) | (with_reducible refine foldr_kept_eq (fun a b => ?_) ?_) | (with_reducible refine elim_kept_eq (fun a => ?_) ?_) | (with_reducible refine elim_kept1_eq (fun a => ?_) ?_) | split | simp
@[simp] theorem writeHalf_kept (s : State) (core k e h : Nat) : (State.writeHalf s core k e h).kept = s.kept := by
  unfold State.writeHalf
  try dsimp only
  repeat' first | with_reducible rfl | (with_reducible refine foldl_kept_eq (fun a b => ?_) ?_) | (with_reducible refine foldl_kept1_eq (fun a b => ?_) ?_) | (with_reducible refine foldr_kept_eq (fun a b => ?_) ?_) | (with_reducible refine elim_kept_eq (fun a => ?_) ?_) | (with_reducible refine elim_kept1_eq (fun a => ?_) ?_) | split | simp
@[simp] theorem stateSave_kept (s : State) (core ctx : Nat) (upsets : List (Nat × Nat × Nat)) : (State.stateSave s core ctx upsets).kept = s.kept := by
  unfold State.stateSave
  try dsimp only
  repeat' first | with_reducible rfl | (with_reducible refine foldl_kept_eq (fun a b => ?_) ?_) | (with_reducible refine foldl_kept1_eq (fun a b => ?_) ?_) | (with_reducible refine foldr_kept_eq (fun a b => ?_) ?_) | (with_reducible refine elim_kept_eq (fun a => ?_) ?_) | (with_reducible refine elim_kept1_eq (fun a => ?_) ?_) | split | simp
@[simp] theorem readBack_kept (s : State) (core k e h ctx : Nat) (int : Option Nat) : (State.readBack s core k e h ctx int).kept = s.kept := by
  unfold State.readBack
  try dsimp only
  repeat' first | with_reducible rfl | (with_reducible refine foldl_kept_eq (fun a b => ?_) ?_) | (with_reducible refine foldl_kept1_eq (fun a b => ?_) ?_) | (with_reducible refine foldr_kept_eq (fun a b => ?_) ?_) | (with_reducible refine elim_kept_eq (fun a => ?_) ?_) | (with_reducible refine elim_kept1_eq (fun a => ?_) ?_) | split | simp
@[simp] theorem stateRestore_kept (s : State) (core ctx : Nat) (errs : List (Nat × Nat)) (crc : Bool) : (State.stateRestore s core ctx errs crc).kept = s.kept := by
  unfold State.stateRestore
  try dsimp only
  repeat' first | with_reducible rfl | (with_reducible refine foldl_kept_eq (fun a b => ?_) ?_) | (with_reducible refine foldl_kept1_eq (fun a b => ?_) ?_) | (with_reducible refine foldr_kept_eq (fun a b => ?_) ?_) | (with_reducible refine elim_kept_eq (fun a => ?_) ?_) | (with_reducible refine elim_kept1_eq (fun a => ?_) ?_) | split | simp
/-! ### Streams -/
@[simp] theorem armEntry_kept (s : State) (fn ring : Nat) : (State.armEntry s fn ring).kept = s.kept := by
  simp only [State.armEntry]; repeat' split
  all_goals simp
@[simp] theorem streamResponse_kept (s : State) (core tag gen : Nat) : (State.streamResponse s core tag gen).kept = s.kept := by
  unfold State.streamResponse; repeat' split
  all_goals simp
@[simp] theorem mcastCredit_kept (s : State) (group member : Nat) : (State.mcastCredit s group member).kept = s.kept := by
  unfold State.mcastCredit; repeat' split
  all_goals simp
@[simp] theorem mcastArrival_kept (s : State) (group member : Nat) : (State.mcastArrival s group member).kept = s.kept := by
  simp only [State.mcastArrival]; repeat' split
  all_goals simp
@[simp] theorem versionResolution_kept (s : State) (core sid : Nat) : (State.versionResolution s core sid).kept = s.kept := by
  simp only [State.versionResolution]; repeat' split
  all_goals simp
@[simp] theorem tagTimeout_kept (s : State) (core tag : Nat) : (State.tagTimeout s core tag).kept = s.kept := by
  simp only [State.tagTimeout]; repeat' split
  all_goals simp
@[simp] theorem flipWords_kept (s : State) (fl : List (Nat × Nat)) : (State.flipWords s fl).kept = s.kept := by
  simp [State.flipWords]
@[simp] theorem isleAccess_kept (s0 : State) (core : Nat) (fl : List (Nat × Nat)) : (State.isleAccess s0 core fl).kept = s0.kept := by
  simp only [State.isleAccess]; repeat' split
  all_goals simp
/-! ### Nmu -/
@[simp] theorem sorterAdmit_kept (s : State) (st : Nat) : (State.sorterAdmit s st).kept = s.kept := by
  simp only [State.sorterAdmit]; repeat' split
  all_goals simp
@[simp] theorem bankService_kept (s : State) (st bank aged : Nat) (errs : List (Nat × Nat)) : (State.bankService s st bank aged errs).kept = s.kept := by
  unfold State.bankService; repeat' split
  all_goals simp
@[simp] theorem claimsIn_kept (s : State) (part set : Nat) : (State.claimsIn s part set).kept = s.kept := by
  unfold State.claimsIn; repeat' split
  all_goals simp
@[simp] theorem staged_kept (s : State) (part set : Nat) : (State.staged s part set).kept = s.kept := by
  simp [State.staged]
@[simp] theorem stageTimeout_kept (s : State) (part set : Nat) : (State.stageTimeout s part set).kept = s.kept := by
  unfold State.stageTimeout
  try dsimp only
  repeat' first | with_reducible rfl | (with_reducible refine foldl_kept_eq (fun a b => ?_) ?_) | (with_reducible refine foldl_kept1_eq (fun a b => ?_) ?_) | (with_reducible refine foldr_kept_eq (fun a b => ?_) ?_) | (with_reducible refine elim_kept_eq (fun a => ?_) ?_) | (with_reducible refine elim_kept1_eq (fun a => ?_) ?_) | split | simp
@[simp] theorem groupKernel_kept (part set : Nat) (x : OptSet) (a : State × Bool) (p : Nat × Nat × Group) :
    (State.groupKernel part set x a p).1.kept = a.1.kept := by
  unfold State.groupKernel; dsimp only; (repeat' split) <;> simp
@[simp] theorem runKernels_kept (s : State) (part set : Nat) : (State.runKernels s part set).kept = s.kept := by
  unfold State.runKernels
  split
  · rfl
  · dsimp only
    rw [staged_kept, modGroups_kept, foldl_kept1]
    intro a p; simp
@[simp] theorem kernelsEnd_kept (s : State) (part set : Nat) : (State.kernelsEnd s part set).kept = s.kept := by
  unfold State.kernelsEnd; repeat' split
  all_goals simp
@[simp] theorem reawait_kept (s : State) (old new : Await) : (State.reawait s old new).kept = s.kept := by
  simp [State.reawait]
@[simp] theorem zeroOld_kept (s : State) (g : Segment) : (State.zeroOld s g).kept = s.kept := by
  simp [State.zeroOld]
@[simp] theorem dropSegment_kept (s : State) (ctx seg : Nat) : (State.dropSegment s ctx seg).kept = s.kept := by
  unfold State.dropSegment; repeat' split
  all_goals simp
@[simp] theorem holdersEnded_kept (s : State) (ctx seg : Nat) : (State.holdersEnded s ctx seg).kept = s.kept := by
  unfold State.holdersEnded; repeat' split
  all_goals simp
@[simp] theorem moveFails_kept (s : State) (ctx seg : Nat) (w : Await) (st : Status) : (State.moveFails s ctx seg w st).kept = s.kept := by
  simp [State.moveFails]
@[simp] theorem copySegment_kept (s : State) (g n : Segment) : (State.copySegment s g n).1.kept = s.kept := by
  unfold State.copySegment
  try dsimp only
  repeat' first | with_reducible rfl | (with_reducible refine foldl_kept_eq (fun a b => ?_) ?_) | (with_reducible refine foldl_kept1_eq (fun a b => ?_) ?_) | (with_reducible refine foldr_kept_eq (fun a b => ?_) ?_) | (with_reducible refine elim_kept_eq (fun a => ?_) ?_) | (with_reducible refine elim_kept1_eq (fun a => ?_) ?_) | split | simp
@[simp] theorem nextMove_kept (s : State) (w : Await) : (State.nextMove s w).kept = s.kept := by
  unfold State.nextMove; repeat' split
  all_goals simp
@[simp] theorem copyComplete_kept (s0 : State) (ctx seg : Nat) : (State.copyComplete s0 ctx seg).kept = s0.kept := by
  simp only [State.copyComplete]; repeat' split
  all_goals simp
/-! ### Link -/
@[simp] theorem atPort_kept (s : State) (n : Nat) (f : Port → State) (h_f : ∀ (y0 : Port), (f y0).kept = s.kept) : (State.atPort s n f).kept = s.kept := by
  unfold State.atPort; split <;> simp [h_f]
@[simp] theorem trainStep_kept (s : State) (n : Nat) : (State.trainStep s n).kept = s.kept := by
  simp only [State.trainStep]; repeat' split
  all_goals simp
@[simp] theorem sendConfig_kept (s : State) (n : Nat) : (State.sendConfig s n).kept = s.kept := by
  simp [State.sendConfig]
@[simp] theorem configIn_kept (s : State) (n : Nat) (b : List Byte) : (State.configIn s n b).kept = s.kept := by
  simp [State.configIn]
@[simp] theorem startReplay_kept (s : State) (n i : Nat) (a : Nat) : (State.startReplay s n i a).kept = s.kept := by
  simp [State.startReplay]
@[simp] theorem nakIn_kept (s : State) (n a : Nat) : (State.nakIn s n a).kept = s.kept := by
  simp [State.nakIn]
@[simp] theorem messageIn_kept (s : State) (n : Nat) (b : List Byte) : (State.messageIn s n b).kept = s.kept := by
  unfold State.messageIn; repeat' split
  all_goals simp
@[simp] theorem deliverFlit_kept (s : State) (n : Nat) (f : List Byte) : (State.deliverFlit s n f).kept = s.kept := by
  simp [State.deliverFlit]
@[simp] theorem fieldsIn_kept (s : State) (n : Nat) (f : List Byte) : (State.fieldsIn s n f).kept = s.kept := by
  simp [State.fieldsIn]
@[simp] theorem countBad_kept (s : State) (n : Nat) (f : List Byte) (intact : Bool) : (State.countBad s n f intact).kept = s.kept := by
  unfold State.countBad; dsimp only; (repeat' split) <;> simp
@[simp] theorem activeFlit_kept (s : State) (n : Nat) (f : List Byte) : (State.activeFlit s n f).kept = s.kept := by
  unfold State.activeFlit; dsimp only; (repeat' split) <;> simp
@[simp] theorem flitBody_kept (s : State) (n : Nat) (f : List Byte) (failed : Bool) : (State.flitBody s n f failed).kept = s.kept := by
  unfold State.flitBody
  try dsimp only
  repeat' first | with_reducible rfl | (with_reducible refine foldl_kept_eq (fun a b => ?_) ?_) | (with_reducible refine foldl_kept1_eq (fun a b => ?_) ?_) | (with_reducible refine foldr_kept_eq (fun a b => ?_) ?_) | (with_reducible refine elim_kept_eq (fun a => ?_) ?_) | (with_reducible refine elim_kept1_eq (fun a => ?_) ?_) | split | simp
@[simp] theorem flitIn_kept (s : State) (n : Nat) (f : List Byte) (failed : Bool) : (State.flitIn s n f failed).kept = s.kept := by
  simp [State.flitIn]
@[simp] theorem ctrlIn_kept (s : State) (n ctype : Nat) (f : List Byte) (failed : Bool) : (State.ctrlIn s n ctype f failed).kept = s.kept := by
  simp [State.ctrlIn]
@[simp] theorem sendData_kept (s : State) (n v : Nat) : (State.sendData s n v).kept = s.kept := by
  simp [State.sendData]
/-! ### Fabric -/
@[simp] theorem putIn_kept (s : State) (n : Nat) (p : List Byte) : (State.putIn s n p).kept = s.kept := by
  unfold State.putIn; repeat' split
  all_goals simp
@[simp] theorem getIn_kept (s : State) (p : List Byte) : (State.getIn s p).kept = s.kept := by
  unfold State.getIn
  try dsimp only
  repeat' first | with_reducible rfl | (with_reducible refine foldl_kept_eq (fun a b => ?_) ?_) | (with_reducible refine foldl_kept1_eq (fun a b => ?_) ?_) | (with_reducible refine foldr_kept_eq (fun a b => ?_) ?_) | (with_reducible refine elim_kept_eq (fun a => ?_) ?_) | (with_reducible refine elim_kept1_eq (fun a => ?_) ?_) | split | simp
@[simp] theorem answerIn_kept (s : State) (p : List Byte) (data : List Byte) (st : Status) (detail : Nat) : (State.answerIn s p data st detail).kept = s.kept := by
  simp [State.answerIn]
@[simp] theorem getRspIn_kept (s : State) (p : List Byte) : (State.getRspIn s p).kept = s.kept := by
  simp [State.getRspIn]
@[simp] theorem collPacket_kept (s : State) (n : Nat) (p : List Byte) (act : Coll → Member → State → State) (h_act : ∀ (y0 : Coll) (y1 : Member) (y2 : State), (act y0 y1 y2).kept = y2.kept) : (State.collPacket s n p act).kept = s.kept := by
  unfold State.collPacket; (repeat' split) <;> simp [h_act]
@[simp] theorem parkChunk_kept (s : State) (x : Coll) (m : Member) (p : List Byte) : (State.parkChunk s x m p).kept = s.kept := by
  unfold State.parkChunk
  try dsimp only
  repeat' first | with_reducible rfl | (with_reducible refine foldl_kept_eq (fun a b => ?_) ?_) | (with_reducible refine foldl_kept1_eq (fun a b => ?_) ?_) | (with_reducible refine foldr_kept_eq (fun a b => ?_) ?_) | (with_reducible refine elim_kept_eq (fun a => ?_) ?_) | (with_reducible refine elim_kept1_eq (fun a => ?_) ?_) | split | simp
@[simp] theorem deliverIn_kept (s : State) (x : Coll) (p : List Byte) (flags : Nat) : (State.deliverIn s x p flags).kept = s.kept := by
  unfold State.deliverIn
  try dsimp only
  repeat' first | with_reducible rfl | (with_reducible refine foldl_kept_eq (fun a b => ?_) ?_) | (with_reducible refine foldl_kept1_eq (fun a b => ?_) ?_) | (with_reducible refine foldr_kept_eq (fun a b => ?_) ?_) | (with_reducible refine elim_kept_eq (fun a => ?_) ?_) | (with_reducible refine elim_kept1_eq (fun a => ?_) ?_) | split | simp
@[simp] theorem repIn_kept (s : State) (x : Coll) (m : Member) (p : List Byte) : (State.repIn s x m p).kept = s.kept := by
  unfold State.repIn
  try dsimp only
  repeat' first | with_reducible rfl | (with_reducible refine foldl_kept_eq (fun a b => ?_) ?_) | (with_reducible refine foldl_kept1_eq (fun a b => ?_) ?_) | (with_reducible refine foldr_kept_eq (fun a b => ?_) ?_) | (with_reducible refine elim_kept_eq (fun a => ?_) ?_) | (with_reducible refine elim_kept1_eq (fun a => ?_) ?_) | split | simp
@[simp] theorem barRelIn_kept (s : State) (x : Coll) (m : Member) (p : List Byte) : (State.barRelIn s x m p).kept = s.kept := by
  simp [State.barRelIn]
@[simp] theorem enqueuePacket_kept (s : State) (out cls hops counts : Nat) (p : List Byte) : (State.enqueuePacket s out cls hops counts p).kept = s.kept := by
  simp [State.enqueuePacket]
@[simp] theorem forwardTransit_kept (s : State) (n vc : Nat) : (State.forwardTransit s n vc).kept = s.kept := by
  simp only [State.forwardTransit]; repeat' split
  all_goals simp
@[simp] theorem forwardOwn_kept (s : State) (vc : Nat) : (State.forwardOwn s vc).kept = s.kept := by
  simp only [State.forwardOwn]; repeat' split
  all_goals simp
@[simp] theorem dropQueued_kept (s : State) (port vc : Nat) : (State.dropQueued s port vc).kept = s.kept := by
  unfold State.dropQueued; repeat' split
  all_goals simp
/-! ### Tree -/
@[simp] theorem jobPacket_kept (s : State) (n vc ptype : Nat) (act : Nat → Tree → Nat → Nat → JobMsg → State → State) (h_act : ∀ (y0 : Nat) (y1 : Tree) (y2 : Nat) (y3 : Nat) (y4 : JobMsg) (y5 : State), (act y0 y1 y2 y3 y4 y5).kept = y5.kept) : (State.jobPacket s n vc ptype act).kept = s.kept := by
  unfold State.jobPacket; split; · rfl
  apply receive_kept; intro p a; dsimp only; (repeat' split) <;> simp [h_act]
@[simp] theorem current_kept (s : State) (ok : Bool) (act : State) (h_act : act.kept = s.kept) : (State.current s ok act).kept = s.kept := by
  unfold State.current; dsimp only; repeat' split
  all_goals (try simp_all)
@[simp] theorem voteTimeout_kept (s : State) (job who : Nat) : (State.voteTimeout s job who).kept = s.kept := by
  unfold State.voteTimeout; repeat' split
  all_goals simp
@[simp] theorem clearCauses_kept (s : State) (job : Nat) : (State.clearCauses s job).kept = s.kept := by
  unfold State.clearCauses
  apply foldl_kept; intro a b; (repeat' split) <;> simp
@[simp] theorem makeReportable_kept (s : State) (part set : Nat) : (State.makeReportable s part set).kept = s.kept := by
  unfold State.makeReportable; (repeat' split) <;> simp
@[simp] theorem restartStopped_kept (s : State) (job : Nat) (t : Tree) : (State.restartStopped s job t).kept = s.kept := by
  unfold State.restartStopped
  try dsimp only
  repeat' first | with_reducible rfl | (with_reducible refine foldl_kept_eq (fun a b => ?_) ?_) | (with_reducible refine foldl_kept1_eq (fun a b => ?_) ?_) | (with_reducible refine foldr_kept_eq (fun a b => ?_) ?_) | (with_reducible refine elim_kept_eq (fun a => ?_) ?_) | (with_reducible refine elim_kept1_eq (fun a => ?_) ?_) | split | simp
/-! ### HostRegs -/
@[simp] theorem atFn_kept (s : State) (fn : Nat) (act : State) (h_act : act.kept = s.kept) : (State.atFn s fn act).kept = s.kept := by
  unfold State.atFn; split <;> simp [h_act]
@[simp] theorem unmapped_kept (s : State) (space off bytes : Nat) (write : Bool) : (State.unmapped s space off bytes write).kept = s.kept := by
  simp [State.unmapped]
@[simp] theorem mailboxEnable_kept (s : State) (fn logn : Nat) : (State.mailboxEnable s fn logn).kept = s.kept := by
  simp [State.mailboxEnable]
@[simp] theorem mailboxDisable_kept (s : State) (fn logn : Nat) : (State.mailboxDisable s fn logn).kept = s.kept := by
  simp [State.mailboxDisable]
@[simp] theorem badBell_kept (s : State) (fn : Nat) : (State.badBell s fn).kept = s.kept := by
  simp [State.badBell]
@[simp] theorem mailboxDoorbell_kept (s : State) (fn index : Nat) : (State.mailboxDoorbell s fn index).kept = s.kept := by
  simp [State.mailboxDoorbell]
@[simp] theorem responseDoorbell_kept (s : State) (fn index : Nat) : (State.responseDoorbell s fn index).kept = s.kept := by
  simp [State.responseDoorbell]
@[simp] theorem submissionDoorbell_kept (s : State) (fn ring index : Nat) : (State.submissionDoorbell s fn ring index).kept = s.kept := by
  unfold State.submissionDoorbell; repeat' split
  all_goals simp
@[simp] theorem completionDoorbell_kept (s : State) (fn ring index : Nat) : (State.completionDoorbell s fn ring index).kept = s.kept := by
  unfold State.completionDoorbell; repeat' split
  all_goals simp
@[simp] theorem interruptTimer_kept (s : State) (fn ring : Nat) : (State.interruptTimer s fn ring).kept = s.kept := by
  unfold State.interruptTimer; repeat' split
  all_goals simp
@[simp] theorem configRequest_kept (s : State) (fn off : Nat) (write : Bool) : (State.configRequest s fn off write).kept = s.kept := by
  simp only [State.configRequest]; repeat' split
  all_goals simp
@[simp] theorem copyReads_kept (s : State) (fn : Nat) (a : List Byte) : (State.copyReads s fn a).kept = s.kept := by
  unfold State.copyReads
  apply foldl_kept; intro a b; (repeat' split) <;> simp
@[simp] theorem writeHostRecord_kept (s : State) (fn : Nat) (ranges : List (Nat × Nat)) (o : Nat) (bs : List Byte) : (State.writeHostRecord s fn ranges o bs).kept = s.kept := by
  unfold State.writeHostRecord
  try dsimp only
  repeat' first | with_reducible rfl | (with_reducible refine foldl_kept_eq (fun a b => ?_) ?_) | (with_reducible refine foldl_kept1_eq (fun a b => ?_) ?_) | (with_reducible refine foldr_kept_eq (fun a b => ?_) ?_) | (with_reducible refine elim_kept_eq (fun a => ?_) ?_) | (with_reducible refine elim_kept1_eq (fun a => ?_) ?_) | split | simp
@[simp] theorem writeHost_kept (s : State) (fn : Nat) (ranges : List (Nat × Nat)) (bs : List Byte) : (State.writeHost s fn ranges bs).kept = s.kept := by
  unfold State.writeHost
  try dsimp only
  repeat' first | with_reducible rfl | (with_reducible refine foldl_kept_eq (fun a b => ?_) ?_) | (with_reducible refine foldl_kept1_eq (fun a b => ?_) ?_) | (with_reducible refine foldr_kept_eq (fun a b => ?_) ?_) | (with_reducible refine elim_kept_eq (fun a => ?_) ?_) | (with_reducible refine elim_kept1_eq (fun a => ?_) ?_) | split | simp
@[simp] theorem copyDone_kept (s : State) (seq ctx : Nat) (a : List Byte) : (State.copyDone s seq ctx a).kept = s.kept := by
  simp [State.copyDone]
@[simp] theorem copyOut_kept (s : State) (seq fn ctx : Nat) (a : List Byte) : (State.copyOut s seq fn ctx a).kept = s.kept := by
  unfold State.copyOut; repeat' split
  all_goals simp
@[simp] theorem copyBegin_kept (s : State) (r : Running) : (State.copyBegin s r).kept = s.kept := by
  unfold State.copyBegin; repeat' split
  all_goals simp
@[simp] theorem setBme_kept (s : State) (fn : Nat) : (State.setBme s fn).kept = s.kept := by
  unfold State.setBme
  apply foldl_kept; intro a b; (repeat' split) <;> simp
@[simp] theorem mailboxEntry_kept (s : State) (fn : Nat) (e : List Byte) : (State.mailboxEntry s fn e).kept = s.kept := by
  unfold State.mailboxEntry; dsimp only
  (repeat' split) <;> simp
@[simp] theorem mailboxError_kept (s : State) (fn : Nat) : (State.mailboxError s fn).kept = s.kept := by
  simp [State.mailboxError]
@[simp] theorem ringError_kept (s : State) (fn ring : Nat) (r : SubRing) : (State.ringError s fn ring r).kept = s.kept := by
  simp [State.ringError]
@[simp] theorem sealFault_kept (s : State) (fn chan ring : Nat) : (State.sealFault s fn chan ring).kept = s.kept := by
  simp [State.sealFault]
@[simp] theorem endFetched_kept (s : State) (fn : Nat) (f : Fetched) (st : Status) : (State.endFetched s fn f st).kept = s.kept := by
  simp [State.endFetched]
@[simp] theorem copyIn_kept (s : State) (r : Running) (ctx seg left : Nat) (arg bs : List Byte) (ok : Bool) : (State.copyIn s r ctx seg left arg bs ok).kept = s.kept := by
  unfold State.copyIn; repeat' split
  all_goals simp
@[simp] theorem readDone_kept (s : State) (fn kind which : Nat) (bytes : List Byte) (ok : Bool) : (State.readDone s fn kind which bytes ok).kept = s.kept := by
  unfold State.readDone; repeat' split
  all_goals simp
@[simp] theorem readFailed_kept (s : State) (fn kind which : Nat) (late : Bool) : (State.readFailed s fn kind which late).kept = s.kept := by
  unfold State.readFailed; repeat' split
  all_goals simp
/-! ### EnclaveOps -/
@[simp] theorem deriveAlias_kept (s : State) : (State.deriveAlias s).kept = s.kept := by
  unfold State.deriveAlias
  try dsimp only
  repeat' first | with_reducible rfl | (with_reducible refine foldl_kept_eq (fun a b => ?_) ?_) | (with_reducible refine foldl_kept1_eq (fun a b => ?_) ?_) | (with_reducible refine foldr_kept_eq (fun a b => ?_) ?_) | (with_reducible refine elim_kept_eq (fun a => ?_) ?_) | (with_reducible refine elim_kept1_eq (fun a => ?_) ?_) | split | simp
@[simp] theorem dropSessions_kept (s : State) (p : Nat × Nat → Bool) : (State.dropSessions s p).kept = s.kept := by
  unfold State.dropSessions
  try dsimp only
  repeat' first | with_reducible rfl | (with_reducible refine foldl_kept_eq (fun a b => ?_) ?_) | (with_reducible refine foldl_kept1_eq (fun a b => ?_) ?_) | (with_reducible refine foldr_kept_eq (fun a b => ?_) ?_) | (with_reducible refine elim_kept_eq (fun a => ?_) ?_) | (with_reducible refine elim_kept1_eq (fun a => ?_) ?_) | split | simp
@[simp] theorem spdmSessions_kept (s : State) (t : Nat) (opens ends : Option Nat) : (State.spdmSessions s t opens ends).kept = s.kept := by
  unfold State.spdmSessions
  try dsimp only
  repeat' first | with_reducible rfl | (with_reducible refine foldl_kept_eq (fun a b => ?_) ?_) | (with_reducible refine foldl_kept1_eq (fun a b => ?_) ?_) | (with_reducible refine foldr_kept_eq (fun a b => ?_) ?_) | (with_reducible refine elim_kept_eq (fun a => ?_) ?_) | (with_reducible refine elim_kept1_eq (fun a => ?_) ?_) | split | simp
@[simp] theorem answerBytes_kept (s : State) : (State.answerBytes s).1.kept = s.kept := by
  simp [State.answerBytes]
@[simp] theorem spdmSign_kept (s : State) (ver : Nat) (transcript : List Byte) : (State.spdmSign s ver transcript).1.kept = s.kept := by
  unfold State.spdmSign
  try dsimp only
  repeat' first | with_reducible rfl | (with_reducible refine foldl_kept_eq (fun a b => ?_) ?_) | (with_reducible refine foldl_kept1_eq (fun a b => ?_) ?_) | (with_reducible refine foldr_kept_eq (fun a b => ?_) ?_) | (with_reducible refine elim_kept_eq (fun a => ?_) ?_) | (with_reducible refine elim_kept1_eq (fun a => ?_) ?_) | split | simp
@[simp] theorem measurements_kept (s : State) (t : Nat) (msg : List Byte) : (State.measurements s t msg).1.kept = s.kept := by
  unfold State.measurements
  try dsimp only
  repeat' first | with_reducible rfl | (with_reducible refine foldl_kept_eq (fun a b => ?_) ?_) | (with_reducible refine foldl_kept1_eq (fun a b => ?_) ?_) | (with_reducible refine foldr_kept_eq (fun a b => ?_) ?_) | (with_reducible refine elim_kept_eq (fun a => ?_) ?_) | (with_reducible refine elim_kept1_eq (fun a => ?_) ?_) | split | simp
@[simp] theorem plainAnswer_kept (s : State) (t : Nat) (msg : List Byte) : (State.plainAnswer s t msg).1.kept = s.kept := by
  unfold State.plainAnswer
  try dsimp only
  repeat' first | with_reducible rfl | (with_reducible refine foldl_kept_eq (fun a b => ?_) ?_) | (with_reducible refine foldl_kept1_eq (fun a b => ?_) ?_) | (with_reducible refine foldr_kept_eq (fun a b => ?_) ?_) | (with_reducible refine elim_kept_eq (fun a => ?_) ?_) | (with_reducible refine elim_kept1_eq (fun a => ?_) ?_) | split | simp
@[simp] theorem spdmAnswer_kept (s : State) (t : Nat) (msg : List Byte) : (State.spdmAnswer s t msg).1.kept = s.kept := by
  unfold State.spdmAnswer
  try dsimp only
  repeat' first | with_reducible rfl | (with_reducible refine foldl_kept_eq (fun a b => ?_) ?_) | (with_reducible refine foldl_kept1_eq (fun a b => ?_) ?_) | (with_reducible refine foldr_kept_eq (fun a b => ?_) ?_) | (with_reducible refine elim_kept_eq (fun a => ?_) ?_) | (with_reducible refine elim_kept1_eq (fun a => ?_) ?_) | split | simp
/-! ### MbOps -/
@[simp] theorem mboxPast_kept (s : State) (past : Running → Bool) (c : Caller) (opc : Nat) (objs : List Obj) (checks : List (Bool × Status × Nat)) (body : Cmd → State → State) (h_body : ∀ (y0 : Cmd) (y1 : State), (body y0 y1).kept = y1.kept) : (State.mboxPast s past c opc objs checks body).kept = s.kept := by
  unfold State.mboxPast; repeat' split
  all_goals (try simp_all)
@[simp] theorem markMig_kept (s : State) (ctx seg : Nat) : (State.markMig s ctx seg).kept = s.kept := by
  simp [State.markMig]
@[simp] theorem addSegment_kept (s : State) (ctx id : Nat) (g : Segment) : (State.addSegment s ctx id g).kept = s.kept := by
  simp [State.addSegment]
/-! ### MbDevice -/
@[simp] theorem newLayout_kept (s : State) (start : Nat) : (State.newLayout s start).kept = s.kept := by
  unfold State.newLayout
  try dsimp only
  repeat' first | with_reducible rfl | (with_reducible refine foldl_kept_eq (fun a b => ?_) ?_) | (with_reducible refine foldl_kept1_eq (fun a b => ?_) ?_) | (with_reducible refine foldr_kept_eq (fun a b => ?_) ?_) | (with_reducible refine elim_kept_eq (fun a => ?_) ?_) | (with_reducible refine elim_kept1_eq (fun a => ?_) ?_) | split | simp
@[simp] theorem zeroEighth_kept (s : State) (e : Nat) : (State.zeroEighth s e).kept = s.kept := by
  unfold State.zeroEighth
  apply foldl_kept; intro a b; (repeat' split) <;> simp
@[simp] theorem clearRecords_kept (s : State) (rs : List Reservation) (part : Nat) : (State.clearRecords s rs part).kept = s.kept := by
  unfold State.clearRecords
  try dsimp only
  repeat' first | with_reducible rfl | (with_reducible refine foldl_kept_eq (fun a b => ?_) ?_) | (with_reducible refine foldl_kept1_eq (fun a b => ?_) ?_) | (with_reducible refine foldr_kept_eq (fun a b => ?_) ?_) | (with_reducible refine elim_kept_eq (fun a => ?_) ?_) | (with_reducible refine elim_kept1_eq (fun a => ?_) ?_) | split | simp
@[simp] theorem ctxCmd_kept (s : State) (c : Caller) (opc n : Nat) (checks : List (Bool × Status × Nat)) (body : Cmd → State → State) (h_body : ∀ (y0 : Cmd) (y1 : State), (body y0 y1).kept = y1.kept) : (State.ctxCmd s c opc n checks body).kept = s.kept := by
  unfold State.ctxCmd; exact mbox_kept _ _ _ _ _ _ _ h_body
/-! ### MbSeg -/
@[simp] theorem newGroup_kept (s : State) (g : Group) (gid sid wid : Nat) (a b : Segment) : (State.newGroup s g gid sid wid a b).kept = s.kept := by
  simp [State.newGroup]
@[simp] theorem loadState_kept (s : State) (m : Cmd) (st gid epoch : Nat) (g : Group) (k : Nat) : (State.loadState s m st gid epoch g k).kept = s.kept := by
  simp [State.loadState]
@[simp] theorem importWeights_kept (s : State) (m : Cmd) (st gid key bytes : Nat) (g : Group) (k : Nat) : (State.importWeights s m st gid key bytes g k).kept = s.kept := by
  simp only [State.importWeights]; repeat' split
  all_goals simp
/-! ### Rings -/
@[simp] theorem loseHeld_kept (s : State) (r : CplRing) : (State.loseHeld s r).kept = s.kept := by
  unfold State.loseHeld
  apply foldl_kept; intro a b; (repeat' split) <;> simp
@[simp] theorem resetRing_kept (s : State) (fn kind ring : Nat) : (State.resetRing s fn kind ring).kept = s.kept := by
  unfold State.resetRing
  try dsimp only
  repeat' first | with_reducible rfl | (with_reducible refine foldl_kept_eq (fun a b => ?_) ?_) | (with_reducible refine foldl_kept1_eq (fun a b => ?_) ?_) | (with_reducible refine foldr_kept_eq (fun a b => ?_) ?_) | (with_reducible refine elim_kept_eq (fun a => ?_) ?_) | (with_reducible refine elim_kept1_eq (fun a => ?_) ?_) | split | simp
/-! ### MbJob -/
@[simp] theorem dropMember_kept (s : State) (part job : Nat) : (State.dropMember s part job).kept = s.kept := by
  unfold State.dropMember
  apply foldl_kept; intro a b; (repeat' split) <;> simp
@[simp] theorem startReduce_kept (s : State) (x : Coll) (m : Member) (chunks : List (Nat × Nat × List Byte)) : (State.startReduce s x m chunks).kept = s.kept := by
  simp [State.startReduce]
@[simp] theorem startSpread_kept (s : State) (x : Coll) (m : Member) (chunks : List (Nat × Nat × List Byte)) : (State.startSpread s x m chunks).kept = s.kept := by
  unfold State.startSpread
  rw [putColl_kept]; exact foldl_kept1 _ (fun a b => by dsimp only; (repeat' split) <;> simp) _ _
@[simp] theorem sourceFault_kept (s : State) (x : Coll) (p : Nat × Nat) (n : Nat) : (State.sourceFault s x p n).kept = s.kept := by
  simp [State.sourceFault]
@[simp] theorem readSources_kept (s : State) (cx : Context) (src : List (Nat × Nat)) : (State.readSources s cx src).1.kept = s.kept := by
  unfold State.readSources; exact foldl_kept _ (fun a b => by simp) _ _
@[simp] theorem startTiles_kept (s : State) (cx : Context) (x : Coll) (m : Member) (src : List (Nat × Nat)) : (State.startTiles s cx x m src).kept = s.kept := by
  unfold State.startTiles; dsimp only; (repeat' split) <;> simp
@[simp] theorem startColl_kept (s : State) (x : Coll) (m : Member) : (State.startColl s x m).kept = s.kept := by
  unfold State.startColl; dsimp only; (repeat' split) <;> simp
/-! ### MbCommit -/
@[simp] theorem stageSet_kept (s : State) (part set : Nat) (b : List Byte) : (State.stageSet s part set b).kept = s.kept := by
  unfold State.stageSet; repeat' split
  all_goals simp
@[simp] theorem takeHellos_kept (s : State) (job : Nat) (t : Tree) : (State.takeHellos s job t).kept = s.kept := by
  simp [State.takeHellos]
/-! ### MbSecurity -/
@[simp] theorem keyMessage_kept (s : State) (transport session code : Nat) (d : List Byte) (shapeOk : Bool) (more : List (Bool × Status)) (act : State → State) (tail : State → List Byte) (h_act : ∀ (y0 : State), (act y0).kept = y0.kept) : (State.keyMessage s transport session code d shapeOk more act tail).kept = s.kept := by
  unfold State.keyMessage; dsimp only; repeat' split
  all_goals (try simp_all)
@[simp] theorem dropSecrets_kept (s : State) : (State.dropSecrets s).kept = s.kept := by
  simp [State.dropSecrets]
@[simp] theorem zeroiseEnds_kept (s : State) (st : Status) : (State.zeroiseEnds s st).kept = s.kept := by
  simp [State.zeroiseEnds]
@[simp] theorem zeroAllMemory_kept (s : State) : (State.zeroAllMemory s).kept = s.kept := by
  simp [State.zeroAllMemory]
@[simp] theorem openDebug_kept (s : State) (level : Nat) : (State.openDebug s level).kept = s.kept := by
  simp [State.openDebug]
/-! ### FwOps -/
@[simp] theorem fwEnd_kept (s : State) (w : FwWrite) (st : Status) (detail : Nat) : (State.fwEnd s w st detail).kept = s.kept := by
  unfold State.fwEnd; repeat' split
  all_goals simp
@[simp] theorem fwMore_kept (s : State) (w : FwWrite) (bs : List Byte) : (State.fwMore s w bs).kept = s.kept := by
  simp [State.fwMore]
@[simp] theorem fwStep_kept (s : State) (w : FwWrite) : (State.fwStep s w).kept = s.kept := by
  simp [State.fwStep]
@[simp] theorem freeBytes_kept (s : State) (place n : Nat) : (State.freeBytes s place n).1.kept = s.kept := by
  simp [State.freeBytes]
@[simp] theorem startCapture_kept (s : State) : (State.startCapture s).kept = s.kept := by
  simp [State.startCapture]
@[simp] theorem droverStops_kept (s : State) : (State.droverStops s).kept = s.kept := by
  simp [State.droverStops]
@[simp] theorem releaseFaultN_kept (s : State) : (State.releaseFaultN s).kept = s.kept := by
  unfold State.releaseFaultN; dsimp only
  repeat' split
  all_goals first | rfl | (simp; done) | (rw [foldl_kept] <;> simp <;> intros <;> (repeat' split) <;> simp)
/-! ### MbPower -/
@[simp] theorem setForce_kept (s : State) (kind unit : Nat) (f : Option Bool) : (State.setForce s kind unit f).kept = s.kept := by
  simp [State.setForce]
@[simp] theorem startForce_kept (s : State) (m : Cmd) (kind unit : Nat) (on : Bool) : (State.startForce s m kind unit on).kept = s.kept := by
  simp [State.startForce]
/-! ### Faults -/
@[simp] theorem blockResetComplete_kept (s : State) (ukind unit : Nat) : (State.blockResetComplete s ukind unit).kept = s.kept := by
  unfold State.blockResetComplete; repeat' split
  all_goals simp
@[simp] theorem islePatrol_kept (s : State) (core : Nat) (fl : List (Nat × Nat)) : (State.islePatrol s core fl).kept = s.kept := by
  unfold State.islePatrol; dsimp only
  repeat' split
  all_goals first | rfl | (simp; done) | (rw [foldl_kept] <;> simp <;> intros <;> (repeat' split) <;> simp)
@[simp] theorem stackPatrol_kept (s : State) (st : Nat) (errs : List (Nat × Nat)) : (State.stackPatrol s st errs).kept = s.kept := by
  simp only [State.stackPatrol]; repeat' split
  all_goals simp
@[simp] theorem meetSram_kept (s : State) (w mask : Nat) : (State.meetSram s w mask).kept = s.kept := by
  unfold State.meetSram
  try dsimp only
  repeat' first | with_reducible rfl | (with_reducible refine foldl_kept_eq (fun a b => ?_) ?_) | (with_reducible refine foldl_kept1_eq (fun a b => ?_) ?_) | (with_reducible refine foldr_kept_eq (fun a b => ?_) ?_) | (with_reducible refine elim_kept_eq (fun a => ?_) ?_) | (with_reducible refine elim_kept1_eq (fun a => ?_) ?_) | split | simp
@[simp] theorem secondExpiry_kept (s : State) : (State.secondExpiry s).kept = s.kept := by
  simp [State.secondExpiry]
/-! ### Power -/
@[simp] theorem tryStart_kept (s : State) : (State.tryStart s).kept = s.kept := by
  simp [State.tryStart]
@[simp] theorem capWindow_kept (s : State) (avg : Nat) : (State.capWindow s avg).kept = s.kept := by
  simp [State.capWindow]
@[simp] theorem throttle_kept (s : State) (kind i : Nat) (x : Int) : (State.throttle s kind i x).kept = s.kept := by
  simp [State.throttle]
@[simp] theorem stackReading_kept (s : State) (st : Nat) (x : Int) : (State.stackReading s st x).kept = s.kept := by
  simp [State.stackReading]
@[simp] theorem thermalSample_kept (s : State) (junction stackTs others : List Int) : (State.thermalSample s junction stackTs others).kept = s.kept := by
  unfold State.thermalSample; dsimp only
  repeat' split
  all_goals first | rfl | (simp; done) | (rw [foldl_kept] <;> simp <;> intros <;> (repeat' split) <;> simp)
@[simp] theorem thermalWindow_kept (s : State) (h : Nat) : (State.thermalWindow s h).kept = s.kept := by
  simp [State.thermalWindow]
@[simp] theorem dividerChange_kept (s : State) (h : Nat) : (State.dividerChange s h).kept = s.kept := by
  simp [State.dividerChange]
@[simp] theorem bankDescent_kept (s : State) (core bank : Nat) : (State.bankDescent s core bank).kept = s.kept := by
  simp [State.bankDescent]
@[simp] theorem descent_kept (s : State) (kind unit sub : Nat) : (State.descent s kind unit sub).kept = s.kept := by
  simp [State.descent]
@[simp] theorem wake_kept (s : State) (kind unit sub : Nat) : (State.wake s kind unit sub).kept = s.kept := by
  simp [State.wake]
@[simp] theorem forcedReached_kept (s : State) (kind unit : Nat) : (State.forcedReached s kind unit).kept = s.kept := by
  simp [State.forcedReached]
/-! ### Startup -/
@[simp] theorem pwrEnDeassert_kept (s : State) : (State.pwrEnDeassert s).kept = s.kept := by
  simp [State.pwrEnDeassert]
@[simp] theorem pinReset_kept (s : State) : (State.pinReset s).kept = s.kept := by
  simp [State.pinReset]
@[simp] theorem bootImages_kept (s : State) (x0 : List Nat) : (State.bootImages s x0).kept = s.kept := by
  induction x0 generalizing s with
  | nil =>
    unfold State.bootImages
    refine (foldl_kept _ (fun a b => by simp) _ _).trans ?_
    exact (kept_upd s.deriveAlias _ _ _ _ _ _ _).trans (by simp)
  | cons k t ih => unfold State.bootImages; split <;> simp [ih]
@[simp] theorem trainingTimeout_kept (s : State) (st step : Nat) : (State.trainingTimeout s st step).kept = s.kept := by
  simp [State.trainingTimeout]
@[simp] theorem engineTested_kept (s : State) (g rows cols : Nat) (ended : Bool) : (State.engineTested s g rows cols ended).kept = s.kept := by
  simp [State.engineTested]
@[simp] theorem zeroUnlocked_kept (s : State) : (State.zeroUnlocked s).kept = s.kept := by
  simp [State.zeroUnlocked]
/-! ### Sideband -/
@[simp] theorem mbWrite_kept (s : State) (v : Nat) : (State.mbWrite s v).kept = s.kept := by
  unfold State.mbWrite; repeat' split
  all_goals simp
@[simp] theorem sbSupply_kept (s : State) (ws : List Word) : (State.sbSupply s ws).kept = s.kept := by
  simp [State.sbSupply]
@[simp] theorem freeWords_kept (s : State) (place n : Nat) : (State.freeWords s place n).1.kept = s.kept := by
  simp [State.freeWords]
@[simp] theorem logWords_kept (s : State) : (State.logWords s).1.kept = s.kept := by
  simp [State.logWords]
@[simp] theorem sbCut_kept (s : State) (st : Status) : (State.sbCut s st).kept = s.kept := by
  unfold State.sbCut; repeat' split
  all_goals simp
@[simp] theorem mctpAnswer_kept (s : State) (inst cmd code : Nat) (data : List Byte) : (State.mctpAnswer s inst cmd code data).kept = s.kept := by
  unfold State.mctpAnswer
  try dsimp only
  repeat' first | with_reducible rfl | (with_reducible refine foldl_kept_eq (fun a b => ?_) ?_) | (with_reducible refine foldl_kept1_eq (fun a b => ?_) ?_) | (with_reducible refine foldr_kept_eq (fun a b => ?_) ?_) | (with_reducible refine elim_kept_eq (fun a => ?_) ?_) | (with_reducible refine elim_kept1_eq (fun a => ?_) ?_) | split | simp
@[simp] theorem mctpControl_kept (s : State) (cmd arg : Nat) (inst : Nat := 0) : (State.mctpControl s cmd arg inst).kept = s.kept := by
  unfold State.mctpControl
  try dsimp only
  repeat' first | with_reducible rfl | (with_reducible refine foldl_kept_eq (fun a b => ?_) ?_) | (with_reducible refine foldl_kept1_eq (fun a b => ?_) ?_) | (with_reducible refine foldr_kept_eq (fun a b => ?_) ?_) | (with_reducible refine elim_kept_eq (fun a => ?_) ?_) | (with_reducible refine elim_kept1_eq (fun a => ?_) ?_) | split | simp
@[simp] theorem mctpMessage_kept (s : State) (msg : List Byte) (opens ends : Option Nat) : (State.mctpMessage s msg opens ends).kept = s.kept := by
  unfold State.mctpMessage
  try dsimp only
  repeat' first | with_reducible rfl | (with_reducible refine foldl_kept_eq (fun a b => ?_) ?_) | (with_reducible refine foldl_kept1_eq (fun a b => ?_) ?_) | (with_reducible refine foldr_kept_eq (fun a b => ?_) ?_) | (with_reducible refine elim_kept_eq (fun a => ?_) ?_) | (with_reducible refine elim_kept1_eq (fun a => ?_) ?_) | split | simp
/-! ### Tap -/
@[simp] theorem tapLoad_kept (s : State) (ir : Nat) : (State.tapLoad s ir).kept = s.kept := by
  simp [State.tapLoad]
@[simp] theorem scan_kept (s : State) (cells load : List Bool) : (State.scan s cells load).kept = s.kept := by
  simp [State.scan]
@[simp] theorem extest_kept (s : State) (ir : Nat) (cells load : List Bool) : (State.extest s ir cells load).kept = s.kept := by
  simp [State.extest]
/-! ### Completions -/
@[simp] theorem zeroingComplete_kept (s : State) (seq : Nat) : (State.zeroingComplete s seq).kept = s.kept := by
  unfold State.zeroingComplete
  try dsimp only
  repeat' first | with_reducible rfl | (with_reducible refine foldl_kept_eq (fun a b => ?_) ?_) | (with_reducible refine foldl_kept1_eq (fun a b => ?_) ?_) | (with_reducible refine foldr_kept_eq (fun a b => ?_) ?_) | (with_reducible refine elim_kept_eq (fun a => ?_) ?_) | (with_reducible refine elim_kept1_eq (fun a => ?_) ?_) | split | simp
@[simp] theorem regenerate_kept (s : State) (st gid : Nat) (g : Group) : (State.regenerate s st gid g).kept = s.kept := by
  unfold State.regenerate
  try dsimp only
  repeat' first | with_reducible rfl | (with_reducible refine foldl_kept_eq (fun a b => ?_) ?_) | (with_reducible refine foldl_kept1_eq (fun a b => ?_) ?_) | (with_reducible refine foldr_kept_eq (fun a b => ?_) ?_) | (with_reducible refine elim_kept_eq (fun a => ?_) ?_) | (with_reducible refine elim_kept1_eq (fun a => ?_) ?_) | split | simp
@[simp] theorem regenerationComplete_kept (s : State) (st gid : Nat) : (State.regenerationComplete s st gid).kept = s.kept := by
  unfold State.regenerationComplete; repeat' split
  all_goals simp
@[simp] theorem regenerationTimeout_kept (s : State) (st gid : Nat) : (State.regenerationTimeout s st gid).kept = s.kept := by
  unfold State.regenerationTimeout; repeat' split
  all_goals simp
end Sys2Proof.Machine
end

