-- ==== Sys2Proof/Laws/Tab.lean ====
section
/-! SUPPORT. Sparse tables: what is read after a write, and that every change keeps the canonical form. -/

namespace Sys2Proof

variable {α : Type}

/-- Numbers above a bound. -/
def Tab.above (b : Nat) (t : Tab α) : Prop := ∀ p ∈ t, b < p.1

theorem Tab.sorted_cons (k : Nat) (v : α) (t : Tab α) : Tab.sorted ((k, v) :: t) = true ↔ Tab.above k t ∧ Tab.sorted t = true := by
  induction t generalizing k v with
  | nil => simp [Tab.sorted, Tab.above]
  | cons p t ih =>
    obtain ⟨k', v'⟩ := p
    simp only [Tab.sorted, Bool.and_eq_true, decide_eq_true_eq]
    constructor
    · rintro ⟨h, hs⟩
      refine ⟨?_, hs⟩
      intro q hq
      rcases List.mem_cons.mp hq with rfl | hq
      · exact h
      · exact h.trans (((ih k' v').mp hs).1 q hq)
    · rintro ⟨ha, hs⟩
      exact ⟨ha (k', v') List.mem_cons_self, hs⟩

theorem Tab.above_mono {a b : Nat} {t : Tab α} (h : a ≤ b) (ha : Tab.above b t) : Tab.above a t :=
  fun p hp => Nat.lt_of_le_of_lt h (ha p hp)

theorem Tab.above_put {b k : Nat} {v : α} {t : Tab α} (ht : Tab.above b t) (hk : b < k) : Tab.above b (t.put k v) := by
  induction t with
  | nil => intro p hp; simp [Tab.put] at hp; simp [hp, hk]
  | cons q t ih =>
    obtain ⟨k', v'⟩ := q
    have h1 : b < k' := ht (k', v') List.mem_cons_self
    have h2 : Tab.above b t := fun p hp => ht p (List.mem_cons_of_mem _ hp)
    unfold Tab.put
    split
    · intro p hp
      rcases List.mem_cons.mp hp with rfl | hp
      · exact hk
      · exact ht p hp
    · split
      · intro p hp
        rcases List.mem_cons.mp hp with rfl | hp
        · exact hk
        · exact h2 p hp
      · intro p hp
        rcases List.mem_cons.mp hp with rfl | hp
        · exact h1
        · exact ih h2 p hp

theorem Tab.above_erase {b k : Nat} {t : Tab α} (ht : Tab.above b t) : Tab.above b (t.erase k) := by
  induction t with
  | nil => exact ht
  | cons q t ih =>
    obtain ⟨k', v'⟩ := q
    have h2 : Tab.above b t := fun p hp => ht p (List.mem_cons_of_mem _ hp)
    unfold Tab.erase
    split
    · exact ht
    · split
      · exact h2
      · intro p hp
        rcases List.mem_cons.mp hp with rfl | hp
        · exact ht (k', v') List.mem_cons_self
        · exact ih h2 p hp

theorem Tab.sorted_put (t : Tab α) (k : Nat) (v : α) (h : Tab.sorted t = true) : Tab.sorted (t.put k v) = true := by
  induction t with
  | nil => rfl
  | cons q t ih =>
    obtain ⟨k', v'⟩ := q
    obtain ⟨ha, hs⟩ := (Tab.sorted_cons k' v' t).mp h
    unfold Tab.put
    split
    · rename_i hk
      refine (Tab.sorted_cons k v _).mpr ⟨?_, h⟩
      intro p hp
      rcases List.mem_cons.mp hp with rfl | hp
      · exact hk
      · exact hk.trans (ha p hp)
    · split
      · rename_i hk
        subst hk
        exact (Tab.sorted_cons k v t).mpr ⟨ha, hs⟩
      · exact (Tab.sorted_cons k' v' _).mpr ⟨Tab.above_put ha (by omega), ih hs⟩

theorem Tab.sorted_erase (t : Tab α) (k : Nat) (h : Tab.sorted t = true) : Tab.sorted (t.erase k) = true := by
  induction t with
  | nil => rfl
  | cons q t ih =>
    obtain ⟨k', v'⟩ := q
    obtain ⟨ha, hs⟩ := (Tab.sorted_cons k' v' t).mp h
    unfold Tab.erase
    split
    · exact h
    · split
      · exact hs
      · exact (Tab.sorted_cons k' v' _).mpr ⟨Tab.above_erase ha, ih hs⟩

theorem Tab.sorted_filter (t : Tab α) (p : Nat × α → Bool) (h : Tab.sorted t = true) : Tab.sorted (t.filter p) = true := by
  induction t with
  | nil => rfl
  | cons q t ih =>
    obtain ⟨k', v'⟩ := q
    obtain ⟨ha, hs⟩ := (Tab.sorted_cons k' v' t).mp h
    by_cases hp : p (k', v') = true
    · rw [List.filter_cons_of_pos hp]
      exact (Tab.sorted_cons k' v' _).mpr ⟨fun x hx => ha x (List.mem_filter.mp hx).1, ih hs⟩
    · rw [List.filter_cons_of_neg hp]; exact ih hs

theorem Tab.mem_put {t : Tab α} {k : Nat} {v : α} {p : Nat × α} (h : p ∈ t.put k v) : p = (k, v) ∨ p ∈ t := by
  induction t with
  | nil => exact .inl (by simpa [Tab.put] using h)
  | cons q t ih =>
    obtain ⟨k', v'⟩ := q
    unfold Tab.put at h
    split at h
    · rcases List.mem_cons.mp h with h | h
      · exact .inl h
      · exact .inr h
    · split at h
      · rcases List.mem_cons.mp h with h | h
        · exact .inl h
        · exact .inr (List.mem_cons_of_mem _ h)
      · rcases List.mem_cons.mp h with h | h
        · exact .inr (h ▸ List.mem_cons_self)
        · exact (ih h).imp_right (List.mem_cons_of_mem _)

theorem Tab.mem_erase {t : Tab α} {k : Nat} {p : Nat × α} (h : p ∈ t.erase k) : p ∈ t := by
  induction t with
  | nil => exact h
  | cons q t ih =>
    obtain ⟨k', v'⟩ := q
    unfold Tab.erase at h
    split at h
    · exact h
    · split at h
      · exact List.mem_cons_of_mem _ h
      · rcases List.mem_cons.mp h with h | h
        · exact h ▸ List.mem_cons_self
        · exact List.mem_cons_of_mem _ (ih h)

theorem Tab.wf_iff [DecidableEq α] (t : Tab α) (d : α) : Tab.wf t d = true ↔ Tab.sorted t = true ∧ ∀ p ∈ t, p.2 ≠ d := by
  simp [Tab.wf]

/-- A write keeps the canonical form. -/
theorem Tab.wf_set [DecidableEq α] (t : Tab α) (d : α) (k : Nat) (v : α) (h : Tab.wf t d = true) : Tab.wf (t.set d k v) d = true := by
  obtain ⟨hs, hd⟩ := (Tab.wf_iff t d).mp h
  unfold Tab.set
  split
  · exact (Tab.wf_iff _ d).mpr ⟨Tab.sorted_erase t k hs, fun p hp => hd p (Tab.mem_erase hp)⟩
  · rename_i hv
    refine (Tab.wf_iff _ d).mpr ⟨Tab.sorted_put t k v hs, fun p hp => ?_⟩
    rcases Tab.mem_put hp with rfl | hp
    · exact hv
    · exact hd p hp

/-- Entries dropped leave the canonical form. -/
theorem Tab.wf_filter [DecidableEq α] (t : Tab α) (d : α) (p : Nat × α → Bool) (h : Tab.wf t d = true) : Tab.wf (t.filter p) d = true := by
  obtain ⟨hs, hd⟩ := (Tab.wf_iff t d).mp h
  exact (Tab.wf_iff _ d).mpr ⟨Tab.sorted_filter t p hs, fun q hq => hd q (List.mem_filter.mp hq).1⟩

/-- What a look finds is in the table. -/
theorem Tab.look_mem {t : Tab α} {k : Nat} {v : α} (h : t.look k = some v) : (k, v) ∈ t := by
  induction t with
  | nil => simp [Tab.look] at h
  | cons x l ih =>
    obtain ⟨k', v'⟩ := x
    simp only [Tab.look] at h
    split at h
    · next e => simp only [Option.some.injEq] at h; simp [e, h]
    · split at h
      · cases h
      · exact List.mem_cons_of_mem _ (ih h)

@[simp] theorem Tab.look_put_same (t : Tab α) (k : Nat) (v : α) : (t.put k v).look k = some v := by
  induction t with
  | nil => simp [Tab.put, Tab.look]
  | cons q t ih =>
    obtain ⟨k', v'⟩ := q
    unfold Tab.put
    split
    · simp [Tab.look]
    · split
      · simp [Tab.look]
      · simp only [Tab.look]; rw [if_neg (by omega), if_neg (by omega)]; exact ih

theorem Tab.look_put_ne (t : Tab α) (k j : Nat) (v : α) (h : j ≠ k) : (t.put k v).look j = t.look j := by
  induction t with
  | nil => simp [Tab.put, Tab.look, h]
  | cons q t ih =>
    obtain ⟨k', v'⟩ := q
    unfold Tab.put
    split
    · simp only [Tab.look]; rw [if_neg h]
      split
      · rw [if_neg (by omega), if_pos (by omega)]
      · rfl
    · split
      · subst_vars
        simp only [Tab.look]
        rw [if_neg h, if_neg h]
      · simp only [Tab.look]; rw [ih]

theorem Tab.look_above {t : Tab α} {k : Nat} (h : Tab.above k t) : t.look k = none := by
  cases t with
  | nil => rfl
  | cons q t =>
    obtain ⟨k', v'⟩ := q
    have := h (k', v') List.mem_cons_self
    simp only [Tab.look]
    rw [if_neg (by simp at this; omega), if_pos this]

theorem Tab.look_erase_same (t : Tab α) (k : Nat) (h : Tab.sorted t = true) : (t.erase k).look k = none := by
  induction t with
  | nil => rfl
  | cons q t ih =>
    obtain ⟨k', v'⟩ := q
    obtain ⟨ha, hs⟩ := (Tab.sorted_cons k' v' t).mp h
    unfold Tab.erase
    split
    · simp only [Tab.look]; rw [if_neg (by omega), if_pos (by assumption)]
    · split
      · subst_vars; exact Tab.look_above ha
      · simp only [Tab.look]; rw [if_neg (by omega), if_neg (by omega)]; exact ih hs

theorem Tab.look_erase_ne (t : Tab α) (k j : Nat) (h : j ≠ k) (ht : Tab.sorted t = true) : (t.erase k).look j = t.look j := by
  induction t with
  | nil => rfl
  | cons q t ih =>
    obtain ⟨k', v'⟩ := q
    obtain ⟨ha, hs⟩ := (Tab.sorted_cons k' v' t).mp ht
    unfold Tab.erase
    split
    · rfl
    · split
      · subst_vars
        simp only [Tab.look]
        rw [if_neg h]
        split
        · exact Tab.look_above (Tab.above_mono (by omega) ha)
        · rfl
      · simp only [Tab.look]; rw [ih hs]

@[simp] theorem Tab.get_set_same [DecidableEq α] (t : Tab α) (d : α) (k : Nat) (v : α) (h : Tab.sorted t = true) : (t.set d k v).get d k = v := by
  unfold Tab.set Tab.get
  split
  · subst_vars; rw [Tab.look_erase_same t k h]; rfl
  · rw [Tab.look_put_same]; rfl

theorem Tab.get_set_ne [DecidableEq α] (t : Tab α) (d : α) (k j : Nat) (v : α) (h : j ≠ k) (ht : Tab.sorted t = true) :
    (t.set d k v).get d j = t.get d j := by
  unfold Tab.set Tab.get
  split
  · rw [Tab.look_erase_ne t k j h ht]
  · rw [Tab.look_put_ne t k j v h]

/-- A look in what a test of numbers leaves. -/
theorem Tab.look_filter (t : Tab α) (p : Nat × α → Bool) (q : Nat → Bool) (hq : ∀ x ∈ t, p x = q x.1) (k : Nat) (ht : Tab.sorted t = true) :
    Tab.look (t.filter p) k = if q k then t.look k else none := by
  induction t with
  | nil => simp [Tab.look]
  | cons x l ih =>
    obtain ⟨k', v⟩ := x
    obtain ⟨ha, hs⟩ := (Tab.sorted_cons k' v l).mp ht
    have e := hq (k', v) List.mem_cons_self
    have i := ih (fun x hx => hq x (List.mem_cons_of_mem _ hx)) hs
    rw [List.filter_cons]
    by_cases c : q k' = true
    · rw [if_pos (by rw [e]; exact c)]
      simp only [Tab.look]
      by_cases h : k = k'
      · subst h; simp [c]
      · by_cases h' : k < k'
        · simp [h, h']
        · simp only [h, h', if_false]; exact i
    · rw [if_neg (by rw [e]; exact c), i]
      simp only [Tab.look]
      by_cases h : k = k'
      · subst h; simp [c]
      · by_cases h' : k < k'
        · simp [h, h', Tab.look_above (Tab.above_mono (Nat.le_of_lt h') ha)]
        · simp [h, h']

end Sys2Proof
end

