-- ==== Sys2Proof/Laws/Memory.lean ====
section
/-! SUPPORT. The stacks' and Isles' bytes: what is read after a write, and that every operation on memory keeps its
canonical form, which the memory of `State.reset` has. -/

namespace Sys2Proof.Machine

open Sys2Proof

theorem reset_mem_wf : Memory.wf State.reset.mem = true := rfl

/-! ### Operations that store nothing -/

theorem foldl_mem {β : Type} (g : State → β → State) (h : ∀ a b, (g a b).mem = a.mem) (l : List β) (s : State) : (l.foldl g s).mem = s.mem := by
  induction l generalizing s with
  | nil => rfl
  | cons x t ih => rw [List.foldl_cons, ih, h]

theorem foldl_mem1 {β γ : Type} (g : State × γ → β → State × γ) (h : ∀ a b, (g a b).1.mem = a.1.mem) (l : List β) (s : State × γ) :
    (l.foldl g s).1.mem = s.1.mem := by
  induction l generalizing s with
  | nil => rfl
  | cons x t ih => rw [List.foldl_cons, ih, h]

theorem ite_mem (c : Prop) [Decidable c] (a b : State) : (if c then a else b).mem = if c then a.mem else b.mem := by split <;> rfl

@[simp] theorem modCore_mem (s : State) (n : Nat) (f : Core → Core) : (s.modCore n f).mem = s.mem := rfl
@[simp] theorem setNmu_mem (s : State) (n : Nat) (c : Nmu) : (s.setNmu n c).mem = s.mem := rfl
@[simp] theorem modNmu_mem (s : State) (n : Nat) (f : Nmu → Nmu) : (s.modNmu n f).mem = s.mem := rfl
@[simp] theorem modFn_mem (s : State) (n : Nat) (f : Fn → Fn) : (s.modFn n f).mem = s.mem := rfl
@[simp] theorem emit_mem (s : State) (fn : Nat) (o : Out) : (s.emit fn o).mem = s.mem := by unfold State.emit; split <;> rfl
@[simp] theorem msix_mem (s : State) (fn v : Nat) : (s.msix fn v).mem = s.mem := by unfold State.msix; split <;> simp
@[simp] theorem setIsr_mem (s : State) (fn b : Nat) : (s.setIsr fn b).mem = s.mem := by
  unfold State.setIsr; dsimp only; repeat' split
  all_goals simp
@[simp] theorem faultIrq_mem (s : State) (p : Option Nat) : (s.faultIrq p).mem = s.mem := by unfold State.faultIrq; dsimp only; split <;> simp
@[simp] theorem record_mem (s : State) (r : FaultRec) : (s.record r).1.mem = s.mem := by unfold State.record; split <;> rfl
@[simp] theorem raise_mem (s : State) (o : Occ) : (s.raise o).mem = s.mem := by
  unfold State.raise; dsimp only; simp [ite_mem]
@[simp] theorem wakeBanks_mem (s : State) (core : Nat) (ks : List Nat) : (s.wakeBanks core ks).mem = s.mem := by
  unfold State.wakeBanks; split <;> simp
@[simp] theorem meetWord_mem (s : State) (core d w m : Nat) : (s.meetWord core d w m).mem = s.mem := by
  unfold State.meetWord; dsimp only; split <;> simp
@[simp] theorem isleRead_mem (s : State) (core k n : Nat) : (s.isleRead core k n).1.mem = s.mem := by
  unfold State.isleRead; dsimp only; rw [foldl_mem _ (fun a p => meetWord_mem a _ _ _ _)]; simp
@[simp] theorem correct_mem (s : State) (d sec m : Nat) : (s.correct d sec m).mem = s.mem := by
  unfold State.correct; dsimp only; repeat' split
  all_goals simp
@[simp] theorem uncorrectable_mem (s : State) (d sec : Nat) : (s.uncorrectable d sec).mem = s.mem := by unfold State.uncorrectable; simp
@[simp] theorem meetSectors_mem (s : State) (a b : Nat) (es : List (Nat × Nat)) : (s.meetSectors a b es).1.mem = s.mem := by
  unfold State.meetSectors; dsimp only; rw [foldl_mem]; intro x e; repeat' split
  all_goals simp
@[simp] theorem cacheMeta_mem (s : State) (u : Nat) : (s.cacheMeta u).mem = s.mem := by
  unfold State.cacheMeta; (repeat' split) <;> simp
@[simp] theorem meetUnit_mem (s : State) (a b u : Nat) : (s.meetUnit a b u).1.mem = s.mem := by simp [State.meetUnit]
/-- A read stores nothing, whatever it corrects or raises (R160, R278). -/
@[simp] theorem stackRead_mem (s : State) (k n : Nat) (c : Bool) : (s.stackRead k n c).1.mem = s.mem := by
  unfold State.stackRead; split
  · rw [foldl_mem1]; intro a u; simp
  · simp
@[simp] theorem fresh_mem (s : State) (k n : Nat) : (s.fresh k n).mem = s.mem := rfl
@[simp] theorem noteUnit_mem (s : State) (u : Nat) : (s.noteUnit u).mem = s.mem := by
  unfold State.noteUnit State.noteMeta; dsimp only; (repeat' split) <;> simp

/-! ### The canonical form -/

theorem wr_wf (s : State) (k : Nat) (b : Byte) (h : Memory.wf s.mem = true) : Memory.wf (s.wr k b).mem = true := Tab.wf_set _ _ _ _ h

theorem wrN_wf (s : State) (k : Nat) (bs : List Byte) (h : Memory.wf s.mem = true) : Memory.wf (s.wrN k bs).mem = true := by
  induction bs generalizing s k with
  | nil => exact h
  | cons b t ih => exact ih _ _ (wr_wf s k b h)

theorem foldl_wf {β : Type} (g : State → β → State) (hg : ∀ a b, Memory.wf a.mem = true → Memory.wf (g a b).mem = true) (l : List β) (s : State)
    (h : Memory.wf s.mem = true) : Memory.wf (l.foldl g s).mem = true := by
  induction l generalizing s with
  | nil => exact h
  | cons x t ih => exact ih _ (hg _ _ h)

theorem foldl_wf1 {β γ : Type} (g : State × γ → β → State × γ) (hg : ∀ a b, Memory.wf a.1.mem = true → Memory.wf (g a b).1.mem = true)
    (l : List β) (s : State × γ) (h : Memory.wf s.1.mem = true) : Memory.wf (l.foldl g s).1.mem = true := by
  induction l generalizing s with
  | nil => exact h
  | cons x t ih => exact ih _ (hg _ _ h)

theorem zero_wf (s : State) (lo n : Nat) (h : Memory.wf s.mem = true) : Memory.wf (s.zero lo n).mem = true := Tab.wf_filter _ _ _ h

theorem zeroAll_wf (s : State) (rs : List (Nat × Nat)) (h : Memory.wf s.mem = true) : Memory.wf (s.zeroAll rs).mem = true :=
  foldl_wf _ (fun a r ha => zero_wf a r.1 r.2 ha) rs s h

theorem isleStore_wf (s : State) (core : Nat) (bs : List (Nat × Byte)) (h : Memory.wf s.mem = true) : Memory.wf (s.isleStore core bs).1.mem = true := by
  unfold State.isleStore
  dsimp only
  rw [modCore_mem]
  refine foldl_wf _ (fun a p ha => by split; exacts [ha, wr_wf _ _ _ ha]) _ _ ?_
  rw [foldl_mem _ (fun a p => meetWord_mem a _ _ _ _)]
  simpa using h

theorem isleWrite_wf (s : State) (core k : Nat) (bs : List Byte) (h : Memory.wf s.mem = true) : Memory.wf (s.isleWrite core k bs).1.mem = true :=
  isleStore_wf s core _ h

theorem writeUnit_wf (s : State) (k : Nat) (bs : List Byte) (h : Memory.wf s.mem = true) : Memory.wf (s.writeUnit k bs).1.mem = true := by
  unfold State.writeUnit
  dsimp only
  split
  · simpa using wrN_wf s k bs h
  · split
    · simpa using h
    · simpa using wrN_wf _ k bs (by simpa using h)

theorem stackWrite_wf (s : State) (k : Nat) (bs : List Byte) (comp : Bool) (h : Memory.wf s.mem = true) :
    Memory.wf (s.stackWrite k bs comp).1.mem = true := by
  unfold State.stackWrite
  dsimp only
  split
  · refine foldl_wf1 _ ?_ _ (s, false) h
    intro a p ha; exact writeUnit_wf a.1 _ _ ha
  · split
    · exact wrN_wf s k bs h
    · exact foldl_wf _ (fun a p ha => by split; exacts [ha, wr_wf _ _ _ ha]) _ _ (by simpa using h)

/-! ### Reads after writes -/

theorem rd_wr_same (s : State) (k : Nat) (b : Byte) (h : Memory.wf s.mem = true) : (s.wr k b).rd k = b :=
  Tab.get_set_same _ _ _ _ ((Tab.wf_iff _ _).mp h).1

theorem rd_wr_ne (s : State) (k j : Nat) (b : Byte) (hj : j ≠ k) (h : Memory.wf s.mem = true) : (s.wr k b).rd j = s.rd j :=
  Tab.get_set_ne _ _ _ _ _ hj ((Tab.wf_iff _ _).mp h).1

/-- A write leaves every byte outside it alone. -/
theorem rd_wrN_outside (s : State) (k j : Nat) (bs : List Byte) (hj : j < k ∨ k + bs.length ≤ j) (h : Memory.wf s.mem = true) :
    (s.wrN k bs).rd j = s.rd j := by
  induction bs generalizing s k with
  | nil => rfl
  | cons b t ih =>
    rw [show s.wrN k (b :: t) = (s.wr k b).wrN (k + 1) t from rfl, ih _ _ (by simp at hj; omega) (wr_wf s k b h),
      rd_wr_ne s k j b (by simp at hj; omega) h]

/-- A read after a write gives what was written. -/
theorem rd_wrN_inside (s : State) (k i : Nat) (bs : List Byte) (hi : i < bs.length) (h : Memory.wf s.mem = true) :
    (s.wrN k bs).rd (k + i) = bs[i] := by
  induction bs generalizing s k i with
  | nil => simp at hi
  | cons b t ih =>
    rw [show s.wrN k (b :: t) = (s.wr k b).wrN (k + 1) t from rfl]
    cases i with
    | zero => rw [rd_wrN_outside _ _ _ _ (by omega) (wr_wf s k b h)]; exact rd_wr_same s k b h
    | succ i =>
      rw [show k + (i + 1) = k + 1 + i by omega, ih _ _ i (by simpa using hi) (wr_wf s k b h)]
      simp

/-! ### Reads after zeroing -/

theorem rd_zero (s : State) (lo n k : Nat) (h : Memory.wf s.mem = true) :
    (s.zero lo n).rd k = if lo ≤ k ∧ k < lo + n then 0 else s.rd k := by
  have := Tab.look_filter s.mem (fun p => !(decide (lo ≤ p.1) && decide (p.1 < lo + n))) (fun k => !(decide (lo ≤ k) && decide (k < lo + n)))
    (fun _ _ => rfl) k ((Tab.wf_iff _ _).mp h).1
  show ((Tab.look (s.mem.filter fun p => !(decide (lo ≤ p.1) && decide (p.1 < lo + n))) k).getD 0) = _
  rw [this]
  by_cases c : lo ≤ k ∧ k < lo + n
  · simp [c]
  · rw [if_pos (by simp only [Bool.not_eq_true', Bool.and_eq_false_iff, decide_eq_false_iff_not]; omega), if_neg c]; rfl

theorem rd_zeroAll (s : State) (rs : List (Nat × Nat)) (k : Nat) (h : Memory.wf s.mem = true) :
    (s.zeroAll rs).rd k = if rs.any (fun p => decide (p.1 ≤ k) && decide (k < p.1 + p.2)) then 0 else s.rd k := by
  induction rs generalizing s with
  | nil => rfl
  | cons r t ih =>
    rw [show s.zeroAll (r :: t) = (s.zero r.1 r.2).zeroAll t from rfl, ih _ (zero_wf s r.1 r.2 h), rd_zero s r.1 r.2 k h]
    by_cases c : r.1 ≤ k ∧ k < r.1 + r.2
    · simp [c]
    · have : (decide (r.1 ≤ k) && decide (k < r.1 + r.2)) = false := by simpa using c
      rw [List.any_cons, this, Bool.false_or, if_neg c]

/-- Waking banks changes no flipped bit. -/
theorem wakeBanks_isleErr (s : State) (core : Nat) (ks : List Nat) : (s.wakeBanks core ks).chip.isleErr = s.chip.isleErr := by
  unfold State.wakeBanks; split <;> rfl

/-- A read of words without flipped bits only wakes their banks. -/
theorem isleRead_clean {s : State} {core k n : Nat} (h : s.isleErrs k n = []) :
    s.isleRead core k n = (s.wakeBanks core (lineKeys k n), false) := by simp [State.isleRead, h]

theorem wr_isleErr (s : State) (k : Nat) (b : Byte) : (s.wr k b).chip.isleErr = s.chip.isleErr := rfl

/-- Bytes written one by one in ascending order are `wrN`. -/
theorem foldl_wr_zip (bs : List Byte) : ∀ (s : State) (k : Nat),
    (((List.range bs.length).map (k + ·)).zip bs).foldl (fun a p => a.wr p.1 p.2) s = s.wrN k bs := by
  induction bs with
  | nil => intro s k; rfl
  | cons b t ih =>
    intro s k
    have e : (List.range (b :: t).length).map (k + ·) = k :: (List.range t.length).map (k + 1 + ·) := by
      rw [List.length_cons, List.range_succ_eq_map, List.map_cons, List.map_map]
      congr 1
      exact List.map_congr_left fun i _ => by simp; omega
    rw [e, List.zip_cons_cons, List.foldl_cons, ih]; rfl

theorem wrN_chip (bs : List Byte) : ∀ (s : State) (k : Nat), (s.wrN k bs).chip = s.chip := by
  induction bs with
  | nil => intro s k; rfl
  | cons b t ih => intro s k; exact ih (s.wr k b) (k + 1)

/-- A write to words without flipped bits stores exactly its bytes, wakes their banks and cancels the scrubs of its words. -/
theorem isleWrite_clean {s : State} {core k : Nat} {bs : List Byte} (h : s.isleErrs k bs.length = []) :
    s.isleWrite core k bs = (((s.wakeBanks core ((List.range bs.length).map (k + ·))).wrN k bs).modCore core
      (fun q => { q with scrubs := q.scrubs.filter fun w => !((List.range bs.length).map (k + ·)).any fun j => j / 4 == w.1 }), false) := by
  have ek : (((List.range bs.length).map (k + ·)).zip bs).map (·.1) = (List.range bs.length).map (k + ·) := by
    rw [List.map_fst_zip]; simp
  have hit : ∀ p ∈ s.chip.isleErr, (((List.range bs.length).map (k + ·)).any fun j => j / 4 == p.1) = false := by
    intro p hp
    by_contra hc
    rw [Bool.not_eq_false, List.any_eq_true] at hc
    obtain ⟨j, hj, hq⟩ := hc
    obtain ⟨i, hi, rfl⟩ := List.mem_map.mp hj
    rw [List.mem_range] at hi
    have hq' : (k + i) / 4 = p.1 := by simpa using hq
    have : p ∈ s.isleErrs k bs.length := by
      rw [State.isleErrs, List.mem_filter]
      refine ⟨hp, ?_⟩
      simp only [Bool.and_eq_true, decide_eq_true_eq]
      omega
    rw [h] at this
    exact absurd this (List.not_mem_nil)
  have hf : s.chip.isleErr.filter (fun p => (((List.range bs.length).map (k + ·)).any fun j => j / 4 == p.1) &&
      !((List.range 4).all fun j => ((List.range bs.length).map (k + ·)).contains (4 * p.1 + j))) = [] := by
    rw [List.filter_eq_nil_iff]
    intro p hp; rw [hit p hp]; simp
  simp only [State.isleWrite, State.isleStore, ek, hf, List.filter_nil, List.map_nil, List.foldl_nil, List.contains_nil,
    Bool.false_eq_true, if_false, Bool.or_false, List.isEmpty_nil, Bool.not_true]
  rw [foldl_wr_zip]
  have hg : (State.wrN (s.wakeBanks core ((List.range bs.length).map (k + ·))) k bs).chip.isleErr.filter
      (fun p => !((List.range bs.length).map (k + ·)).any fun j => j / 4 == p.1) =
      (State.wrN (s.wakeBanks core ((List.range bs.length).map (k + ·))) k bs).chip.isleErr := by
    rw [wrN_chip, wakeBanks_isleErr, List.filter_eq_self]
    intro p hp; rw [hit p hp]; rfl
  rw [hg]

end Sys2Proof.Machine
end

