-- ==== Sys2Proof/Laws/Canon.lean ====
section
/-! SUPPORT. Every operation keeps the canonical form of memory. One lemma per operation that answers a state; later proofs cite
these and unfold none of the operations. -/

namespace Sys2Proof.Machine
open Sys2Proof
set_option linter.all false

/-- The state's memory has its canonical form. -/
def State.mo (s : State) : Prop := Memory.wf s.mem = true

@[simp] theorem mo_mk (p : List Instr) (fr : Nat) (o : List Out) (m : List Host.Cell) (e h : Tab Nat) (nv : NonVolatile) (a : Aon) (c : Chip) :
    State.mo ⟨p, fr, o, m, e, h, nv, a, c⟩ = (Memory.wf m = true) := propext Iff.rfl
@[simp] theorem mo_fold (s : State) : (Tab.wf s.mem 0#8 = true) = s.mo := propext Iff.rfl
@[simp] theorem mo_ite1 {α : Type} (c : Prop) [Decidable c] (a b : State × α) : (if c then a else b).1.mo = if c then a.1.mo else b.1.mo := by split <;> rfl
@[simp] theorem mo_set (s : State) (k : Nat) (b : Byte) (hs : s.mo) : Tab.wf (Tab.set s.mem 0#8 k b) 0#8 = true := Tab.wf_set _ _ _ _ hs
@[simp] theorem mo_filter (s : State) (p : Nat × Byte → Bool) (hs : s.mo) : Tab.wf (s.mem.filter p) 0#8 = true := Tab.wf_filter _ _ _ hs
@[simp] theorem mo_ite (c : Prop) [Decidable c] (a b : State) : (if c then a else b).mo = if c then a.mo else b.mo := by split <;> rfl
theorem foldl_mo {β : Type} {g : State → β → State} {l : List β} {s : State} (h : ∀ a b, a.mo → (g a b).mo) (hs : s.mo) : (l.foldl g s).mo := by
  induction l generalizing s with
  | nil => exact hs
  | cons x t ih => exact ih (h _ _ hs)
theorem foldl_mo1 {β γ : Type} {g : State × γ → β → State × γ} {l : List β} {s : State × γ} (h : ∀ a b, a.1.mo → (g a b).1.mo) (hs : s.1.mo) :
    (l.foldl g s).1.mo := by
  induction l generalizing s with
  | nil => exact hs
  | cons x t ih => exact ih (h _ _ hs)
theorem foldr_mo {β : Type} {g : β → State → State} {l : List β} {s : State} (h : ∀ b a, a.mo → (g b a).mo) (hs : s.mo) : (l.foldr g s).mo := by
  induction l with
  | nil => exact hs
  | cons y t ih => exact h _ _ ih
theorem elim_mo {β : Type} {o : Option β} {d : State} {f : β → State} (h : ∀ a, (f a).mo) (hd : d.mo) : (o.elim d f).mo := by
  cases o <;> simp [h, hd]
theorem elim_mo1 {β γ : Type} {o : Option β} {d : State × γ} {f : β → State × γ} (h : ∀ a, (f a).1.mo) (hd : d.1.mo) : (o.elim d f).1.mo := by
  cases o <;> simp [h, hd]

/-! ### Ops -/
@[simp] theorem wr_mo (s : State) (k : Nat) (b : Byte) (hs : s.mo) : (State.wr s k b).mo := by
  simp [State.wr, hs]
@[simp] theorem wrN_mo (s : State) (k : Nat) (bs : List Byte) (hs : s.mo) : (State.wrN s k bs).mo := by
  induction bs generalizing s k with
  | nil => unfold State.wrN; simp [hs]
  | cons b t ih =>
    unfold State.wrN
    try dsimp only
    repeat' first | with_reducible assumption | (with_reducible refine foldl_mo (fun a b hs => ?_) ?_) | (with_reducible refine foldl_mo1 (fun a b hs => ?_) ?_) | (with_reducible refine foldr_mo (fun a b hs => ?_) ?_) | (with_reducible refine elim_mo (fun a => ?_) ?_) | (with_reducible refine elim_mo1 (fun a => ?_) ?_) | split | simp +contextual (maxDischargeDepth := 90) [hs, ih, foldl_mo, foldl_mo1, foldr_mo]
@[simp] theorem zero_mo (s : State) (lo n : Nat) (hs : s.mo) : (State.zero s lo n).mo := by
  simp [State.zero, hs]
@[simp] theorem zeroAll_mo (s : State) (rs : List (Nat × Nat)) (hs : s.mo) : (State.zeroAll s rs).mo := by
  unfold State.zeroAll
  try dsimp only
  repeat' first | with_reducible assumption | (with_reducible refine foldl_mo (fun a b hs => ?_) ?_) | (with_reducible refine foldl_mo1 (fun a b hs => ?_) ?_) | (with_reducible refine foldr_mo (fun a b hs => ?_) ?_) | (with_reducible refine elim_mo (fun a => ?_) ?_) | (with_reducible refine elim_mo1 (fun a => ?_) ?_) | split | simp +contextual (maxDischargeDepth := 90) [hs,  foldl_mo, foldl_mo1, foldr_mo]
@[simp] theorem setCtx_mo (s : State) (n : Nat) (c : Context) (hs : s.mo) : (State.setCtx s n c).mo := by
  simp [State.setCtx, hs]
@[simp] theorem modCtx_mo (s : State) (n : Nat) (f : Context → Context) (hs : s.mo) : (State.modCtx s n f).mo := by
  simp [State.modCtx, hs]
@[simp] theorem setCore_mo (s : State) (n : Nat) (c : Core) (hs : s.mo) : (State.setCore s n c).mo := by
  simp [State.setCore, hs]
@[simp] theorem modCore_mo (s : State) (n : Nat) (f : Core → Core) (hs : s.mo) : (State.modCore s n f).mo := by
  simp [State.modCore, hs]
@[simp] theorem setNmu_mo (s : State) (n : Nat) (c : Nmu) (hs : s.mo) : (State.setNmu s n c).mo := by
  simp [State.setNmu, hs]
@[simp] theorem modNmu_mo (s : State) (n : Nat) (f : Nmu → Nmu) (hs : s.mo) : (State.modNmu s n f).mo := by
  simp [State.modNmu, hs]
@[simp] theorem setFn_mo (s : State) (n : Nat) (f : Fn) (hs : s.mo) : (State.setFn s n f).mo := by
  simp [State.setFn, hs]
@[simp] theorem modFn_mo (s : State) (n : Nat) (f : Fn → Fn) (hs : s.mo) : (State.modFn s n f).mo := by
  simp [State.modFn, hs]
@[simp] theorem signal_mo (s : State) (ctx core i n : Nat) (hs : s.mo) : (State.signal s ctx core i n).mo := by
  simp [State.signal, hs]
@[simp] theorem stick_mo (s : State) (ctx : Nat) (f : Flags) (hs : s.mo) : (State.stick s ctx f).mo := by
  simp [State.stick, hs]
@[simp] theorem errorStop_mo (s : State) (ctx : Nat) (hs : s.mo) : (State.errorStop s ctx).mo := by
  simp [State.errorStop, hs]
@[simp] theorem draw_mo (s : State) (place : Nat) (hs : s.mo) : (State.draw s place).1.mo := by
  simp [State.draw, hs]
@[simp] theorem emit_mo (s : State) (fn : Nat) (o : Out) (hs : s.mo) : (State.emit s fn o).mo := by
  simp [State.emit, hs]
@[simp] theorem send_mo (s : State) (o : Out) (hs : s.mo) : (State.send s o).mo := by
  simp [State.send, hs]
@[simp] theorem msix_mo (s : State) (fn v : Nat) (hs : s.mo) : (State.msix s fn v).mo := by
  simp [State.msix, hs]
@[simp] theorem setIsr_mo (s : State) (fn bit : Nat) (hs : s.mo) : (State.setIsr s fn bit).mo := by
  simp [State.setIsr, hs]
@[simp] theorem countSeal_mo (s : State) (fn chan ring : Nat) (hs : s.mo) : (State.countSeal s fn chan ring).mo := by
  simp [State.countSeal, hs]
@[simp] theorem toHostUnder_mo (s : State) (fn chan ring counter addr : Nat) (bytes : List Byte) (hs : s.mo) : (State.toHostUnder s fn chan ring counter addr bytes).mo := by
  unfold State.toHostUnder
  try dsimp only
  repeat' first | with_reducible assumption | (with_reducible refine foldl_mo (fun a b hs => ?_) ?_) | (with_reducible refine foldl_mo1 (fun a b hs => ?_) ?_) | (with_reducible refine elim_mo (fun a => ?_) ?_) | (with_reducible refine elim_mo1 (fun a => ?_) ?_) | split | simp +contextual [hs]
@[simp] theorem toHost_mo (s : State) (fn chan ring addr : Nat) (bytes : List Byte) (hs : s.mo) : (State.toHost s fn chan ring addr bytes).mo := by
  unfold State.toHost
  (repeat' split) <;> simp [hs]
@[simp] theorem record_mo (s : State) (r : FaultRec) (hs : s.mo) : State.mo ((s.record r).1) := by
  unfold State.mo at *; rw [record_mem]; exact hs
@[simp] theorem faultIrq_mo (s : State) (part : Option Nat) (hs : s.mo) : (State.faultIrq s part).mo := by
  unfold State.faultIrq
  (repeat' split) <;> simp [hs]
@[simp] theorem raise_mo (s : State) (o : Occ) (hs : s.mo) : State.mo (s.raise o) := by
  unfold State.mo at *; rw [raise_mem]; exact hs
@[simp] theorem wakeBanks_mo (s : State) (core : Nat) (ks : List Nat) (hs : s.mo) : (State.wakeBanks s core ks).mo := by
  unfold State.wakeBanks
  try dsimp only
  repeat' first | with_reducible assumption | (with_reducible refine foldl_mo (fun a b hs => ?_) ?_) | (with_reducible refine foldl_mo1 (fun a b hs => ?_) ?_) | (with_reducible refine elim_mo (fun a => ?_) ?_) | (with_reducible refine elim_mo1 (fun a => ?_) ?_) | split | simp +contextual [hs]
@[simp] theorem meetWord_mo (s : State) (core detail : Nat) (w mask : Nat) (hs : s.mo) : State.mo (s.meetWord core detail w mask) := by
  unfold State.mo at *; rw [meetWord_mem]; exact hs
@[simp] theorem isleRead_mo (s : State) (core k n : Nat) (hs : s.mo) : State.mo ((s.isleRead core k n).1) := by
  unfold State.mo at *; rw [isleRead_mem]; exact hs
@[simp] theorem isleStore_mo (s : State) (core : Nat) (bs : List (Nat × Byte)) (hs : s.mo) : (State.isleStore s core bs).1.mo := isleStore_wf s core bs hs
@[simp] theorem isleWrite_mo (s : State) (core k : Nat) (bs : List Byte) (hs : s.mo) : (s.isleWrite core k bs).1.mo := isleWrite_wf s core k bs hs
@[simp] theorem writeRecord_mo (s : State) (fn ring : Nat) (r : CplRing) (body : List Byte) (hs : s.mo) : (State.writeRecord s fn ring r body).mo := by
  simp (maxDischargeDepth := 90) [State.writeRecord, hs]
@[simp] theorem post_mo (s : State) (ctx : Nat) (rec : List Byte) (origin : Option (Nat × Nat)) (hs : s.mo) : (State.post s ctx rec origin).mo := by
  unfold State.post
  (repeat' split) <;> simp [hs]
@[simp] theorem drainHeld_mo (s : State) (fn ring : Nat) (x0 : Nat) (hs : s.mo) : (State.drainHeld s fn ring x0).mo := by
  induction x0 generalizing s with
  | zero => unfold State.drainHeld; simp [hs]
  | succ n ih =>
    unfold State.drainHeld
    try dsimp only
    repeat' first | with_reducible assumption | (with_reducible refine foldl_mo (fun a b hs => ?_) ?_) | (with_reducible refine foldl_mo1 (fun a b hs => ?_) ?_) | (with_reducible refine foldr_mo (fun a b hs => ?_) ?_) | (with_reducible refine elim_mo (fun a => ?_) ?_) | (with_reducible refine elim_mo1 (fun a => ?_) ?_) | split | simp +contextual (maxDischargeDepth := 90) [hs, ih, foldl_mo, foldl_mo1, foldr_mo]
@[simp] theorem accept_mo (s : State) (c : Caller) (opc : Nat) (hs : s.mo) : (State.accept s c opc).1.mo := by
  unfold State.accept
  (repeat' split) <;> simp [hs]
@[simp] theorem respond_mo (s : State) (m : Cmd) (st : Status) (detail : Nat := 0) (result : Nat := 0) (data : List Byte := []) (need : Nat := 0) (hs : s.mo) : (State.respond s m st detail result data need).mo := by
  simp (maxDischargeDepth := 90) [State.respond, hs]
@[simp] theorem mbox_mo (s : State) (c : Caller) (opc : Nat) (objs : List Obj) (need : Nat) (checks : List (Bool × Status × Nat)) (body : Cmd → State → State) (h_body : ∀ (y0 : Cmd) (y1 : State), y1.mo → (body y0 y1).mo) (hs : s.mo) : (State.mbox s c opc objs need checks body).mo := by
  unfold State.mbox
  try dsimp only
  repeat' first | with_reducible assumption | (with_reducible refine foldl_mo (fun a b hs => ?_) ?_) | (with_reducible refine foldl_mo1 (fun a b hs => ?_) ?_) | (with_reducible refine foldr_mo (fun a b hs => ?_) ?_) | (with_reducible refine elim_mo (fun a => ?_) ?_) | (with_reducible refine elim_mo1 (fun a => ?_) ?_) | split | simp +contextual (maxDischargeDepth := 90) [hs, h_body,  foldl_mo, foldl_mo1, foldr_mo]
@[simp] theorem run_mo (s : State) (m : Cmd) (objs : List Obj) (w : Await) (result : Nat := 0) (data : List Byte := []) (hs : s.mo) : (State.run s m objs w result data).mo := by
  simp [State.run, hs]
@[simp] theorem answerRun_mo (s : State) (p : Running → Bool) (st : Status) (detail : Nat := 0) (hs : s.mo) : (State.answerRun s p st detail).mo := by
  unfold State.answerRun
  try dsimp only
  repeat' first | with_reducible assumption | (with_reducible refine foldl_mo (fun a b hs => ?_) ?_) | (with_reducible refine foldl_mo1 (fun a b hs => ?_) ?_) | (with_reducible refine foldr_mo (fun a b hs => ?_) ?_) | (with_reducible refine elim_mo (fun a => ?_) ?_) | (with_reducible refine elim_mo1 (fun a => ?_) ?_) | split | simp +contextual (maxDischargeDepth := 90) [hs,  foldl_mo, foldl_mo1, foldr_mo]
@[simp] theorem answer_mo (s : State) (p : Await → Bool) (st : Status) (detail : Nat := 0) (hs : s.mo) : (State.answer s p st detail).mo := by
  simp [State.answer, hs]
/-! ### Segments -/
@[simp] theorem modGroup_mo (s : State) (st gid : Nat) (f : Group → Group) (hs : s.mo) : (State.modGroup s st gid f).mo := by
  simp [State.modGroup, hs]
/-! ### TaskOps -/
@[simp] theorem enqueue_mo (s : State) (core : Nat) (t : Task) (hs : s.mo) : (State.enqueue s core t).mo := by
  simp [State.enqueue, hs]
@[simp] theorem setTask_mo (s : State) (core i : Nat) (t : Task) (hs : s.mo) : (State.setTask s core i t).mo := by
  simp [State.setTask, hs]
@[simp] theorem dropTask_mo (s : State) (core i : Nat) (hs : s.mo) : (State.dropTask s core i).mo := by
  simp [State.dropTask, hs]
@[simp] theorem putCodes_mo (s : State) (core : Nat) (o : OutTile) (cs scales : List (Nat × Nat)) (hs : s.mo) : (State.putCodes s core o cs scales).1.mo := by
  unfold State.putCodes
  try dsimp only
  repeat' first | with_reducible assumption | (with_reducible refine foldl_mo (fun a b hs => ?_) ?_) | (with_reducible refine foldl_mo1 (fun a b hs => ?_) ?_) | (with_reducible refine elim_mo (fun a => ?_) ?_) | (with_reducible refine elim_mo1 (fun a => ?_) ?_) | split | simp +contextual [hs]
@[simp] theorem flushOut_mo (s : State) (core : Nat) (d : List Byte) (o : OutTile) (hs : s.mo) : (State.flushOut s core d o).1.mo := by
  unfold State.flushOut
  try dsimp only
  repeat' first | with_reducible assumption | (with_reducible refine foldl_mo (fun a b hs => ?_) ?_) | (with_reducible refine foldl_mo1 (fun a b hs => ?_) ?_) | (with_reducible refine foldr_mo (fun a b hs => ?_) ?_) | (with_reducible refine elim_mo (fun a => ?_) ?_) | (with_reducible refine elim_mo1 (fun a => ?_) ?_) | split | simp +contextual (maxDischargeDepth := 90) [hs,  foldl_mo, foldl_mo1, foldr_mo]
@[simp] theorem beginOuts_mo (s : State) (core : Nat) (r : Run) (hs : s.mo) : (State.beginOuts s core r).1.mo := by
  unfold State.beginOuts
  try dsimp only
  repeat' first | with_reducible assumption | (with_reducible refine foldl_mo (fun a b hs => ?_) ?_) | (with_reducible refine foldl_mo1 (fun a b hs => ?_) ?_) | (with_reducible refine foldr_mo (fun a b hs => ?_) ?_) | (with_reducible refine elim_mo (fun a => ?_) ?_) | (with_reducible refine elim_mo1 (fun a => ?_) ?_) | split | simp +contextual (maxDischargeDepth := 90) [hs, foldl_mo, foldl_mo1, foldr_mo]
@[simp] theorem flushAll_mo (s : State) (core : Nat) (d : List Byte) (r : Run) (hs : s.mo) : (State.flushAll s core d r).1.mo := by
  unfold State.flushAll
  try dsimp only
  repeat' first | with_reducible assumption | (with_reducible refine foldl_mo (fun a b hs => ?_) ?_) | (with_reducible refine foldl_mo1 (fun a b hs => ?_) ?_) | (with_reducible refine foldr_mo (fun a b hs => ?_) ?_) | (with_reducible refine elim_mo (fun a => ?_) ?_) | (with_reducible refine elim_mo1 (fun a => ?_) ?_) | split | simp +contextual (maxDischargeDepth := 90) [hs,  foldl_mo, foldl_mo1, foldr_mo]
@[simp] theorem meetEntry_mo (s : State) (core e ctx tid key : Nat) (hs : s.mo) : (State.meetEntry s core e ctx tid key).1.mo := by
  simp only [State.meetEntry]
  repeat' split
  all_goals simp (maxDischargeDepth := 90) [hs]
@[simp] theorem runPass_mo (s : State) (core e ctx : Nat) (c : Context) (d : List Byte) (a b : Hdr × Nat) (blocks : List Nat) (o p : Nat) (hs : s.mo) : (State.runPass s core e ctx c d a b blocks o p).1.mo := by
  unfold State.runPass
  try dsimp only
  repeat' first | with_reducible assumption | (with_reducible refine foldl_mo (fun a b hs => ?_) ?_) | (with_reducible refine foldl_mo1 (fun a b hs => ?_) ?_) | (with_reducible refine foldr_mo (fun a b hs => ?_) ?_) | (with_reducible refine elim_mo (fun a => ?_) ?_) | (with_reducible refine elim_mo1 (fun a => ?_) ?_) | split | simp +contextual (maxDischargeDepth := 90) [hs,  foldl_mo, foldl_mo1, foldr_mo]
@[simp] theorem meetKeys_mo (s : State) (core : Nat) (ks : List Nat) (hs : s.mo) : (State.meetKeys s core ks).1.mo := by
  unfold State.meetKeys; dsimp only; split
  · exact hs
  · exact foldl_mo (fun a b ha => meetWord_mo _ _ _ _ _ ha) hs
@[simp] theorem loadShadow_mo (s : State) (core e : Nat) (c : Context) (d : List Byte) (b : Hdr × Nat) (blocks : List Nat) (o p : Nat) (hs : s.mo) : (State.loadShadow s core e c d b blocks o p).1.mo := by
  unfold State.loadShadow
  try dsimp only
  repeat' first | with_reducible assumption | (with_reducible refine foldl_mo (fun a b hs => ?_) ?_) | (with_reducible refine foldl_mo1 (fun a b hs => ?_) ?_) | (with_reducible refine elim_mo (fun a => ?_) ?_) | (with_reducible refine elim_mo1 (fun a => ?_) ?_) | split | simp +contextual [hs]
@[simp] theorem swapSets_mo (s : State) (core e : Nat) (hs : s.mo) : (State.swapSets s core e).mo := by
  unfold State.swapSets
  try dsimp only
  repeat' first | with_reducible assumption | (with_reducible refine foldl_mo (fun a b hs => ?_) ?_) | (with_reducible refine foldl_mo1 (fun a b hs => ?_) ?_) | (with_reducible refine elim_mo (fun a => ?_) ?_) | (with_reducible refine elim_mo1 (fun a => ?_) ?_) | split | simp +contextual [hs]
@[simp] theorem drainChunk_mo (s : State) (core e ctx : Nat) (c : Context) (d : List Byte) (blocks : List Nat) (o : Nat) (r : Run) (hs : s.mo) : (State.drainChunk s core e ctx c d blocks o r).1.mo := by
  unfold State.drainChunk
  try dsimp only
  repeat' first | with_reducible assumption | (with_reducible refine foldl_mo (fun a b hs => ?_) ?_) | (with_reducible refine foldl_mo1 (fun a b hs => ?_) ?_) | (with_reducible refine foldr_mo (fun a b hs => ?_) ?_) | (with_reducible refine elim_mo (fun a => ?_) ?_) | (with_reducible refine elim_mo1 (fun a => ?_) ?_) | split | simp +contextual (maxDischargeDepth := 90) [hs,  foldl_mo, foldl_mo1, foldr_mo]
@[simp] theorem runVecop_mo (s : State) (core : Nat) (c : Context) (d : List Byte) (r : Run) (hs : s.mo) : (State.runVecop s core c d r).1.mo := by
  unfold State.runVecop
  try dsimp only
  repeat' first | with_reducible assumption | (with_reducible refine foldl_mo (fun a b hs => ?_) ?_) | (with_reducible refine foldl_mo1 (fun a b hs => ?_) ?_) | (with_reducible refine foldr_mo (fun a b hs => ?_) ?_) | (with_reducible refine elim_mo (fun a => ?_) ?_) | (with_reducible refine elim_mo1 (fun a => ?_) ?_) | split | simp +contextual (maxDischargeDepth := 90) [hs,  foldl_mo, foldl_mo1, foldr_mo]
@[simp] theorem copyRead_mo (s : State) (core : Nat) (c : Context) (d : List Byte) (r : Run) (a : Hdr × Nat) (o : OutTile) (hs : s.mo) : (State.copyRead s core c d r a o).1.mo := by
  simp [State.copyRead, hs]
@[simp] theorem copyWrite_mo (s : State) (core : Nat) (d : List Byte) (r : Run) (a : Hdr × Nat) (o : OutTile) (stop : Nat) (vs : List Word) (hs : s.mo) : (State.copyWrite s core d r a o stop vs).1.mo := by
  simp [State.copyWrite, hs]
@[simp] theorem copyCut_mo (s : State) (core : Nat) (d : List Byte) (r : Run) (a : Hdr × Nat) (o : OutTile) (stop : Nat) (vs : List Word) (word : Nat) (hs : s.mo) : (State.copyCut s core d r a o stop vs word).1.mo := by
  unfold State.copyCut
  try dsimp only
  repeat' first | with_reducible assumption | (with_reducible refine foldl_mo (fun a b hs => ?_) ?_) | (with_reducible refine foldl_mo1 (fun a b hs => ?_) ?_) | (with_reducible refine elim_mo (fun a => ?_) ?_) | (with_reducible refine elim_mo1 (fun a => ?_) ?_) | split | simp +contextual [hs]
@[simp] theorem runTblload_mo (s : State) (core : Nat) (ctx : Nat) (t : Task) (r : Run) (hs : s.mo) : (State.runTblload s core ctx t r).1.mo := by
  unfold State.runTblload; dsimp only
  (repeat' split) <;> simp (maxDischargeDepth := 90) [hs]
@[simp] theorem endCycles_mo (s : State) (t : Task) (hs : s.mo) : (State.endCycles s t).1.mo := by
  unfold State.endCycles
  try dsimp only
  repeat' first | with_reducible assumption | (with_reducible refine foldl_mo (fun a b hs => ?_) ?_) | (with_reducible refine foldl_mo1 (fun a b hs => ?_) ?_) | (with_reducible refine elim_mo (fun a => ?_) ?_) | (with_reducible refine elim_mo1 (fun a => ?_) ?_) | split | simp +contextual [hs]
@[simp] theorem endFailed_mo (s : State) (core i : Nat) (t : Task) (st : Status) (detail cycles : Nat) (quiet : Bool) (hs : s.mo) : (State.endFailed s core i t st detail cycles quiet).mo := by
  simp (maxDischargeDepth := 90) [State.endFailed, hs]
@[simp] theorem padOut_mo (s : State) (core : Nat) (o : OutTile) (hs : s.mo) : (State.padOut s core o).1.mo := by
  unfold State.padOut
  try dsimp only
  repeat' first | with_reducible assumption | (with_reducible refine foldl_mo (fun a b hs => ?_) ?_) | (with_reducible refine foldl_mo1 (fun a b hs => ?_) ?_) | (with_reducible refine elim_mo (fun a => ?_) ?_) | (with_reducible refine elim_mo1 (fun a => ?_) ?_) | split | simp +contextual [hs]
@[simp] theorem sealOuts_mo (s : State) (core : Nat) (r : Run) (hs : s.mo) : (State.sealOuts s core r).1.mo := by
  unfold State.sealOuts
  try dsimp only
  repeat' first | with_reducible assumption | (with_reducible refine foldl_mo (fun a b hs => ?_) ?_) | (with_reducible refine foldl_mo1 (fun a b hs => ?_) ?_) | (with_reducible refine foldr_mo (fun a b hs => ?_) ?_) | (with_reducible refine elim_mo (fun a => ?_) ?_) | (with_reducible refine elim_mo1 (fun a => ?_) ?_) | split | simp +contextual (maxDischargeDepth := 90) [hs, foldl_mo, foldl_mo1, foldr_mo]
@[simp] theorem fillMasked_mo (s : State) (core : Nat) (c : Context) (d : List Byte) (r : Run) (hs : s.mo) : (State.fillMasked s core c d r).1.mo := by
  simp [State.fillMasked, hs]
@[simp] theorem sendSignals_mo (s : State) (ctx : Nat) (d : List Byte) (hs : s.mo) : (State.sendSignals s ctx d).mo := by
  simp [State.sendSignals, hs]
@[simp] theorem closeOuts_mo (s : State) (core : Nat) (r : Run) (hs : s.mo) : (State.closeOuts s core r).1.mo := by
  unfold State.closeOuts
  try dsimp only
  repeat' first | with_reducible assumption | (with_reducible refine foldl_mo (fun a b hs => ?_) ?_) | (with_reducible refine foldl_mo1 (fun a b hs => ?_) ?_) | (with_reducible refine elim_mo (fun a => ?_) ?_) | (with_reducible refine elim_mo1 (fun a => ?_) ?_) | split | simp +contextual [hs]
@[simp] theorem endOk_mo (s : State) (core i : Nat) (t : Task) (r : Run) (cycles : Nat) (hs : s.mo) : (State.endOk s core i t r cycles).mo := by
  simp (maxDischargeDepth := 90) [State.endOk, hs]
/-! ### StreamOps -/
@[simp] theorem setSlot_mo (s : State) (core sid : Nat) (x : Slot) (hs : s.mo) : (State.setSlot s core sid x).mo := by
  simp [State.setSlot, hs]
@[simp] theorem setArm_mo (s : State) (core sid : Nat) (a : Arm) (hs : s.mo) : (State.setArm s core sid a).mo := by
  simp [State.setArm, hs]
@[simp] theorem sendSig_mo (s : State) (ctx core idx inc : Nat) (hs : s.mo) : (State.sendSig s ctx core idx inc).mo := by
  simp [State.sendSig, hs]
@[simp] theorem lowerVer_mo (s : State) (v : Option (Nat × Nat × Nat)) (n : Nat) (hs : s.mo) : (State.lowerVer s v n).mo := by
  unfold State.lowerVer
  try dsimp only
  repeat' first | with_reducible assumption | (with_reducible refine foldl_mo (fun a b hs => ?_) ?_) | (with_reducible refine foldl_mo1 (fun a b hs => ?_) ?_) | (with_reducible refine elim_mo (fun a => ?_) ?_) | (with_reducible refine elim_mo1 (fun a => ?_) ?_) | split | simp +contextual [hs]
@[simp] theorem lowerCount_mo (s : State) (a : Arm) (n : Nat) (hs : s.mo) : (State.lowerCount s a n).mo := by
  unfold State.lowerCount
  (repeat' split) <;> simp [hs]
@[simp] theorem abandon_mo (s : State) (core : Nat) (p : Nat → Outst → Bool) (hs : s.mo) : (State.abandon s core p).mo := by
  simp [State.abandon, hs]
@[simp] theorem armRecord_mo (s : State) (core sid ctx : Nat) (a : Arm) (st : Status) (detail : Nat) (hs : s.mo) : (State.armRecord s core sid ctx a st detail).mo := by
  simp [State.armRecord, hs]
@[simp] theorem letGo_mo (s : State) (ks : List KeptTile) (hs : s.mo) : (State.letGo s ks).mo := by
  unfold State.letGo
  try dsimp only
  repeat' first | with_reducible assumption | (with_reducible refine foldl_mo (fun a b hs => ?_) ?_) | (with_reducible refine foldl_mo1 (fun a b hs => ?_) ?_) | (with_reducible refine elim_mo (fun a => ?_) ?_) | (with_reducible refine elim_mo1 (fun a => ?_) ?_) | split | simp +contextual [hs]
@[simp] theorem memberFreed_mo (s : State) (core ctx group : Nat) (hs : s.mo) : (State.memberFreed s core ctx group).mo := by
  unfold State.memberFreed
  try dsimp only
  repeat' first | with_reducible assumption | (with_reducible refine foldl_mo (fun a b hs => ?_) ?_) | (with_reducible refine foldl_mo1 (fun a b hs => ?_) ?_) | (with_reducible refine elim_mo (fun a => ?_) ?_) | (with_reducible refine elim_mo1 (fun a => ?_) ?_) | split | simp +contextual [hs]
@[simp] theorem endArm_mo (s : State) (core sid : Nat) (st : Status) (detail : Nat) (quiet : Bool) (hs : s.mo) : (State.endArm s core sid st detail quiet).mo := by
  unfold State.endArm
  split
  · exact hs
  · split
    · exact hs
    · rename_i sl _ _ a _
      dsimp only
      generalize (st == Status.ok && sl.shadow.elim false fun b => ringCovers b.desc a.desc) = cov
      generalize (if cov = true then s.keptTiles core sl.ctx a else []) = new
      have h0 : (if cov = true then s.lowerCount a (a.opened - a.freed - new.length) else (s.lowerCount a (a.opened - a.freed)).letGo sl.kept).mo := by
        split <;> simp [hs]
      generalize (if cov = true then s.lowerCount a (a.opened - a.freed - new.length) else (s.lowerCount a (a.opened - a.freed)).letGo sl.kept) = x at h0 ⊢
      have h1 : ((if (!cov && adKind a.desc == 6) = true then x.memberFreed core sl.ctx (adGroup a.desc) else x).armRecord core sid sl.ctx a st detail).mo := by
        split <;> simp [h0]
      generalize ((if (!cov && adKind a.desc == 6) = true then x.memberFreed core sl.ctx (adGroup a.desc) else x).armRecord core sid sl.ctx a st detail) = y at h1 ⊢
      split
      · refine setSlot_mo _ _ _ _ (foldl_mo (fun b m hb => ?_) ?_)
        · split <;> simp [hb]
        · split <;> simp [h1]
      · have h2 : (match sl.shadow with
            | some b => y.armRecord core sid sl.ctx b .aborted 23
            | none => y).mo := by split <;> simp [h1]
        split
        · exact setSlot_mo _ _ _ _ h2
        · exact errorStop_mo _ _ (setSlot_mo _ _ _ _ h2)
@[simp] theorem landHead_mo (s : State) (ctx : Nat) (t : McastTile) (hs : s.mo) : (State.landHead s ctx t).mo := by
  unfold State.landHead
  try dsimp only
  repeat' first | with_reducible assumption | (with_reducible refine foldl_mo (fun a b hs => ?_) ?_) | (with_reducible refine foldl_mo1 (fun a b hs => ?_) ?_) | (with_reducible refine elim_mo (fun a => ?_) ?_) | (with_reducible refine elim_mo1 (fun a => ?_) ?_) | split | simp +contextual [hs]
@[simp] theorem mcastFail_mo (s : State) (ctx group : Nat) (led : Bool) (st : Status) (detail : Nat) (hs : s.mo) : (State.mcastFail s ctx group led st detail).mo := by
  unfold State.mcastFail
  try dsimp only
  repeat' first | with_reducible assumption | (with_reducible refine foldl_mo (fun a b hs => ?_) ?_) | (with_reducible refine foldl_mo1 (fun a b hs => ?_) ?_) | (with_reducible refine elim_mo (fun a => ?_) ?_) | (with_reducible refine elim_mo1 (fun a => ?_) ?_) | split | simp +contextual [hs]
@[simp] theorem failArm_mo (s : State) (core sid : Nat) (st : Status) (detail : Nat) (hs : s.mo) : (State.failArm s core sid st detail).mo := by
  unfold State.failArm
  (repeat' split) <;> simp [hs]
@[simp] theorem headerFault_mo (s : State) (core ctx n cva : Nat) (hs : s.mo) : (State.headerFault s core ctx n cva).mo := by
  simp [State.headerFault, hs]
@[simp] theorem tryEffect_mo (s : State) (core sid : Nat) (hs : s.mo) : (State.tryEffect s core sid).mo := by
  unfold State.tryEffect
  try dsimp only
  repeat' first | with_reducible assumption | (with_reducible refine foldl_mo (fun a b hs => ?_) ?_) | (with_reducible refine foldl_mo1 (fun a b hs => ?_) ?_) | (with_reducible refine foldr_mo (fun a b hs => ?_) ?_) | (with_reducible refine elim_mo (fun a => ?_) ?_) | (with_reducible refine elim_mo1 (fun a => ?_) ?_) | split | simp +contextual (maxDischargeDepth := 90) [hs, foldl_mo, foldl_mo1, foldr_mo]
@[simp] theorem takeArm_mo (s : State) (core ctx : Nat) (d : List Byte) (origin : Option (Nat × Nat)) (hs : s.mo) : (State.takeArm s core ctx d origin).mo := by
  unfold State.takeArm
  (repeat' split) <;> simp [hs]
@[simp] theorem sendCredits_mo (s : State) (core sid ctx : Nat) (x0 : Nat) (x1 : Arm) (hs : s.mo) : (State.sendCredits s core sid ctx x0 x1).mo := by
  induction x0 generalizing s x1 with
  | zero => unfold State.sendCredits; simp [hs]
  | succ n ih =>
    unfold State.sendCredits
    try dsimp only
    repeat' first | with_reducible assumption | (with_reducible refine foldl_mo (fun a b hs => ?_) ?_) | (with_reducible refine foldl_mo1 (fun a b hs => ?_) ?_) | (with_reducible refine foldr_mo (fun a b hs => ?_) ?_) | (with_reducible refine elim_mo (fun a => ?_) ?_) | (with_reducible refine elim_mo1 (fun a => ?_) ?_) | split | simp +contextual (maxDischargeDepth := 90) [hs, ih, foldl_mo, foldl_mo1, foldr_mo]
@[simp] theorem pokeKept_mo (s : State) (core sid : Nat) (hs : s.mo) : (State.pokeKept s core sid).mo := by
  unfold State.pokeKept
  try dsimp only
  repeat' first | with_reducible assumption | (with_reducible refine foldl_mo (fun a b hs => ?_) ?_) | (with_reducible refine foldl_mo1 (fun a b hs => ?_) ?_) | (with_reducible refine elim_mo (fun a => ?_) ?_) | (with_reducible refine elim_mo1 (fun a => ?_) ?_) | split | simp +contextual [hs]
@[simp] theorem pokeSlot_mo (s0 : State) (core sid : Nat) (hs : s0.mo) : (State.pokeSlot s0 core sid).mo := by
  unfold State.pokeSlot; dsimp only
  (repeat' split) <;> simp (maxDischargeDepth := 90) [hs]
@[simp] theorem pokeAll_mo (s : State) (hs : s.mo) : (State.pokeAll s).mo := by
  unfold State.pokeAll
  try dsimp only
  repeat' first | with_reducible assumption | (with_reducible refine foldl_mo (fun a b hs => ?_) ?_) | (with_reducible refine foldl_mo1 (fun a b hs => ?_) ?_) | (with_reducible refine foldr_mo (fun a b hs => ?_) ?_) | (with_reducible refine elim_mo (fun a => ?_) ?_) | (with_reducible refine elim_mo1 (fun a => ?_) ?_) | split | simp +contextual (maxDischargeDepth := 90) [hs,  foldl_mo, foldl_mo1, foldr_mo]
@[simp] theorem ringWrite_mo (s : State) (core : Nat) (key off : Nat) (bs : List Byte) (hs : s.mo) : (State.ringWrite s core key off bs).1.mo := by
  simp [State.ringWrite, hs]
@[simp] theorem writePieces_mo (s : State) (core key : Nat) (ps : List (Nat × List Byte)) (hs : s.mo) : (State.writePieces s core key ps).1.mo := by
  unfold State.writePieces
  try dsimp only
  repeat' first | with_reducible assumption | (with_reducible refine foldl_mo (fun a b hs => ?_) ?_) | (with_reducible refine foldl_mo1 (fun a b hs => ?_) ?_) | (with_reducible refine elim_mo (fun a => ?_) ?_) | (with_reducible refine elim_mo1 (fun a => ?_) ?_) | split | simp +contextual [hs]
@[simp] theorem sendHeads_mo (s : State) (core : Nat) (a : Arm) (k : Nat) (h : List Byte) (hs : s.mo) : (State.sendHeads s core a k h).mo := by
  unfold State.sendHeads
  try dsimp only
  repeat' first | with_reducible assumption | (with_reducible refine foldl_mo (fun a b hs => ?_) ?_) | (with_reducible refine foldl_mo1 (fun a b hs => ?_) ?_) | (with_reducible refine elim_mo (fun a => ?_) ?_) | (with_reducible refine elim_mo1 (fun a => ?_) ?_) | split | simp +contextual [hs]
@[simp] theorem openIn_mo (s : State) (core ctx : Nat) (c : Context) (a : Arm) (k : Nat) (hs : s.mo) : (s.openIn core ctx c a k).s.mo := by
  unfold State.openIn; dsimp only
  (repeat' split) <;> simp (maxDischargeDepth := 90) [hs]
@[simp] theorem outHeader_mo (s : State) (core ctx : Nat) (a : Arm) (k : Nat) (hs : s.mo) : (State.outHeader s core ctx a k).1.mo := by
  unfold State.outHeader; dsimp only
  (repeat' split) <;> simp (maxDischargeDepth := 90) [hs]
@[simp] theorem openOut_mo (s : State) (core ctx : Nat) (c : Context) (a : Arm) (k : Nat) (hs : s.mo) : (s.openOut core ctx c a k).s.mo := by
  simp only [State.openOut]
  repeat' split
  all_goals simp (maxDischargeDepth := 90) [hs]
@[simp] theorem openRow_mo (s : State) (core : Nat) (a : Arm) (k : Nat) (t : TileX) (l : Layout) (v : Int) (hs : s.mo) : (State.openRow s core a k t l v).1.1.mo := by
  unfold State.openRow
  try dsimp only
  repeat' first | with_reducible assumption | (with_reducible refine foldl_mo (fun a b hs => ?_) ?_) | (with_reducible refine foldl_mo1 (fun a b hs => ?_) ?_) | (with_reducible refine foldr_mo (fun a b hs => ?_) ?_) | (with_reducible refine elim_mo (fun a => ?_) ?_) | (with_reducible refine elim_mo1 (fun a => ?_) ?_) | split | simp +contextual (maxDischargeDepth := 90) [hs, foldl_mo, foldl_mo1, foldr_mo]
@[simp] theorem sigRun_mo (s : State) (ctx : Nat) (x0 : Nat) (x1 : Arm) (hs : s.mo) : (State.sigRun s ctx x0 x1).1.mo := by
  induction x0 generalizing s x1 with
  | zero => unfold State.sigRun; simp [hs]
  | succ n ih =>
    unfold State.sigRun
    try dsimp only
    repeat' first | with_reducible assumption | (with_reducible refine foldl_mo (fun a b hs => ?_) ?_) | (with_reducible refine foldl_mo1 (fun a b hs => ?_) ?_) | (with_reducible refine foldr_mo (fun a b hs => ?_) ?_) | (with_reducible refine elim_mo (fun a => ?_) ?_) | (with_reducible refine elim_mo1 (fun a => ?_) ?_) | split | simp +contextual (maxDischargeDepth := 90) [hs, ih, foldl_mo, foldl_mo1, foldr_mo]
@[simp] theorem tileDone_mo (s : State) (core sid ctx : Nat) (a : Arm) (k bytes : Nat) (hs : s.mo) : (State.tileDone s core sid ctx a k bytes).mo := by
  simp (maxDischargeDepth := 90) [State.tileDone, hs]
@[simp] theorem finishIn_mo (s : State) (core sid ctx : Nat) (a : Arm) (k : Nat) (t : TileX) (hs : s.mo) : (State.finishIn s core sid ctx a k t).mo := by
  unfold State.finishIn
  try dsimp only
  repeat' first | with_reducible assumption | (with_reducible refine foldl_mo (fun a b hs => ?_) ?_) | (with_reducible refine foldl_mo1 (fun a b hs => ?_) ?_) | (with_reducible refine elim_mo (fun a => ?_) ?_) | (with_reducible refine elim_mo1 (fun a => ?_) ?_) | split | simp +contextual [hs]
@[simp] theorem tileStep_mo (s : State) (core sid ctx : Nat) (a : Arm) (k : Nat) (t : TileX) (hs : s.mo) : (State.tileStep s core sid ctx a k t).mo := by
  simp [State.tileStep, hs]
@[simp] theorem accBody_mo (s : State) (core sid ctx : Nat) (a : Arm) (k : Nat) (t : TileX) (fh : List Byte) (hs : s.mo) : (State.accBody s core sid ctx a k t fh).mo := by
  unfold State.accBody
  try dsimp only
  repeat' first | with_reducible assumption | (with_reducible refine foldl_mo (fun a b hs => ?_) ?_) | (with_reducible refine foldl_mo1 (fun a b hs => ?_) ?_) | (with_reducible refine elim_mo (fun a => ?_) ?_) | (with_reducible refine elim_mo1 (fun a => ?_) ?_) | split | simp +contextual [hs]
@[simp] theorem prepare_mo (s : State) (core sid ctx : Nat) (c : Context) (n : Nat) (hs : s.mo) : (s.prepare core sid ctx c n).s.mo := by
  induction n generalizing s with
  | zero => unfold State.prepare; simp [hs]
  | succ n ih =>
    unfold State.prepare
    try dsimp only
    repeat' first | with_reducible assumption | (with_reducible refine foldl_mo (fun a b hs => ?_) ?_) | (with_reducible refine foldl_mo1 (fun a b hs => ?_) ?_) | (with_reducible refine foldr_mo (fun a b hs => ?_) ?_) | (with_reducible refine elim_mo (fun a => ?_) ?_) | (with_reducible refine elim_mo1 (fun a => ?_) ?_) | split | simp +contextual (maxDischargeDepth := 90) [hs, ih, foldl_mo, foldl_mo1, foldr_mo]
/- TODO candidates
theorem candidates_kept (s : State) (core : Nat) : ∀ x ∈ s.candidates core, x.2.2.2.s.kept = s.kept := by
  intro x hx
  simp only [State.candidates, List.mem_filterMap] at hx
  obtain ⟨p, -, hp⟩ := hx
  split at hp
  · split at hp
    · cases hp
    · cases hp; simp
  · cases hp
-/
@[simp] theorem originate_mo (s : State) (p : List Byte) (hs : s.mo) : (State.originate s p).mo := by
  simp [State.originate, hs]
@[simp] theorem takeBytes_mo (s : State) (core key len : Nat) (ps : List (Nat × Nat × Nat)) (hs : s.mo) : (State.takeBytes s core key len ps).1.mo := by
  unfold State.takeBytes
  try dsimp only
  repeat' first | with_reducible assumption | (with_reducible refine foldl_mo (fun a b hs => ?_) ?_) | (with_reducible refine foldl_mo1 (fun a b hs => ?_) ?_) | (with_reducible refine elim_mo (fun a => ?_) ?_) | (with_reducible refine elim_mo1 (fun a => ?_) ?_) | split | simp +contextual [hs]
@[simp] theorem reqData_mo (s : State) (core : Nat) (a : Arm) (k : Nat) (t : TileX) (r : Req) (hs : s.mo) : (State.reqData s core a k t r).1.mo := by
  unfold State.reqData
  try dsimp only
  repeat' first | with_reducible assumption | (with_reducible refine foldl_mo (fun a b hs => ?_) ?_) | (with_reducible refine foldl_mo1 (fun a b hs => ?_) ?_) | (with_reducible refine foldr_mo (fun a b hs => ?_) ?_) | (with_reducible refine elim_mo (fun a => ?_) ?_) | (with_reducible refine elim_mo1 (fun a => ?_) ?_) | split | simp +contextual (maxDischargeDepth := 90) [hs,  foldl_mo, foldl_mo1, foldr_mo]
@[simp] theorem holdTag_mo (s : State) (core t : Nat) (bg : Bool) (o : Outst) (hs : s.mo) : (State.holdTag s core t bg o).mo := by
  unfold State.holdTag
  try dsimp only
  repeat' first | with_reducible assumption | (with_reducible refine foldl_mo (fun a b hs => ?_) ?_) | (with_reducible refine foldl_mo1 (fun a b hs => ?_) ?_) | (with_reducible refine elim_mo (fun a => ?_) ?_) | (with_reducible refine elim_mo1 (fun a => ?_) ?_) | split | simp +contextual [hs]
@[simp] theorem issueReq_mo (s : State) (core sid ctx : Nat) (a : Arm) (k : Nat) (r : Req) (t : Nat) (hs : s.mo) : (State.issueReq s core sid ctx a k r t).mo := by
  unfold State.issueReq; dsimp only
  (repeat' split) <;> simp (maxDischargeDepth := 90) [hs]
@[simp] theorem issueCopy_mo (s : State) (core i t b : Nat) (hs : s.mo) : (State.issueCopy s core i t b).mo := by
  unfold State.issueCopy
  try dsimp only
  repeat' first | with_reducible assumption | (with_reducible refine foldl_mo (fun a b hs => ?_) ?_) | (with_reducible refine foldl_mo1 (fun a b hs => ?_) ?_) | (with_reducible refine elim_mo (fun a => ?_) ?_) | (with_reducible refine elim_mo1 (fun a => ?_) ?_) | split | simp +contextual [hs]
theorem candidates_mo (s : State) (core : Nat) (hs : s.mo) : ∀ x ∈ s.candidates core, x.2.2.2.s.mo := by
  intro x hx
  simp only [State.candidates, List.mem_filterMap] at hx
  obtain ⟨p, -, hp⟩ := hx
  split at hp
  · split at hp
    · cases hp
    · cases hp; simp [hs]
  · cases hp
theorem cands_mo (s : State) (core ctx : Nat) (pr : Prep) (hs : s.mo) : ∀ c ∈ s.cands core, c.act = .inl (ctx, pr) → pr.s.mo := by
  intro c hc h
  simp only [State.cands, List.mem_append, List.mem_map, List.mem_filter] at hc
  rcases hc with ⟨x, ⟨hx, -⟩, rfl⟩ | ⟨x, -, rfl⟩
  · simp only [Sum.inl.injEq, Prod.mk.injEq] at h
    rw [← h.2]; exact candidates_mo s core hs x hx
  · cases h
@[simp] theorem streamIssue_mo (s : State) (core : Nat) (hs : s.mo) : (State.streamIssue s core).mo := by
  unfold State.streamIssue
  split
  · simp [hs]
  · split
    · rename_i x hx; exact candidates_mo s core hs x (List.mem_of_find?_eq_some hx)
    · split
      · exact hs
      · rename_i c hc
        split
        · exact elim_mo (fun a => by simp [hs]) hs
        · rename_i ctx pr ha
          have hm := cands_mo s core ctx pr hs c (chooseCand_mem _ _ _ hc) ha
          split
          · simp [hm]
          · exact hm
@[simp] theorem staleResp_mo (s : State) (core sid : Nat) (hs : s.mo) : (State.staleResp s core sid).mo := by
  simp [State.staleResp, hs]
@[simp] theorem headResp_mo (s : State) (core sid ctx : Nat) (a : Arm) (k : Nat) (t : TileX) (data : List Byte) (hs : s.mo) : (State.headResp s core sid ctx a k t data).mo := by
  unfold State.headResp; dsimp only
  (repeat' split) <;> simp (maxDischargeDepth := 90) [hs]
@[simp] theorem dataResp_mo (s : State) (core sid ctx : Nat) (a : Arm) (k : Nat) (t : TileX) (r : Req) (data : List Byte) (hs : s.mo) : (State.dataResp s core sid ctx a k t r data).mo := by
  unfold State.dataResp
  try dsimp only
  repeat' first | with_reducible assumption | (with_reducible refine foldl_mo (fun a b hs => ?_) ?_) | (with_reducible refine foldl_mo1 (fun a b hs => ?_) ?_) | (with_reducible refine foldr_mo (fun a b hs => ?_) ?_) | (with_reducible refine elim_mo (fun a => ?_) ?_) | (with_reducible refine elim_mo1 (fun a => ?_) ?_) | split | simp +contextual (maxDischargeDepth := 90) [hs,  foldl_mo, foldl_mo1, foldr_mo]
@[simp] theorem copyResp_mo (s : State) (core ctx : Nat) (hs : s.mo) : (State.copyResp s core ctx).mo := by
  unfold State.copyResp
  try dsimp only
  repeat' first | with_reducible assumption | (with_reducible refine foldl_mo (fun a b hs => ?_) ?_) | (with_reducible refine foldl_mo1 (fun a b hs => ?_) ?_) | (with_reducible refine elim_mo (fun a => ?_) ?_) | (with_reducible refine elim_mo1 (fun a => ?_) ?_) | split | simp +contextual [hs]
@[simp] theorem takeResp_mo (s : State) (p : Resp) (hs : s.mo) : (State.takeResp s p).mo := by
  unfold State.takeResp; dsimp only
  (repeat' split) <;> simp (maxDischargeDepth := 90) [hs]
/-! ### NmuOps -/
@[simp] theorem correct_mo (s : State) (detail sec mask : Nat) (hs : s.mo) : (State.correct s detail sec mask).mo := by
  unfold State.correct
  try dsimp only
  repeat' first | with_reducible assumption | (with_reducible refine foldl_mo (fun a b hs => ?_) ?_) | (with_reducible refine foldl_mo1 (fun a b hs => ?_) ?_) | (with_reducible refine elim_mo (fun a => ?_) ?_) | (with_reducible refine elim_mo1 (fun a => ?_) ?_) | split | simp +contextual [hs]
@[simp] theorem uncorrectable_mo (s : State) (detail sec : Nat) (hs : s.mo) : (State.uncorrectable s detail sec).mo := by
  unfold State.uncorrectable
  try dsimp only
  repeat' first | with_reducible assumption | (with_reducible refine foldl_mo (fun a b hs => ?_) ?_) | (with_reducible refine foldl_mo1 (fun a b hs => ?_) ?_) | (with_reducible refine elim_mo (fun a => ?_) ?_) | (with_reducible refine elim_mo1 (fun a => ?_) ?_) | split | simp +contextual [hs]
@[simp] theorem flipSectors_mo (s : State) (fl : List (Nat × Nat)) (hs : s.mo) : (State.flipSectors s fl).mo := by
  simp [State.flipSectors, hs]
@[simp] theorem fresh_mo (s : State) (k n : Nat) (hs : s.mo) : (State.fresh s k n).mo := by
  simp [State.fresh, hs]
@[simp] theorem cacheMeta_mo (s : State) (u : Nat) (hs : s.mo) : (State.cacheMeta s u).mo := by
  unfold State.cacheMeta
  try dsimp only
  repeat' first | with_reducible assumption | (with_reducible refine foldl_mo (fun a b hs => ?_) ?_) | (with_reducible refine foldl_mo1 (fun a b hs => ?_) ?_) | (with_reducible refine elim_mo (fun a => ?_) ?_) | (with_reducible refine elim_mo1 (fun a => ?_) ?_) | split | simp +contextual [hs]
@[simp] theorem meetSectors_mo (s : State) (ok bad : Nat) (es : List (Nat × Nat)) (hs : s.mo) : State.mo ((s.meetSectors ok bad es).1) := by
  unfold State.mo at *; rw [meetSectors_mem]; exact hs
@[simp] theorem meetUnit_mo (s : State) (ok bad u : Nat) (hs : s.mo) : (State.meetUnit s ok bad u).1.mo := by
  unfold State.meetUnit
  try dsimp only
  repeat' first | with_reducible assumption | (with_reducible refine foldl_mo (fun a b hs => ?_) ?_) | (with_reducible refine foldl_mo1 (fun a b hs => ?_) ?_) | (with_reducible refine elim_mo (fun a => ?_) ?_) | (with_reducible refine elim_mo1 (fun a => ?_) ?_) | split | simp +contextual [hs]
@[simp] theorem stackRead_mo (s : State) (k n : Nat) (comp : Bool) (hs : s.mo) : State.mo ((s.stackRead k n comp).1) := by
  unfold State.mo at *; rw [stackRead_mem]; exact hs
@[simp] theorem noteMeta_mo (s : State) (u : Nat) (hs : s.mo) : (State.noteMeta s u).mo := by
  unfold State.noteMeta
  try dsimp only
  repeat' first | with_reducible assumption | (with_reducible refine foldl_mo (fun a b hs => ?_) ?_) | (with_reducible refine foldl_mo1 (fun a b hs => ?_) ?_) | (with_reducible refine elim_mo (fun a => ?_) ?_) | (with_reducible refine elim_mo1 (fun a => ?_) ?_) | split | simp +contextual [hs]
@[simp] theorem noteUnit_mo (s : State) (u : Nat) (hs : s.mo) : (State.noteUnit s u).mo := by
  simp [State.noteUnit, hs]
@[simp] theorem writeUnit_mo (s : State) (k : Nat) (bs : List Byte) (hs : s.mo) : (s.writeUnit k bs).1.mo := writeUnit_wf s k bs hs
@[simp] theorem stackWrite_mo (s : State) (k : Nat) (bs : List Byte) (comp : Bool) (hs : s.mo) : (s.stackWrite k bs comp).1.mo := stackWrite_wf s k bs comp hs
@[simp] theorem reply_mo (s : State) (r : NReq) (st : Status) (detail : Nat) (data : List Byte) (hs : s.mo) : (State.reply s r st detail data).mo := by
  simp [State.reply, hs]
@[simp] theorem pull_mo (s : State) (r : NReq) (hs : s.mo) : (State.pull s r).1.mo := by
  unfold State.pull
  try dsimp only
  repeat' first | with_reducible assumption | (with_reducible refine foldl_mo (fun a b hs => ?_) ?_) | (with_reducible refine foldl_mo1 (fun a b hs => ?_) ?_) | (with_reducible refine elim_mo (fun a => ?_) ?_) | (with_reducible refine elim_mo1 (fun a => ?_) ?_) | split | simp +contextual [hs]
@[simp] theorem accBlock_mo (s : State) (a : AccReq) (comp : Bool) (b : AccBlock) (hs : s.mo) : (State.accBlock s a comp b).1.mo := by
  have hr : ∀ (ts : List (Nat × Nat)) (x : State × Bool), x.1.mo →
      (ts.foldl (fun (x : State × Bool) t => let y := x.1.stackRead t.1 t.2 comp; (y.1, x.2 || y.2)) x).1.mo := by
    intro ts x hx; refine foldl_mo1 ?_ hx; intro a t ha; simp [ha]
  unfold State.accBlock; dsimp only
  split
  · exact hr _ _ hs
  · have hw : ∀ (l : List ((Nat × Word) × Nat)) (x : State), x.mo →
        (l.foldl (fun x p => ((b.keys[p.1.1]?).map fun k => (x.stackWrite k (leBytes (a.fmt.width / 8) p.2) comp).1).getD x) x).mo := by
      intro l x hx; refine foldl_mo ?_ hx; intro y p hy; cases b.keys[p.1.1]? <;> simp [hy]
    cases b.scale with
    | none => exact hw _ _ (hr _ _ hs)
    | some k => simp only [Option.elim]; exact stackWrite_mo _ _ _ _ (hw _ _ (hr _ _ hs))
@[simp] theorem accFlags_mo (s : State) (st layer : Nat) (f : Flags) (hs : s.mo) : (State.accFlags s st layer f).mo := by
  simp [State.accFlags, hs]
@[simp] theorem serveHead_mo (s : State) (r : NReq) (l : Ledger) (fin : Bool) (count cva : Nat) (hs : s.mo) : (State.serveHead s r l fin count cva).mo := by
  unfold State.serveHead
  try dsimp only
  repeat' first | with_reducible assumption | (with_reducible refine foldl_mo (fun a b hs => ?_) ?_) | (with_reducible refine foldl_mo1 (fun a b hs => ?_) ?_) | (with_reducible refine foldr_mo (fun a b hs => ?_) ?_) | (with_reducible refine elim_mo (fun a => ?_) ?_) | (with_reducible refine elim_mo1 (fun a => ?_) ?_) | split | simp +contextual (maxDischargeDepth := 90) [hs, foldl_mo, foldl_mo1, foldr_mo]
@[simp] theorem serveAccum_mo (s : State) (r : NReq) (a : AccReq) (hs : s.mo) : (State.serveAccum s r a).mo := by
  have hx : ∀ s1 : State, s1.mo → (a.blocks.foldl (fun (q : State × Flags × Bool) b =>
      ((q.1.accBlock a r.comp b).1, q.2.1.or (q.1.accBlock a r.comp b).2.1, q.2.2 || (q.1.accBlock a r.comp b).2.2)) (s1, {}, false)).1.mo :=
    fun s1 h => foldl_mo1 (fun x b hx => accBlock_mo _ _ _ _ hx) h
  unfold State.serveAccum; dsimp only
  split
  · simp [hs]
  · split
    · (repeat' split) <;> simp (maxDischargeDepth := 90) [hs]
    · split <;> exact reply_mo _ _ _ _ _ (accFlags_mo _ _ _ _ (hx _ (modNmu_mo _ _ _ hs)))
@[simp] theorem serveRead_mo (s : State) (r : NReq) (hs : s.mo) : (State.serveRead s r).1.mo := by
  unfold State.serveRead
  try dsimp only
  repeat' first | with_reducible assumption | (with_reducible refine foldl_mo (fun a b hs => ?_) ?_) | (with_reducible refine foldl_mo1 (fun a b hs => ?_) ?_) | (with_reducible refine elim_mo (fun a => ?_) ?_) | (with_reducible refine elim_mo1 (fun a => ?_) ?_) | split | simp +contextual [hs]
@[simp] theorem answerRead_mo (s : State) (r : NReq) (got : List (Nat × Bool)) (hs : s.mo) : (State.answerRead s r got).mo := by
  unfold State.answerRead
  try dsimp only
  repeat' first | with_reducible assumption | (with_reducible refine foldl_mo (fun a b hs => ?_) ?_) | (with_reducible refine foldl_mo1 (fun a b hs => ?_) ?_) | (with_reducible refine elim_mo (fun a => ?_) ?_) | (with_reducible refine elim_mo1 (fun a => ?_) ?_) | split | simp +contextual [hs]
@[simp] theorem shareRead_mo (s : State) (st : Nat) (r : NReq) (got : List (Nat × Bool)) (hs : s.mo) : (State.shareRead s st r got).mo := by
  unfold State.shareRead
  try dsimp only
  repeat' first | with_reducible assumption | (with_reducible refine foldl_mo (fun a b hs => ?_) ?_) | (with_reducible refine foldl_mo1 (fun a b hs => ?_) ?_) | (with_reducible refine elim_mo (fun a => ?_) ?_) | (with_reducible refine elim_mo1 (fun a => ?_) ?_) | split | simp +contextual [hs]
@[simp] theorem serve_mo (s : State) (st : Nat) (r : NReq) (hs : s.mo) : (State.serve s st r).mo := by
  unfold State.serve; dsimp only
  (repeat' split) <;> simp (maxDischargeDepth := 90) [hs]
@[simp] theorem serveWindow_mo (st n : Nat) (s : State) (hs : s.mo) : (State.serveWindow st n s).mo := by
  induction n generalizing s with
  | zero => exact hs
  | succ n ih => unfold State.serveWindow; split <;> simp [ih, hs]
@[simp] theorem serveAll_mo (s : State) (hs : s.mo) : (State.serveAll s).mo := by
  unfold State.serveAll
  try dsimp only
  repeat' first | with_reducible assumption | (with_reducible refine foldl_mo (fun a b hs => ?_) ?_) | (with_reducible refine foldl_mo1 (fun a b hs => ?_) ?_) | (with_reducible refine foldr_mo (fun a b hs => ?_) ?_) | (with_reducible refine elim_mo (fun a => ?_) ?_) | (with_reducible refine elim_mo1 (fun a => ?_) ?_) | split | simp +contextual (maxDischargeDepth := 90) [hs,  foldl_mo, foldl_mo1, foldr_mo]
@[simp] theorem anyRead_mo (s : State) (k n : Nat) (comp : Bool) (hs : s.mo) : (State.anyRead s k n comp).1.mo := by
  simp [State.anyRead, hs]
@[simp] theorem anyWrite_mo (s : State) (k : Nat) (bs : List Byte) (comp : Bool) (hs : s.mo) : (s.anyWrite k bs comp).1.mo := by
  unfold State.anyWrite; split <;> simp [hs]
@[simp] theorem putSet_mo (s : State) (part set : Nat) (x : OptSet) (hs : s.mo) : (State.putSet s part set x).mo := by
  simp [State.putSet, hs]
@[simp] theorem modSet_mo (s : State) (part set : Nat) (f : OptSet → OptSet) (hs : s.mo) : (State.modSet s part set f).mo := by
  simp [State.modSet, hs]
@[simp] theorem putTile_mo (s : State) (k : Nat) (bs : List Byte) (hs : s.mo) : (State.putTile s k bs).1.mo := by
  unfold State.putTile
  try dsimp only
  repeat' first | with_reducible assumption | (with_reducible refine foldl_mo (fun a b hs => ?_) ?_) | (with_reducible refine foldl_mo1 (fun a b hs => ?_) ?_) | (with_reducible refine elim_mo (fun a => ?_) ?_) | (with_reducible refine elim_mo1 (fun a => ?_) ?_) | split | simp +contextual [hs]
@[simp] theorem writeCopies_mo (s : State) (g : Group) (v t ep : Nat) (val : Nat → Nat → Word) (hs : s.mo) : (State.writeCopies s g v t ep val).1.mo := by
  simp (maxDischargeDepth := 90) [State.writeCopies, hs]
@[simp] theorem clearGrads_mo (s : State) (g : Group) (ep : Nat) (hs : s.mo) : (State.clearGrads s g ep).mo := by
  unfold State.clearGrads
  try dsimp only
  repeat' first | with_reducible assumption | (with_reducible refine foldl_mo (fun a b hs => ?_) ?_) | (with_reducible refine foldl_mo1 (fun a b hs => ?_) ?_) | (with_reducible refine foldr_mo (fun a b hs => ?_) ?_) | (with_reducible refine elim_mo (fun a => ?_) ?_) | (with_reducible refine elim_mo1 (fun a => ?_) ?_) | split | simp +contextual (maxDischargeDepth := 90) [hs,  foldl_mo, foldl_mo1, foldr_mo]
@[simp] theorem groupErr_mo (s : State) (part set gid stack : Nat) (st : Status) (detail : Nat) (hs : s.mo) : (State.groupErr s part set gid stack st detail).mo := by
  unfold State.groupErr
  try dsimp only
  repeat' first | with_reducible assumption | (with_reducible refine foldl_mo (fun a b hs => ?_) ?_) | (with_reducible refine foldl_mo1 (fun a b hs => ?_) ?_) | (with_reducible refine elim_mo (fun a => ?_) ?_) | (with_reducible refine elim_mo1 (fun a => ?_) ?_) | split | simp +contextual [hs]
@[simp] theorem sectorErr_mo (s : State) (part set gid stack : Nat) (hs : s.mo) : (State.sectorErr s part set gid stack).mo := by
  unfold State.sectorErr
  try dsimp only
  repeat' first | with_reducible assumption | (with_reducible refine foldl_mo (fun a b hs => ?_) ?_) | (with_reducible refine foldl_mo1 (fun a b hs => ?_) ?_) | (with_reducible refine elim_mo (fun a => ?_) ?_) | (with_reducible refine elim_mo1 (fun a => ?_) ?_) | split | simp +contextual [hs]
@[simp] theorem tileIn_mo (r : KRun) (g : Group) (gid stack epoch t : Nat) (hs : r.s.mo) : (r.tileIn g gid stack epoch t).s.mo := by
  unfold KRun.tileIn; dsimp only; (repeat' split) <;> simp (maxDischargeDepth := 90) [hs]
@[simp] theorem readIn_mo (r : KRun) (g : Group) (gid stack : Nat) (rs : List (Nat × Nat)) (hs : r.s.mo) : (r.readIn g gid stack rs).s.mo := by
  have h : (rs.foldl (fun (a : State × Bool) p => let y := a.1.stackRead p.1 p.2 false; (y.1, a.2 || y.2)) (r.s, false)).1.mo :=
    foldl_mo1 (fun a p ha => by simp [ha]) hs
  unfold KRun.readIn; dsimp only; split
  · exact sectorErr_mo _ _ _ _ _ h
  · exact h
@[simp] theorem writeOutK_mo (r : KRun) (g : Group) (gid stack : Nat) (ws : List (Nat × List Word)) (hs : r.s.mo) : (r.writeOut g gid stack ws).s.mo := by
  have h : (ws.foldl (fun (a : State × Bool) p =>
      let y := a.1.stackWrite p.1 (p.2.flatMap fun w => leBytes 4 w.toNat) false; (y.1, a.2 || y.2)) (r.s, false)).1.mo :=
    foldl_mo1 (fun a p ha => by simp [ha]) hs
  unfold KRun.writeOut; dsimp only; split
  · exact sectorErr_mo _ _ _ _ _ h
  · exact h
@[simp] theorem pass1_mo (g : Group) (gid stack epoch : Nat) (k : Nat → Word) (t : Nat) (r : KRun × Nat) (hs : r.1.s.mo) :
    (KRun.pass1 g gid stack epoch k t r).1.s.mo := by
  unfold KRun.pass1; dsimp only; (repeat' split) <;> simp [hs]
@[simp] theorem facStart_mo (r : KRun) (g : Group) (gid stack epoch : Nat) (k : Nat → Word) (hs : r.s.mo) : (r.facStart g gid stack epoch k).s.mo := by
  have h : ∀ (l : List Nat) (x : KRun × Nat), x.1.s.mo → (l.foldl (fun a t => KRun.pass1 g gid stack epoch k t a) x).1.s.mo := by
    intro l
    induction l with
    | nil => intro x hx; exact hx
    | cons t l ih => intro x hx; rw [List.foldl_cons]; exact ih _ (pass1_mo _ _ _ _ _ _ _ hx)
  have h0 := h (List.range g.nt) (r, 0) hs
  unfold KRun.facStart; dsimp only; split
  · exact h0
  · split
    · exact readIn_mo _ _ _ _ _ h0
    · exact writeOutK_mo _ _ _ _ _ (readIn_mo _ _ _ _ _ h0)
@[simp] theorem inputs_mo (r : KRun) (g : Group) (gid stack epoch t : Nat) (hs : r.s.mo) : (r.inputs g gid stack epoch t).s.mo := by
  unfold KRun.inputs; dsimp only; (repeat' split) <;> simp [hs]
@[simp] theorem outputs_mo (r : KRun) (g : Group) (gid stack : Nat) (step : List Byte) (fac : (Nat → FW) × (Nat → FW) × FW) (t : Nat) (hs : r.s.mo) :
    (r.outputs g gid stack step fac t).s.mo := by
  unfold KRun.outputs; simp [hs]
@[simp] theorem copies_mo (r : KRun) (g : Group) (gid stack v ep t : Nat) (hs : r.s.mo) : (r.copies g gid stack v ep t).s.mo := by
  unfold KRun.copies; dsimp only; split <;> simp [hs]
@[simp] theorem tileK_mo (g : Group) (gid stack : Nat) (step : List Byte) (v ep epoch : Nat) (fac : (Nat → FW) × (Nat → FW) × FW) (t : Nat) (r : KRun)
    (hs : r.s.mo) : (KRun.tile g gid stack step v ep epoch fac t r).s.mo := by
  unfold KRun.tile; dsimp only; split
  · exact hs
  · split
    · exact inputs_mo _ _ _ _ _ _ hs
    · split
      · exact outputs_mo _ _ _ _ _ _ _ (inputs_mo _ _ _ _ _ _ hs)
      · exact copies_mo _ _ _ _ _ _ _ (outputs_mo _ _ _ _ _ _ _ (inputs_mo _ _ _ _ _ _ hs))
@[simp] theorem runKernel_mo (s : State) (g : Group) (gid stack : Nat) (step : List Byte) (v ep epoch : Nat) (hs : s.mo) :
    (s.runKernel g gid stack step v ep epoch).s.mo := by
  have h : ∀ (fac : (Nat → FW) × (Nat → FW) × FW) (l : List Nat) (r : KRun), r.s.mo →
      (l.foldl (fun a t => KRun.tile g gid stack step v ep epoch fac t a) r).s.mo := by
    intro fac l
    induction l with
    | nil => intro r hr; exact hr
    | cons t l ih => intro r hr; rw [List.foldl_cons]; exact ih _ (tileK_mo _ _ _ _ _ _ _ _ _ _ hr)
  unfold State.runKernel; dsimp only; refine stick_mo _ _ _ (h _ _ _ ?_); split <;> simp [hs]
@[simp] theorem modGroups_mo (s : State) (part set : Nat) (f : Group → Group) (hs : s.mo) : (State.modGroups s part set f).mo := by
  unfold State.modGroups
  try dsimp only
  repeat' first | with_reducible assumption | (with_reducible refine foldl_mo (fun a b hs => ?_) ?_) | (with_reducible refine foldl_mo1 (fun a b hs => ?_) ?_) | (with_reducible refine foldr_mo (fun a b hs => ?_) ?_) | (with_reducible refine elim_mo (fun a => ?_) ?_) | (with_reducible refine elim_mo1 (fun a => ?_) ?_) | split | simp +contextual (maxDischargeDepth := 90) [hs,  foldl_mo, foldl_mo1, foldr_mo]
@[simp] theorem grantClaims_mo (s : State) (hs : s.mo) : (State.grantClaims s).mo := by
  unfold State.grantClaims
  try dsimp only
  repeat' first | with_reducible assumption | (with_reducible refine foldl_mo (fun a b hs => ?_) ?_) | (with_reducible refine foldl_mo1 (fun a b hs => ?_) ?_) | (with_reducible refine foldr_mo (fun a b hs => ?_) ?_) | (with_reducible refine elim_mo (fun a => ?_) ?_) | (with_reducible refine elim_mo1 (fun a => ?_) ?_) | split | simp +contextual (maxDischargeDepth := 90) [hs,  foldl_mo, foldl_mo1, foldr_mo]
@[simp] theorem nmuResolve_mo (s : State) (part set : Nat) (commit : Bool) (ep : Nat) (hs : s.mo) : (State.nmuResolve s part set commit ep).mo := by
  unfold State.nmuResolve
  try dsimp only
  repeat' first | with_reducible assumption | (with_reducible refine foldl_mo (fun a b hs => ?_) ?_) | (with_reducible refine foldl_mo1 (fun a b hs => ?_) ?_) | (with_reducible refine foldr_mo (fun a b hs => ?_) ?_) | (with_reducible refine elim_mo (fun a => ?_) ?_) | (with_reducible refine elim_mo1 (fun a => ?_) ?_) | split | simp +contextual (maxDischargeDepth := 90) [hs,  foldl_mo, foldl_mo1, foldr_mo]
/-! ### LinkOps -/
@[simp] theorem setPort_mo (s : State) (n : Nat) (p : Port) (hs : s.mo) : (State.setPort s n p).mo := by
  simp [State.setPort, hs]
@[simp] theorem modPort_mo (s : State) (n : Nat) (f : Port → Port) (hs : s.mo) : (State.modPort s n f).mo := by
  simp [State.modPort, hs]
@[simp] theorem sendFrame_mo (s : State) (n l : Nat) (hs : s.mo) : (State.sendFrame s n l).mo := by
  unfold State.sendFrame
  try dsimp only
  repeat' first | with_reducible assumption | (with_reducible refine foldl_mo (fun a b hs => ?_) ?_) | (with_reducible refine foldl_mo1 (fun a b hs => ?_) ?_) | (with_reducible refine elim_mo (fun a => ?_) ?_) | (with_reducible refine elim_mo1 (fun a => ?_) ?_) | split | simp +contextual [hs]
@[simp] theorem sendFrames_mo (s : State) (n : Nat) (hs : s.mo) : (State.sendFrames s n).mo := by
  unfold State.sendFrames
  try dsimp only
  repeat' first | with_reducible assumption | (with_reducible refine foldl_mo (fun a b hs => ?_) ?_) | (with_reducible refine foldl_mo1 (fun a b hs => ?_) ?_) | (with_reducible refine foldr_mo (fun a b hs => ?_) ?_) | (with_reducible refine elim_mo (fun a => ?_) ?_) | (with_reducible refine elim_mo1 (fun a => ?_) ?_) | split | simp +contextual (maxDischargeDepth := 90) [hs, foldl_mo, foldl_mo1, foldr_mo]
@[simp] theorem sendFlit_mo (s : State) (n : Nat) (f : List Byte) (hs : s.mo) : (State.sendFlit s n f).mo := by
  unfold State.sendFlit; dsimp only; split
  · exact setPort_mo _ _ _ (send_mo _ _ hs)
  · exact send_mo _ _ (setPort_mo _ _ _ (send_mo _ _ hs))
@[simp] theorem sendSequenced_mo (s : State) (n : Nat) (ftype vc foff : Nat) (payload : List Byte) (hs : s.mo) : (State.sendSequenced s n ftype vc foff payload).mo := by
  simp [State.sendSequenced, hs]
@[simp] theorem sendMessage_mo (s : State) (n : Nat) (m : List Byte) (hs : s.mo) : (State.sendMessage s n m).mo := by
  unfold State.sendMessage
  try dsimp only
  repeat' first | with_reducible assumption | (with_reducible refine foldl_mo (fun a b hs => ?_) ?_) | (with_reducible refine foldl_mo1 (fun a b hs => ?_) ?_) | (with_reducible refine elim_mo (fun a => ?_) ?_) | (with_reducible refine elim_mo1 (fun a => ?_) ?_) | split | simp +contextual [hs]
@[simp] theorem sendUnsequenced_mo (s : State) (n : Nat) (ftype : Nat) (payload : List Byte) (hs : s.mo) : (State.sendUnsequenced s n ftype payload).mo := by
  simp [State.sendUnsequenced, hs]
@[simp] theorem resend_mo (s : State) (n : Nat) (f : List Byte) (hs : s.mo) : (State.resend s n f).mo := by
  simp [State.resend, hs]
@[simp] theorem detect_mo (s : State) (n : Nat) (keep : Bool := false) (hs : s.mo) : (State.detect s n keep).mo := by
  unfold State.detect
  try dsimp only
  repeat' first | with_reducible assumption | (with_reducible refine foldl_mo (fun a b hs => ?_) ?_) | (with_reducible refine foldl_mo1 (fun a b hs => ?_) ?_) | (with_reducible refine foldr_mo (fun a b hs => ?_) ?_) | (with_reducible refine elim_mo (fun a => ?_) ?_) | (with_reducible refine elim_mo1 (fun a => ?_) ?_) | split | simp +contextual (maxDischargeDepth := 90) [hs, foldl_mo, foldl_mo1, foldr_mo]
@[simp] theorem loseLink_mo (s : State) (n : Nat) (keep : Bool := false) (hs : s.mo) : (State.loseLink s n keep).mo := by
  unfold State.loseLink
  try dsimp only
  repeat' first | with_reducible assumption | (with_reducible refine foldl_mo (fun a b hs => ?_) ?_) | (with_reducible refine foldl_mo1 (fun a b hs => ?_) ?_) | (with_reducible refine foldr_mo (fun a b hs => ?_) ?_) | (with_reducible refine elim_mo (fun a => ?_) ?_) | (with_reducible refine elim_mo1 (fun a => ?_) ?_) | split | simp +contextual (maxDischargeDepth := 90) [hs, foldl_mo, foldl_mo1, foldr_mo]
@[simp] theorem trainingFails_mo (s : State) (n step : Nat) (hs : s.mo) : (State.trainingFails s n step).mo := by
  simp [State.trainingFails, hs]
@[simp] theorem chooseWidth_mo (s : State) (n : Nat) (hs : s.mo) : (State.chooseWidth s n).mo := by
  unfold State.chooseWidth; dsimp only
  (repeat' split) <;> simp (maxDischargeDepth := 90) [hs]
@[simp] theorem enterConfig_mo (s : State) (n : Nat) (hs : s.mo) : (State.enterConfig s n).mo := by
  simp [State.enterConfig, hs]
@[simp] theorem enterActive_mo (s : State) (n ackseq : Nat) (hs : s.mo) : (State.enterActive s n ackseq).mo := by
  simp [State.enterActive, hs]
@[simp] theorem fastRetrain_mo (s : State) (n : Nat) (asked : Bool) (w : Nat := 3) (hs : s.mo) : (State.fastRetrain s n asked w).mo := by
  unfold State.fastRetrain
  try dsimp only
  repeat' first | with_reducible assumption | (with_reducible refine foldl_mo (fun a b hs => ?_) ?_) | (with_reducible refine foldl_mo1 (fun a b hs => ?_) ?_) | (with_reducible refine foldr_mo (fun a b hs => ?_) ?_) | (with_reducible refine elim_mo (fun a => ?_) ?_) | (with_reducible refine elim_mo1 (fun a => ?_) ?_) | split | simp +contextual (maxDischargeDepth := 90) [hs, foldl_mo, foldl_mo1, foldr_mo]
@[simp] theorem badLanes_mo (s : State) (n : Nat) (ls : List Nat) (hs : s.mo) : (State.badLanes s n ls).mo := by
  simp (maxDischargeDepth := 90) [State.badLanes, hs]
@[simp] theorem portOff_mo (s : State) (n : Nat) (hs : s.mo) : (State.portOff s n).mo := by
  simp [State.portOff, hs]
@[simp] theorem portOn_mo (s : State) (n : Nat) (hs : s.mo) : (State.portOn s n).mo := by
  simp [State.portOn, hs]
@[simp] theorem portDisable_mo (s : State) (n : Nat) (hs : s.mo) : (State.portDisable s n).1.mo := by
  simp [State.portDisable, hs]
@[simp] theorem fullTraining_mo (s : State) (n : Nat) (hs : s.mo) : (State.fullTraining s n).mo := by
  simp [State.fullTraining, hs]
/-! ### FabricOps -/
@[simp] theorem modMember_mo (s : State) (part job : Nat) (f : Member → Member) (hs : s.mo) : (State.modMember s part job f).mo := by
  simp [State.modMember, hs]
@[simp] theorem portCount_mo (s : State) (n : Nat) (f : Port → Port) (hs : s.mo) : (State.portCount s n f).mo := by
  simp [State.portCount, hs]
@[simp] theorem takePacket_mo (s : State) (n vc : Nat) (p : List Byte) (hs : s.mo) : (State.takePacket s n vc p).mo := by
  simp [State.takePacket, hs]
@[simp] theorem receive_mo (s : State) (n vc : Nat) (types : Nat → Bool) (act : List Byte → State → State) (h_act : ∀ (y0 : List Byte) (y1 : State), y1.mo → (act y0 y1).mo) (hs : s.mo) : (State.receive s n vc types act).mo := by
  unfold State.receive
  try dsimp only
  repeat' first | with_reducible assumption | (with_reducible refine foldl_mo (fun a b hs => ?_) ?_) | (with_reducible refine foldl_mo1 (fun a b hs => ?_) ?_) | (with_reducible refine foldr_mo (fun a b hs => ?_) ?_) | (with_reducible refine elim_mo (fun a => ?_) ?_) | (with_reducible refine elim_mo1 (fun a => ?_) ?_) | split | simp +contextual (maxDischargeDepth := 90) [hs, h_act,  foldl_mo, foldl_mo1, foldr_mo]
@[simp] theorem sendPacket_mo (s : State) (ptype dpart dst job flow score tag gen offset rwin flags coll stage ddig : Nat) (payload : List Byte) (hs : s.mo) : (State.sendPacket s ptype dpart dst job flow score tag gen offset rwin flags coll stage ddig payload).mo := by
  simp [State.sendPacket, hs]
@[simp] theorem answerPacket_mo (s : State) (p : List Byte) (ptype flags : Nat) (payload : List Byte) (hs : s.mo) : (State.answerPacket s p ptype flags payload).mo := by
  simp [State.answerPacket, hs]
@[simp] theorem nack_mo (s : State) (p : List Byte) (status : Nat) (hs : s.mo) : (State.nack s p status).mo := by
  unfold State.nack
  try dsimp only
  repeat' first | with_reducible assumption | (with_reducible refine foldl_mo (fun a b hs => ?_) ?_) | (with_reducible refine foldl_mo1 (fun a b hs => ?_) ?_) | (with_reducible refine elim_mo (fun a => ?_) ?_) | (with_reducible refine elim_mo1 (fun a => ?_) ?_) | split | simp +contextual [hs]
@[simp] theorem unmappedDpa_mo (s : State) (dpa : Nat) (hs : s.mo) : (State.unmappedDpa s dpa).mo := by
  unfold State.unmappedDpa
  try dsimp only
  repeat' first | with_reducible assumption | (with_reducible refine foldl_mo (fun a b hs => ?_) ?_) | (with_reducible refine foldl_mo1 (fun a b hs => ?_) ?_) | (with_reducible refine elim_mo (fun a => ?_) ?_) | (with_reducible refine elim_mo1 (fun a => ?_) ?_) | split | simp +contextual [hs]
@[simp] theorem dpaRead_mo (s : State) (g : Segment) (cva n : Nat) (hs : s.mo) : (State.dpaRead s g cva n).1.mo := by
  unfold State.dpaRead
  try dsimp only
  repeat' first | with_reducible assumption | (with_reducible refine foldl_mo (fun a b hs => ?_) ?_) | (with_reducible refine foldl_mo1 (fun a b hs => ?_) ?_) | (with_reducible refine elim_mo (fun a => ?_) ?_) | (with_reducible refine elim_mo1 (fun a => ?_) ?_) | split | simp +contextual [hs]
@[simp] theorem dpaWrite_mo (s : State) (g : Segment) (cva : Nat) (bs : List Byte) (hs : s.mo) : (State.dpaWrite s g cva bs).1.mo := by
  unfold State.dpaWrite
  try dsimp only
  repeat' first | with_reducible assumption | (with_reducible refine foldl_mo (fun a b hs => ?_) ?_) | (with_reducible refine foldl_mo1 (fun a b hs => ?_) ?_) | (with_reducible refine elim_mo (fun a => ?_) ?_) | (with_reducible refine elim_mo1 (fun a => ?_) ?_) | split | simp +contextual [hs]
@[simp] theorem writeCva_mo (s : State) (c : Context) (cva : Nat) (bs : List Byte) (hs : s.mo) : (State.writeCva s c cva bs).1.mo := by
  unfold State.writeCva
  try dsimp only
  repeat' first | with_reducible assumption | (with_reducible refine foldl_mo (fun a b hs => ?_) ?_) | (with_reducible refine foldl_mo1 (fun a b hs => ?_) ?_) | (with_reducible refine foldr_mo (fun a b hs => ?_) ?_) | (with_reducible refine elim_mo (fun a => ?_) ?_) | (with_reducible refine elim_mo1 (fun a => ?_) ?_) | split | simp +contextual (maxDischargeDepth := 90) [hs,  foldl_mo, foldl_mo1, foldr_mo]
@[simp] theorem readCva_mo (s : State) (c : Context) (cva n : Nat) (hs : s.mo) : (State.readCva s c cva n).1.mo := by
  unfold State.readCva
  try dsimp only
  repeat' first | with_reducible assumption | (with_reducible refine foldl_mo (fun a b hs => ?_) ?_) | (with_reducible refine foldl_mo1 (fun a b hs => ?_) ?_) | (with_reducible refine foldr_mo (fun a b hs => ?_) ?_) | (with_reducible refine elim_mo (fun a => ?_) ?_) | (with_reducible refine elim_mo1 (fun a => ?_) ?_) | split | simp +contextual (maxDischargeDepth := 90) [hs,  foldl_mo, foldl_mo1, foldr_mo]
@[simp] theorem putColl_mo (s : State) (x : Coll) (hs : s.mo) : (State.putColl s x).mo := by
  simp [State.putColl, hs]
@[simp] theorem sendColl_mo (s : State) (x : Coll) (ptype dev part stage t c flags : Nat) (payload : List Byte) (hs : s.mo) : (State.sendColl s x ptype dev part stage t c flags payload).mo := by
  simp [State.sendColl, hs]
@[simp] theorem endColl_mo (s : State) (x : Coll) (st : Status) (detail : Nat) (hs : s.mo) : (State.endColl s x st detail).mo := by
  simp [State.endColl, hs]
@[simp] theorem spreadChunk_mo (s : State) (x : Coll) (m : Member) (ptype fs ss level t c : Nat) (payload : List Byte) (hs : s.mo) : (State.spreadChunk s x m ptype fs ss level t c payload).mo := by
  unfold State.spreadChunk
  try dsimp only
  repeat' first | with_reducible assumption | (with_reducible refine foldl_mo (fun a b hs => ?_) ?_) | (with_reducible refine foldl_mo1 (fun a b hs => ?_) ?_) | (with_reducible refine foldr_mo (fun a b hs => ?_) ?_) | (with_reducible refine elim_mo (fun a => ?_) ?_) | (with_reducible refine elim_mo1 (fun a => ?_) ?_) | split | simp +contextual (maxDischargeDepth := 90) [hs,  foldl_mo, foldl_mo1, foldr_mo]
@[simp] theorem advance_mo (s : State) (x : Coll) (m : Member) (t c : Nat) (x0 : Nat) (hs : s.mo) : (State.advance s x m t c x0).1.mo := by
  induction x0 generalizing s x with
  | zero => unfold State.advance; simp [hs]
  | succ n ih =>
    unfold State.advance
    try dsimp only
    repeat' first | with_reducible assumption | (with_reducible refine foldl_mo (fun a b hs => ?_) ?_) | (with_reducible refine foldl_mo1 (fun a b hs => ?_) ?_) | (with_reducible refine foldr_mo (fun a b hs => ?_) ?_) | (with_reducible refine elim_mo (fun a => ?_) ?_) | (with_reducible refine elim_mo1 (fun a => ?_) ?_) | split | simp +contextual (maxDischargeDepth := 90) [hs, ih, foldl_mo, foldl_mo1, foldr_mo]
@[simp] theorem drive_mo (s : State) (x : Coll) (m : Member) (x0 : Nat) (hs : s.mo) : (State.drive s x m x0).1.mo := by
  induction x0 generalizing s x with
  | zero => exact hs
  | succ n ih => unfold State.drive; dsimp only; (repeat' split) <;> simp [ih, hs]
@[simp] theorem deliver_mo (s : State) (x : Coll) (w : Window) (t c flags : Nat) (payload : List Byte) (hs : s.mo) : (State.deliver s x w t c flags payload).1.mo := by
  unfold State.deliver
  try dsimp only
  repeat' first | with_reducible assumption | (with_reducible refine foldl_mo (fun a b hs => ?_) ?_) | (with_reducible refine foldl_mo1 (fun a b hs => ?_) ?_) | (with_reducible refine foldr_mo (fun a b hs => ?_) ?_) | (with_reducible refine elim_mo (fun a => ?_) ?_) | (with_reducible refine elim_mo1 (fun a => ?_) ?_) | split | simp +contextual (maxDischargeDepth := 90) [hs,  foldl_mo, foldl_mo1, foldr_mo]
@[simp] theorem endColls_mo (s : State) (hs : s.mo) : (State.endColls s).mo := by
  unfold State.endColls
  try dsimp only
  repeat' first | with_reducible assumption | (with_reducible refine foldl_mo (fun a b hs => ?_) ?_) | (with_reducible refine foldl_mo1 (fun a b hs => ?_) ?_) | (with_reducible refine foldr_mo (fun a b hs => ?_) ?_) | (with_reducible refine elim_mo (fun a => ?_) ?_) | (with_reducible refine elim_mo1 (fun a => ?_) ?_) | split | simp +contextual (maxDischargeDepth := 90) [hs,  foldl_mo, foldl_mo1, foldr_mo]
@[simp] theorem cancelColls_mo (s : State) (p : Coll → Bool) (hs : s.mo) : (State.cancelColls s p).mo := by
  unfold State.cancelColls
  try dsimp only
  repeat' first | with_reducible assumption | (with_reducible refine foldl_mo (fun a b hs => ?_) ?_) | (with_reducible refine foldl_mo1 (fun a b hs => ?_) ?_) | (with_reducible refine foldr_mo (fun a b hs => ?_) ?_) | (with_reducible refine elim_mo (fun a => ?_) ?_) | (with_reducible refine elim_mo1 (fun a => ?_) ?_) | split | simp +contextual (maxDischargeDepth := 90) [hs,  foldl_mo, foldl_mo1, foldr_mo]
/-! ### CommitOps -/
@[simp] theorem setBuf_mo (s : State) (part buf : Nat) (b : CommitBuf) (hs : s.mo) : (State.setBuf s part buf b).mo := by
  simp [State.setBuf, hs]
@[simp] theorem applyAction_mo (s : State) (a : List Byte) (hs : s.mo) : (State.applyAction s a).mo := by
  unfold State.applyAction
  try dsimp only
  repeat' first | with_reducible assumption | (with_reducible refine foldl_mo (fun a b hs => ?_) ?_) | (with_reducible refine foldl_mo1 (fun a b hs => ?_) ?_) | (with_reducible refine foldr_mo (fun a b hs => ?_) ?_) | (with_reducible refine elim_mo (fun a => ?_) ?_) | (with_reducible refine elim_mo1 (fun a => ?_) ?_) | split | simp +contextual (maxDischargeDepth := 90) [hs,  foldl_mo, foldl_mo1, foldr_mo]
@[simp] theorem applyBuf_mo (s : State) (part buf : Nat) (hs : s.mo) : (State.applyBuf s part buf).1.mo := by
  unfold State.applyBuf
  try dsimp only
  repeat' first | with_reducible assumption | (with_reducible refine foldl_mo (fun a b hs => ?_) ?_) | (with_reducible refine foldl_mo1 (fun a b hs => ?_) ?_) | (with_reducible refine foldr_mo (fun a b hs => ?_) ?_) | (with_reducible refine elim_mo (fun a => ?_) ?_) | (with_reducible refine elim_mo1 (fun a => ?_) ?_) | split | simp +contextual (maxDischargeDepth := 90) [hs,  foldl_mo, foldl_mo1, foldr_mo]
@[simp] theorem resolveBufs_mo (s : State) (part set : Nat) (commit : Bool) (hs : s.mo) : (State.resolveBufs s part set commit).mo := by
  unfold State.resolveBufs; dsimp only
  refine foldl_mo (fun a b ha => ?_) hs
  have hr : (a.applyBuf part b).1.mo := applyBuf_mo _ _ _ ha
  split
  · split
    · split
      · simp [hr]
      · simp [hr]
    · simp [ha]
  · exact ha
@[simp] theorem resolveSet_mo (s : State) (part set : Nat) (commit ovf : Bool) (hs : s.mo) : (State.resolveSet s part set commit ovf).mo := by
  unfold State.resolveSet
  try dsimp only
  repeat' first | with_reducible assumption | (with_reducible refine foldl_mo (fun a b hs => ?_) ?_) | (with_reducible refine foldl_mo1 (fun a b hs => ?_) ?_) | (with_reducible refine foldr_mo (fun a b hs => ?_) ?_) | (with_reducible refine elim_mo (fun a => ?_) ?_) | (with_reducible refine elim_mo1 (fun a => ?_) ?_) | split | simp +contextual (maxDischargeDepth := 90) [hs, foldl_mo, foldl_mo1, foldr_mo]
@[simp] theorem refreshSet_mo (s : State) (part set : Nat) (hs : s.mo) : (State.refreshSet s part set).mo := by
  unfold State.refreshSet; dsimp only
  split
  · exact hs
  · split
    · exact hs
    · refine modSet_mo _ _ _ _ (foldl_mo (fun a b ha => sendSig_mo _ _ _ _ _ ha) (foldl_mo (fun a b ha => ?_) (foldl_mo (fun a b ha => modCtx_mo _ _ _ ha) hs)))
      split <;> simp [ha]
/-! ### CtxOps -/
@[simp] theorem abortTasks_mo (s : State) (core ctx : Nat) (p : Task → Bool) (x0 : Nat) (hs : s.mo) : (State.abortTasks s core ctx p x0).mo := by
  induction x0 generalizing s with
  | zero => unfold State.abortTasks; simp [hs]
  | succ n ih =>
    unfold State.abortTasks
    try dsimp only
    repeat' first | with_reducible assumption | (with_reducible refine foldl_mo (fun a b hs => ?_) ?_) | (with_reducible refine foldl_mo1 (fun a b hs => ?_) ?_) | (with_reducible refine foldr_mo (fun a b hs => ?_) ?_) | (with_reducible refine elim_mo (fun a => ?_) ?_) | (with_reducible refine elim_mo1 (fun a => ?_) ?_) | split | simp +contextual (maxDischargeDepth := 90) [hs, ih, foldl_mo, foldl_mo1, foldr_mo]
@[simp] theorem abortArms_mo (s : State) (core ctx : Nat) (hs : s.mo) : (State.abortArms s core ctx).mo := by
  unfold State.abortArms
  try dsimp only
  repeat' first | with_reducible assumption | (with_reducible refine foldl_mo (fun a b hs => ?_) ?_) | (with_reducible refine foldl_mo1 (fun a b hs => ?_) ?_) | (with_reducible refine foldr_mo (fun a b hs => ?_) ?_) | (with_reducible refine elim_mo (fun a => ?_) ?_) | (with_reducible refine elim_mo1 (fun a => ?_) ?_) | split | simp +contextual (maxDischargeDepth := 90) [hs,  foldl_mo, foldl_mo1, foldr_mo]
@[simp] theorem evictHalves_mo (s : State) (ctx : Nat) (hs : s.mo) : (State.evictHalves s ctx).mo := by
  unfold State.evictHalves
  try dsimp only
  repeat' first | with_reducible assumption | (with_reducible refine foldl_mo (fun a b hs => ?_) ?_) | (with_reducible refine foldl_mo1 (fun a b hs => ?_) ?_) | (with_reducible refine foldr_mo (fun a b hs => ?_) ?_) | (with_reducible refine elim_mo (fun a => ?_) ?_) | (with_reducible refine elim_mo1 (fun a => ?_) ?_) | split | simp +contextual (maxDischargeDepth := 90) [hs,  foldl_mo, foldl_mo1, foldr_mo]
@[simp] theorem stopCtx_mo (s : State) (ctx : Nat) (hs : s.mo) : (State.stopCtx s ctx).mo := by
  unfold State.stopCtx
  try dsimp only
  repeat' first | with_reducible assumption | (with_reducible refine foldl_mo (fun a b hs => ?_) ?_) | (with_reducible refine foldl_mo1 (fun a b hs => ?_) ?_) | (with_reducible refine foldr_mo (fun a b hs => ?_) ?_) | (with_reducible refine elim_mo (fun a => ?_) ?_) | (with_reducible refine elim_mo1 (fun a => ?_) ?_) | split | simp +contextual (maxDischargeDepth := 90) [hs,  foldl_mo, foldl_mo1, foldr_mo]
@[simp] theorem becomeStopped_mo (s : State) (ctx : Nat) (hs : s.mo) : (State.becomeStopped s ctx).mo := by
  simp [State.becomeStopped, hs]
@[simp] theorem writeOut_mo (s : State) (core ctx : Nat) (hs : s.mo) : (State.writeOut s core ctx).mo := by
  unfold State.writeOut
  try dsimp only
  repeat' first | with_reducible assumption | (with_reducible refine foldl_mo (fun a b hs => ?_) ?_) | (with_reducible refine foldl_mo1 (fun a b hs => ?_) ?_) | (with_reducible refine elim_mo (fun a => ?_) ?_) | (with_reducible refine elim_mo1 (fun a => ?_) ?_) | split | simp +contextual [hs]
@[simp] theorem deadlineOn_mo (s : State) (ctx core : Nat) (hs : s.mo) : (State.deadlineOn s ctx core).mo := by
  unfold State.deadlineOn
  try dsimp only
  repeat' first | with_reducible assumption | (with_reducible refine foldl_mo (fun a b hs => ?_) ?_) | (with_reducible refine foldl_mo1 (fun a b hs => ?_) ?_) | (with_reducible refine foldr_mo (fun a b hs => ?_) ?_) | (with_reducible refine elim_mo (fun a => ?_) ?_) | (with_reducible refine elim_mo1 (fun a => ?_) ?_) | split | simp +contextual (maxDischargeDepth := 90) [hs,  foldl_mo, foldl_mo1, foldr_mo]
@[simp] theorem resumeCtx_mo (s : State) (ctx : Nat) (hs : s.mo) : (State.resumeCtx s ctx).mo := by
  unfold State.resumeCtx
  try dsimp only
  repeat' first | with_reducible assumption | (with_reducible refine foldl_mo (fun a b hs => ?_) ?_) | (with_reducible refine foldl_mo1 (fun a b hs => ?_) ?_) | (with_reducible refine foldr_mo (fun a b hs => ?_) ?_) | (with_reducible refine elim_mo (fun a => ?_) ?_) | (with_reducible refine elim_mo1 (fun a => ?_) ?_) | split | simp +contextual (maxDischargeDepth := 90) [hs,  foldl_mo, foldl_mo1, foldr_mo]
@[simp] theorem resetCtx_mo (s : State) (ctx : Nat) (hs : s.mo) : (State.resetCtx s ctx).mo := by
  unfold State.resetCtx
  try dsimp only
  repeat' first | with_reducible assumption | (with_reducible refine foldl_mo (fun a b hs => ?_) ?_) | (with_reducible refine foldl_mo1 (fun a b hs => ?_) ?_) | (with_reducible refine foldr_mo (fun a b hs => ?_) ?_) | (with_reducible refine elim_mo (fun a => ?_) ?_) | (with_reducible refine elim_mo1 (fun a => ?_) ?_) | split | simp +contextual (maxDischargeDepth := 90) [hs,  foldl_mo, foldl_mo1, foldr_mo]
@[simp] theorem teardownCore_mo (s : State) (ctx core : Nat) (hs : s.mo) : (State.teardownCore s ctx core).mo := by
  simp (maxDischargeDepth := 90) [State.teardownCore, hs]
@[simp] theorem dropGroups_mo (s : State) (ctx : Nat) (hs : s.mo) : (State.dropGroups s ctx).mo := by
  unfold State.dropGroups
  try dsimp only
  repeat' first | with_reducible assumption | (with_reducible refine foldl_mo (fun a b hs => ?_) ?_) | (with_reducible refine foldl_mo1 (fun a b hs => ?_) ?_) | (with_reducible refine foldr_mo (fun a b hs => ?_) ?_) | (with_reducible refine elim_mo (fun a => ?_) ?_) | (with_reducible refine elim_mo1 (fun a => ?_) ?_) | split | simp +contextual (maxDischargeDepth := 90) [hs,  foldl_mo, foldl_mo1, foldr_mo]
@[simp] theorem countTeardown_mo (s : State) (client : Nat) (clean : Bool) (hs : s.mo) : (State.countTeardown s client clean).mo := by
  simp [State.countTeardown, hs]
@[simp] theorem teardown_mo (s : State) (ctx : Nat) (destroy : Bool) (hs : s.mo) : (State.teardown s ctx destroy).mo := by
  unfold State.teardown
  try dsimp only
  repeat' first | with_reducible assumption | (with_reducible refine foldl_mo (fun a b hs => ?_) ?_) | (with_reducible refine foldl_mo1 (fun a b hs => ?_) ?_) | (with_reducible refine foldr_mo (fun a b hs => ?_) ?_) | (with_reducible refine elim_mo (fun a => ?_) ?_) | (with_reducible refine elim_mo1 (fun a => ?_) ?_) | split | simp +contextual (maxDischargeDepth := 90) [hs,  foldl_mo, foldl_mo1, foldr_mo]
@[simp] theorem teardownDone_mo (s : State) (ctx : Nat) (hs : s.mo) : (State.teardownDone s ctx).mo := by
  unfold State.teardownDone
  (repeat' split) <;> simp [hs]
/-! ### TreeOps -/
@[simp] theorem putTree_mo (s : State) (job : Nat) (t : Tree) (hs : s.mo) : (State.putTree s job t).mo := by
  simp [State.putTree, hs]
@[simp] theorem modTree_mo (s : State) (job : Nat) (f : Tree → Tree) (hs : s.mo) : (State.modTree s job f).mo := by
  simp [State.modTree, hs]
@[simp] theorem sendJob_mo (s : State) (ptype : Nat) (peer : Nat × Nat) (job tdig seq : Nat) (m : JobMsg) (hs : s.mo) : (State.sendJob s ptype peer job tdig seq m).mo := by
  simp [State.sendJob, hs]
@[simp] theorem sendDown_mo (s : State) (ptype job seq : Nat) (t : Tree) (m : JobMsg) (hs : s.mo) : (State.sendDown s ptype job seq t m).mo := by
  unfold State.sendDown
  try dsimp only
  repeat' first | with_reducible assumption | (with_reducible refine foldl_mo (fun a b hs => ?_) ?_) | (with_reducible refine foldl_mo1 (fun a b hs => ?_) ?_) | (with_reducible refine foldr_mo (fun a b hs => ?_) ?_) | (with_reducible refine elim_mo (fun a => ?_) ?_) | (with_reducible refine elim_mo1 (fun a => ?_) ?_) | split | simp +contextual (maxDischargeDepth := 90) [hs,  foldl_mo, foldl_mo1, foldr_mo]
@[simp] theorem jobRecord_mo (s : State) (m : Member) (event seq status flags code : Nat) (hs : s.mo) : (State.jobRecord s m event seq status flags code).mo := by
  simp [State.jobRecord, hs]
@[simp] theorem jobRecordFree_mo (s : State) (m : Member) (event seq flags code : Nat) (hs : s.mo) : (State.jobRecordFree s m event seq flags code).mo := by
  simp [State.jobRecordFree, hs]
@[simp] theorem treeOk_mo (s : State) (job : Nat) (t : Tree) (m : JobMsg) (hs : s.mo) : (State.treeOk s job t m).mo := by
  unfold State.treeOk
  try dsimp only
  repeat' first | with_reducible assumption | (with_reducible refine foldl_mo (fun a b hs => ?_) ?_) | (with_reducible refine foldl_mo1 (fun a b hs => ?_) ?_) | (with_reducible refine foldr_mo (fun a b hs => ?_) ?_) | (with_reducible refine elim_mo (fun a => ?_) ?_) | (with_reducible refine elim_mo1 (fun a => ?_) ?_) | split | simp +contextual (maxDischargeDepth := 90) [hs,  foldl_mo, foldl_mo1, foldr_mo]
@[simp] theorem tryHello_mo (s : State) (job : Nat) (t : Tree) (hs : s.mo) : (State.tryHello s job t).mo := by
  unfold State.tryHello
  (repeat' split) <;> simp [hs]
@[simp] theorem decideSet_mo (s : State) (part set : Nat) (commit ovf : Bool) (hs : s.mo) : (State.decideSet s part set commit ovf).mo := by
  unfold State.decideSet
  (repeat' split) <;> simp [hs]
@[simp] theorem applyDecide_mo (s : State) (job : Nat) (t : Tree) (m : JobMsg) (hs : s.mo) : (State.applyDecide s job t m).mo := by
  unfold State.applyDecide
  try dsimp only
  repeat' first | with_reducible assumption | (with_reducible refine foldl_mo (fun a b hs => ?_) ?_) | (with_reducible refine foldl_mo1 (fun a b hs => ?_) ?_) | (with_reducible refine foldr_mo (fun a b hs => ?_) ?_) | (with_reducible refine elim_mo (fun a => ?_) ?_) | (with_reducible refine elim_mo1 (fun a => ?_) ?_) | split | simp +contextual (maxDischargeDepth := 90) [hs,  foldl_mo, foldl_mo1, foldr_mo]
@[simp] theorem sendVote_mo (s : State) (job : Nat) (t : Tree) (late : Bool) (hs : s.mo) : (State.sendVote s job t late).mo := by
  unfold State.sendVote
  (repeat' split) <;> simp [hs]
@[simp] theorem tryVotes_mo (s : State) (job : Nat) (t : Tree) (hs : s.mo) : (State.tryVotes s job t).mo := by
  simp [State.tryVotes, hs]
@[simp] theorem enterRestart_mo (s : State) (job : Nat) (t : Tree) (attempt : Nat) (hs : s.mo) : (State.enterRestart s job t attempt).mo := by
  unfold State.enterRestart
  try dsimp only
  repeat' first | with_reducible assumption | (with_reducible refine foldl_mo (fun a b hs => ?_) ?_) | (with_reducible refine foldl_mo1 (fun a b hs => ?_) ?_) | (with_reducible refine foldr_mo (fun a b hs => ?_) ?_) | (with_reducible refine elim_mo (fun a => ?_) ?_) | (with_reducible refine elim_mo1 (fun a => ?_) ?_) | split | simp +contextual (maxDischargeDepth := 90) [hs,  foldl_mo, foldl_mo1, foldr_mo]
@[simp] theorem applyResume_mo (s : State) (job : Nat) (t : Tree) (m : JobMsg) (hs : s.mo) : (State.applyResume s job t m).mo := by
  unfold State.applyResume
  try dsimp only
  repeat' first | with_reducible assumption | (with_reducible refine foldl_mo (fun a b hs => ?_) ?_) | (with_reducible refine foldl_mo1 (fun a b hs => ?_) ?_) | (with_reducible refine foldr_mo (fun a b hs => ?_) ?_) | (with_reducible refine elim_mo (fun a => ?_) ?_) | (with_reducible refine elim_mo1 (fun a => ?_) ?_) | split | simp +contextual (maxDischargeDepth := 90) [hs,  foldl_mo, foldl_mo1, foldr_mo]
@[simp] theorem startRestart_mo (s : State) (job : Nat) (t : Tree) (hs : s.mo) : (State.startRestart s job t).mo := by
  simp [State.startRestart, hs]
@[simp] theorem jobCause_mo (s : State) (m : Member) (code status : Nat) (hs : s.mo) : (State.jobCause s m code status).mo := by
  unfold State.jobCause; dsimp only
  (repeat' split) <;> simp (maxDischargeDepth := 90) [hs]
@[simp] theorem jobCauses_mo (s : State) (hs : s.mo) : (State.jobCauses s).mo := by
  unfold State.jobCauses
  try dsimp only
  repeat' first | with_reducible assumption | (with_reducible refine foldl_mo (fun a b hs => ?_) ?_) | (with_reducible refine foldl_mo1 (fun a b hs => ?_) ?_) | (with_reducible refine foldr_mo (fun a b hs => ?_) ?_) | (with_reducible refine elim_mo (fun a => ?_) ?_) | (with_reducible refine elim_mo1 (fun a => ?_) ?_) | split | simp +contextual (maxDischargeDepth := 90) [hs,  foldl_mo, foldl_mo1, foldr_mo]
@[simp] theorem tryStops_mo (s : State) (job : Nat) (t : Tree) (hs : s.mo) : (State.tryStops s job t).mo := by
  unfold State.tryStops
  try dsimp only
  repeat' first | with_reducible assumption | (with_reducible refine foldl_mo (fun a b hs => ?_) ?_) | (with_reducible refine foldl_mo1 (fun a b hs => ?_) ?_) | (with_reducible refine foldr_mo (fun a b hs => ?_) ?_) | (with_reducible refine elim_mo (fun a => ?_) ?_) | (with_reducible refine elim_mo1 (fun a => ?_) ?_) | split | simp +contextual (maxDischargeDepth := 90) [hs,  foldl_mo, foldl_mo1, foldr_mo]
@[simp] theorem tryReport_mo (s : State) (job : Nat) (t : Tree) (hs : s.mo) : (State.tryReport s job t).mo := by
  unfold State.tryReport
  (repeat' split) <;> simp [hs]
@[simp] theorem pokeTree_mo (s : State) (job : Nat) (hs : s.mo) : (State.pokeTree s job).mo := by
  unfold State.pokeTree; dsimp only
  (repeat' split) <;> simp (maxDischargeDepth := 90) [hs]
@[simp] theorem pokeTrees_mo (s : State) (hs : s.mo) : (State.pokeTrees s).mo := by
  unfold State.pokeTrees
  try dsimp only
  repeat' first | with_reducible assumption | (with_reducible refine foldl_mo (fun a b hs => ?_) ?_) | (with_reducible refine foldl_mo1 (fun a b hs => ?_) ?_) | (with_reducible refine foldr_mo (fun a b hs => ?_) ?_) | (with_reducible refine elim_mo (fun a => ?_) ?_) | (with_reducible refine elim_mo1 (fun a => ?_) ?_) | split | simp +contextual (maxDischargeDepth := 90) [hs,  foldl_mo, foldl_mo1, foldr_mo]
/-! ### ResetOps -/
@[simp] theorem cutWrite_mo (s : State) (hs : s.mo) : (State.cutWrite s).mo := by
  unfold State.cutWrite
  (repeat' split) <;> simp [hs]
@[simp] theorem portDown_mo (s : State) (n : Nat) (hs : s.mo) : (State.portDown s n).mo := by
  unfold State.portDown
  try dsimp only
  repeat' first | with_reducible assumption | (with_reducible refine foldl_mo (fun a b hs => ?_) ?_) | (with_reducible refine foldl_mo1 (fun a b hs => ?_) ?_) | (with_reducible refine foldr_mo (fun a b hs => ?_) ?_) | (with_reducible refine elim_mo (fun a => ?_) ?_) | (with_reducible refine elim_mo1 (fun a => ?_) ?_) | split | simp +contextual (maxDischargeDepth := 90) [hs, foldl_mo, foldl_mo1, foldr_mo]
@[simp] theorem allDown_mo (s : State) (hs : s.mo) : (State.allDown s).mo := by
  unfold State.allDown
  try dsimp only
  repeat' first | with_reducible assumption | (with_reducible refine foldl_mo (fun a b hs => ?_) ?_) | (with_reducible refine foldl_mo1 (fun a b hs => ?_) ?_) | (with_reducible refine foldr_mo (fun a b hs => ?_) ?_) | (with_reducible refine elim_mo (fun a => ?_) ?_) | (with_reducible refine elim_mo1 (fun a => ?_) ?_) | split | simp +contextual (maxDischargeDepth := 90) [hs, foldl_mo, foldl_mo1, foldr_mo]
@[simp] theorem chipReset_mo (s : State) (hs : s.mo) : (State.chipReset s).mo := by
  have h : (s.allDown.cutWrite).mo := cutWrite_mo _ (allDown_mo _ hs)
  unfold State.chipReset
  simp only [mo_mk]
  exact mo_filter _ _ h
@[simp] theorem reactReset_mo (s : State) (hs : s.mo) : (State.reactReset s).mo := by
  have h := chipReset_mo s hs
  unfold State.reactReset
  generalize s.chipReset = y at h
  simp only [mo_ite, mo_mk, mo_fold, ite_self]
  exact h
@[simp] theorem mainOff_mo (s : State) (again : Bool) : (State.mainOff s again).mo := rfl
@[simp] theorem tryRelease_mo (s : State) (hs : s.mo) : (State.tryRelease s).mo := by
  simp [State.tryRelease, hs]
@[simp] theorem startBlock_mo (s : State) (ukind unit : Nat) (hs : s.mo) : (State.startBlock s ukind unit).mo := by
  unfold State.startBlock
  try dsimp only
  repeat' first | with_reducible assumption | (with_reducible refine foldl_mo (fun a b hs => ?_) ?_) | (with_reducible refine foldl_mo1 (fun a b hs => ?_) ?_) | (with_reducible refine foldr_mo (fun a b hs => ?_) ?_) | (with_reducible refine elim_mo (fun a => ?_) ?_) | (with_reducible refine elim_mo1 (fun a => ?_) ?_) | split | simp +contextual (maxDischargeDepth := 90) [hs,  foldl_mo, foldl_mo1, foldr_mo]
@[simp] theorem react_mo (s : State) (hs : s.mo) : (State.react s).mo := by
  unfold State.react
  try dsimp only
  repeat' first | with_reducible assumption | (with_reducible refine foldl_mo (fun a b hs => ?_) ?_) | (with_reducible refine foldl_mo1 (fun a b hs => ?_) ?_) | (with_reducible refine foldr_mo (fun a b hs => ?_) ?_) | (with_reducible refine elim_mo (fun a => ?_) ?_) | (with_reducible refine elim_mo1 (fun a => ?_) ?_) | split | simp +contextual (maxDischargeDepth := 90) [hs,  foldl_mo, foldl_mo1, foldr_mo]
@[simp] theorem settle_mo (s : State) (hs : s.mo) : (State.settle s).mo := by
  simp (maxDischargeDepth := 90) [State.settle, hs]
/-! ### PowerOps -/
@[simp] theorem wakeForLtol_mo (s : State) (hs : s.mo) : (State.wakeForLtol s).mo := by
  unfold State.wakeForLtol
  simp only [mo_mk, mo_fold]
  refine foldl_mo (fun a k ha => ?_) (foldl_mo (fun a k ha => ?_) hs)
  · exact modNmu_mo _ _ _ ha
  · split
    · exact ha
    · exact setCore_mo _ _ _ ha
@[simp] theorem zeroBank_mo (s : State) (core bank : Nat) (hs : s.mo) : (State.zeroBank s core bank).mo := by
  simp [State.zeroBank, hs]
@[simp] theorem clearCore_mo (s : State) (core : Nat) (hs : s.mo) : (State.clearCore s core).mo := by
  simp [State.clearCore, hs]
@[simp] theorem clearStack_mo (s : State) (st : Nat) (hs : s.mo) : (State.clearStack s st).mo := by
  simp [State.clearStack, hs]
/-! ### HostOps -/
@[simp] theorem pumpMailbox_mo (s : State) (fn : Nat) (hs : s.mo) : (State.pumpMailbox s fn).mo := by
  simp [State.pumpMailbox, hs]
@[simp] theorem pumpRing_mo (s : State) (fn ring : Nat) (hs : s.mo) : (State.pumpRing s fn ring).mo := by
  unfold State.pumpRing
  (repeat' split) <;> simp [hs]
@[simp] theorem pumpAll_mo (s : State) (hs : s.mo) : (State.pumpAll s).mo := by
  unfold State.pumpAll
  exact foldl_mo (fun a fn ha => foldl_mo (fun b r hb => pumpRing_mo _ _ _ hb) (pumpMailbox_mo _ _ ha)) hs
@[simp] theorem zeroW_mo (s : State) (st gid : Nat) (hs : s.mo) : (State.zeroW s st gid).mo := by
  unfold State.zeroW
  (repeat' split) <;> simp [hs]
@[simp] theorem unloadKey_mo (s : State) (part handle : Nat) (hs : s.mo) : (State.unloadKey s part handle).mo := by
  unfold State.unloadKey; dsimp only
  refine answer_mo _ _ _ _ (foldl_mo (fun a r ha => ?_) (foldl_mo (fun a k ha => ?_) hs))
  · (repeat' split) <;> simp [ha]
  · split
    · simp [ha]
    · exact ha
@[simp] theorem eraseKey_mo (s : State) (part handle : Nat) (hs : s.mo) : (State.eraseKey s part handle).mo := by
  simp [State.eraseKey, hs]
@[simp] theorem eraseKeys_mo (s : State) (p : Nat → HeldKey → Bool) (hs : s.mo) : (State.eraseKeys s p).mo := by
  unfold State.eraseKeys
  try dsimp only
  repeat' first | with_reducible assumption | (with_reducible refine foldl_mo (fun a b hs => ?_) ?_) | (with_reducible refine foldl_mo1 (fun a b hs => ?_) ?_) | (with_reducible refine foldr_mo (fun a b hs => ?_) ?_) | (with_reducible refine elim_mo (fun a => ?_) ?_) | (with_reducible refine elim_mo1 (fun a => ?_) ?_) | split | simp +contextual (maxDischargeDepth := 90) [hs,  foldl_mo, foldl_mo1, foldr_mo]
@[simp] theorem measured_mo (s : State) (index : Nat) (hs : s.mo) : (State.measured s index).mo := by
  simp [State.measured, hs]
@[simp] theorem measuredIf_mo (s : State) (index : Nat) (changed : Bool) (hs : s.mo) : (State.measuredIf s index changed).mo := by
  unfold State.measuredIf; split <;> simp [hs]
@[simp] theorem resetFn_mo (s : State) (fn : Nat) (hs : s.mo) : (State.resetFn s fn).mo := by
  simp [State.resetFn, hs]
@[simp] theorem flrVf_mo (s : State) (fn : Nat) (hs : s.mo) : (State.flrVf s fn).mo := by
  unfold State.flrVf
  try dsimp only
  repeat' first | with_reducible assumption | (with_reducible refine foldl_mo (fun a b hs => ?_) ?_) | (with_reducible refine foldl_mo1 (fun a b hs => ?_) ?_) | (with_reducible refine foldr_mo (fun a b hs => ?_) ?_) | (with_reducible refine elim_mo (fun a => ?_) ?_) | (with_reducible refine elim_mo1 (fun a => ?_) ?_) | split | simp +contextual (maxDischargeDepth := 90) [hs,  foldl_mo, foldl_mo1, foldr_mo]
@[simp] theorem flrPf_mo (s : State) (hs : s.mo) : (State.flrPf s).mo := by
  unfold State.flrPf
  try dsimp only
  repeat' first | with_reducible assumption | (with_reducible refine foldl_mo (fun a b hs => ?_) ?_) | (with_reducible refine foldl_mo1 (fun a b hs => ?_) ?_) | (with_reducible refine foldr_mo (fun a b hs => ?_) ?_) | (with_reducible refine elim_mo (fun a => ?_) ?_) | (with_reducible refine elim_mo1 (fun a => ?_) ?_) | split | simp +contextual (maxDischargeDepth := 90) [hs,  foldl_mo, foldl_mo1, foldr_mo]
@[simp] theorem fatal_mo (s : State) (hs : s.mo) : (State.fatal s).mo := by
  unfold State.fatal
  try dsimp only
  repeat' first | with_reducible assumption | (with_reducible refine foldl_mo (fun a b hs => ?_) ?_) | (with_reducible refine foldl_mo1 (fun a b hs => ?_) ?_) | (with_reducible refine foldr_mo (fun a b hs => ?_) ?_) | (with_reducible refine elim_mo (fun a => ?_) ?_) | (with_reducible refine elim_mo1 (fun a => ?_) ?_) | split | simp +contextual (maxDischargeDepth := 90) [hs,  foldl_mo, foldl_mo1, foldr_mo]
/-! ### RegOps -/
@[simp] theorem dberr_mo (s : State) (fn : Nat) (hs : s.mo) : (State.dberr s fn).mo := by
  simp [State.dberr, hs]
@[simp] theorem vectorControl_mo (s : State) (fn v value : Nat) (hs : s.mo) : (State.vectorControl s fn v value).mo := by
  simp (maxDischargeDepth := 90) [State.vectorControl, hs]
@[simp] theorem barWrite_mo (s : State) (fn off v : Nat) (hs : s.mo) : (State.barWrite s fn off v).mo := by
  simp [State.barWrite, hs]
@[simp] theorem sbWrite_mo (s : State) (ok : Bool) (act : State) (h_act : act.mo) (hs : s.mo) : (State.sbWrite s ok act).mo := by
  unfold State.sbWrite
  try dsimp only
  repeat' first | with_reducible assumption | (with_reducible refine foldl_mo (fun a b hs => ?_) ?_) | (with_reducible refine foldl_mo1 (fun a b hs => ?_) ?_) | (with_reducible refine foldr_mo (fun a b hs => ?_) ?_) | (with_reducible refine elim_mo (fun a => ?_) ?_) | (with_reducible refine elim_mo1 (fun a => ?_) ?_) | split | simp +contextual (maxDischargeDepth := 90) [hs, h_act,  foldl_mo, foldl_mo1, foldr_mo]
@[simp] theorem mbErr_mo (s : State) (hs : s.mo) : (State.mbErr s).mo := by
  simp [State.mbErr, hs]
@[simp] theorem sbEnd_mo (s : State) (st : Status) (detail : Nat := 0) (hs : s.mo) : (State.sbEnd s st detail).mo := by
  simp [State.sbEnd, hs]
@[simp] theorem sbGo_mo (s : State) (ok : Bool) (op arg : Nat) (act : State → State) (h_act : ∀ (y0 : State), y0.mo → (act y0).mo) (hs : s.mo) : (State.sbGo s ok op arg act).mo := by
  unfold State.sbGo
  try dsimp only
  repeat' first | with_reducible assumption | (with_reducible refine foldl_mo (fun a b hs => ?_) ?_) | (with_reducible refine foldl_mo1 (fun a b hs => ?_) ?_) | (with_reducible refine foldr_mo (fun a b hs => ?_) ?_) | (with_reducible refine elim_mo (fun a => ?_) ?_) | (with_reducible refine elim_mo1 (fun a => ?_) ?_) | split | simp +contextual (maxDischargeDepth := 90) [hs, h_act,  foldl_mo, foldl_mo1, foldr_mo]
@[simp] theorem sbRegWrite_mo (s : State) (off v : Nat) (hs : s.mo) : (State.sbRegWrite s off v).mo := by
  unfold State.sbRegWrite
  try dsimp only
  repeat' first | with_reducible assumption | (with_reducible refine foldl_mo (fun a b hs => ?_) ?_) | (with_reducible refine foldl_mo1 (fun a b hs => ?_) ?_) | (with_reducible refine foldr_mo (fun a b hs => ?_) ?_) | (with_reducible refine elim_mo (fun a => ?_) ?_) | (with_reducible refine elim_mo1 (fun a => ?_) ?_) | split | simp +contextual (maxDischargeDepth := 90) [hs,  foldl_mo, foldl_mo1, foldr_mo]
/-! ### Tasks -/
@[simp] theorem takeEntry_mo (s : State) (fn ring : Nat) (r : SubRing) (hs : s.mo) : (State.takeEntry s fn ring r).mo := by
  simp (maxDischargeDepth := 90) [State.takeEntry, hs]
@[simp] theorem refuseTask_mo (s : State) (fn ring : Nat) (r : SubRing) (core opcode tid detail : Nat) (hs : s.mo) : (State.refuseTask s fn ring r core opcode tid detail).mo := by
  simp [State.refuseTask, hs]
@[simp] theorem placeOrWait_mo (s : State) (fn ring : Nat) (r : SubRing) (core : Nat) (d : List Byte) (hs : s.mo) : (State.placeOrWait s fn ring r core d).mo := by
  simp [State.placeOrWait, hs]
@[simp] theorem taskEntry_mo (s : State) (fn ring : Nat) (hs : s.mo) : (State.taskEntry s fn ring).mo := by
  unfold State.taskEntry; dsimp only
  (repeat' split) <;> simp (maxDischargeDepth := 90) [hs]
@[simp] theorem q1Entry_mo (s : State) (fn ring : Nat) (hs : s.mo) : (State.q1Entry s fn ring).mo := by
  simp only [State.q1Entry]
  repeat' split
  all_goals simp (maxDischargeDepth := 90) [hs]
@[simp] theorem countDispatch_mo (s : State) (core ctx : Nat) (hs : s.mo) : (State.countDispatch s core ctx).mo := by
  simp [State.countDispatch, hs]
@[simp] theorem readHeads_mo (s : State) (core ctx : Nat) (c : Context) (d : List Byte) (hs : s.mo) : (State.readHeads s core ctx c d).1.mo := by
  unfold State.readHeads
  try dsimp only
  repeat' first | with_reducible assumption | (with_reducible refine foldl_mo (fun a b hs => ?_) ?_) | (with_reducible refine foldl_mo1 (fun a b hs => ?_) ?_) | (with_reducible refine elim_mo (fun a => ?_) ?_) | (with_reducible refine elim_mo1 (fun a => ?_) ?_) | split | simp +contextual [hs]
@[simp] theorem dispatch_mo (s : State) (core i : Nat) (t : Task) (c : Context) (hs : s.mo) : (State.dispatch s core i t c).mo := by
  have h : ((s.countDispatch core t.ctx).readHeads core t.ctx c t.desc).1.mo := by simp [hs]
  have hm : ∀ k : Option Nat, (k.elim (((s.countDispatch core t.ctx).readHeads core t.ctx c t.desc).1, false) fun k =>
      ((s.countDispatch core t.ctx).readHeads core t.ctx c t.desc).1.isleRead core k 512).1.mo := by
    intro k; cases k <;> simp [h]
  unfold State.dispatch; dsimp only
  split
  · simp [h]
  · split
    · split <;> simp [h]
    · split <;> simp [hm]
@[simp] theorem upset_mo (s : State) (core e : Nat) (upsets : List (Nat × Nat)) (hs : s.mo) : (State.upset s core e upsets).mo := by
  unfold State.upset
  try dsimp only
  repeat' first | with_reducible assumption | (with_reducible refine foldl_mo (fun a b hs => ?_) ?_) | (with_reducible refine foldl_mo1 (fun a b hs => ?_) ?_) | (with_reducible refine elim_mo (fun a => ?_) ?_) | (with_reducible refine elim_mo1 (fun a => ?_) ?_) | split | simp +contextual [hs]
@[simp] theorem rowParity_mo (s : State) (core e : Nat) (t : Task) (parity : Option Nat) (hs : s.mo) : (State.rowParity s core e t parity).mo := by
  unfold State.rowParity
  try dsimp only
  repeat' first | with_reducible assumption | (with_reducible refine foldl_mo (fun a b hs => ?_) ?_) | (with_reducible refine foldl_mo1 (fun a b hs => ?_) ?_) | (with_reducible refine elim_mo (fun a => ?_) ?_) | (with_reducible refine elim_mo1 (fun a => ?_) ?_) | split | simp +contextual [hs]
@[simp] theorem firstLoad_mo (s : State) (core e : Nat) (c : Context) (d : List Byte) (b : Hdr × Nat) (bl : List Nat) (p : Pos) (hs : s.mo) : (State.firstLoad s core e c d b bl p).1.mo := by
  unfold State.firstLoad
  try dsimp only
  repeat' first | with_reducible assumption | (with_reducible refine foldl_mo (fun a b hs => ?_) ?_) | (with_reducible refine foldl_mo1 (fun a b hs => ?_) ?_) | (with_reducible refine elim_mo (fun a => ?_) ?_) | (with_reducible refine elim_mo1 (fun a => ?_) ?_) | split | simp +contextual [hs]
@[simp] theorem nextLoad_mo (s : State) (core e : Nat) (c : Context) (d : List Byte) (b : Hdr × Nat) (bl : List Nat) (p : Pos) (hs : s.mo) : (State.nextLoad s core e c d b bl p).1.mo := by
  unfold State.nextLoad
  try dsimp only
  repeat' first | with_reducible assumption | (with_reducible refine foldl_mo (fun a b hs => ?_) ?_) | (with_reducible refine foldl_mo1 (fun a b hs => ?_) ?_) | (with_reducible refine elim_mo (fun a => ?_) ?_) | (with_reducible refine elim_mo1 (fun a => ?_) ?_) | split | simp +contextual [hs]
@[simp] theorem feedRows_mo (s : State) (core : Nat) (c : Context) (d : List Byte) (a : Hdr × Nat) (bl : List Nat) (r : Run) (p : Pos) (hs : s.mo) : (State.feedRows s core c d a bl r p).1.mo := by
  unfold State.feedRows
  try dsimp only
  repeat' first | with_reducible assumption | (with_reducible refine foldl_mo (fun a b hs => ?_) ?_) | (with_reducible refine foldl_mo1 (fun a b hs => ?_) ?_) | (with_reducible refine elim_mo (fun a => ?_) ?_) | (with_reducible refine elim_mo1 (fun a => ?_) ?_) | split | simp +contextual [hs]
@[simp] theorem passEnd_mo (s : State) (core e : Nat) (parity : Option Nat) (upsets : List (Nat × Nat)) (hs : s.mo) : (State.passEnd s core e parity upsets).mo := by
  unfold State.passEnd
  try dsimp only
  repeat' first | with_reducible assumption | (with_reducible refine foldl_mo (fun a b hs => ?_) ?_) | (with_reducible refine foldl_mo1 (fun a b hs => ?_) ?_) | (with_reducible refine foldr_mo (fun a b hs => ?_) ?_) | (with_reducible refine elim_mo (fun a => ?_) ?_) | (with_reducible refine elim_mo1 (fun a => ?_) ?_) | split | simp +contextual (maxDischargeDepth := 90) [hs, foldl_mo, foldl_mo1, foldr_mo]
@[simp] theorem chunkDrainEnd_mo (s : State) (core e : Nat) (hs : s.mo) : (State.chunkDrainEnd s core e).mo := by
  unfold State.chunkDrainEnd
  (repeat' split) <;> simp [hs]
@[simp] theorem copyBlockEnd_mo (s : State) (core i word fl : Nat) (hs : s.mo) : (State.copyBlockEnd s core i word fl).mo := by
  simp only [State.copyBlockEnd]
  repeat' split
  all_goals simp (maxDischargeDepth := 90) [hs]
@[simp] theorem lastWork_mo (s : State) (core : Nat) (t : Task) (c : Context) (r : Run) (hs : s.mo) : (State.lastWork s core t c r).1.mo := by
  simp [State.lastWork, hs]
@[simp] theorem taskEnd_mo (s : State) (core i cycles : Nat) (hs : s.mo) : (State.taskEnd s core i cycles).mo := by
  unfold State.taskEnd; dsimp only
  (repeat' split) <;> simp (maxDischargeDepth := 90) [hs]
@[simp] theorem moverFail_mo (s : State) (core ctx cause : Nat) (wait : Option (Nat × Task)) (hs : s.mo) : (State.moverFail s core ctx cause wait).mo := by
  unfold State.moverFail
  try dsimp only
  repeat' first | with_reducible assumption | (with_reducible refine foldl_mo (fun a b hs => ?_) ?_) | (with_reducible refine foldl_mo1 (fun a b hs => ?_) ?_) | (with_reducible refine foldr_mo (fun a b hs => ?_) ?_) | (with_reducible refine elim_mo (fun a => ?_) ?_) | (with_reducible refine elim_mo1 (fun a => ?_) ?_) | split | simp +contextual (maxDischargeDepth := 90) [hs, foldl_mo, foldl_mo1, foldr_mo]
@[simp] theorem moverWrite_mo (s : State) (k n : Nat) (parts : List (Nat × List Byte)) (hs : s.mo) : (State.moverWrite s k n parts).mo := by
  unfold State.moverWrite
  try dsimp only
  repeat' first | with_reducible assumption | (with_reducible refine foldl_mo (fun a b hs => ?_) ?_) | (with_reducible refine foldl_mo1 (fun a b hs => ?_) ?_) | (with_reducible refine elim_mo (fun a => ?_) ?_) | (with_reducible refine elim_mo1 (fun a => ?_) ?_) | split | simp +contextual [hs]
@[simp] theorem storeRecord_mo (s : State) (core ctx k : Nat) (tset : Bool) (tloaded : Nat) (hs : s.mo) : (State.storeRecord s core ctx k tset tloaded).mo := by
  unfold State.storeRecord
  try dsimp only
  repeat' first | with_reducible assumption | (with_reducible refine foldl_mo (fun a b hs => ?_) ?_) | (with_reducible refine foldl_mo1 (fun a b hs => ?_) ?_) | (with_reducible refine elim_mo (fun a => ?_) ?_) | (with_reducible refine elim_mo1 (fun a => ?_) ?_) | split | simp +contextual [hs]
@[simp] theorem moverRead_mo (s : State) (k : Nat) (ranges : List (Nat × Nat)) (errs : List (Nat × Nat)) (crc : Bool) (hs : s.mo) : (State.moverRead s k ranges errs crc).1.mo := by
  unfold State.moverRead
  try dsimp only
  repeat' first | with_reducible assumption | (with_reducible refine foldl_mo (fun a b hs => ?_) ?_) | (with_reducible refine foldl_mo1 (fun a b hs => ?_) ?_) | (with_reducible refine elim_mo (fun a => ?_) ?_) | (with_reducible refine elim_mo1 (fun a => ?_) ?_) | split | simp +contextual [hs]
@[simp] theorem dropTables_mo (s : State) (core ctx : Nat) (hs : s.mo) : (State.dropTables s core ctx).mo := by
  unfold State.dropTables
  try dsimp only
  repeat' first | with_reducible assumption | (with_reducible refine foldl_mo (fun a b hs => ?_) ?_) | (with_reducible refine foldl_mo1 (fun a b hs => ?_) ?_) | (with_reducible refine elim_mo (fun a => ?_) ?_) | (with_reducible refine elim_mo1 (fun a => ?_) ?_) | split | simp +contextual [hs]
@[simp] theorem evictTables_mo (s : State) (core : Nat) (v : Resident) (hs : s.mo) : (State.evictTables s core v).mo := by
  unfold State.evictTables
  try dsimp only
  repeat' first | with_reducible assumption | (with_reducible refine foldl_mo (fun a b hs => ?_) ?_) | (with_reducible refine foldl_mo1 (fun a b hs => ?_) ?_) | (with_reducible refine foldr_mo (fun a b hs => ?_) ?_) | (with_reducible refine elim_mo (fun a => ?_) ?_) | (with_reducible refine elim_mo1 (fun a => ?_) ?_) | split | simp +contextual (maxDischargeDepth := 90) [hs, foldl_mo, foldl_mo1, foldr_mo]
@[simp] theorem tableSetSwap_mo (s : State) (core ctx : Nat) (errs : List (Nat × Nat)) (crc : Bool) (hs : s.mo) : (State.tableSetSwap s core ctx errs crc).mo := by
  have h : ∀ (v : Option Resident) (f : Core → Core), ((v.elim s (s.evictTables core)).modCore core f).mo :=
    fun v f => modCore_mo _ _ _ (elim_mo (fun r => by simp [hs]) hs)
  unfold State.tableSetSwap; dsimp only
  split
  · exact hs
  · split
    · exact hs
    · split
      · exact h _ _
      · split
        · exact h _ _
        · split
          · exact moverFail_mo _ _ _ _ _ (moverRead_mo _ _ _ _ _ (h _ _))
          · exact modCtx_mo _ _ _ (moverRead_mo _ _ _ _ _ (h _ _))
@[simp] theorem readHalf_mo (s : State) (core e h ctx tid : Nat) (hs : s.mo) : (State.readHalf s core e h ctx tid).1.mo := by
  unfold State.readHalf
  try dsimp only
  repeat' first | with_reducible assumption | (with_reducible refine foldl_mo (fun a b hs => ?_) ?_) | (with_reducible refine foldl_mo1 (fun a b hs => ?_) ?_) | (with_reducible refine foldr_mo (fun a b hs => ?_) ?_) | (with_reducible refine elim_mo (fun a => ?_) ?_) | (with_reducible refine elim_mo1 (fun a => ?_) ?_) | split | simp +contextual (maxDischargeDepth := 90) [hs, foldl_mo, foldl_mo1, foldr_mo]
@[simp] theorem writeHalf_mo (s : State) (core k e h : Nat) (hs : s.mo) : (State.writeHalf s core k e h).mo := by
  unfold State.writeHalf
  try dsimp only
  repeat' first | with_reducible assumption | (with_reducible refine foldl_mo (fun a b hs => ?_) ?_) | (with_reducible refine foldl_mo1 (fun a b hs => ?_) ?_) | (with_reducible refine elim_mo (fun a => ?_) ?_) | (with_reducible refine elim_mo1 (fun a => ?_) ?_) | split | simp +contextual [hs]
@[simp] theorem stateSave_mo (s : State) (core ctx : Nat) (upsets : List (Nat × Nat × Nat)) (hs : s.mo) : (State.stateSave s core ctx upsets).mo := by
  unfold State.stateSave
  try dsimp only
  repeat' first | with_reducible assumption | (with_reducible refine foldl_mo (fun a b hs => ?_) ?_) | (with_reducible refine foldl_mo1 (fun a b hs => ?_) ?_) | (with_reducible refine foldr_mo (fun a b hs => ?_) ?_) | (with_reducible refine elim_mo (fun a => ?_) ?_) | (with_reducible refine elim_mo1 (fun a => ?_) ?_) | split | simp +contextual (maxDischargeDepth := 90) [hs, foldl_mo, foldl_mo1, foldr_mo]
@[simp] theorem readBack_mo (s : State) (core k e h ctx : Nat) (int : Option Nat) (hs : s.mo) : (State.readBack s core k e h ctx int).mo := by
  unfold State.readBack
  try dsimp only
  repeat' first | with_reducible assumption | (with_reducible refine foldl_mo (fun a b hs => ?_) ?_) | (with_reducible refine foldl_mo1 (fun a b hs => ?_) ?_) | (with_reducible refine elim_mo (fun a => ?_) ?_) | (with_reducible refine elim_mo1 (fun a => ?_) ?_) | split | simp +contextual [hs]
@[simp] theorem stateRestore_mo (s : State) (core ctx : Nat) (errs : List (Nat × Nat)) (crc : Bool) (hs : s.mo) : (State.stateRestore s core ctx errs crc).mo := by
  unfold State.stateRestore
  try dsimp only
  repeat' first | with_reducible assumption | (with_reducible refine foldl_mo (fun a b hs => ?_) ?_) | (with_reducible refine foldl_mo1 (fun a b hs => ?_) ?_) | (with_reducible refine foldr_mo (fun a b hs => ?_) ?_) | (with_reducible refine elim_mo (fun a => ?_) ?_) | (with_reducible refine elim_mo1 (fun a => ?_) ?_) | split | simp +contextual (maxDischargeDepth := 90) [hs, foldl_mo, foldl_mo1, foldr_mo]
/-! ### Streams -/
@[simp] theorem armEntry_mo (s : State) (fn ring : Nat) (hs : s.mo) : (State.armEntry s fn ring).mo := by
  unfold State.armEntry; dsimp only
  (repeat' split) <;> simp (maxDischargeDepth := 90) [hs]
@[simp] theorem streamResponse_mo (s : State) (core tag gen : Nat) (hs : s.mo) : (State.streamResponse s core tag gen).mo := by
  unfold State.streamResponse
  (repeat' split) <;> simp [hs]
@[simp] theorem mcastCredit_mo (s : State) (group member : Nat) (hs : s.mo) : (State.mcastCredit s group member).mo := by
  unfold State.mcastCredit
  (repeat' split) <;> simp [hs]
@[simp] theorem mcastArrival_mo (s : State) (group member : Nat) (hs : s.mo) : (State.mcastArrival s group member).mo := by
  unfold State.mcastArrival; dsimp only
  (repeat' split) <;> simp (maxDischargeDepth := 90) [hs]
@[simp] theorem versionResolution_mo (s : State) (core sid : Nat) (hs : s.mo) : (State.versionResolution s core sid).mo := by
  unfold State.versionResolution; dsimp only
  (repeat' split) <;> simp (maxDischargeDepth := 90) [hs]
@[simp] theorem tagTimeout_mo (s : State) (core tag : Nat) (hs : s.mo) : (State.tagTimeout s core tag).mo := by
  unfold State.tagTimeout; dsimp only
  (repeat' split) <;> simp (maxDischargeDepth := 90) [hs]
@[simp] theorem flipWords_mo (s : State) (fl : List (Nat × Nat)) (hs : s.mo) : (State.flipWords s fl).mo := by
  simp [State.flipWords, hs]
@[simp] theorem isleAccess_mo (s0 : State) (core : Nat) (fl : List (Nat × Nat)) (hs : s0.mo) : (State.isleAccess s0 core fl).mo := by
  unfold State.isleAccess; dsimp only
  (repeat' split) <;> simp (maxDischargeDepth := 90) [hs]
/-! ### Nmu -/
@[simp] theorem sorterAdmit_mo (s : State) (st : Nat) (hs : s.mo) : (State.sorterAdmit s st).mo := by
  unfold State.sorterAdmit; dsimp only
  (repeat' split) <;> simp (maxDischargeDepth := 90) [hs]
@[simp] theorem bankService_mo (s : State) (st bank aged : Nat) (errs : List (Nat × Nat)) (hs : s.mo) : (State.bankService s st bank aged errs).mo := by
  unfold State.bankService
  try dsimp only
  repeat' first | with_reducible assumption | (with_reducible refine foldl_mo (fun a b hs => ?_) ?_) | (with_reducible refine foldl_mo1 (fun a b hs => ?_) ?_) | (with_reducible refine foldr_mo (fun a b hs => ?_) ?_) | (with_reducible refine elim_mo (fun a => ?_) ?_) | (with_reducible refine elim_mo1 (fun a => ?_) ?_) | split | simp +contextual (maxDischargeDepth := 90) [hs, foldl_mo, foldl_mo1, foldr_mo]
@[simp] theorem claimsIn_mo (s : State) (part set : Nat) (hs : s.mo) : (State.claimsIn s part set).mo := by
  unfold State.claimsIn
  (repeat' split) <;> simp (maxDischargeDepth := 90) [hs]
@[simp] theorem staged_mo (s : State) (part set : Nat) (hs : s.mo) : (State.staged s part set).mo := by
  simp [State.staged, hs]
@[simp] theorem stageTimeout_mo (s : State) (part set : Nat) (hs : s.mo) : (State.stageTimeout s part set).mo := by
  unfold State.stageTimeout
  try dsimp only
  repeat' first | with_reducible assumption | (with_reducible refine foldl_mo (fun a b hs => ?_) ?_) | (with_reducible refine foldl_mo1 (fun a b hs => ?_) ?_) | (with_reducible refine foldr_mo (fun a b hs => ?_) ?_) | (with_reducible refine elim_mo (fun a => ?_) ?_) | (with_reducible refine elim_mo1 (fun a => ?_) ?_) | split | simp +contextual (maxDischargeDepth := 90) [hs,  foldl_mo, foldl_mo1, foldr_mo]
@[simp] theorem groupKernel_mo (part set : Nat) (x : OptSet) (a : State × Bool) (p : Nat × Nat × Group) (hs : a.1.mo) :
    (State.groupKernel part set x a p).1.mo := by
  unfold State.groupKernel; dsimp only; (repeat' split) <;> simp [hs]
@[simp] theorem runKernels_mo (s : State) (part set : Nat) (hs : s.mo) : (State.runKernels s part set).mo := by
  unfold State.runKernels
  split
  · exact hs
  · exact staged_mo _ _ _ (modGroups_mo _ _ _ _ (foldl_mo1 (fun a p ha => groupKernel_mo _ _ _ _ _ ha) hs))
@[simp] theorem kernelsEnd_mo (s : State) (part set : Nat) (hs : s.mo) : (State.kernelsEnd s part set).mo := by
  unfold State.kernelsEnd
  (repeat' split) <;> simp [hs]
@[simp] theorem reawait_mo (s : State) (old new : Await) (hs : s.mo) : (State.reawait s old new).mo := by
  simp [State.reawait, hs]
@[simp] theorem zeroOld_mo (s : State) (g : Segment) (hs : s.mo) : (State.zeroOld s g).mo := by
  simp [State.zeroOld, hs]
@[simp] theorem dropSegment_mo (s : State) (ctx seg : Nat) (hs : s.mo) : (State.dropSegment s ctx seg).mo := by
  unfold State.dropSegment
  try dsimp only
  repeat' first | with_reducible assumption | (with_reducible refine foldl_mo (fun a b hs => ?_) ?_) | (with_reducible refine foldl_mo1 (fun a b hs => ?_) ?_) | (with_reducible refine foldr_mo (fun a b hs => ?_) ?_) | (with_reducible refine elim_mo (fun a => ?_) ?_) | (with_reducible refine elim_mo1 (fun a => ?_) ?_) | split | simp +contextual (maxDischargeDepth := 90) [hs, foldl_mo, foldl_mo1, foldr_mo]
@[simp] theorem holdersEnded_mo (s : State) (ctx seg : Nat) (hs : s.mo) : (State.holdersEnded s ctx seg).mo := by
  unfold State.holdersEnded
  (repeat' split) <;> simp [hs]
@[simp] theorem moveFails_mo (s : State) (ctx seg : Nat) (w : Await) (st : Status) (hs : s.mo) : (State.moveFails s ctx seg w st).mo := by
  simp [State.moveFails, hs]
@[simp] theorem copySegment_mo (s : State) (g n : Segment) (hs : s.mo) : (State.copySegment s g n).1.mo := by
  unfold State.copySegment
  try dsimp only
  repeat' first | with_reducible assumption | (with_reducible refine foldl_mo (fun a b hs => ?_) ?_) | (with_reducible refine foldl_mo1 (fun a b hs => ?_) ?_) | (with_reducible refine foldr_mo (fun a b hs => ?_) ?_) | (with_reducible refine elim_mo (fun a => ?_) ?_) | (with_reducible refine elim_mo1 (fun a => ?_) ?_) | split | simp +contextual (maxDischargeDepth := 90) [hs,  foldl_mo, foldl_mo1, foldr_mo]
@[simp] theorem nextMove_mo (s : State) (w : Await) (hs : s.mo) : (State.nextMove s w).mo := by
  unfold State.nextMove; dsimp only
  (repeat' split) <;> simp (maxDischargeDepth := 90) [hs]
@[simp] theorem copyComplete_mo (s0 : State) (ctx seg : Nat) (hs : s0.mo) : (State.copyComplete s0 ctx seg).mo := by
  unfold State.copyComplete; dsimp only
  (repeat' split) <;> simp (maxDischargeDepth := 90) [hs]
/-! ### Link -/
@[simp] theorem atPort_mo (s : State) (n : Nat) (f : Port → State) (h_f : ∀ (y0 : Port), s.mo → (f y0).mo) (hs : s.mo) : (State.atPort s n f).mo := by
  unfold State.atPort
  try dsimp only
  repeat' first | with_reducible assumption | (with_reducible refine foldl_mo (fun a b hs => ?_) ?_) | (with_reducible refine foldl_mo1 (fun a b hs => ?_) ?_) | (with_reducible refine foldr_mo (fun a b hs => ?_) ?_) | (with_reducible refine elim_mo (fun a => ?_) ?_) | (with_reducible refine elim_mo1 (fun a => ?_) ?_) | split | simp +contextual (maxDischargeDepth := 90) [hs, h_f,  foldl_mo, foldl_mo1, foldr_mo]
@[simp] theorem trainStep_mo (s : State) (n : Nat) (hs : s.mo) : (State.trainStep s n).mo := by
  unfold State.trainStep; dsimp only
  (repeat' split) <;> simp (maxDischargeDepth := 90) [hs]
@[simp] theorem sendConfig_mo (s : State) (n : Nat) (hs : s.mo) : (State.sendConfig s n).mo := by
  simp [State.sendConfig, hs]
@[simp] theorem configIn_mo (s : State) (n : Nat) (b : List Byte) (hs : s.mo) : (State.configIn s n b).mo := by
  simp (maxDischargeDepth := 90) [State.configIn, hs]
@[simp] theorem startReplay_mo (s : State) (n i : Nat) (a : Nat) (hs : s.mo) : (State.startReplay s n i a).mo := by
  simp [State.startReplay, hs]
@[simp] theorem nakIn_mo (s : State) (n a : Nat) (hs : s.mo) : (State.nakIn s n a).mo := by
  simp [State.nakIn, hs]
@[simp] theorem messageIn_mo (s : State) (n : Nat) (b : List Byte) (hs : s.mo) : (State.messageIn s n b).mo := by
  unfold State.messageIn
  (repeat' split) <;> simp [hs]
@[simp] theorem deliverFlit_mo (s : State) (n : Nat) (f : List Byte) (hs : s.mo) : (State.deliverFlit s n f).mo := by
  simp [State.deliverFlit, hs]
@[simp] theorem fieldsIn_mo (s : State) (n : Nat) (f : List Byte) (hs : s.mo) : (State.fieldsIn s n f).mo := by
  simp (maxDischargeDepth := 90) [State.fieldsIn, hs]
@[simp] theorem countBad_mo (s : State) (n : Nat) (f : List Byte) (intact : Bool) (hs : s.mo) : (State.countBad s n f intact).mo := by
  unfold State.countBad; dsimp only; (repeat' split) <;> simp [hs]
@[simp] theorem activeFlit_mo (s : State) (n : Nat) (f : List Byte) (hs : s.mo) : (State.activeFlit s n f).mo := by
  unfold State.activeFlit; dsimp only; (repeat' split) <;> simp [hs]
@[simp] theorem flitBody_mo (s : State) (n : Nat) (f : List Byte) (failed : Bool) (hs : s.mo) : (State.flitBody s n f failed).mo := by
  unfold State.flitBody
  refine atPort_mo _ _ _ (fun p _ => ?_) hs
  dsimp only
  (repeat' split) <;> simp [hs]
@[simp] theorem flitIn_mo (s : State) (n : Nat) (f : List Byte) (failed : Bool) (hs : s.mo) : (State.flitIn s n f failed).mo := by
  unfold State.flitIn
  try dsimp only
  repeat' first | with_reducible assumption | (with_reducible refine foldl_mo (fun a b hs => ?_) ?_) | (with_reducible refine foldl_mo1 (fun a b hs => ?_) ?_) | (with_reducible refine foldr_mo (fun a b hs => ?_) ?_) | (with_reducible refine elim_mo (fun a => ?_) ?_) | (with_reducible refine elim_mo1 (fun a => ?_) ?_) | split | simp +contextual (maxDischargeDepth := 90) [hs, foldl_mo, foldl_mo1, foldr_mo]
@[simp] theorem ctrlIn_mo (s : State) (n ctype : Nat) (f : List Byte) (failed : Bool) (hs : s.mo) : (State.ctrlIn s n ctype f failed).mo := by
  simp [State.ctrlIn, hs]
@[simp] theorem sendData_mo (s : State) (n v : Nat) (hs : s.mo) : (State.sendData s n v).mo := by
  simp [State.sendData, hs]
/-! ### Fabric -/
@[simp] theorem putIn_mo (s : State) (n : Nat) (p : List Byte) (hs : s.mo) : (State.putIn s n p).mo := by
  unfold State.putIn
  (repeat' split) <;> simp [hs]
@[simp] theorem getIn_mo (s : State) (p : List Byte) (hs : s.mo) : (State.getIn s p).mo := by
  unfold State.getIn
  try dsimp only
  repeat' first | with_reducible assumption | (with_reducible refine foldl_mo (fun a b hs => ?_) ?_) | (with_reducible refine foldl_mo1 (fun a b hs => ?_) ?_) | (with_reducible refine elim_mo (fun a => ?_) ?_) | (with_reducible refine elim_mo1 (fun a => ?_) ?_) | split | simp +contextual [hs]
@[simp] theorem answerIn_mo (s : State) (p : List Byte) (data : List Byte) (st : Status) (detail : Nat) (hs : s.mo) : (State.answerIn s p data st detail).mo := by
  simp [State.answerIn, hs]
@[simp] theorem getRspIn_mo (s : State) (p : List Byte) (hs : s.mo) : (State.getRspIn s p).mo := by
  simp [State.getRspIn, hs]
@[simp] theorem collPacket_mo (s : State) (n : Nat) (p : List Byte) (act : Coll → Member → State → State) (h_act : ∀ (y0 : Coll) (y1 : Member) (y2 : State), y2.mo → (act y0 y1 y2).mo) (hs : s.mo) : (State.collPacket s n p act).mo := by
  unfold State.collPacket
  try dsimp only
  repeat' first | with_reducible assumption | (with_reducible refine foldl_mo (fun a b hs => ?_) ?_) | (with_reducible refine foldl_mo1 (fun a b hs => ?_) ?_) | (with_reducible refine foldr_mo (fun a b hs => ?_) ?_) | (with_reducible refine elim_mo (fun a => ?_) ?_) | (with_reducible refine elim_mo1 (fun a => ?_) ?_) | split | simp +contextual (maxDischargeDepth := 90) [hs, h_act,  foldl_mo, foldl_mo1, foldr_mo]
@[simp] theorem parkChunk_mo (s : State) (x : Coll) (m : Member) (p : List Byte) (hs : s.mo) : (State.parkChunk s x m p).mo := by
  unfold State.parkChunk
  try dsimp only
  repeat' first | with_reducible assumption | (with_reducible refine foldl_mo (fun a b hs => ?_) ?_) | (with_reducible refine foldl_mo1 (fun a b hs => ?_) ?_) | (with_reducible refine foldr_mo (fun a b hs => ?_) ?_) | (with_reducible refine elim_mo (fun a => ?_) ?_) | (with_reducible refine elim_mo1 (fun a => ?_) ?_) | split | simp +contextual (maxDischargeDepth := 90) [hs, foldl_mo, foldl_mo1, foldr_mo]
@[simp] theorem deliverIn_mo (s : State) (x : Coll) (p : List Byte) (flags : Nat) (hs : s.mo) : (State.deliverIn s x p flags).mo := by
  unfold State.deliverIn
  try dsimp only
  repeat' first | with_reducible assumption | (with_reducible refine foldl_mo (fun a b hs => ?_) ?_) | (with_reducible refine foldl_mo1 (fun a b hs => ?_) ?_) | (with_reducible refine elim_mo (fun a => ?_) ?_) | (with_reducible refine elim_mo1 (fun a => ?_) ?_) | split | simp +contextual [hs]
@[simp] theorem repIn_mo (s : State) (x : Coll) (m : Member) (p : List Byte) (hs : s.mo) : (State.repIn s x m p).mo := by
  unfold State.repIn
  try dsimp only
  repeat' first | with_reducible assumption | (with_reducible refine foldl_mo (fun a b hs => ?_) ?_) | (with_reducible refine foldl_mo1 (fun a b hs => ?_) ?_) | (with_reducible refine elim_mo (fun a => ?_) ?_) | (with_reducible refine elim_mo1 (fun a => ?_) ?_) | split | simp +contextual [hs]
@[simp] theorem barRelIn_mo (s : State) (x : Coll) (m : Member) (p : List Byte) (hs : s.mo) : (State.barRelIn s x m p).mo := by
  simp [State.barRelIn, hs]
@[simp] theorem enqueuePacket_mo (s : State) (out cls hops counts : Nat) (p : List Byte) (hs : s.mo) : (State.enqueuePacket s out cls hops counts p).mo := by
  simp [State.enqueuePacket, hs]
@[simp] theorem forwardTransit_mo (s : State) (n vc : Nat) (hs : s.mo) : (State.forwardTransit s n vc).mo := by
  unfold State.forwardTransit; dsimp only
  (repeat' split) <;> simp (maxDischargeDepth := 90) [hs]
@[simp] theorem forwardOwn_mo (s : State) (vc : Nat) (hs : s.mo) : (State.forwardOwn s vc).mo := by
  unfold State.forwardOwn; dsimp only
  (repeat' split) <;> simp (maxDischargeDepth := 90) [hs]
@[simp] theorem dropQueued_mo (s : State) (port vc : Nat) (hs : s.mo) : (State.dropQueued s port vc).mo := by
  unfold State.dropQueued
  (repeat' split) <;> simp [hs]
/-! ### Tree -/
@[simp] theorem jobPacket_mo (s : State) (n vc ptype : Nat) (act : Nat → Tree → Nat → Nat → JobMsg → State → State)
    (h_act : ∀ y0 y1 y2 y3 y4 y5, State.mo y5 → (act y0 y1 y2 y3 y4 y5).mo) (hs : s.mo) : (State.jobPacket s n vc ptype act).mo := by
  unfold State.jobPacket; split; · exact hs
  refine receive_mo _ _ _ _ _ (fun p a ha => ?_) hs
  dsimp only; (repeat' split) <;> simp [h_act, ha]
@[simp] theorem current_mo (s : State) (ok : Bool) (act : State) (h_act : act.mo) (hs : s.mo) : (State.current s ok act).mo := by
  unfold State.current
  try dsimp only
  repeat' first | with_reducible assumption | (with_reducible refine foldl_mo (fun a b hs => ?_) ?_) | (with_reducible refine foldl_mo1 (fun a b hs => ?_) ?_) | (with_reducible refine foldr_mo (fun a b hs => ?_) ?_) | (with_reducible refine elim_mo (fun a => ?_) ?_) | (with_reducible refine elim_mo1 (fun a => ?_) ?_) | split | simp +contextual (maxDischargeDepth := 90) [hs, h_act,  foldl_mo, foldl_mo1, foldr_mo]
@[simp] theorem voteTimeout_mo (s : State) (job who : Nat) (hs : s.mo) : (State.voteTimeout s job who).mo := by
  unfold State.voteTimeout
  (repeat' split) <;> simp [hs]
@[simp] theorem clearCauses_mo (s : State) (job : Nat) (hs : s.mo) : (State.clearCauses s job).mo := by
  unfold State.clearCauses
  try dsimp only
  repeat' first | with_reducible assumption | (with_reducible refine foldl_mo (fun a b hs => ?_) ?_) | (with_reducible refine foldl_mo1 (fun a b hs => ?_) ?_) | (with_reducible refine foldr_mo (fun a b hs => ?_) ?_) | (with_reducible refine elim_mo (fun a => ?_) ?_) | (with_reducible refine elim_mo1 (fun a => ?_) ?_) | split | simp +contextual (maxDischargeDepth := 90) [hs,  foldl_mo, foldl_mo1, foldr_mo]
@[simp] theorem makeReportable_mo (s : State) (part set : Nat) (hs : s.mo) : (State.makeReportable s part set).mo := by
  unfold State.makeReportable; (repeat' split) <;> simp [hs]
@[simp] theorem restartStopped_mo (s : State) (job : Nat) (t : Tree) (hs : s.mo) : (State.restartStopped s job t).mo := by
  unfold State.restartStopped
  try dsimp only
  repeat' first | with_reducible assumption | (with_reducible refine foldl_mo (fun a b hs => ?_) ?_) | (with_reducible refine foldl_mo1 (fun a b hs => ?_) ?_) | (with_reducible refine foldr_mo (fun a b hs => ?_) ?_) | (with_reducible refine elim_mo (fun a => ?_) ?_) | (with_reducible refine elim_mo1 (fun a => ?_) ?_) | split | simp +contextual (maxDischargeDepth := 90) [hs,  foldl_mo, foldl_mo1, foldr_mo]
/-! ### HostRegs -/
@[simp] theorem atFn_mo (s : State) (fn : Nat) (act : State) (h_act : act.mo) (hs : s.mo) : (State.atFn s fn act).mo := by
  unfold State.atFn
  try dsimp only
  repeat' first | with_reducible assumption | (with_reducible refine foldl_mo (fun a b hs => ?_) ?_) | (with_reducible refine foldl_mo1 (fun a b hs => ?_) ?_) | (with_reducible refine foldr_mo (fun a b hs => ?_) ?_) | (with_reducible refine elim_mo (fun a => ?_) ?_) | (with_reducible refine elim_mo1 (fun a => ?_) ?_) | split | simp +contextual (maxDischargeDepth := 90) [hs, h_act,  foldl_mo, foldl_mo1, foldr_mo]
@[simp] theorem unmapped_mo (s : State) (space off bytes : Nat) (write : Bool) (hs : s.mo) : (State.unmapped s space off bytes write).mo := by
  simp [State.unmapped, hs]
@[simp] theorem mailboxEnable_mo (s : State) (fn logn : Nat) (hs : s.mo) : (State.mailboxEnable s fn logn).mo := by
  simp [State.mailboxEnable, hs]
@[simp] theorem mailboxDisable_mo (s : State) (fn logn : Nat) (hs : s.mo) : (State.mailboxDisable s fn logn).mo := by
  simp [State.mailboxDisable, hs]
@[simp] theorem badBell_mo (s : State) (fn : Nat) (hs : s.mo) : (State.badBell s fn).mo := by
  simp [State.badBell, hs]
@[simp] theorem mailboxDoorbell_mo (s : State) (fn index : Nat) (hs : s.mo) : (State.mailboxDoorbell s fn index).mo := by
  simp [State.mailboxDoorbell, hs]
@[simp] theorem responseDoorbell_mo (s : State) (fn index : Nat) (hs : s.mo) : (State.responseDoorbell s fn index).mo := by
  simp [State.responseDoorbell, hs]
@[simp] theorem submissionDoorbell_mo (s : State) (fn ring index : Nat) (hs : s.mo) : (State.submissionDoorbell s fn ring index).mo := by
  unfold State.submissionDoorbell
  (repeat' split) <;> simp [hs]
@[simp] theorem completionDoorbell_mo (s : State) (fn ring index : Nat) (hs : s.mo) : (State.completionDoorbell s fn ring index).mo := by
  unfold State.completionDoorbell
  (repeat' split) <;> simp [hs]
@[simp] theorem interruptTimer_mo (s : State) (fn ring : Nat) (hs : s.mo) : (State.interruptTimer s fn ring).mo := by
  unfold State.interruptTimer
  (repeat' split) <;> simp [hs]
@[simp] theorem configRequest_mo (s : State) (fn off : Nat) (write : Bool) (hs : s.mo) : (State.configRequest s fn off write).mo := by
  unfold State.configRequest; dsimp only
  (repeat' split) <;> simp (maxDischargeDepth := 90) [hs]
@[simp] theorem copyReads_mo (s : State) (fn : Nat) (a : List Byte) (hs : s.mo) : (State.copyReads s fn a).mo := by
  unfold State.copyReads
  try dsimp only
  repeat' first | with_reducible assumption | (with_reducible refine foldl_mo (fun a b hs => ?_) ?_) | (with_reducible refine foldl_mo1 (fun a b hs => ?_) ?_) | (with_reducible refine foldr_mo (fun a b hs => ?_) ?_) | (with_reducible refine elim_mo (fun a => ?_) ?_) | (with_reducible refine elim_mo1 (fun a => ?_) ?_) | split | simp +contextual (maxDischargeDepth := 90) [hs,  foldl_mo, foldl_mo1, foldr_mo]
@[simp] theorem writeHostRecord_mo (s : State) (fn : Nat) (ranges : List (Nat × Nat)) (o : Nat) (bs : List Byte) (hs : s.mo) : (State.writeHostRecord s fn ranges o bs).mo := by
  unfold State.writeHostRecord
  try dsimp only
  repeat' first | with_reducible assumption | (with_reducible refine foldl_mo (fun a b hs => ?_) ?_) | (with_reducible refine foldl_mo1 (fun a b hs => ?_) ?_) | (with_reducible refine elim_mo (fun a => ?_) ?_) | (with_reducible refine elim_mo1 (fun a => ?_) ?_) | split | simp +contextual [hs]
@[simp] theorem writeHost_mo (s : State) (fn : Nat) (ranges : List (Nat × Nat)) (bs : List Byte) (hs : s.mo) : (State.writeHost s fn ranges bs).mo := by
  unfold State.writeHost
  try dsimp only
  repeat' first | with_reducible assumption | (with_reducible refine foldl_mo (fun a b hs => ?_) ?_) | (with_reducible refine foldl_mo1 (fun a b hs => ?_) ?_) | (with_reducible refine foldr_mo (fun a b hs => ?_) ?_) | (with_reducible refine elim_mo (fun a => ?_) ?_) | (with_reducible refine elim_mo1 (fun a => ?_) ?_) | split | simp +contextual (maxDischargeDepth := 90) [hs,  foldl_mo, foldl_mo1, foldr_mo]
@[simp] theorem copyDone_mo (s : State) (seq ctx : Nat) (a : List Byte) (hs : s.mo) : (State.copyDone s seq ctx a).mo := by
  simp [State.copyDone, hs]
@[simp] theorem copyOut_mo (s : State) (seq fn ctx : Nat) (a : List Byte) (hs : s.mo) : (State.copyOut s seq fn ctx a).mo := by
  unfold State.copyOut; dsimp only
  (repeat' split) <;> simp (maxDischargeDepth := 90) [hs]
@[simp] theorem copyBegin_mo (s : State) (r : Running) (hs : s.mo) : (State.copyBegin s r).mo := by
  unfold State.copyBegin
  (repeat' split) <;> simp [hs]
@[simp] theorem setBme_mo (s : State) (fn : Nat) (hs : s.mo) : (State.setBme s fn).mo := by
  unfold State.setBme
  try dsimp only
  repeat' first | with_reducible assumption | (with_reducible refine foldl_mo (fun a b hs => ?_) ?_) | (with_reducible refine foldl_mo1 (fun a b hs => ?_) ?_) | (with_reducible refine foldr_mo (fun a b hs => ?_) ?_) | (with_reducible refine elim_mo (fun a => ?_) ?_) | (with_reducible refine elim_mo1 (fun a => ?_) ?_) | split | simp +contextual (maxDischargeDepth := 90) [hs,  foldl_mo, foldl_mo1, foldr_mo]
@[simp] theorem mailboxEntry_mo (s : State) (fn : Nat) (e : List Byte) (hs : s.mo) : (State.mailboxEntry s fn e).mo := by
  unfold State.mailboxEntry; dsimp only
  (repeat' split) <;> simp (maxDischargeDepth := 90) [hs]
@[simp] theorem mailboxError_mo (s : State) (fn : Nat) (hs : s.mo) : (State.mailboxError s fn).mo := by
  simp [State.mailboxError, hs]
@[simp] theorem ringError_mo (s : State) (fn ring : Nat) (r : SubRing) (hs : s.mo) : (State.ringError s fn ring r).mo := by
  simp [State.ringError, hs]
@[simp] theorem sealFault_mo (s : State) (fn chan ring : Nat) (hs : s.mo) : (State.sealFault s fn chan ring).mo := by
  simp [State.sealFault, hs]
@[simp] theorem endFetched_mo (s : State) (fn : Nat) (f : Fetched) (st : Status) (hs : s.mo) : (State.endFetched s fn f st).mo := by
  simp [State.endFetched, hs]
@[simp] theorem copyIn_mo (s : State) (r : Running) (ctx seg left : Nat) (arg bs : List Byte) (ok : Bool) (hs : s.mo) : (State.copyIn s r ctx seg left arg bs ok).mo := by
  unfold State.copyIn; dsimp only
  (repeat' split) <;> simp (maxDischargeDepth := 90) [hs]
@[simp] theorem readDone_mo (s : State) (fn kind which : Nat) (bytes : List Byte) (ok : Bool) (hs : s.mo) : (State.readDone s fn kind which bytes ok).mo := by
  unfold State.readDone; dsimp only
  (repeat' split) <;> simp (maxDischargeDepth := 90) [hs]
@[simp] theorem readFailed_mo (s : State) (fn kind which : Nat) (late : Bool) (hs : s.mo) : (State.readFailed s fn kind which late).mo := by
  unfold State.readFailed
  (repeat' split) <;> simp [hs]
/-! ### EnclaveOps -/
@[simp] theorem deriveAlias_mo (s : State) (hs : s.mo) : (State.deriveAlias s).mo := by
  unfold State.deriveAlias
  try dsimp only
  repeat' first | with_reducible assumption | (with_reducible refine foldl_mo (fun a b hs => ?_) ?_) | (with_reducible refine foldl_mo1 (fun a b hs => ?_) ?_) | (with_reducible refine elim_mo (fun a => ?_) ?_) | (with_reducible refine elim_mo1 (fun a => ?_) ?_) | split | simp +contextual [hs]
@[simp] theorem dropSessions_mo (s : State) (p : Nat × Nat → Bool) (hs : s.mo) : (State.dropSessions s p).mo := by
  unfold State.dropSessions
  try dsimp only
  repeat' first | with_reducible assumption | (with_reducible refine foldl_mo (fun a b hs => ?_) ?_) | (with_reducible refine foldl_mo1 (fun a b hs => ?_) ?_) | (with_reducible refine elim_mo (fun a => ?_) ?_) | (with_reducible refine elim_mo1 (fun a => ?_) ?_) | split | simp +contextual [hs]
@[simp] theorem spdmSessions_mo (s : State) (t : Nat) (opens ends : Option Nat) (hs : s.mo) : (State.spdmSessions s t opens ends).mo := by
  have h : (ends.elim s fun n => s.dropSessions fun x => x == (t, n)).mo := elim_mo (fun n => by simp [hs]) hs
  unfold State.spdmSessions; dsimp only
  exact elim_mo (fun n => by split <;> simp [h]) h
@[simp] theorem answerBytes_mo (s : State) (hs : s.mo) : (State.answerBytes s).1.mo := by
  simp [State.answerBytes, hs]
@[simp] theorem spdmSign_mo (s : State) (ver : Nat) (transcript : List Byte) (hs : s.mo) : (State.spdmSign s ver transcript).1.mo := by
  unfold State.spdmSign
  try dsimp only
  repeat' first | with_reducible assumption | (with_reducible refine foldl_mo (fun a b hs => ?_) ?_) | (with_reducible refine foldl_mo1 (fun a b hs => ?_) ?_) | (with_reducible refine elim_mo (fun a => ?_) ?_) | (with_reducible refine elim_mo1 (fun a => ?_) ?_) | split | simp +contextual [hs]
@[simp] theorem measurements_mo (s : State) (t : Nat) (msg : List Byte) (hs : s.mo) : (State.measurements s t msg).1.mo := by
  unfold State.measurements
  try dsimp only
  repeat' first | with_reducible assumption | (with_reducible refine foldl_mo (fun a b hs => ?_) ?_) | (with_reducible refine foldl_mo1 (fun a b hs => ?_) ?_) | (with_reducible refine elim_mo (fun a => ?_) ?_) | (with_reducible refine elim_mo1 (fun a => ?_) ?_) | split | simp +contextual [hs]
@[simp] theorem plainAnswer_mo (s : State) (t : Nat) (msg : List Byte) (hs : s.mo) : (State.plainAnswer s t msg).1.mo := by
  unfold State.plainAnswer
  try dsimp only
  repeat' first | with_reducible assumption | (with_reducible refine foldl_mo (fun a b hs => ?_) ?_) | (with_reducible refine foldl_mo1 (fun a b hs => ?_) ?_) | (with_reducible refine elim_mo (fun a => ?_) ?_) | (with_reducible refine elim_mo1 (fun a => ?_) ?_) | split | simp +contextual [hs]
@[simp] theorem spdmAnswer_mo (s : State) (t : Nat) (msg : List Byte) (hs : s.mo) : (State.spdmAnswer s t msg).1.mo := by
  unfold State.spdmAnswer
  try dsimp only
  repeat' first | with_reducible assumption | (with_reducible refine foldl_mo (fun a b hs => ?_) ?_) | (with_reducible refine foldl_mo1 (fun a b hs => ?_) ?_) | (with_reducible refine elim_mo (fun a => ?_) ?_) | (with_reducible refine elim_mo1 (fun a => ?_) ?_) | split | simp +contextual [hs]
/-! ### MbOps -/
@[simp] theorem mboxPast_mo (s : State) (past : Running → Bool) (c : Caller) (opc : Nat) (objs : List Obj) (checks : List (Bool × Status × Nat)) (body : Cmd → State → State) (h_body : ∀ (y0 : Cmd) (y1 : State), y1.mo → (body y0 y1).mo) (hs : s.mo) : (State.mboxPast s past c opc objs checks body).mo := by
  unfold State.mboxPast
  try dsimp only
  repeat' first | with_reducible assumption | (with_reducible refine foldl_mo (fun a b hs => ?_) ?_) | (with_reducible refine foldl_mo1 (fun a b hs => ?_) ?_) | (with_reducible refine foldr_mo (fun a b hs => ?_) ?_) | (with_reducible refine elim_mo (fun a => ?_) ?_) | (with_reducible refine elim_mo1 (fun a => ?_) ?_) | split | simp +contextual (maxDischargeDepth := 90) [hs, h_body,  foldl_mo, foldl_mo1, foldr_mo]
@[simp] theorem markMig_mo (s : State) (ctx seg : Nat) (hs : s.mo) : (State.markMig s ctx seg).mo := by
  simp [State.markMig, hs]
@[simp] theorem addSegment_mo (s : State) (ctx id : Nat) (g : Segment) (hs : s.mo) : (State.addSegment s ctx id g).mo := by
  unfold State.addSegment
  try dsimp only
  repeat' first | with_reducible assumption | (with_reducible refine foldl_mo (fun a b hs => ?_) ?_) | (with_reducible refine foldl_mo1 (fun a b hs => ?_) ?_) | (with_reducible refine foldr_mo (fun a b hs => ?_) ?_) | (with_reducible refine elim_mo (fun a => ?_) ?_) | (with_reducible refine elim_mo1 (fun a => ?_) ?_) | split | simp +contextual (maxDischargeDepth := 90) [hs, foldl_mo, foldl_mo1, foldr_mo]
/-! ### MbDevice -/
@[simp] theorem newLayout_mo (s : State) (start : Nat) (hs : s.mo) : (State.newLayout s start).mo := by
  unfold State.newLayout
  try dsimp only
  repeat' first | with_reducible assumption | (with_reducible refine foldl_mo (fun a b hs => ?_) ?_) | (with_reducible refine foldl_mo1 (fun a b hs => ?_) ?_) | (with_reducible refine foldr_mo (fun a b hs => ?_) ?_) | (with_reducible refine elim_mo (fun a => ?_) ?_) | (with_reducible refine elim_mo1 (fun a => ?_) ?_) | split | simp +contextual (maxDischargeDepth := 90) [hs,  foldl_mo, foldl_mo1, foldr_mo]
@[simp] theorem zeroEighth_mo (s : State) (e : Nat) (hs : s.mo) : (State.zeroEighth s e).mo := by
  unfold State.zeroEighth
  exact foldl_mo (fun a i ha => zero_mo _ _ _ (modCore_mo _ _ _ ha)) hs
@[simp] theorem clearRecords_mo (s : State) (rs : List Reservation) (part : Nat) (hs : s.mo) : (State.clearRecords s rs part).mo := by
  unfold State.clearRecords
  try dsimp only
  repeat' first | with_reducible assumption | (with_reducible refine foldl_mo (fun a b hs => ?_) ?_) | (with_reducible refine foldl_mo1 (fun a b hs => ?_) ?_) | (with_reducible refine elim_mo (fun a => ?_) ?_) | (with_reducible refine elim_mo1 (fun a => ?_) ?_) | split | simp +contextual [hs]
@[simp] theorem ctxCmd_mo (s : State) (c : Caller) (opc n : Nat) (checks : List (Bool × Status × Nat)) (body : Cmd → State → State) (h_body : ∀ (y0 : Cmd) (y1 : State), y1.mo → (body y0 y1).mo) (hs : s.mo) : (State.ctxCmd s c opc n checks body).mo := by
  unfold State.ctxCmd
  try dsimp only
  repeat' first | with_reducible assumption | (with_reducible refine foldl_mo (fun a b hs => ?_) ?_) | (with_reducible refine foldl_mo1 (fun a b hs => ?_) ?_) | (with_reducible refine foldr_mo (fun a b hs => ?_) ?_) | (with_reducible refine elim_mo (fun a => ?_) ?_) | (with_reducible refine elim_mo1 (fun a => ?_) ?_) | split | simp +contextual (maxDischargeDepth := 90) [hs, h_body,  foldl_mo, foldl_mo1, foldr_mo]
/-! ### MbSeg -/
@[simp] theorem newGroup_mo (s : State) (g : Group) (gid sid wid : Nat) (a b : Segment) (hs : s.mo) : (State.newGroup s g gid sid wid a b).mo := by
  simp (maxDischargeDepth := 90) [State.newGroup, hs]
@[simp] theorem loadState_mo (s : State) (m : Cmd) (st gid epoch : Nat) (g : Group) (k : Nat) (hs : s.mo) : (State.loadState s m st gid epoch g k).mo := by
  simp (maxDischargeDepth := 90) [State.loadState, hs]
@[simp] theorem importWeights_mo (s : State) (m : Cmd) (st gid key bytes : Nat) (g : Group) (k : Nat) (hs : s.mo) : (State.importWeights s m st gid key bytes g k).mo := by
  unfold State.importWeights; dsimp only
  (repeat' split) <;> simp (maxDischargeDepth := 90) [hs]
/-! ### Rings -/
@[simp] theorem loseHeld_mo (s : State) (r : CplRing) (hs : s.mo) : (State.loseHeld s r).mo := by
  unfold State.loseHeld
  try dsimp only
  repeat' first | with_reducible assumption | (with_reducible refine foldl_mo (fun a b hs => ?_) ?_) | (with_reducible refine foldl_mo1 (fun a b hs => ?_) ?_) | (with_reducible refine foldr_mo (fun a b hs => ?_) ?_) | (with_reducible refine elim_mo (fun a => ?_) ?_) | (with_reducible refine elim_mo1 (fun a => ?_) ?_) | split | simp +contextual (maxDischargeDepth := 90) [hs,  foldl_mo, foldl_mo1, foldr_mo]
@[simp] theorem resetRing_mo (s : State) (fn kind ring : Nat) (hs : s.mo) : (State.resetRing s fn kind ring).mo := by
  unfold State.resetRing
  split
  · simp [hs]
  · exact modFn_mo _ _ _ (elim_mo (fun a => loseHeld_mo _ _ hs) hs)
/-! ### MbJob -/
@[simp] theorem dropMember_mo (s : State) (part job : Nat) (hs : s.mo) : (State.dropMember s part job).mo := by
  unfold State.dropMember
  try dsimp only
  repeat' first | with_reducible assumption | (with_reducible refine foldl_mo (fun a b hs => ?_) ?_) | (with_reducible refine foldl_mo1 (fun a b hs => ?_) ?_) | (with_reducible refine foldr_mo (fun a b hs => ?_) ?_) | (with_reducible refine elim_mo (fun a => ?_) ?_) | (with_reducible refine elim_mo1 (fun a => ?_) ?_) | split | simp +contextual (maxDischargeDepth := 90) [hs,  foldl_mo, foldl_mo1, foldr_mo]
@[simp] theorem startReduce_mo (s : State) (x : Coll) (m : Member) (chunks : List (Nat × Nat × List Byte)) (hs : s.mo) : (State.startReduce s x m chunks).mo := by
  unfold State.startReduce
  try dsimp only
  repeat' first | with_reducible assumption | (with_reducible refine foldl_mo (fun a b hs => ?_) ?_) | (with_reducible refine foldl_mo1 (fun a b hs => ?_) ?_) | (with_reducible refine elim_mo (fun a => ?_) ?_) | (with_reducible refine elim_mo1 (fun a => ?_) ?_) | split | simp +contextual [hs]
@[simp] theorem startSpread_mo (s : State) (x : Coll) (m : Member) (chunks : List (Nat × Nat × List Byte)) (hs : s.mo) : (State.startSpread s x m chunks).mo := by
  unfold State.startSpread; dsimp only
  exact putColl_mo _ _ (foldl_mo1 (fun a q ha => by (repeat' split) <;> simp [ha]) hs)
@[simp] theorem sourceFault_mo (s : State) (x : Coll) (p : Nat × Nat) (n : Nat) (hs : s.mo) : (State.sourceFault s x p n).mo := by
  unfold State.sourceFault
  try dsimp only
  repeat' first | with_reducible assumption | (with_reducible refine foldl_mo (fun a b hs => ?_) ?_) | (with_reducible refine foldl_mo1 (fun a b hs => ?_) ?_) | (with_reducible refine elim_mo (fun a => ?_) ?_) | (with_reducible refine elim_mo1 (fun a => ?_) ?_) | split | simp +contextual [hs]
@[simp] theorem readSources_mo (s : State) (cx : Context) (src : List (Nat × Nat)) (hs : s.mo) : (State.readSources s cx src).1.mo := by
  unfold State.readSources
  try dsimp only
  repeat' first | with_reducible assumption | (with_reducible refine foldl_mo (fun a b hs => ?_) ?_) | (with_reducible refine foldl_mo1 (fun a b hs => ?_) ?_) | (with_reducible refine elim_mo (fun a => ?_) ?_) | (with_reducible refine elim_mo1 (fun a => ?_) ?_) | split | simp +contextual [hs]
@[simp] theorem startTiles_mo (s : State) (cx : Context) (x : Coll) (m : Member) (src : List (Nat × Nat)) (hs : s.mo) : (State.startTiles s cx x m src).mo := by
  unfold State.startTiles
  try dsimp only
  repeat' first | with_reducible assumption | (with_reducible refine foldl_mo (fun a b hs => ?_) ?_) | (with_reducible refine foldl_mo1 (fun a b hs => ?_) ?_) | (with_reducible refine elim_mo (fun a => ?_) ?_) | (with_reducible refine elim_mo1 (fun a => ?_) ?_) | split | simp +contextual [hs]
@[simp] theorem startColl_mo (s : State) (x : Coll) (m : Member) (hs : s.mo) : (State.startColl s x m).mo := by
  unfold State.startColl; dsimp only; (repeat' split) <;> simp [hs]
/-! ### MbCommit -/
@[simp] theorem stageSet_mo (s : State) (part set : Nat) (b : List Byte) (hs : s.mo) : (State.stageSet s part set b).mo := by
  unfold State.stageSet
  (repeat' split) <;> simp [hs]
@[simp] theorem takeHellos_mo (s : State) (job : Nat) (t : Tree) (hs : s.mo) : (State.takeHellos s job t).mo := by
  simp [State.takeHellos, hs]
/-! ### MbSecurity -/
@[simp] theorem keyMessage_mo (s : State) (transport session code : Nat) (d : List Byte) (shapeOk : Bool) (more : List (Bool × Status)) (act : State → State) (tail : State → List Byte) (h_act : ∀ (y0 : State), y0.mo → (act y0).mo) (hs : s.mo) : (State.keyMessage s transport session code d shapeOk more act tail).mo := by
  unfold State.keyMessage
  try dsimp only
  repeat' first | with_reducible assumption | (with_reducible refine foldl_mo (fun a b hs => ?_) ?_) | (with_reducible refine foldl_mo1 (fun a b hs => ?_) ?_) | (with_reducible refine foldr_mo (fun a b hs => ?_) ?_) | (with_reducible refine elim_mo (fun a => ?_) ?_) | (with_reducible refine elim_mo1 (fun a => ?_) ?_) | split | simp +contextual (maxDischargeDepth := 90) [hs, h_act,  foldl_mo, foldl_mo1, foldr_mo]
@[simp] theorem dropSecrets_mo (s : State) (hs : s.mo) : (State.dropSecrets s).mo := by
  simp [State.dropSecrets, hs]
@[simp] theorem zeroiseEnds_mo (s : State) (st : Status) (hs : s.mo) : (State.zeroiseEnds s st).mo := by
  simp [State.zeroiseEnds, hs]
@[simp] theorem zeroAllMemory_mo (s : State) (hs : s.mo) : (State.zeroAllMemory s).mo := by
  simp [State.zeroAllMemory, hs]
@[simp] theorem openDebug_mo (s : State) (level : Nat) (hs : s.mo) : (State.openDebug s level).mo := by
  simp (maxDischargeDepth := 90) [State.openDebug, hs]
/-! ### FwOps -/
@[simp] theorem fwEnd_mo (s : State) (w : FwWrite) (st : Status) (detail : Nat) (hs : s.mo) : (State.fwEnd s w st detail).mo := by
  unfold State.fwEnd
  (repeat' split) <;> simp [hs]
@[simp] theorem fwMore_mo (s : State) (w : FwWrite) (bs : List Byte) (hs : s.mo) : (State.fwMore s w bs).mo := by
  simp [State.fwMore, hs]
@[simp] theorem fwStep_mo (s : State) (w : FwWrite) (hs : s.mo) : (State.fwStep s w).mo := by
  simp [State.fwStep, hs]
@[simp] theorem freeBytes_mo (s : State) (place n : Nat) (hs : s.mo) : (State.freeBytes s place n).1.mo := by
  simp [State.freeBytes, hs]
@[simp] theorem startCapture_mo (s : State) (hs : s.mo) : (State.startCapture s).mo := by
  simp [State.startCapture, hs]
@[simp] theorem droverStops_mo (s : State) (hs : s.mo) : (State.droverStops s).mo := by
  simp [State.droverStops, hs]
@[simp] theorem releaseFaultN_mo (s : State) (hs : s.mo) : (State.releaseFaultN s).mo := by
  unfold State.releaseFaultN
  try dsimp only
  repeat' first | with_reducible assumption | (with_reducible refine foldl_mo (fun a b hs => ?_) ?_) | (with_reducible refine foldl_mo1 (fun a b hs => ?_) ?_) | (with_reducible refine foldr_mo (fun a b hs => ?_) ?_) | (with_reducible refine elim_mo (fun a => ?_) ?_) | (with_reducible refine elim_mo1 (fun a => ?_) ?_) | split | simp +contextual (maxDischargeDepth := 90) [hs,  foldl_mo, foldl_mo1, foldr_mo]
/-! ### MbPower -/
@[simp] theorem setForce_mo (s : State) (kind unit : Nat) (f : Option Bool) (hs : s.mo) : (State.setForce s kind unit f).mo := by
  simp [State.setForce, hs]
@[simp] theorem startForce_mo (s : State) (m : Cmd) (kind unit : Nat) (on : Bool) (hs : s.mo) : (State.startForce s m kind unit on).mo := by
  simp (maxDischargeDepth := 90) [State.startForce, hs]
/-! ### Faults -/
@[simp] theorem blockResetComplete_mo (s : State) (ukind unit : Nat) (hs : s.mo) : (State.blockResetComplete s ukind unit).mo := by
  unfold State.blockResetComplete
  (repeat' split) <;> simp [hs]
@[simp] theorem islePatrol_mo (s : State) (core : Nat) (fl : List (Nat × Nat)) (hs : s.mo) : (State.islePatrol s core fl).mo := by
  unfold State.islePatrol
  split
  · exact hs
  · split
    · exact hs
    · exact foldl_mo (fun a p ha => meetWord_mo _ _ _ _ _ ha) (modCore_mo _ _ _ hs)
@[simp] theorem stackPatrol_mo (s : State) (st : Nat) (errs : List (Nat × Nat)) (hs : s.mo) : (State.stackPatrol s st errs).mo := by
  unfold State.stackPatrol; dsimp only
  (repeat' split) <;> simp (maxDischargeDepth := 90) [hs]
@[simp] theorem meetSram_mo (s : State) (w mask : Nat) (hs : s.mo) : (State.meetSram s w mask).mo := by
  unfold State.meetSram
  try dsimp only
  repeat' first | with_reducible assumption | (with_reducible refine foldl_mo (fun a b hs => ?_) ?_) | (with_reducible refine foldl_mo1 (fun a b hs => ?_) ?_) | (with_reducible refine foldr_mo (fun a b hs => ?_) ?_) | (with_reducible refine elim_mo (fun a => ?_) ?_) | (with_reducible refine elim_mo1 (fun a => ?_) ?_) | split | simp +contextual (maxDischargeDepth := 90) [hs, foldl_mo, foldl_mo1, foldr_mo]
@[simp] theorem secondExpiry_mo (s : State) (hs : s.mo) : (State.secondExpiry s).mo := by
  simp [State.secondExpiry, hs]
/-! ### Power -/
@[simp] theorem tryStart_mo (s : State) (hs : s.mo) : (State.tryStart s).mo := by
  simp [State.tryStart, hs]
@[simp] theorem capWindow_mo (s : State) (avg : Nat) (hs : s.mo) : (State.capWindow s avg).mo := by
  simp [State.capWindow, hs]
@[simp] theorem throttle_mo (s : State) (kind i : Nat) (x : Int) (hs : s.mo) : (State.throttle s kind i x).mo := by
  simp [State.throttle, hs]
@[simp] theorem stackReading_mo (s : State) (st : Nat) (x : Int) (hs : s.mo) : (State.stackReading s st x).mo := by
  simp [State.stackReading, hs]
@[simp] theorem thermalSample_mo (s : State) (junction stackTs others : List Int) (hs : s.mo) : (State.thermalSample s junction stackTs others).mo := by
  unfold State.thermalSample
  try dsimp only
  repeat' first | with_reducible assumption | (with_reducible refine foldl_mo (fun a b hs => ?_) ?_) | (with_reducible refine foldl_mo1 (fun a b hs => ?_) ?_) | (with_reducible refine foldr_mo (fun a b hs => ?_) ?_) | (with_reducible refine elim_mo (fun a => ?_) ?_) | (with_reducible refine elim_mo1 (fun a => ?_) ?_) | split | simp +contextual (maxDischargeDepth := 90) [hs,  foldl_mo, foldl_mo1, foldr_mo]
@[simp] theorem thermalWindow_mo (s : State) (h : Nat) (hs : s.mo) : (State.thermalWindow s h).mo := by
  simp [State.thermalWindow, hs]
@[simp] theorem dividerChange_mo (s : State) (h : Nat) (hs : s.mo) : (State.dividerChange s h).mo := by
  simp [State.dividerChange, hs]
@[simp] theorem bankDescent_mo (s : State) (core bank : Nat) (hs : s.mo) : (State.bankDescent s core bank).mo := by
  simp [State.bankDescent, hs]
@[simp] theorem descent_mo (s : State) (kind unit sub : Nat) (hs : s.mo) : (State.descent s kind unit sub).mo := by
  simp [State.descent, hs]
@[simp] theorem wake_mo (s : State) (kind unit sub : Nat) (hs : s.mo) : (State.wake s kind unit sub).mo := by
  simp [State.wake, hs]
@[simp] theorem forcedReached_mo (s : State) (kind unit : Nat) (hs : s.mo) : (State.forcedReached s kind unit).mo := by
  simp (maxDischargeDepth := 90) [State.forcedReached, hs]
/-! ### Startup -/
@[simp] theorem pwrEnDeassert_mo (s : State) (hs : s.mo) : (State.pwrEnDeassert s).mo := by
  simp only [State.pwrEnDeassert]
  repeat' split
  all_goals simp (maxDischargeDepth := 90) [hs]
@[simp] theorem pinReset_mo (s : State) (hs : s.mo) : (State.pinReset s).mo := by
  simp only [State.pinReset]
  repeat' split
  all_goals simp (maxDischargeDepth := 90) [hs]
@[simp] theorem bootImages_mo (s : State) (x0 : List Nat) (hs : s.mo) : (State.bootImages s x0).mo := by
  induction x0 generalizing s with
  | nil =>
    unfold State.bootImages; dsimp only
    exact foldl_mo (fun a n ha => detect_mo _ _ _ ha) (by simp [hs])
  | cons k t ih => unfold State.bootImages; split <;> simp [ih, hs]
@[simp] theorem trainingTimeout_mo (s : State) (st step : Nat) (hs : s.mo) : (State.trainingTimeout s st step).mo := by
  simp [State.trainingTimeout, hs]
@[simp] theorem engineTested_mo (s : State) (g rows cols : Nat) (ended : Bool) (hs : s.mo) : (State.engineTested s g rows cols ended).mo := by
  simp [State.engineTested, hs]
@[simp] theorem fuseUpdate_mo (s : State) (hs : s.mo) : (State.fuseUpdate s).mo := by
  unfold State.fuseUpdate
  try dsimp only
  repeat' first | with_reducible assumption | (with_reducible refine foldl_mo (fun a b hs => ?_) ?_) | (with_reducible refine foldl_mo1 (fun a b hs => ?_) ?_) | (with_reducible refine elim_mo (fun a => ?_) ?_) | (with_reducible refine elim_mo1 (fun a => ?_) ?_) | split | simp +contextual [hs]
@[simp] theorem zeroUnlocked_mo (s : State) (hs : s.mo) : (State.zeroUnlocked s).mo := by
  simp [State.zeroUnlocked, hs]
@[simp] theorem reachReady_mo (s : State) (hs : s.mo) : (State.reachReady s).mo := by
  unfold State.reachReady
  try dsimp only
  repeat' first | with_reducible assumption | (with_reducible refine foldl_mo (fun a b hs => ?_) ?_) | (with_reducible refine foldl_mo1 (fun a b hs => ?_) ?_) | (with_reducible refine foldr_mo (fun a b hs => ?_) ?_) | (with_reducible refine elim_mo (fun a => ?_) ?_) | (with_reducible refine elim_mo1 (fun a => ?_) ?_) | split | simp +contextual (maxDischargeDepth := 90) [hs, foldl_mo, foldl_mo1, foldr_mo]
/-! ### Sideband -/
@[simp] theorem mbWrite_mo (s : State) (v : Nat) (hs : s.mo) : (State.mbWrite s v).mo := by
  unfold State.mbWrite
  (repeat' split) <;> simp [hs]
@[simp] theorem sbSupply_mo (s : State) (ws : List Word) (hs : s.mo) : (State.sbSupply s ws).mo := by
  simp [State.sbSupply, hs]
@[simp] theorem freeWords_mo (s : State) (place n : Nat) (hs : s.mo) : (State.freeWords s place n).1.mo := by
  simp [State.freeWords, hs]
@[simp] theorem logWords_mo (s : State) (hs : s.mo) : (State.logWords s).1.mo := by
  simp [State.logWords, hs]
@[simp] theorem sbCut_mo (s : State) (st : Status) (hs : s.mo) : (State.sbCut s st).mo := by
  unfold State.sbCut
  (repeat' split) <;> simp [hs]
@[simp] theorem mctpAnswer_mo (s : State) (inst cmd code : Nat) (data : List Byte) (hs : s.mo) : (State.mctpAnswer s inst cmd code data).mo := by
  unfold State.mctpAnswer
  try dsimp only
  repeat' first | with_reducible assumption | (with_reducible refine foldl_mo (fun a b hs => ?_) ?_) | (with_reducible refine foldl_mo1 (fun a b hs => ?_) ?_) | (with_reducible refine elim_mo (fun a => ?_) ?_) | (with_reducible refine elim_mo1 (fun a => ?_) ?_) | split | simp +contextual [hs]
@[simp] theorem mctpControl_mo (s : State) (cmd arg : Nat) (inst : Nat := 0) (hs : s.mo) : (State.mctpControl s cmd arg inst).mo := by
  unfold State.mctpControl
  try dsimp only
  repeat' first | with_reducible assumption | (with_reducible refine foldl_mo (fun a b hs => ?_) ?_) | (with_reducible refine foldl_mo1 (fun a b hs => ?_) ?_) | (with_reducible refine elim_mo (fun a => ?_) ?_) | (with_reducible refine elim_mo1 (fun a => ?_) ?_) | split | simp +contextual [hs]
@[simp] theorem mctpMessage_mo (s : State) (msg : List Byte) (opens ends : Option Nat) (hs : s.mo) : (State.mctpMessage s msg opens ends).mo := by
  simp (maxDischargeDepth := 90) [State.mctpMessage, hs]
/-! ### Tap -/
@[simp] theorem tapLoad_mo (s : State) (ir : Nat) (hs : s.mo) : (State.tapLoad s ir).mo := by
  simp [State.tapLoad, hs]
@[simp] theorem scan_mo (s : State) (cells load : List Bool) (hs : s.mo) : (State.scan s cells load).mo := by
  simp [State.scan, hs]
@[simp] theorem extest_mo (s : State) (ir : Nat) (cells load : List Bool) (hs : s.mo) : (State.extest s ir cells load).mo := by
  simp [State.extest, hs]
/-! ### Completions -/
@[simp] theorem zeroingComplete_mo (s : State) (seq : Nat) (hs : s.mo) : (State.zeroingComplete s seq).mo := by
  unfold State.zeroingComplete
  try dsimp only
  repeat' first | with_reducible assumption | (with_reducible refine foldl_mo (fun a b hs => ?_) ?_) | (with_reducible refine foldl_mo1 (fun a b hs => ?_) ?_) | (with_reducible refine foldr_mo (fun a b hs => ?_) ?_) | (with_reducible refine elim_mo (fun a => ?_) ?_) | (with_reducible refine elim_mo1 (fun a => ?_) ?_) | split | simp +contextual (maxDischargeDepth := 90) [hs,  foldl_mo, foldl_mo1, foldr_mo]
@[simp] theorem regenerate_mo (s : State) (st gid : Nat) (g : Group) (hs : s.mo) : (State.regenerate s st gid g).mo := by
  unfold State.regenerate
  try dsimp only
  repeat' first | with_reducible assumption | (with_reducible refine foldl_mo (fun a b hs => ?_) ?_) | (with_reducible refine foldl_mo1 (fun a b hs => ?_) ?_) | (with_reducible refine foldr_mo (fun a b hs => ?_) ?_) | (with_reducible refine elim_mo (fun a => ?_) ?_) | (with_reducible refine elim_mo1 (fun a => ?_) ?_) | split | simp +contextual (maxDischargeDepth := 90) [hs,  foldl_mo, foldl_mo1, foldr_mo]
@[simp] theorem regenerationComplete_mo (s : State) (st gid : Nat) (hs : s.mo) : (State.regenerationComplete s st gid).mo := by
  unfold State.regenerationComplete
  (repeat' split) <;> simp [hs]
@[simp] theorem regenerationTimeout_mo (s : State) (st gid : Nat) (hs : s.mo) : (State.regenerationTimeout s st gid).mo := by
  unfold State.regenerationTimeout
  (repeat' split) <;> simp [hs]
end Sys2Proof.Machine
end

