-- ==== Sys2Proof/Laws/CanonRuns.lean ====
section
/-! SUPPORT. Every command answers a next state whose memory has its canonical form, if the state's has. -/

namespace Sys2Proof.Machine
open Sys2Proof
set_option linter.all false

/-! ### Tasks -/

theorem execSubmissionTaskEntry_mo (fn ring : Nat) (s : State) (hs : s.mo) : ∃ q, execSubmissionTaskEntry fn ring s = .next q ∧ q.mo := by
  unfold execSubmissionTaskEntry; exact ⟨_, rfl, by simp [hs]⟩
theorem execQ1SubmissionEntry_mo (fn ring : Nat) (s : State) (hs : s.mo) : ∃ q, execQ1SubmissionEntry fn ring s = .next q ∧ q.mo := by
  unfold execQ1SubmissionEntry; exact ⟨_, rfl, by simp [hs]⟩
theorem execQueueEntryPlaced_mo (fn ring : Nat) (s : State) (hs : s.mo) : ∃ q, execQueueEntryPlaced fn ring s = .next q ∧ q.mo := by
  unfold execQueueEntryPlaced; refine ⟨_, rfl, ?_⟩
  (repeat' split) <;> simp (maxDischargeDepth := 90) [hs]
theorem execTaskDispatch_mo (core : Nat) (s : State) (hs : s.mo) : ∃ q, execTaskDispatch core s = .next q ∧ q.mo := by
  unfold execTaskDispatch; refine ⟨_, rfl, ?_⟩
  (repeat' split) <;> simp (maxDischargeDepth := 90) [hs]
theorem execDispatchAgeing_mo (core ctx : Nat) (s : State) (hs : s.mo) : ∃ q, execDispatchAgeing core ctx s = .next q ∧ q.mo := by
  unfold execDispatchAgeing; refine ⟨_, rfl, ?_⟩
  (repeat' split) <;> simp (maxDischargeDepth := 90) [hs]
theorem execPassEnd_mo (core eng : Nat) (parity : Option Nat) (upsets : List (Nat × Nat)) (s : State) (hs : s.mo) : ∃ q, execPassEnd core eng parity upsets s = .next q ∧ q.mo := by
  unfold execPassEnd; exact ⟨_, rfl, by simp [hs]⟩
theorem execChunkDrainEnd_mo (core eng : Nat) (s : State) (hs : s.mo) : ∃ q, execChunkDrainEnd core eng s = .next q ∧ q.mo := by
  unfold execChunkDrainEnd; exact ⟨_, rfl, by simp [hs]⟩
theorem execCopyBlockEnd_mo (core entry word fl : Nat) (s : State) (hs : s.mo) : ∃ q, execCopyBlockEnd core entry word fl s = .next q ∧ q.mo := by
  unfold execCopyBlockEnd; exact ⟨_, rfl, by simp [hs]⟩
theorem execTaskEnd_mo (core entry cycles : Nat) (s : State) (hs : s.mo) : ∃ q, execTaskEnd core entry cycles s = .next q ∧ q.mo := by
  unfold execTaskEnd; exact ⟨_, rfl, by simp [hs]⟩
theorem execSignalArrival_mo (n : Nat) (s : State) (hs : s.mo) : ∃ q, execSignalArrival n s = .next q ∧ q.mo := by
  unfold execSignalArrival; dsimp only; (repeat' split) <;> refine ⟨_, rfl, ?_⟩
  all_goals (repeat' first | with_reducible assumption | (with_reducible refine settle_mo _ ?_) | (with_reducible refine mbox_mo _ _ _ _ _ _ _ (fun m a hs => ?_) ?_) | (with_reducible refine atPort_mo _ _ _ (fun p _ => ?_) ?_) | (with_reducible refine jobPacket_mo _ _ _ _ _ (fun _ _ _ _ _ a hs => ?_) ?_) | (with_reducible refine current_mo _ _ _ ?_ ?_) | (with_reducible refine collPacket_mo _ _ _ _ (fun _ _ a hs => ?_) ?_) | (with_reducible refine mboxPast_mo _ _ _ _ _ _ _ (fun m a hs => ?_) ?_) | (with_reducible refine ctxCmd_mo _ _ _ _ _ _ (fun m a hs => ?_) ?_) | (with_reducible refine keyMessage_mo _ _ _ _ _ _ _ _ _ (fun a hs => ?_) ?_) | (with_reducible refine sbGo_mo _ _ _ _ _ (fun a hs => ?_) ?_) | (with_reducible refine receive_mo _ _ _ _ _ (fun p a hs => ?_) ?_) | (with_reducible refine atFn_mo _ _ _ ?_ ?_) | (with_reducible refine sbWrite_mo _ _ _ ?_ ?_) | (with_reducible refine foldl_mo (fun a b hs => ?_) ?_) | (with_reducible refine foldl_mo1 (fun a b hs => ?_) ?_) | (with_reducible refine elim_mo (fun a => ?_) ?_) | (with_reducible refine elim_mo1 (fun a => ?_) ?_) | split | simp +contextual (maxDischargeDepth := 90) [hs, foldl_mo, foldl_mo1, foldr_mo])
theorem execTableSetSwap_mo (core ctx : Nat) (bad : AreaErrs) (s : State) (hs : s.mo) : ∃ q, execTableSetSwap core ctx bad s = .next q ∧ q.mo := by
  unfold execTableSetSwap; exact ⟨_, rfl, by simp [hs]⟩
theorem execStateSaveComplete_mo (core ctx : Nat) (upsets : List (Nat × Nat × Nat)) (s : State) (hs : s.mo) : ∃ q, execStateSaveComplete core ctx upsets s = .next q ∧ q.mo := by
  unfold execStateSaveComplete; exact ⟨_, rfl, by simp [hs]⟩
theorem execStateRestoreComplete_mo (core ctx : Nat) (bad : AreaErrs) (s : State) (hs : s.mo) : ∃ q, execStateRestoreComplete core ctx bad s = .next q ∧ q.mo := by
  unfold execStateRestoreComplete; exact ⟨_, rfl, by simp [hs]⟩
theorem execIsleScrubWrite_mo (core word : Nat) (s : State) (hs : s.mo) : ∃ q, execIsleScrubWrite core word s = .next q ∧ q.mo := by
  unfold execIsleScrubWrite; exact ⟨_, rfl, by simp [hs]⟩
theorem execScrubAbandon_mo (core word : Nat) (s : State) (hs : s.mo) : ∃ q, execScrubAbandon core word s = .next q ∧ q.mo := by
  unfold execScrubAbandon; exact ⟨_, rfl, by simp [hs]⟩
/-! ### Streams -/

theorem execSubmissionArmEntry_mo (fn ring : Nat) (s : State) (hs : s.mo) : ∃ q, execSubmissionArmEntry fn ring s = .next q ∧ q.mo := by
  unfold execSubmissionArmEntry; exact ⟨_, rfl, by simp [hs]⟩
theorem execStreamIssue_mo (core : Nat) (s : State) (hs : s.mo) : ∃ q, execStreamIssue core s = .next q ∧ q.mo := by
  unfold execStreamIssue; exact ⟨_, rfl, by simp [hs]⟩
theorem execBackgroundAgeing_mo (core sid : Nat) (s : State) (hs : s.mo) : ∃ q, execBackgroundAgeing core sid s = .next q ∧ q.mo := by
  unfold execBackgroundAgeing; refine ⟨_, rfl, ?_⟩
  (repeat' split) <;> simp (maxDischargeDepth := 90) [hs]
theorem execStreamResponse_mo (core tag gen : Nat) (s : State) (hs : s.mo) : ∃ q, execStreamResponse core tag gen s = .next q ∧ q.mo := by
  unfold execStreamResponse; exact ⟨_, rfl, by simp [hs]⟩
theorem execMcastCredit_mo (group member : Nat) (s : State) (hs : s.mo) : ∃ q, execMcastCredit group member s = .next q ∧ q.mo := by
  unfold execMcastCredit; exact ⟨_, rfl, by simp [hs]⟩
theorem execMcastTileArrival_mo (group member : Nat) (s : State) (hs : s.mo) : ∃ q, execMcastTileArrival group member s = .next q ∧ q.mo := by
  unfold execMcastTileArrival; exact ⟨_, rfl, by simp [hs]⟩
theorem execVersionResolution_mo (core sid : Nat) (s : State) (hs : s.mo) : ∃ q, execVersionResolution core sid s = .next q ∧ q.mo := by
  unfold execVersionResolution; exact ⟨_, rfl, by simp [hs]⟩
theorem execTagTimeout_mo (core tag : Nat) (s : State) (hs : s.mo) : ∃ q, execTagTimeout core tag s = .next q ∧ q.mo := by
  unfold execTagTimeout; exact ⟨_, rfl, by simp [hs]⟩
theorem execTagQuarantineEnd_mo (core tag : Nat) (s : State) (hs : s.mo) : ∃ q, execTagQuarantineEnd core tag s = .next q ∧ q.mo := by
  unfold execTagQuarantineEnd; exact ⟨_, rfl, by simp [hs]⟩
theorem execIsleAccess_mo (core : Nat) (fl : List (Nat × Nat)) (s : State) (hs : s.mo) : ∃ q, execIsleAccess core fl s = .next q ∧ q.mo := by
  unfold execIsleAccess; exact ⟨_, rfl, by simp [hs]⟩
/-! ### Nmu -/

theorem execNmuRequestArrival_mo (stack core : Nat) (s : State) (hs : s.mo) : ∃ q, execNmuRequestArrival stack core s = .next q ∧ q.mo := by
  unfold execNmuRequestArrival; dsimp only; (repeat' split) <;> refine ⟨_, rfl, ?_⟩
  all_goals (repeat' first | with_reducible assumption | (with_reducible refine settle_mo _ ?_) | (with_reducible refine mbox_mo _ _ _ _ _ _ _ (fun m a hs => ?_) ?_) | (with_reducible refine atPort_mo _ _ _ (fun p _ => ?_) ?_) | (with_reducible refine jobPacket_mo _ _ _ _ _ (fun _ _ _ _ _ a hs => ?_) ?_) | (with_reducible refine current_mo _ _ _ ?_ ?_) | (with_reducible refine collPacket_mo _ _ _ _ (fun _ _ a hs => ?_) ?_) | (with_reducible refine mboxPast_mo _ _ _ _ _ _ _ (fun m a hs => ?_) ?_) | (with_reducible refine ctxCmd_mo _ _ _ _ _ _ (fun m a hs => ?_) ?_) | (with_reducible refine keyMessage_mo _ _ _ _ _ _ _ _ _ (fun a hs => ?_) ?_) | (with_reducible refine sbGo_mo _ _ _ _ _ (fun a hs => ?_) ?_) | (with_reducible refine receive_mo _ _ _ _ _ (fun p a hs => ?_) ?_) | (with_reducible refine atFn_mo _ _ _ ?_ ?_) | (with_reducible refine sbWrite_mo _ _ _ ?_ ?_) | (with_reducible refine foldl_mo (fun a b hs => ?_) ?_) | (with_reducible refine foldl_mo1 (fun a b hs => ?_) ?_) | (with_reducible refine elim_mo (fun a => ?_) ?_) | (with_reducible refine elim_mo1 (fun a => ?_) ?_) | split | simp +contextual (maxDischargeDepth := 90) [hs, foldl_mo, foldl_mo1, foldr_mo])
theorem execSorterAdmit_mo (stack : Nat) (s : State) (hs : s.mo) : ∃ q, execSorterAdmit stack s = .next q ∧ q.mo := by
  unfold execSorterAdmit; exact ⟨_, rfl, by simp [hs]⟩
theorem execBankService_mo (stack chan pc bank aged : Nat) (errs : List (Nat × Nat)) (s : State) (hs : s.mo) : ∃ q, execBankService stack chan pc bank aged errs s = .next q ∧ q.mo := by
  unfold execBankService; exact ⟨_, rfl, by simp [hs]⟩
theorem execDramRefresh_mo (stack : Nat) (s : State) (hs : s.mo) : ∃ q, execDramRefresh stack s = .next q ∧ q.mo := by
  unfold execDramRefresh; exact ⟨_, rfl, by simp [hs]⟩
theorem execStageClaimsGranted_mo (part set : Nat) (s : State) (hs : s.mo) : ∃ q, execStageClaimsGranted part set s = .next q ∧ q.mo := by
  unfold execStageClaimsGranted; exact ⟨_, rfl, by simp [hs]⟩
theorem execStageTimeout_mo (part set : Nat) (s : State) (hs : s.mo) : ∃ q, execStageTimeout part set s = .next q ∧ q.mo := by
  unfold execStageTimeout; exact ⟨_, rfl, by simp [hs]⟩
theorem execStageKernelsEnd_mo (part set : Nat) (s : State) (hs : s.mo) : ∃ q, execStageKernelsEnd part set s = .next q ∧ q.mo := by
  unfold execStageKernelsEnd; exact ⟨_, rfl, by simp [hs]⟩
theorem execFormatRefresh_mo (part set : Nat) (s : State) (hs : s.mo) : ∃ q, execFormatRefresh part set s = .next q ∧ q.mo := by
  unfold execFormatRefresh; exact ⟨_, rfl, by simp (maxDischargeDepth := 90) [hs]⟩
theorem execMigrationHoldersEnded_mo (ctx seg : Nat) (s : State) (hs : s.mo) : ∃ q, execMigrationHoldersEnded ctx seg s = .next q ∧ q.mo := by
  unfold execMigrationHoldersEnded; exact ⟨_, rfl, by simp [hs]⟩
theorem execMigrationTimeout_mo (ctx seg : Nat) (s : State) (hs : s.mo) : ∃ q, execMigrationTimeout ctx seg s = .next q ∧ q.mo := by
  unfold execMigrationTimeout; refine ⟨_, rfl, ?_⟩
  (repeat' split) <;> simp (maxDischargeDepth := 90) [hs]
theorem execMigrationCopyComplete_mo (ctx seg : Nat) (s : State) (hs : s.mo) : ∃ q, execMigrationCopyComplete ctx seg s = .next q ∧ q.mo := by
  unfold execMigrationCopyComplete; exact ⟨_, rfl, by simp [hs]⟩
/-! ### Link -/

theorem execTrainingFrame_mo (port lane ctl : Nat) (rx : LaneRx) (rdy pre : Bool) (preset ask : Nat) (s : State) (hs : s.mo) : ∃ q, execTrainingFrame port lane ctl rx rdy pre preset ask s = .next q ∧ q.mo := by
  unfold execTrainingFrame; exact ⟨_, rfl, by simp (maxDischargeDepth := 90) [hs]⟩
theorem execTrainingTimeout_mo (port : Nat) (s : State) (hs : s.mo) : ∃ q, execTrainingTimeout port s = .next q ∧ q.mo := by
  unfold execTrainingTimeout; refine ⟨_, rfl, ?_⟩
  repeat' first | with_reducible assumption | (with_reducible refine settle_mo _ ?_) | (with_reducible refine mbox_mo _ _ _ _ _ _ _ (fun m a hs => ?_) ?_) | (with_reducible refine atPort_mo _ _ _ (fun p _ => ?_) ?_) | (with_reducible refine jobPacket_mo _ _ _ _ _ (fun _ _ _ _ _ a hs => ?_) ?_) | (with_reducible refine current_mo _ _ _ ?_ ?_) | (with_reducible refine collPacket_mo _ _ _ _ (fun _ _ a hs => ?_) ?_) | (with_reducible refine mboxPast_mo _ _ _ _ _ _ _ (fun m a hs => ?_) ?_) | (with_reducible refine ctxCmd_mo _ _ _ _ _ _ (fun m a hs => ?_) ?_) | (with_reducible refine keyMessage_mo _ _ _ _ _ _ _ _ _ (fun a hs => ?_) ?_) | (with_reducible refine sbGo_mo _ _ _ _ _ (fun a hs => ?_) ?_) | (with_reducible refine receive_mo _ _ _ _ _ (fun p a hs => ?_) ?_) | (with_reducible refine atFn_mo _ _ _ ?_ ?_) | (with_reducible refine sbWrite_mo _ _ _ ?_ ?_) | (with_reducible refine foldl_mo (fun a b hs => ?_) ?_) | (with_reducible refine foldl_mo1 (fun a b hs => ?_) ?_) | (with_reducible refine elim_mo (fun a => ?_) ?_) | (with_reducible refine elim_mo1 (fun a => ?_) ?_) | split | simp +contextual (maxDischargeDepth := 90) [hs, foldl_mo, foldl_mo1, foldr_mo]
theorem execTrainingWaitEnd_mo (port : Nat) (s : State) (hs : s.mo) : ∃ q, execTrainingWaitEnd port s = .next q ∧ q.mo := by
  unfold execTrainingWaitEnd; exact ⟨_, rfl, by simp [hs]⟩
theorem execFastRetrainTimeout_mo (port : Nat) (s : State) (hs : s.mo) : ∃ q, execFastRetrainTimeout port s = .next q ∧ q.mo := by
  unfold execFastRetrainTimeout; exact ⟨_, rfl, by simp (maxDischargeDepth := 90) [hs]⟩
theorem execCodeword_mo (port cwcnt : Nat) (corrected : List Nat) (bad : Bool) (s : State) (hs : s.mo) : ∃ q, execCodeword port cwcnt corrected bad s = .next q ∧ q.mo := by
  unfold execCodeword; exact ⟨_, rfl, by simp (maxDischargeDepth := 90) [hs]⟩
theorem execFlitReceive_mo (port : Nat) (flit : List Byte) (failed : Bool) (s : State) (hs : s.mo) : ∃ q, execFlitReceive port flit failed s = .next q ∧ q.mo := by
  unfold execFlitReceive; exact ⟨_, rfl, by simp [hs]⟩
theorem execConfig_mo (port : Nat) (flit : List Byte) (failed : Bool) (s : State) (hs : s.mo) : ∃ q, execConfig port flit failed s = .next q ∧ q.mo := by
  unfold execConfig; exact ⟨_, rfl, by simp [hs]⟩
theorem execRetrain_mo (port : Nat) (flit : List Byte) (failed : Bool) (s : State) (hs : s.mo) : ∃ q, execRetrain port flit failed s = .next q ∧ q.mo := by
  unfold execRetrain; exact ⟨_, rfl, by simp [hs]⟩
theorem execDown_mo (port : Nat) (flit : List Byte) (failed : Bool) (s : State) (hs : s.mo) : ∃ q, execDown port flit failed s = .next q ∧ q.mo := by
  unfold execDown; exact ⟨_, rfl, by simp [hs]⟩
theorem execEchoReq_mo (port : Nat) (flit : List Byte) (failed : Bool) (s : State) (hs : s.mo) : ∃ q, execEchoReq port flit failed s = .next q ∧ q.mo := by
  unfold execEchoReq; exact ⟨_, rfl, by simp [hs]⟩
theorem execEchoRsp_mo (port : Nat) (flit : List Byte) (failed : Bool) (s : State) (hs : s.mo) : ∃ q, execEchoRsp port flit failed s = .next q ∧ q.mo := by
  unfold execEchoRsp; exact ⟨_, rfl, by simp [hs]⟩
theorem execFlitTransmit_mo (port : Nat) (s : State) (hs : s.mo) : ∃ q, execFlitTransmit port s = .next q ∧ q.mo := by
  unfold execFlitTransmit; refine ⟨_, rfl, ?_⟩
  repeat' first | with_reducible assumption | (with_reducible refine settle_mo _ ?_) | (with_reducible refine mbox_mo _ _ _ _ _ _ _ (fun m a hs => ?_) ?_) | (with_reducible refine atPort_mo _ _ _ (fun p _ => ?_) ?_) | (with_reducible refine jobPacket_mo _ _ _ _ _ (fun _ _ _ _ _ a hs => ?_) ?_) | (with_reducible refine current_mo _ _ _ ?_ ?_) | (with_reducible refine collPacket_mo _ _ _ _ (fun _ _ a hs => ?_) ?_) | (with_reducible refine mboxPast_mo _ _ _ _ _ _ _ (fun m a hs => ?_) ?_) | (with_reducible refine ctxCmd_mo _ _ _ _ _ _ (fun m a hs => ?_) ?_) | (with_reducible refine keyMessage_mo _ _ _ _ _ _ _ _ _ (fun a hs => ?_) ?_) | (with_reducible refine sbGo_mo _ _ _ _ _ (fun a hs => ?_) ?_) | (with_reducible refine receive_mo _ _ _ _ _ (fun p a hs => ?_) ?_) | (with_reducible refine atFn_mo _ _ _ ?_ ?_) | (with_reducible refine sbWrite_mo _ _ _ ?_ ?_) | (with_reducible refine foldl_mo (fun a b hs => ?_) ?_) | (with_reducible refine foldl_mo1 (fun a b hs => ?_) ?_) | (with_reducible refine elim_mo (fun a => ?_) ?_) | (with_reducible refine elim_mo1 (fun a => ?_) ?_) | split | simp +contextual (maxDischargeDepth := 90) [hs, foldl_mo, foldl_mo1, foldr_mo]
theorem execReplayTimeout_mo (port : Nat) (s : State) (hs : s.mo) : ∃ q, execReplayTimeout port s = .next q ∧ q.mo := by
  unfold execReplayTimeout; refine ⟨_, rfl, ?_⟩
  repeat' first | with_reducible assumption | (with_reducible refine settle_mo _ ?_) | (with_reducible refine mbox_mo _ _ _ _ _ _ _ (fun m a hs => ?_) ?_) | (with_reducible refine atPort_mo _ _ _ (fun p _ => ?_) ?_) | (with_reducible refine jobPacket_mo _ _ _ _ _ (fun _ _ _ _ _ a hs => ?_) ?_) | (with_reducible refine current_mo _ _ _ ?_ ?_) | (with_reducible refine collPacket_mo _ _ _ _ (fun _ _ a hs => ?_) ?_) | (with_reducible refine mboxPast_mo _ _ _ _ _ _ _ (fun m a hs => ?_) ?_) | (with_reducible refine ctxCmd_mo _ _ _ _ _ _ (fun m a hs => ?_) ?_) | (with_reducible refine keyMessage_mo _ _ _ _ _ _ _ _ _ (fun a hs => ?_) ?_) | (with_reducible refine sbGo_mo _ _ _ _ _ (fun a hs => ?_) ?_) | (with_reducible refine receive_mo _ _ _ _ _ (fun p a hs => ?_) ?_) | (with_reducible refine atFn_mo _ _ _ ?_ ?_) | (with_reducible refine sbWrite_mo _ _ _ ?_ ?_) | (with_reducible refine foldl_mo (fun a b hs => ?_) ?_) | (with_reducible refine foldl_mo1 (fun a b hs => ?_) ?_) | (with_reducible refine elim_mo (fun a => ?_) ?_) | (with_reducible refine elim_mo1 (fun a => ?_) ?_) | split | simp +contextual (maxDischargeDepth := 90) [hs, foldl_mo, foldl_mo1, foldr_mo]
theorem execRecoveryTimeout_mo (port : Nat) (s : State) (hs : s.mo) : ∃ q, execRecoveryTimeout port s = .next q ∧ q.mo := by
  unfold execRecoveryTimeout; exact ⟨_, rfl, by simp [hs]⟩
theorem execIdleFlitTimer_mo (port : Nat) (s : State) (hs : s.mo) : ∃ q, execIdleFlitTimer port s = .next q ∧ q.mo := by
  unfold execIdleFlitTimer; exact ⟨_, rfl, by simp [hs]⟩
theorem execCreditRelease_mo (port vc : Nat) (s : State) (hs : s.mo) : ∃ q, execCreditRelease port vc s = .next q ∧ q.mo := by
  unfold execCreditRelease; exact ⟨_, rfl, by simp [hs]⟩
theorem execLsymWindowEnd_mo (port lane : Nat) (s : State) (hs : s.mo) : ∃ q, execLsymWindowEnd port lane s = .next q ∧ q.mo := by
  unfold execLsymWindowEnd; exact ⟨_, rfl, by simp (maxDischargeDepth := 90) [hs]⟩
theorem execLaneLockLoss_mo (port lane : Nat) (s : State) (hs : s.mo) : ∃ q, execLaneLockLoss port lane s = .next q ∧ q.mo := by
  unfold execLaneLockLoss; exact ⟨_, rfl, by simp (maxDischargeDepth := 90) [hs]⟩
theorem execDisableDrainTimeout_mo (port : Nat) (s : State) (hs : s.mo) : ∃ q, execDisableDrainTimeout port s = .next q ∧ q.mo := by
  unfold execDisableDrainTimeout; exact ⟨_, rfl, by simp (maxDischargeDepth := 90) [hs]⟩
/-! ### Fabric -/

theorem execPut_mo (port vc : Nat) (s : State) (hs : s.mo) : ∃ q, execPut port vc s = .next q ∧ q.mo := by
  unfold execPut; exact ⟨_, rfl, by simp +contextual (maxDischargeDepth := 90) [hs]⟩
theorem execGetReq_mo (port vc : Nat) (s : State) (hs : s.mo) : ∃ q, execGetReq port vc s = .next q ∧ q.mo := by
  unfold execGetReq; exact ⟨_, rfl, by simp +contextual (maxDischargeDepth := 90) [hs]⟩
theorem execPutAck_mo (port vc : Nat) (s : State) (hs : s.mo) : ∃ q, execPutAck port vc s = .next q ∧ q.mo := by
  unfold execPutAck; exact ⟨_, rfl, by simp +contextual (maxDischargeDepth := 90) [hs]⟩
theorem execGetRsp_mo (port vc : Nat) (s : State) (hs : s.mo) : ∃ q, execGetRsp port vc s = .next q ∧ q.mo := by
  unfold execGetRsp; exact ⟨_, rfl, by simp +contextual (maxDischargeDepth := 90) [hs]⟩
theorem execNack_mo (port vc : Nat) (s : State) (hs : s.mo) : ∃ q, execNack port vc s = .next q ∧ q.mo := by
  unfold execNack; exact ⟨_, rfl, by simp +contextual (maxDischargeDepth := 90) [hs]⟩
theorem execRed_mo (port vc : Nat) (s : State) (hs : s.mo) : ∃ q, execRed port vc s = .next q ∧ q.mo := by
  unfold execRed; exact ⟨_, rfl, by simp +contextual (maxDischargeDepth := 90) [hs]⟩
theorem execDlv_mo (port vc : Nat) (s : State) (hs : s.mo) : ∃ q, execDlv port vc s = .next q ∧ q.mo := by
  unfold execDlv; exact ⟨_, rfl, by simp +contextual (maxDischargeDepth := 90) [hs]⟩
theorem execRep_mo (port vc : Nat) (s : State) (hs : s.mo) : ∃ q, execRep port vc s = .next q ∧ q.mo := by
  unfold execRep; exact ⟨_, rfl, by simp +contextual (maxDischargeDepth := 90) [hs]⟩
theorem execBar_mo (port vc : Nat) (s : State) (hs : s.mo) : ∃ q, execBar port vc s = .next q ∧ q.mo := by
  unfold execBar; exact ⟨_, rfl, by simp +contextual (maxDischargeDepth := 90) [hs]⟩
theorem execBarRel_mo (port vc : Nat) (s : State) (hs : s.mo) : ∃ q, execBarRel port vc s = .next q ∧ q.mo := by
  unfold execBarRel; exact ⟨_, rfl, by simp +contextual (maxDischargeDepth := 90) [hs]⟩
theorem execCollectiveTimeout_mo (part job coll : Nat) (s : State) (hs : s.mo) : ∃ q, execCollectiveTimeout part job coll s = .next q ∧ q.mo := by
  unfold execCollectiveTimeout; refine ⟨_, rfl, ?_⟩
  (repeat' split) <;> simp (maxDischargeDepth := 90) [hs]
theorem execPacketForward_mo (port vc : Nat) (s : State) (hs : s.mo) : ∃ q, execPacketForward port vc s = .next q ∧ q.mo := by
  unfold execPacketForward; exact ⟨_, rfl, by simp [hs]⟩
theorem execPacketQueueTimeout_mo (port vc : Nat) (s : State) (hs : s.mo) : ∃ q, execPacketQueueTimeout port vc s = .next q ∧ q.mo := by
  unfold execPacketQueueTimeout; exact ⟨_, rfl, by simp [hs]⟩
/-! ### Tree -/

theorem execHello_mo (port vc : Nat) (s : State) (hs : s.mo) : ∃ q, execHello port vc s = .next q ∧ q.mo := by
  unfold execHello; refine ⟨_, rfl, ?_⟩
  repeat' first | with_reducible assumption | (with_reducible refine settle_mo _ ?_) | (with_reducible refine mbox_mo _ _ _ _ _ _ _ (fun m a hs => ?_) ?_) | (with_reducible refine atPort_mo _ _ _ (fun p _ => ?_) ?_) | (with_reducible refine jobPacket_mo _ _ _ _ _ (fun _ _ _ _ _ a hs => ?_) ?_) | (with_reducible refine current_mo _ _ _ ?_ ?_) | (with_reducible refine collPacket_mo _ _ _ _ (fun _ _ a hs => ?_) ?_) | (with_reducible refine mboxPast_mo _ _ _ _ _ _ _ (fun m a hs => ?_) ?_) | (with_reducible refine ctxCmd_mo _ _ _ _ _ _ (fun m a hs => ?_) ?_) | (with_reducible refine keyMessage_mo _ _ _ _ _ _ _ _ _ (fun a hs => ?_) ?_) | (with_reducible refine sbGo_mo _ _ _ _ _ (fun a hs => ?_) ?_) | (with_reducible refine receive_mo _ _ _ _ _ (fun p a hs => ?_) ?_) | (with_reducible refine atFn_mo _ _ _ ?_ ?_) | (with_reducible refine sbWrite_mo _ _ _ ?_ ?_) | (with_reducible refine foldl_mo (fun a b hs => ?_) ?_) | (with_reducible refine foldl_mo1 (fun a b hs => ?_) ?_) | (with_reducible refine elim_mo (fun a => ?_) ?_) | (with_reducible refine elim_mo1 (fun a => ?_) ?_) | split | simp +contextual (maxDischargeDepth := 90) [hs, foldl_mo, foldl_mo1, foldr_mo]
theorem execTreeOk_mo (port vc : Nat) (s : State) (hs : s.mo) : ∃ q, execTreeOk port vc s = .next q ∧ q.mo := by
  unfold execTreeOk; exact ⟨_, rfl, by simp +contextual (maxDischargeDepth := 90) [hs]⟩
theorem execTreeFormTimeout_mo (job : Nat) (s : State) (hs : s.mo) : ∃ q, execTreeFormTimeout job s = .next q ∧ q.mo := by
  unfold execTreeFormTimeout; dsimp only; (repeat' split) <;> refine ⟨_, rfl, ?_⟩
  all_goals (repeat' first | with_reducible assumption | (with_reducible refine settle_mo _ ?_) | (with_reducible refine mbox_mo _ _ _ _ _ _ _ (fun m a hs => ?_) ?_) | (with_reducible refine atPort_mo _ _ _ (fun p _ => ?_) ?_) | (with_reducible refine jobPacket_mo _ _ _ _ _ (fun _ _ _ _ _ a hs => ?_) ?_) | (with_reducible refine current_mo _ _ _ ?_ ?_) | (with_reducible refine collPacket_mo _ _ _ _ (fun _ _ a hs => ?_) ?_) | (with_reducible refine mboxPast_mo _ _ _ _ _ _ _ (fun m a hs => ?_) ?_) | (with_reducible refine ctxCmd_mo _ _ _ _ _ _ (fun m a hs => ?_) ?_) | (with_reducible refine keyMessage_mo _ _ _ _ _ _ _ _ _ (fun a hs => ?_) ?_) | (with_reducible refine sbGo_mo _ _ _ _ _ (fun a hs => ?_) ?_) | (with_reducible refine receive_mo _ _ _ _ _ (fun p a hs => ?_) ?_) | (with_reducible refine atFn_mo _ _ _ ?_ ?_) | (with_reducible refine sbWrite_mo _ _ _ ?_ ?_) | (with_reducible refine foldl_mo (fun a b hs => ?_) ?_) | (with_reducible refine foldl_mo1 (fun a b hs => ?_) ?_) | (with_reducible refine elim_mo (fun a => ?_) ?_) | (with_reducible refine elim_mo1 (fun a => ?_) ?_) | split | simp +contextual (maxDischargeDepth := 90) [hs, foldl_mo, foldl_mo1, foldr_mo])
theorem execVote_mo (port vc : Nat) (s : State) (hs : s.mo) : ∃ q, execVote port vc s = .next q ∧ q.mo := by
  unfold execVote; exact ⟨_, rfl, by simp +contextual (maxDischargeDepth := 90) [hs]⟩
theorem execVoteTimeout_mo (job who : Nat) (s : State) (hs : s.mo) : ∃ q, execVoteTimeout job who s = .next q ∧ q.mo := by
  unfold execVoteTimeout; exact ⟨_, rfl, by simp [hs]⟩
theorem execDecide_mo (port vc : Nat) (s : State) (hs : s.mo) : ∃ q, execDecide port vc s = .next q ∧ q.mo := by
  unfold execDecide; exact ⟨_, rfl, by simp +contextual (maxDischargeDepth := 90) [hs]⟩
theorem execDecisionTimeout_mo (job : Nat) (s : State) (hs : s.mo) : ∃ q, execDecisionTimeout job s = .next q ∧ q.mo := by
  unfold execDecisionTimeout; refine ⟨_, rfl, ?_⟩
  repeat' first | with_reducible assumption | (with_reducible refine settle_mo _ ?_) | (with_reducible refine mbox_mo _ _ _ _ _ _ _ (fun m a hs => ?_) ?_) | (with_reducible refine atPort_mo _ _ _ (fun p _ => ?_) ?_) | (with_reducible refine jobPacket_mo _ _ _ _ _ (fun _ _ _ _ _ a hs => ?_) ?_) | (with_reducible refine current_mo _ _ _ ?_ ?_) | (with_reducible refine collPacket_mo _ _ _ _ (fun _ _ a hs => ?_) ?_) | (with_reducible refine mboxPast_mo _ _ _ _ _ _ _ (fun m a hs => ?_) ?_) | (with_reducible refine ctxCmd_mo _ _ _ _ _ _ (fun m a hs => ?_) ?_) | (with_reducible refine keyMessage_mo _ _ _ _ _ _ _ _ _ (fun a hs => ?_) ?_) | (with_reducible refine sbGo_mo _ _ _ _ _ (fun a hs => ?_) ?_) | (with_reducible refine receive_mo _ _ _ _ _ (fun p a hs => ?_) ?_) | (with_reducible refine atFn_mo _ _ _ ?_ ?_) | (with_reducible refine sbWrite_mo _ _ _ ?_ ?_) | (with_reducible refine foldl_mo (fun a b hs => ?_) ?_) | (with_reducible refine foldl_mo1 (fun a b hs => ?_) ?_) | (with_reducible refine elim_mo (fun a => ?_) ?_) | (with_reducible refine elim_mo1 (fun a => ?_) ?_) | split | simp +contextual (maxDischargeDepth := 90) [hs, foldl_mo, foldl_mo1, foldr_mo]
theorem execFault_mo (port vc : Nat) (s : State) (hs : s.mo) : ∃ q, execFault port vc s = .next q ∧ q.mo := by
  unfold execFault; exact ⟨_, rfl, by simp +contextual (maxDischargeDepth := 90) [hs]⟩
theorem execRestart_mo (port vc : Nat) (s : State) (hs : s.mo) : ∃ q, execRestart port vc s = .next q ∧ q.mo := by
  unfold execRestart; exact ⟨_, rfl, by simp +contextual (maxDischargeDepth := 90) [hs]⟩
theorem execRestartStopComplete_mo (job : Nat) (s : State) (hs : s.mo) : ∃ q, execRestartStopComplete job s = .next q ∧ q.mo := by
  unfold execRestartStopComplete; refine ⟨_, rfl, ?_⟩
  (repeat' split) <;> simp (maxDischargeDepth := 90) [hs]
theorem execRestartStopTimeout_mo (job : Nat) (s : State) (hs : s.mo) : ∃ q, execRestartStopTimeout job s = .next q ∧ q.mo := by
  unfold execRestartStopTimeout; refine ⟨_, rfl, ?_⟩
  repeat' first | with_reducible assumption | (with_reducible refine settle_mo _ ?_) | (with_reducible refine mbox_mo _ _ _ _ _ _ _ (fun m a hs => ?_) ?_) | (with_reducible refine atPort_mo _ _ _ (fun p _ => ?_) ?_) | (with_reducible refine jobPacket_mo _ _ _ _ _ (fun _ _ _ _ _ a hs => ?_) ?_) | (with_reducible refine current_mo _ _ _ ?_ ?_) | (with_reducible refine collPacket_mo _ _ _ _ (fun _ _ a hs => ?_) ?_) | (with_reducible refine mboxPast_mo _ _ _ _ _ _ _ (fun m a hs => ?_) ?_) | (with_reducible refine ctxCmd_mo _ _ _ _ _ _ (fun m a hs => ?_) ?_) | (with_reducible refine keyMessage_mo _ _ _ _ _ _ _ _ _ (fun a hs => ?_) ?_) | (with_reducible refine sbGo_mo _ _ _ _ _ (fun a hs => ?_) ?_) | (with_reducible refine receive_mo _ _ _ _ _ (fun p a hs => ?_) ?_) | (with_reducible refine atFn_mo _ _ _ ?_ ?_) | (with_reducible refine sbWrite_mo _ _ _ ?_ ?_) | (with_reducible refine foldl_mo (fun a b hs => ?_) ?_) | (with_reducible refine foldl_mo1 (fun a b hs => ?_) ?_) | (with_reducible refine elim_mo (fun a => ?_) ?_) | (with_reducible refine elim_mo1 (fun a => ?_) ?_) | split | simp +contextual (maxDischargeDepth := 90) [hs, foldl_mo, foldl_mo1, foldr_mo]
theorem execStateRpt_mo (port vc : Nat) (s : State) (hs : s.mo) : ∃ q, execStateRpt port vc s = .next q ∧ q.mo := by
  unfold execStateRpt; exact ⟨_, rfl, by simp +contextual (maxDischargeDepth := 90) [hs]⟩
theorem execRestartHoldEnd_mo (job : Nat) (s : State) (hs : s.mo) : ∃ q, execRestartHoldEnd job s = .next q ∧ q.mo := by
  unfold execRestartHoldEnd; refine ⟨_, rfl, ?_⟩
  (repeat' split) <;> simp (maxDischargeDepth := 90) [hs]
theorem execStateReportTimeout_mo (job : Nat) (s : State) (hs : s.mo) : ∃ q, execStateReportTimeout job s = .next q ∧ q.mo := by
  unfold execStateReportTimeout; refine ⟨_, rfl, ?_⟩
  (repeat' split) <;> simp (maxDischargeDepth := 90) [hs]
theorem execResume_mo (port vc : Nat) (s : State) (hs : s.mo) : ∃ q, execResume port vc s = .next q ∧ q.mo := by
  unfold execResume; exact ⟨_, rfl, by simp +contextual (maxDischargeDepth := 90) [hs]⟩
theorem execRestartTimeout_mo (job : Nat) (s : State) (hs : s.mo) : ∃ q, execRestartTimeout job s = .next q ∧ q.mo := by
  unfold execRestartTimeout; refine ⟨_, rfl, ?_⟩
  repeat' first | with_reducible assumption | (with_reducible refine settle_mo _ ?_) | (with_reducible refine mbox_mo _ _ _ _ _ _ _ (fun m a hs => ?_) ?_) | (with_reducible refine atPort_mo _ _ _ (fun p _ => ?_) ?_) | (with_reducible refine jobPacket_mo _ _ _ _ _ (fun _ _ _ _ _ a hs => ?_) ?_) | (with_reducible refine current_mo _ _ _ ?_ ?_) | (with_reducible refine collPacket_mo _ _ _ _ (fun _ _ a hs => ?_) ?_) | (with_reducible refine mboxPast_mo _ _ _ _ _ _ _ (fun m a hs => ?_) ?_) | (with_reducible refine ctxCmd_mo _ _ _ _ _ _ (fun m a hs => ?_) ?_) | (with_reducible refine keyMessage_mo _ _ _ _ _ _ _ _ _ (fun a hs => ?_) ?_) | (with_reducible refine sbGo_mo _ _ _ _ _ (fun a hs => ?_) ?_) | (with_reducible refine receive_mo _ _ _ _ _ (fun p a hs => ?_) ?_) | (with_reducible refine atFn_mo _ _ _ ?_ ?_) | (with_reducible refine sbWrite_mo _ _ _ ?_ ?_) | (with_reducible refine foldl_mo (fun a b hs => ?_) ?_) | (with_reducible refine foldl_mo1 (fun a b hs => ?_) ?_) | (with_reducible refine elim_mo (fun a => ?_) ?_) | (with_reducible refine elim_mo1 (fun a => ?_) ?_) | split | simp +contextual (maxDischargeDepth := 90) [hs, foldl_mo, foldl_mo1, foldr_mo]
/-! ### Contexts -/

theorem execDependencyTimeout_mo (core ctx kind which : Nat) (s : State) (hs : s.mo) : ∃ q, execDependencyTimeout core ctx kind which s = .next q ∧ q.mo := by
  unfold execDependencyTimeout; dsimp only; (repeat' split) <;> refine ⟨_, rfl, ?_⟩
  all_goals (repeat' first | with_reducible assumption | (with_reducible refine settle_mo _ ?_) | (with_reducible refine mbox_mo _ _ _ _ _ _ _ (fun m a hs => ?_) ?_) | (with_reducible refine atPort_mo _ _ _ (fun p _ => ?_) ?_) | (with_reducible refine jobPacket_mo _ _ _ _ _ (fun _ _ _ _ _ a hs => ?_) ?_) | (with_reducible refine current_mo _ _ _ ?_ ?_) | (with_reducible refine collPacket_mo _ _ _ _ (fun _ _ a hs => ?_) ?_) | (with_reducible refine mboxPast_mo _ _ _ _ _ _ _ (fun m a hs => ?_) ?_) | (with_reducible refine ctxCmd_mo _ _ _ _ _ _ (fun m a hs => ?_) ?_) | (with_reducible refine keyMessage_mo _ _ _ _ _ _ _ _ _ (fun a hs => ?_) ?_) | (with_reducible refine sbGo_mo _ _ _ _ _ (fun a hs => ?_) ?_) | (with_reducible refine receive_mo _ _ _ _ _ (fun p a hs => ?_) ?_) | (with_reducible refine atFn_mo _ _ _ ?_ ?_) | (with_reducible refine sbWrite_mo _ _ _ ?_ ?_) | (with_reducible refine foldl_mo (fun a b hs => ?_) ?_) | (with_reducible refine foldl_mo1 (fun a b hs => ?_) ?_) | (with_reducible refine elim_mo (fun a => ?_) ?_) | (with_reducible refine elim_mo1 (fun a => ?_) ?_) | split | simp +contextual (maxDischargeDepth := 90) [hs, foldl_mo, foldl_mo1, foldr_mo])
theorem execPreemptionDeadline_mo (ctx : Nat) (s : State) (hs : s.mo) : ∃ q, execPreemptionDeadline ctx s = .next q ∧ q.mo := by
  unfold execPreemptionDeadline; refine ⟨_, rfl, ?_⟩
  repeat' first | with_reducible assumption | (with_reducible refine settle_mo _ ?_) | (with_reducible refine mbox_mo _ _ _ _ _ _ _ (fun m a hs => ?_) ?_) | (with_reducible refine atPort_mo _ _ _ (fun p _ => ?_) ?_) | (with_reducible refine jobPacket_mo _ _ _ _ _ (fun _ _ _ _ _ a hs => ?_) ?_) | (with_reducible refine current_mo _ _ _ ?_ ?_) | (with_reducible refine collPacket_mo _ _ _ _ (fun _ _ a hs => ?_) ?_) | (with_reducible refine mboxPast_mo _ _ _ _ _ _ _ (fun m a hs => ?_) ?_) | (with_reducible refine ctxCmd_mo _ _ _ _ _ _ (fun m a hs => ?_) ?_) | (with_reducible refine keyMessage_mo _ _ _ _ _ _ _ _ _ (fun a hs => ?_) ?_) | (with_reducible refine sbGo_mo _ _ _ _ _ (fun a hs => ?_) ?_) | (with_reducible refine receive_mo _ _ _ _ _ (fun p a hs => ?_) ?_) | (with_reducible refine atFn_mo _ _ _ ?_ ?_) | (with_reducible refine sbWrite_mo _ _ _ ?_ ?_) | (with_reducible refine foldl_mo (fun a b hs => ?_) ?_) | (with_reducible refine foldl_mo1 (fun a b hs => ?_) ?_) | (with_reducible refine elim_mo (fun a => ?_) ?_) | (with_reducible refine elim_mo1 (fun a => ?_) ?_) | split | simp +contextual (maxDischargeDepth := 90) [hs, foldl_mo, foldl_mo1, foldr_mo]
theorem execContextStopped_mo (ctx : Nat) (s : State) (hs : s.mo) : ∃ q, execContextStopped ctx s = .next q ∧ q.mo := by
  unfold execContextStopped; exact ⟨_, rfl, by simp [hs]⟩
theorem execStopTimeout_mo (ctx : Nat) (s : State) (hs : s.mo) : ∃ q, execStopTimeout ctx s = .next q ∧ q.mo := by
  unfold execStopTimeout; refine ⟨_, rfl, ?_⟩
  (repeat' split) <;> simp (maxDischargeDepth := 90) [hs]
theorem execTeardownComplete_mo (ctx : Nat) (s : State) (hs : s.mo) : ∃ q, execTeardownComplete ctx s = .next q ∧ q.mo := by
  unfold execTeardownComplete; exact ⟨_, rfl, by simp [hs]⟩
/-! ### HostRegs -/

theorem execRegisterWrite_mo (space off value : Nat) (ok : Bool) (s : State) (hs : s.mo) : ∃ q, execRegisterWrite space off value ok s = .next q ∧ q.mo := by
  unfold execRegisterWrite; exact ⟨_, rfl, by simp (maxDischargeDepth := 90) [hs]⟩
theorem execUnmappedRegisterAccess_mo (space off bytes : Nat) (write : Bool) (s : State) (hs : s.mo) : ∃ q, execUnmappedRegisterAccess space off bytes write s = .next q ∧ q.mo := by
  unfold execUnmappedRegisterAccess; exact ⟨_, rfl, by simp [hs]⟩
theorem execMailboxEnable_mo (fn logn : Nat) (s : State) (hs : s.mo) : ∃ q, execMailboxEnable fn logn s = .next q ∧ q.mo := by
  unfold execMailboxEnable; exact ⟨_, rfl, by simp (maxDischargeDepth := 90) [hs]⟩
theorem execMailboxDisable_mo (fn logn : Nat) (s : State) (hs : s.mo) : ∃ q, execMailboxDisable fn logn s = .next q ∧ q.mo := by
  unfold execMailboxDisable; exact ⟨_, rfl, by simp (maxDischargeDepth := 90) [hs]⟩
theorem execMailboxDoorbell_mo (fn index : Nat) (s : State) (hs : s.mo) : ∃ q, execMailboxDoorbell fn index s = .next q ∧ q.mo := by
  unfold execMailboxDoorbell; exact ⟨_, rfl, by simp (maxDischargeDepth := 90) [hs]⟩
theorem execMailboxResponseDoorbell_mo (fn index : Nat) (s : State) (hs : s.mo) : ∃ q, execMailboxResponseDoorbell fn index s = .next q ∧ q.mo := by
  unfold execMailboxResponseDoorbell; exact ⟨_, rfl, by simp (maxDischargeDepth := 90) [hs]⟩
theorem execSubmissionDoorbell_mo (fn ring index : Nat) (s : State) (hs : s.mo) : ∃ q, execSubmissionDoorbell fn ring index s = .next q ∧ q.mo := by
  unfold execSubmissionDoorbell; exact ⟨_, rfl, by simp (maxDischargeDepth := 90) [hs]⟩
theorem execCompletionDoorbell_mo (fn ring index : Nat) (s : State) (hs : s.mo) : ∃ q, execCompletionDoorbell fn ring index s = .next q ∧ q.mo := by
  unfold execCompletionDoorbell; exact ⟨_, rfl, by simp (maxDischargeDepth := 90) [hs]⟩
theorem execCompletionInterruptTimer_mo (fn ring : Nat) (s : State) (hs : s.mo) : ∃ q, execCompletionInterruptTimer fn ring s = .next q ∧ q.mo := by
  unfold execCompletionInterruptTimer; exact ⟨_, rfl, by simp (maxDischargeDepth := 90) [hs]⟩
theorem execMsixVectorUnmask_mo (fn vector : Nat) (s : State) (hs : s.mo) : ∃ q, execMsixVectorUnmask fn vector s = .next q ∧ q.mo := by
  unfold execMsixVectorUnmask; exact ⟨_, rfl, by simp (maxDischargeDepth := 90) [hs]⟩
theorem execConfigRequest_mo (fn off : Nat) (write : Bool) (s : State) (hs : s.mo) : ∃ q, execConfigRequest fn off write s = .next q ∧ q.mo := by
  unfold execConfigRequest; exact ⟨_, rfl, by simp [hs]⟩
theorem execConfigImageLoaded_mo (s : State) (hs : s.mo) : ∃ q, execConfigImageLoaded s = .next q ∧ q.mo := by
  unfold execConfigImageLoaded; exact ⟨_, rfl, by simp [hs]⟩
theorem execVfEnableSet_mo (numVFs : Nat) (s : State) (hs : s.mo) : ∃ q, execVfEnableSet numVFs s = .next q ∧ q.mo := by
  unfold execVfEnableSet; exact ⟨_, rfl, by simp (maxDischargeDepth := 90) [hs]⟩
theorem execVfEnableClear_mo (s : State) (hs : s.mo) : ∃ q, execVfEnableClear s = .next q ∧ q.mo := by
  unfold execVfEnableClear; refine ⟨_, rfl, ?_⟩
  repeat' first | with_reducible assumption | (with_reducible refine settle_mo _ ?_) | (with_reducible refine mbox_mo _ _ _ _ _ _ _ (fun m a hs => ?_) ?_) | (with_reducible refine atPort_mo _ _ _ (fun p _ => ?_) ?_) | (with_reducible refine jobPacket_mo _ _ _ _ _ (fun _ _ _ _ _ a hs => ?_) ?_) | (with_reducible refine current_mo _ _ _ ?_ ?_) | (with_reducible refine collPacket_mo _ _ _ _ (fun _ _ a hs => ?_) ?_) | (with_reducible refine mboxPast_mo _ _ _ _ _ _ _ (fun m a hs => ?_) ?_) | (with_reducible refine ctxCmd_mo _ _ _ _ _ _ (fun m a hs => ?_) ?_) | (with_reducible refine keyMessage_mo _ _ _ _ _ _ _ _ _ (fun a hs => ?_) ?_) | (with_reducible refine sbGo_mo _ _ _ _ _ (fun a hs => ?_) ?_) | (with_reducible refine receive_mo _ _ _ _ _ (fun p a hs => ?_) ?_) | (with_reducible refine atFn_mo _ _ _ ?_ ?_) | (with_reducible refine sbWrite_mo _ _ _ ?_ ?_) | (with_reducible refine foldl_mo (fun a b hs => ?_) ?_) | (with_reducible refine foldl_mo1 (fun a b hs => ?_) ?_) | (with_reducible refine elim_mo (fun a => ?_) ?_) | (with_reducible refine elim_mo1 (fun a => ?_) ?_) | split | simp +contextual (maxDischargeDepth := 90) [hs, foldl_mo, foldl_mo1, foldr_mo]
theorem execVfFlr_mo (fn : Nat) (s : State) (hs : s.mo) : ∃ q, execVfFlr fn s = .next q ∧ q.mo := by
  unfold execVfFlr; exact ⟨_, rfl, by simp (maxDischargeDepth := 90) [hs]⟩
theorem execPfFlr_mo (s : State) (hs : s.mo) : ∃ q, execPfFlr s = .next q ∧ q.mo := by
  unfold execPfFlr; exact ⟨_, rfl, by simp (maxDischargeDepth := 90) [hs]⟩
theorem execPcieHotReset_mo (s : State) (hs : s.mo) : ∃ q, execPcieHotReset s = .next q ∧ q.mo := by
  unfold execPcieHotReset; exact ⟨_, rfl, by simp (maxDischargeDepth := 90) [hs]⟩
theorem execPcieLinkDown_mo (s : State) (hs : s.mo) : ∃ q, execPcieLinkDown s = .next q ∧ q.mo := by
  unfold execPcieLinkDown; exact ⟨_, rfl, by simp (maxDischargeDepth := 90) [hs]⟩
theorem execBusMasterEnableClear_mo (fn : Nat) (s : State) (hs : s.mo) : ∃ q, execBusMasterEnableClear fn s = .next q ∧ q.mo := by
  unfold execBusMasterEnableClear; exact ⟨_, rfl, by simp (maxDischargeDepth := 90) [hs]⟩
theorem execBusMasterEnableSet_mo (fn : Nat) (s : State) (hs : s.mo) : ∃ q, execBusMasterEnableSet fn s = .next q ∧ q.mo := by
  unfold execBusMasterEnableSet; exact ⟨_, rfl, by simp (maxDischargeDepth := 90) [hs]⟩
theorem execHostCopyBmeTimeout_mo (fn seq : Nat) (s : State) (hs : s.mo) : ∃ q, execHostCopyBmeTimeout fn seq s = .next q ∧ q.mo := by
  unfold execHostCopyBmeTimeout; exact ⟨_, rfl, by simp [hs]⟩
theorem execHostReadCompletion_mo (fn kind which : Nat) (bytes : List Byte) (ok : Bool) (s : State) (hs : s.mo) : ∃ q, execHostReadCompletion fn kind which bytes ok s = .next q ∧ q.mo := by
  unfold execHostReadCompletion; exact ⟨_, rfl, by simp (maxDischargeDepth := 90) [hs]⟩
theorem execHostReadError_mo (fn kind which : Nat) (late : Bool) (s : State) (hs : s.mo) : ∃ q, execHostReadError fn kind which late s = .next q ∧ q.mo := by
  unfold execHostReadError; exact ⟨_, rfl, by simp (maxDischargeDepth := 90) [hs]⟩
/-! ### MbDevice -/

theorem execNop_mo (c : Caller) (value : Nat) (s : State) (hs : s.mo) : ∃ q, execNop c value s = .next q ∧ q.mo := by
  unfold execNop; exact ⟨_, rfl, by simp +contextual (maxDischargeDepth := 90) [hs]⟩
theorem execDeviceInfo_mo (c : Caller) (s : State) (hs : s.mo) : ∃ q, execDeviceInfo c s = .next q ∧ q.mo := by
  unfold execDeviceInfo; exact ⟨_, rfl, by simp +contextual (maxDischargeDepth := 90) [hs]⟩
theorem execPartLayout_mo (c : Caller) (start : Nat) (s : State) (hs : s.mo) : ∃ q, execPartLayout c start s = .next q ∧ q.mo := by
  unfold execPartLayout; exact ⟨_, rfl, by simp +contextual (maxDischargeDepth := 90) [hs]⟩
theorem execPartConfig_mo (c : Caller) (part pdl age lo hi : Nat) (s : State) (hs : s.mo) : ∃ q, execPartConfig c part pdl age lo hi s = .next q ∧ q.mo := by
  unfold execPartConfig; exact ⟨_, rfl, by simp +contextual (maxDischargeDepth := 90) [hs]⟩
theorem execCtxCreate_mo (c : Caller) (d : List Byte) (s : State) (hs : s.mo) : ∃ q, execCtxCreate c d s = .next q ∧ q.mo := by
  unfold execCtxCreate; exact ⟨_, rfl, by simp +contextual (maxDischargeDepth := 90) [hs]⟩
theorem execCtxDestroy_mo (c : Caller) (n : Nat) (s : State) (hs : s.mo) : ∃ q, execCtxDestroy c n s = .next q ∧ q.mo := by
  unfold execCtxDestroy; exact ⟨_, rfl, by simp +contextual (maxDischargeDepth := 90) [hs]⟩
theorem execCtxStop_mo (c : Caller) (n : Nat) (s : State) (hs : s.mo) : ∃ q, execCtxStop c n s = .next q ∧ q.mo := by
  unfold execCtxStop; exact ⟨_, rfl, by simp +contextual (maxDischargeDepth := 90) [hs]⟩
theorem execCtxResume_mo (c : Caller) (n : Nat) (s : State) (hs : s.mo) : ∃ q, execCtxResume c n s = .next q ∧ q.mo := by
  unfold execCtxResume; exact ⟨_, rfl, by simp +contextual (maxDischargeDepth := 90) [hs]⟩
theorem execCtxReset_mo (c : Caller) (n : Nat) (s : State) (hs : s.mo) : ∃ q, execCtxReset c n s = .next q ∧ q.mo := by
  unfold execCtxReset; exact ⟨_, rfl, by simp +contextual (maxDischargeDepth := 90) [hs]⟩
theorem execCtxEvict_mo (c : Caller) (n : Nat) (s : State) (hs : s.mo) : ∃ q, execCtxEvict c n s = .next q ∧ q.mo := by
  unfold execCtxEvict; dsimp only; (repeat' split) <;> refine ⟨_, rfl, ?_⟩
  all_goals (repeat' first | with_reducible assumption | (with_reducible refine settle_mo _ ?_) | (with_reducible refine mbox_mo _ _ _ _ _ _ _ (fun m a hs => ?_) ?_) | (with_reducible refine atPort_mo _ _ _ (fun p _ => ?_) ?_) | (with_reducible refine jobPacket_mo _ _ _ _ _ (fun _ _ _ _ _ a hs => ?_) ?_) | (with_reducible refine current_mo _ _ _ ?_ ?_) | (with_reducible refine collPacket_mo _ _ _ _ (fun _ _ a hs => ?_) ?_) | (with_reducible refine mboxPast_mo _ _ _ _ _ _ _ (fun m a hs => ?_) ?_) | (with_reducible refine ctxCmd_mo _ _ _ _ _ _ (fun m a hs => ?_) ?_) | (with_reducible refine keyMessage_mo _ _ _ _ _ _ _ _ _ (fun a hs => ?_) ?_) | (with_reducible refine sbGo_mo _ _ _ _ _ (fun a hs => ?_) ?_) | (with_reducible refine receive_mo _ _ _ _ _ (fun p a hs => ?_) ?_) | (with_reducible refine atFn_mo _ _ _ ?_ ?_) | (with_reducible refine sbWrite_mo _ _ _ ?_ ?_) | (with_reducible refine foldl_mo (fun a b hs => ?_) ?_) | (with_reducible refine foldl_mo1 (fun a b hs => ?_) ?_) | (with_reducible refine elim_mo (fun a => ?_) ?_) | (with_reducible refine elim_mo1 (fun a => ?_) ?_) | split | simp +contextual (maxDischargeDepth := 90) [hs, foldl_mo, foldl_mo1, foldr_mo])
theorem execCtxRestore_mo (c : Caller) (n : Nat) (s : State) (hs : s.mo) : ∃ q, execCtxRestore c n s = .next q ∧ q.mo := by
  unfold execCtxRestore; dsimp only; (repeat' split) <;> refine ⟨_, rfl, ?_⟩
  all_goals (repeat' first | with_reducible assumption | (with_reducible refine settle_mo _ ?_) | (with_reducible refine mbox_mo _ _ _ _ _ _ _ (fun m a hs => ?_) ?_) | (with_reducible refine atPort_mo _ _ _ (fun p _ => ?_) ?_) | (with_reducible refine jobPacket_mo _ _ _ _ _ (fun _ _ _ _ _ a hs => ?_) ?_) | (with_reducible refine current_mo _ _ _ ?_ ?_) | (with_reducible refine collPacket_mo _ _ _ _ (fun _ _ a hs => ?_) ?_) | (with_reducible refine mboxPast_mo _ _ _ _ _ _ _ (fun m a hs => ?_) ?_) | (with_reducible refine ctxCmd_mo _ _ _ _ _ _ (fun m a hs => ?_) ?_) | (with_reducible refine keyMessage_mo _ _ _ _ _ _ _ _ _ (fun a hs => ?_) ?_) | (with_reducible refine sbGo_mo _ _ _ _ _ (fun a hs => ?_) ?_) | (with_reducible refine receive_mo _ _ _ _ _ (fun p a hs => ?_) ?_) | (with_reducible refine atFn_mo _ _ _ ?_ ?_) | (with_reducible refine sbWrite_mo _ _ _ ?_ ?_) | (with_reducible refine foldl_mo (fun a b hs => ?_) ?_) | (with_reducible refine foldl_mo1 (fun a b hs => ?_) ?_) | (with_reducible refine elim_mo (fun a => ?_) ?_) | (with_reducible refine elim_mo1 (fun a => ?_) ?_) | split | simp +contextual (maxDischargeDepth := 90) [hs, foldl_mo, foldl_mo1, foldr_mo])
theorem execCtxStatus_mo (c : Caller) (n : Nat) (s : State) (hs : s.mo) : ∃ q, execCtxStatus c n s = .next q ∧ q.mo := by
  unfold execCtxStatus
  refine ⟨_, rfl, settle_mo _ (mbox_mo _ _ _ _ _ _ _ (fun m a hs => ?_) hs)⟩
  (repeat' split) <;> simp (maxDischargeDepth := 90) [hs]
theorem execClientQuery_mo (c : Caller) (client : Nat) (s : State) (hs : s.mo) : ∃ q, execClientQuery c client s = .next q ∧ q.mo := by
  unfold execClientQuery; exact ⟨_, rfl, by simp +contextual (maxDischargeDepth := 90) [hs]⟩
theorem execClientSetQuota_mo (c : Caller) (client quota : Nat) (s : State) (hs : s.mo) : ∃ q, execClientSetQuota c client quota s = .next q ∧ q.mo := by
  unfold execClientSetQuota; exact ⟨_, rfl, by simp +contextual (maxDischargeDepth := 90) [hs]⟩
theorem execClientClear_mo (c : Caller) (client : Nat) (s : State) (hs : s.mo) : ∃ q, execClientClear c client s = .next q ∧ q.mo := by
  unfold execClientClear; exact ⟨_, rfl, by simp +contextual (maxDischargeDepth := 90) [hs]⟩
/-! ### MbSeg -/

theorem execSegCreate_mo (c : Caller) (d : List Byte) (ctx : Nat) (s : State) (hs : s.mo) : ∃ q, execSegCreate c d ctx s = .next q ∧ q.mo := by
  unfold execSegCreate; exact ⟨_, rfl, by simp +contextual (maxDischargeDepth := 90) [hs]⟩
theorem execSegQuery_mo (c : Caller) (ctx seg : Nat) (s : State) (hs : s.mo) : ∃ q, execSegQuery c ctx seg s = .next q ∧ q.mo := by
  unfold execSegQuery
  refine ⟨_, rfl, settle_mo _ (mbox_mo _ _ _ _ _ _ _ (fun m a hs => ?_) hs)⟩
  (repeat' split) <;> simp (maxDischargeDepth := 90) [hs]
theorem execSegProtect_mo (c : Caller) (ctx seg perm : Nat) (s : State) (hs : s.mo) : ∃ q, execSegProtect c ctx seg perm s = .next q ∧ q.mo := by
  unfold execSegProtect; exact ⟨_, rfl, by simp +contextual (maxDischargeDepth := 90) [hs]⟩
theorem execSegMigrate_mo (c : Caller) (ctx seg attr pref tmo : Nat) (s : State) (hs : s.mo) : ∃ q, execSegMigrate c ctx seg attr pref tmo s = .next q ∧ q.mo := by
  unfold execSegMigrate; exact ⟨_, rfl, by simp +contextual (maxDischargeDepth := 90) [hs]⟩
theorem execSegDelete_mo (c : Caller) (ctx seg tmo : Nat) (s : State) (hs : s.mo) : ∃ q, execSegDelete c ctx seg tmo s = .next q ∧ q.mo := by
  unfold execSegDelete; exact ⟨_, rfl, by simp +contextual (maxDischargeDepth := 90) [hs]⟩
theorem execPgroupCreate_mo (c : Caller) (d : List Byte) (s : State) (hs : s.mo) : ∃ q, execPgroupCreate c d s = .next q ∧ q.mo := by
  unfold execPgroupCreate; dsimp only; (repeat' split) <;> refine ⟨_, rfl, ?_⟩
  all_goals (repeat' first | with_reducible assumption | (with_reducible refine settle_mo _ ?_) | (with_reducible refine mbox_mo _ _ _ _ _ _ _ (fun m a hs => ?_) ?_) | (with_reducible refine atPort_mo _ _ _ (fun p _ => ?_) ?_) | (with_reducible refine jobPacket_mo _ _ _ _ _ (fun _ _ _ _ _ a hs => ?_) ?_) | (with_reducible refine current_mo _ _ _ ?_ ?_) | (with_reducible refine collPacket_mo _ _ _ _ (fun _ _ a hs => ?_) ?_) | (with_reducible refine mboxPast_mo _ _ _ _ _ _ _ (fun m a hs => ?_) ?_) | (with_reducible refine ctxCmd_mo _ _ _ _ _ _ (fun m a hs => ?_) ?_) | (with_reducible refine keyMessage_mo _ _ _ _ _ _ _ _ _ (fun a hs => ?_) ?_) | (with_reducible refine sbGo_mo _ _ _ _ _ (fun a hs => ?_) ?_) | (with_reducible refine receive_mo _ _ _ _ _ (fun p a hs => ?_) ?_) | (with_reducible refine atFn_mo _ _ _ ?_ ?_) | (with_reducible refine sbWrite_mo _ _ _ ?_ ?_) | (with_reducible refine foldl_mo (fun a b hs => ?_) ?_) | (with_reducible refine foldl_mo1 (fun a b hs => ?_) ?_) | (with_reducible refine elim_mo (fun a => ?_) ?_) | (with_reducible refine elim_mo1 (fun a => ?_) ?_) | split | simp +contextual (maxDischargeDepth := 90) [hs, foldl_mo, foldl_mo1, foldr_mo])
theorem execPgroupDelete_mo (c : Caller) (st gid : Nat) (s : State) (hs : s.mo) : ∃ q, execPgroupDelete c st gid s = .next q ∧ q.mo := by
  unfold execPgroupDelete
  refine ⟨_, rfl, settle_mo _ (mbox_mo _ _ _ _ _ _ _ (fun m a hs => ?_) hs)⟩
  (repeat' split) <;> simp (maxDischargeDepth := 90) [hs]
theorem execNmuProgramLoad_mo (c : Caller) (part st prog : Nat) (bs : List Byte) (s : State) (hs : s.mo) : ∃ q, execNmuProgramLoad c part st prog bs s = .next q ∧ q.mo := by
  unfold execNmuProgramLoad; exact ⟨_, rfl, by simp +contextual (maxDischargeDepth := 90) [hs]⟩
theorem execNmuProgramDelete_mo (c : Caller) (part st prog : Nat) (s : State) (hs : s.mo) : ∃ q, execNmuProgramDelete c part st prog s = .next q ∧ q.mo := by
  unfold execNmuProgramDelete; exact ⟨_, rfl, by simp +contextual (maxDischargeDepth := 90) [hs]⟩
theorem execStateLoad_mo (c : Caller) (st gid epoch cva : Nat) (s : State) (hs : s.mo) : ∃ q, execStateLoad c st gid epoch cva s = .next q ∧ q.mo := by
  unfold execStateLoad; dsimp only; (repeat' split) <;> refine ⟨_, rfl, ?_⟩
  all_goals (repeat' first | with_reducible assumption | (with_reducible refine settle_mo _ ?_) | (with_reducible refine mbox_mo _ _ _ _ _ _ _ (fun m a hs => ?_) ?_) | (with_reducible refine atPort_mo _ _ _ (fun p _ => ?_) ?_) | (with_reducible refine jobPacket_mo _ _ _ _ _ (fun _ _ _ _ _ a hs => ?_) ?_) | (with_reducible refine current_mo _ _ _ ?_ ?_) | (with_reducible refine collPacket_mo _ _ _ _ (fun _ _ a hs => ?_) ?_) | (with_reducible refine mboxPast_mo _ _ _ _ _ _ _ (fun m a hs => ?_) ?_) | (with_reducible refine ctxCmd_mo _ _ _ _ _ _ (fun m a hs => ?_) ?_) | (with_reducible refine keyMessage_mo _ _ _ _ _ _ _ _ _ (fun a hs => ?_) ?_) | (with_reducible refine sbGo_mo _ _ _ _ _ (fun a hs => ?_) ?_) | (with_reducible refine receive_mo _ _ _ _ _ (fun p a hs => ?_) ?_) | (with_reducible refine atFn_mo _ _ _ ?_ ?_) | (with_reducible refine sbWrite_mo _ _ _ ?_ ?_) | (with_reducible refine foldl_mo (fun a b hs => ?_) ?_) | (with_reducible refine foldl_mo1 (fun a b hs => ?_) ?_) | (with_reducible refine elim_mo (fun a => ?_) ?_) | (with_reducible refine elim_mo1 (fun a => ?_) ?_) | split | simp +contextual (maxDischargeDepth := 90) [hs, foldl_mo, foldl_mo1, foldr_mo])
theorem execStateExport_mo (c : Caller) (st gid haddr : Nat) (s : State) (hs : s.mo) : ∃ q, execStateExport c st gid haddr s = .next q ∧ q.mo := by
  unfold execStateExport
  refine ⟨_, rfl, settle_mo _ (mbox_mo _ _ _ _ _ _ _ (fun m a hs => ?_) hs)⟩
  (repeat' split) <;> simp (maxDischargeDepth := 90) [hs]
theorem execWeightImport_mo (c : Caller) (st gid key cva bytes : Nat) (s : State) (hs : s.mo) : ∃ q, execWeightImport c st gid key cva bytes s = .next q ∧ q.mo := by
  unfold execWeightImport; dsimp only; (repeat' split) <;> refine ⟨_, rfl, ?_⟩
  all_goals (repeat' first | with_reducible assumption | (with_reducible refine settle_mo _ ?_) | (with_reducible refine mbox_mo _ _ _ _ _ _ _ (fun m a hs => ?_) ?_) | (with_reducible refine atPort_mo _ _ _ (fun p _ => ?_) ?_) | (with_reducible refine jobPacket_mo _ _ _ _ _ (fun _ _ _ _ _ a hs => ?_) ?_) | (with_reducible refine current_mo _ _ _ ?_ ?_) | (with_reducible refine collPacket_mo _ _ _ _ (fun _ _ a hs => ?_) ?_) | (with_reducible refine mboxPast_mo _ _ _ _ _ _ _ (fun m a hs => ?_) ?_) | (with_reducible refine ctxCmd_mo _ _ _ _ _ _ (fun m a hs => ?_) ?_) | (with_reducible refine keyMessage_mo _ _ _ _ _ _ _ _ _ (fun a hs => ?_) ?_) | (with_reducible refine sbGo_mo _ _ _ _ _ (fun a hs => ?_) ?_) | (with_reducible refine receive_mo _ _ _ _ _ (fun p a hs => ?_) ?_) | (with_reducible refine atFn_mo _ _ _ ?_ ?_) | (with_reducible refine sbWrite_mo _ _ _ ?_ ?_) | (with_reducible refine foldl_mo (fun a b hs => ?_) ?_) | (with_reducible refine foldl_mo1 (fun a b hs => ?_) ?_) | (with_reducible refine elim_mo (fun a => ?_) ?_) | (with_reducible refine elim_mo1 (fun a => ?_) ?_) | split | simp +contextual (maxDischargeDepth := 90) [hs, foldl_mo, foldl_mo1, foldr_mo])
theorem execHostCopy_mo (c : Caller) (d ext : List Byte) (s : State) (hs : s.mo) : ∃ q, execHostCopy c d ext s = .next q ∧ q.mo := by
  unfold execHostCopy; exact ⟨_, rfl, by simp +contextual (maxDischargeDepth := 90) [hs]⟩
/-! ### Rings -/

theorem execRingCreateSubmission_mo (c : Caller) (ctx form logn base shadow : Nat) (s : State) (hs : s.mo) : ∃ q, execRingCreateSubmission c ctx form logn base shadow s = .next q ∧ q.mo := by
  unfold execRingCreateSubmission; exact ⟨_, rfl, by simp +contextual (maxDischargeDepth := 90) [hs]⟩
theorem execRingCreateCompletion_mo (c : Caller) (logn vector icnt itime base shadow : Nat) (s : State) (hs : s.mo) : ∃ q, execRingCreateCompletion c logn vector icnt itime base shadow s = .next q ∧ q.mo := by
  unfold execRingCreateCompletion; exact ⟨_, rfl, by simp +contextual (maxDischargeDepth := 90) [hs]⟩
theorem execRingDestroy_mo (c : Caller) (kind ring : Nat) (s : State) (hs : s.mo) : ∃ q, execRingDestroy c kind ring s = .next q ∧ q.mo := by
  unfold execRingDestroy
  refine ⟨_, rfl, settle_mo _ (mbox_mo _ _ _ _ _ _ _ (fun m a ha => respond_mo _ _ _ _ _ _ _ ?_) hs)⟩
  split
  · simp [ha]
  · exact modFn_mo _ _ _ (elim_mo (fun x => loseHeld_mo _ _ ha) ha)
theorem execRingReset_mo (c : Caller) (kind ring : Nat) (s : State) (hs : s.mo) : ∃ q, execRingReset c kind ring s = .next q ∧ q.mo := by
  unfold execRingReset; exact ⟨_, rfl, by simp +contextual (maxDischargeDepth := 90) [hs]⟩
theorem execRingBindNotice_mo (c : Caller) (ctx ring : Nat) (s : State) (hs : s.mo) : ∃ q, execRingBindNotice c ctx ring s = .next q ∧ q.mo := by
  unfold execRingBindNotice; exact ⟨_, rfl, by simp +contextual (maxDischargeDepth := 90) [hs]⟩
/-! ### MbStream -/

theorem execCounter_mo (c : Caller) (ctx core idx value : Nat) (s : State) (hs : s.mo) : ∃ q, execCounter c ctx core idx value s = .next q ∧ q.mo := by
  unfold execCounter; exact ⟨_, rfl, by simp +contextual (maxDischargeDepth := 90) [hs]⟩
theorem execStreamSlotAllocate_mo (c : Caller) (ctx core sid : Nat) (s : State) (hs : s.mo) : ∃ q, execStreamSlotAllocate c ctx core sid s = .next q ∧ q.mo := by
  unfold execStreamSlotAllocate; exact ⟨_, rfl, by simp +contextual (maxDischargeDepth := 90) [hs]⟩
theorem execStreamSlotFree_mo (c : Caller) (ctx core sid : Nat) (s : State) (hs : s.mo) : ∃ q, execStreamSlotFree c ctx core sid s = .next q ∧ q.mo := by
  unfold execStreamSlotFree; exact ⟨_, rfl, by simp +contextual (maxDischargeDepth := 90) [hs]⟩
theorem execStreamArm_mo (c : Caller) (ctx core : Nat) (d : List Byte) (s : State) (hs : s.mo) : ∃ q, execStreamArm c ctx core d s = .next q ∧ q.mo := by
  unfold execStreamArm; exact ⟨_, rfl, by simp +contextual (maxDischargeDepth := 90) [hs]⟩
theorem execStreamCancel_mo (c : Caller) (ctx core sid : Nat) (s : State) (hs : s.mo) : ∃ q, execStreamCancel c ctx core sid s = .next q ∧ q.mo := by
  unfold execStreamCancel; exact ⟨_, rfl, by simp +contextual (maxDischargeDepth := 90) [hs]⟩
theorem execStreamStatus_mo (c : Caller) (ctx core sid : Nat) (s : State) (hs : s.mo) : ∃ q, execStreamStatus c ctx core sid s = .next q ∧ q.mo := by
  unfold execStreamStatus; exact ⟨_, rfl, by simp +contextual (maxDischargeDepth := 90) [hs]⟩
theorem execBankCap_mo (c : Caller) (part cap : Nat) (s : State) (hs : s.mo) : ∃ q, execBankCap c part cap s = .next q ∧ q.mo := by
  unfold execBankCap; exact ⟨_, rfl, by simp +contextual (maxDischargeDepth := 90) [hs]⟩
theorem execTagtmo_mo (c : Caller) (part tmo : Nat) (s : State) (hs : s.mo) : ∃ q, execTagtmo c part tmo s = .next q ∧ q.mo := by
  unfold execTagtmo; exact ⟨_, rfl, by simp +contextual (maxDischargeDepth := 90) [hs]⟩
theorem execMcastGroupCreate_mo (c : Caller) (ctx leader : Nat) (bits : List Byte) (s : State) (hs : s.mo) : ∃ q, execMcastGroupCreate c ctx leader bits s = .next q ∧ q.mo := by
  unfold execMcastGroupCreate; exact ⟨_, rfl, by simp +contextual (maxDischargeDepth := 90) [hs]⟩
theorem execMcastGroupDelete_mo (c : Caller) (group : Nat) (s : State) (hs : s.mo) : ∃ q, execMcastGroupDelete c group s = .next q ∧ q.mo := by
  unfold execMcastGroupDelete; exact ⟨_, rfl, by simp +contextual (maxDischargeDepth := 90) [hs]⟩
theorem execLayoutCreate_mo (c : Caller) (ctx : Nat) (d : List Byte) (s : State) (hs : s.mo) : ∃ q, execLayoutCreate c ctx d s = .next q ∧ q.mo := by
  unfold execLayoutCreate; exact ⟨_, rfl, by simp +contextual (maxDischargeDepth := 90) [hs]⟩
theorem execLayoutDelete_mo (c : Caller) (ctx h : Nat) (s : State) (hs : s.mo) : ∃ q, execLayoutDelete c ctx h s = .next q ∧ q.mo := by
  unfold execLayoutDelete; exact ⟨_, rfl, by simp +contextual (maxDischargeDepth := 90) [hs]⟩
theorem execHistogramRead_mo (c : Caller) (ctx first count : Nat) (s : State) (hs : s.mo) : ∃ q, execHistogramRead c ctx first count s = .next q ∧ q.mo := by
  unfold execHistogramRead; exact ⟨_, rfl, by simp +contextual (maxDischargeDepth := 90) [hs]⟩
theorem execHistogramClear_mo (c : Caller) (ctx first count : Nat) (s : State) (hs : s.mo) : ∃ q, execHistogramClear c ctx first count s = .next q ∧ q.mo := by
  unfold execHistogramClear; exact ⟨_, rfl, by simp +contextual (maxDischargeDepth := 90) [hs]⟩
theorem execFormatTableWrite_mo (c : Caller) (ctx first count : Nat) (es : List Byte) (s : State) (hs : s.mo) : ∃ q, execFormatTableWrite c ctx first count es s = .next q ∧ q.mo := by
  unfold execFormatTableWrite; exact ⟨_, rfl, by simp +contextual (maxDischargeDepth := 90) [hs]⟩
theorem execFormatTableRead_mo (c : Caller) (ctx first count : Nat) (s : State) (hs : s.mo) : ∃ q, execFormatTableRead c ctx first count s = .next q ∧ q.mo := by
  unfold execFormatTableRead; exact ⟨_, rfl, by simp +contextual (maxDischargeDepth := 90) [hs]⟩
theorem execQ1Tblload_mo (c : Caller) (ctx pair fcva dcva : Nat) (s : State) (hs : s.mo) :
    ∃ q, execQ1Tblload c ctx pair fcva dcva s = .next q ∧ q.mo := by
  have rd : ∀ (q : State) (v : Nat), q.mo → ((q.ctx? ctx).elim (q, ([] : List Byte)) fun x => ((q.readCva x v 4128).1, (q.readCva x v 4128).2.2)).1.mo :=
    fun q v hq => elim_mo1 (fun x => readCva_mo _ _ _ _ hq) hq
  unfold execQ1Tblload
  exact ⟨_, rfl, settle_mo _ (mbox_mo _ _ _ _ _ _ _ (fun m a ha => respond_mo _ _ _ _ _ _ _
    (foldl_mo (fun q k hq => enqueue_mo _ _ _ hq) (rd _ dcva (rd _ fcva (serveAll_mo _ ha))))) hs)⟩
/-! ### MbJob -/

theorem execDeviceId_mo (c : Caller) (devid : Nat) (s : State) (hs : s.mo) : ∃ q, execDeviceId c devid s = .next q ∧ q.mo := by
  unfold execDeviceId; exact ⟨_, rfl, by simp +contextual (maxDischargeDepth := 90) [hs]⟩
theorem execJobJoin_mo (c : Caller) (part job midx nmem : Nat) (t : List Byte) (s : State) (hs : s.mo) : ∃ q, execJobJoin c part job midx nmem t s = .next q ∧ q.mo := by
  unfold execJobJoin; exact ⟨_, rfl, by simp +contextual (maxDischargeDepth := 90) [hs]⟩
theorem execJobLeave_mo (c : Caller) (part job : Nat) (s : State) (hs : s.mo) : ∃ q, execJobLeave c part job s = .next q ∧ q.mo := by
  unfold execJobLeave; exact ⟨_, rfl, by simp +contextual (maxDischargeDepth := 90) [hs]⟩
theorem execRoute_mo (c : Caller) (first count : Nat) (es : List Byte) (s : State) (hs : s.mo) : ∃ q, execRoute c first count es s = .next q ∧ q.mo := by
  unfold execRoute; exact ⟨_, rfl, by simp +contextual (maxDischargeDepth := 90) [hs]⟩
theorem execWindowOpen_mo (c : Caller) (d : List Byte) (s : State) (hs : s.mo) : ∃ q, execWindowOpen c d s = .next q ∧ q.mo := by
  unfold execWindowOpen; exact ⟨_, rfl, by simp +contextual (maxDischargeDepth := 90) [hs]⟩
theorem execWindowClose_mo (c : Caller) (rwin : Nat) (s : State) (hs : s.mo) : ∃ q, execWindowClose c rwin s = .next q ∧ q.mo := by
  unfold execWindowClose; exact ⟨_, rfl, by simp +contextual (maxDischargeDepth := 90) [hs]⟩
theorem execCollective_mo (c : Caller) (d : List Byte) (s : State) (hs : s.mo) : ∃ q, execCollective c d s = .next q ∧ q.mo := by
  unfold execCollective
  refine ⟨_, rfl, settle_mo _ (mbox_mo _ _ _ _ _ _ _ (fun m a hs => ?_) hs)⟩
  (repeat' split) <;> simp (maxDischargeDepth := 90) [hs]
theorem execCollCancel_mo (c : Caller) (part job coll : Nat) (s : State) (hs : s.mo) : ∃ q, execCollCancel c part job coll s = .next q ∧ q.mo := by
  unfold execCollCancel
  exact ⟨_, rfl, settle_mo _ (mbox_mo _ _ _ _ _ _ _ (fun m a ha => respond_mo _ _ _ _ _ _ _
    (elim_mo (fun k => endColl_mo _ _ _ _ ha) ha)) hs)⟩
theorem execPortEnable_mo (c : Caller) (port : Nat) (s : State) (hs : s.mo) : ∃ q, execPortEnable c port s = .next q ∧ q.mo := by
  unfold execPortEnable; exact ⟨_, rfl, by simp +contextual (maxDischargeDepth := 90) [hs]⟩
theorem execPortDisable_mo (c : Caller) (port : Nat) (s : State) (hs : s.mo) : ∃ q, execPortDisable c port s = .next q ∧ q.mo := by
  unfold execPortDisable; exact ⟨_, rfl, by simp +contextual (maxDischargeDepth := 90) [hs]⟩
theorem execPortLaneRestore_mo (c : Caller) (port : Nat) (s : State) (hs : s.mo) : ∃ q, execPortLaneRestore c port s = .next q ∧ q.mo := by
  unfold execPortLaneRestore; exact ⟨_, rfl, by simp +contextual (maxDischargeDepth := 90) [hs]⟩
theorem execPortCreditAllocation_mo (c : Caller) (port : Nat) (init : List Nat) (s : State) (hs : s.mo) : ∃ q, execPortCreditAllocation c port init s = .next q ∧ q.mo := by
  unfold execPortCreditAllocation; exact ⟨_, rfl, by simp +contextual (maxDischargeDepth := 90) [hs]⟩
/-! ### MbCommit -/

theorem execRole_mo (c : Caller) (elig : Nat) (s : State) (hs : s.mo) : ∃ q, execRole c elig s = .next q ∧ q.mo := by
  unfold execRole; exact ⟨_, rfl, by simp +contextual (maxDischargeDepth := 90) [hs]⟩
theorem execOptSetCreate_mo (c : Caller) (part stmo : Nat) (s : State) (hs : s.mo) : ∃ q, execOptSetCreate c part stmo s = .next q ∧ q.mo := by
  unfold execOptSetCreate; exact ⟨_, rfl, by simp +contextual (maxDischargeDepth := 90) [hs]⟩
theorem execOptSetDelete_mo (c : Caller) (part set : Nat) (s : State) (hs : s.mo) : ∃ q, execOptSetDelete c part set s = .next q ∧ q.mo := by
  unfold execOptSetDelete
  refine ⟨_, rfl, settle_mo _ (mbox_mo _ _ _ _ _ _ _ (fun m a ha => respond_mo _ _ _ _ _ _ _ ?_) hs)⟩
  have h : ∀ o : Option Nat, State.mo (o.elim a fun k => a.modMember part k fun y => { y with sets := y.sets.filter (· != set) }) :=
    fun o => elim_mo (fun k => modMember_mo _ _ _ _ ha) ha
  exact h _
theorem execOptSetQuery_mo (c : Caller) (part set : Nat) (s : State) (hs : s.mo) : ∃ q, execOptSetQuery c part set s = .next q ∧ q.mo := by
  unfold execOptSetQuery; exact ⟨_, rfl, by simp +contextual (maxDischargeDepth := 90) [hs]⟩
theorem execUpdateStage_mo (c : Caller) (part set : Nat) (b : List Byte) (s : State) (hs : s.mo) : ∃ q, execUpdateStage c part set b s = .next q ∧ q.mo := by
  unfold execUpdateStage; exact ⟨_, rfl, by simp +contextual (maxDischargeDepth := 90) [hs]⟩
theorem execSetResolveCommit_mo (c : Caller) (part set : Nat) (s : State) (hs : s.mo) : ∃ q, execSetResolveCommit c part set s = .next q ∧ q.mo := by
  unfold execSetResolveCommit; exact ⟨_, rfl, by simp +contextual (maxDischargeDepth := 90) [hs]⟩
theorem execSetResolveAbort_mo (c : Caller) (part set : Nat) (s : State) (hs : s.mo) : ∃ q, execSetResolveAbort c part set s = .next q ∧ q.mo := by
  unfold execSetResolveAbort; exact ⟨_, rfl, by simp +contextual (maxDischargeDepth := 90) [hs]⟩
theorem execStepBind_mo (c : Caller) (ctx set sig score rcva : Nat) (s : State) (hs : s.mo) : ∃ q, execStepBind c ctx set sig score rcva s = .next q ∧ q.mo := by
  unfold execStepBind; exact ⟨_, rfl, by simp +contextual (maxDischargeDepth := 90) [hs]⟩
theorem execLossScaleSet_mo (c : Caller) (part set dyn lse lsmin lsmax ngrow : Nat) (s : State) (hs : s.mo) : ∃ q, execLossScaleSet c part set dyn lse lsmin lsmax ngrow s = .next q ∧ q.mo := by
  unfold execLossScaleSet; exact ⟨_, rfl, by simp +contextual (maxDischargeDepth := 90) [hs]⟩
theorem execLossScaleQuery_mo (c : Caller) (part set : Nat) (s : State) (hs : s.mo) : ∃ q, execLossScaleQuery c part set s = .next q ∧ q.mo := by
  unfold execLossScaleQuery; exact ⟨_, rfl, by simp +contextual (maxDischargeDepth := 90) [hs]⟩
theorem execCommitGroupStage_mo (c : Caller) (part buf : Nat) (acts : List Byte) (s : State) (hs : s.mo) : ∃ q, execCommitGroupStage c part buf acts s = .next q ∧ q.mo := by
  unfold execCommitGroupStage; exact ⟨_, rfl, by simp +contextual (maxDischargeDepth := 90) [hs]⟩
theorem execCommitGroupApply_mo (c : Caller) (part buf : Nat) (s : State) (hs : s.mo) : ∃ q, execCommitGroupApply c part buf s = .next q ∧ q.mo := by
  unfold execCommitGroupApply
  refine ⟨_, rfl, settle_mo _ (mbox_mo _ _ _ _ _ _ _ (fun m a hs => ?_) hs)⟩
  dsimp only; (repeat' split) <;> simp (maxDischargeDepth := 90) [hs]
theorem execCommitGroupBind_mo (c : Caller) (part buf set : Nat) (s : State) (hs : s.mo) : ∃ q, execCommitGroupBind c part buf set s = .next q ∧ q.mo := by
  unfold execCommitGroupBind; exact ⟨_, rfl, by simp +contextual (maxDischargeDepth := 90) [hs]⟩
theorem execCommitGroupDiscard_mo (c : Caller) (part buf : Nat) (s : State) (hs : s.mo) : ∃ q, execCommitGroupDiscard c part buf s = .next q ∧ q.mo := by
  unfold execCommitGroupDiscard; exact ⟨_, rfl, by simp +contextual (maxDischargeDepth := 90) [hs]⟩
theorem execCommitGroupQuery_mo (c : Caller) (part buf : Nat) (s : State) (hs : s.mo) : ∃ q, execCommitGroupQuery c part buf s = .next q ∧ q.mo := by
  unfold execCommitGroupQuery; exact ⟨_, rfl, by simp +contextual (maxDischargeDepth := 90) [hs]⟩
theorem execJobStepBind_mo (c : Caller) (part job sets nctx sig score : Nat) (s : State) (hs : s.mo) : ∃ q, execJobStepBind c part job sets nctx sig score s = .next q ∧ q.mo := by
  unfold execJobStepBind; refine ⟨_, rfl, ?_⟩
  repeat' first | with_reducible assumption | (with_reducible refine settle_mo _ ?_) | (with_reducible refine mbox_mo _ _ _ _ _ _ _ (fun m a hs => ?_) ?_) | (with_reducible refine atPort_mo _ _ _ (fun p _ => ?_) ?_) | (with_reducible refine jobPacket_mo _ _ _ _ _ (fun _ _ _ _ _ a hs => ?_) ?_) | (with_reducible refine current_mo _ _ _ ?_ ?_) | (with_reducible refine collPacket_mo _ _ _ _ (fun _ _ a hs => ?_) ?_) | (with_reducible refine mboxPast_mo _ _ _ _ _ _ _ (fun m a hs => ?_) ?_) | (with_reducible refine ctxCmd_mo _ _ _ _ _ _ (fun m a hs => ?_) ?_) | (with_reducible refine keyMessage_mo _ _ _ _ _ _ _ _ _ (fun a hs => ?_) ?_) | (with_reducible refine sbGo_mo _ _ _ _ _ (fun a hs => ?_) ?_) | (with_reducible refine receive_mo _ _ _ _ _ (fun p a hs => ?_) ?_) | (with_reducible refine atFn_mo _ _ _ ?_ ?_) | (with_reducible refine sbWrite_mo _ _ _ ?_ ?_) | (with_reducible refine foldl_mo (fun a b hs => ?_) ?_) | (with_reducible refine foldl_mo1 (fun a b hs => ?_) ?_) | (with_reducible refine elim_mo (fun a => ?_) ?_) | (with_reducible refine elim_mo1 (fun a => ?_) ?_) | split | simp +contextual (maxDischargeDepth := 90) [hs, foldl_mo, foldl_mo1, foldr_mo]
theorem execJobStepUnbind_mo (c : Caller) (part job sets : Nat) (s : State) (hs : s.mo) : ∃ q, execJobStepUnbind c part job sets s = .next q ∧ q.mo := by
  unfold execJobStepUnbind; refine ⟨_, rfl, ?_⟩
  repeat' first | with_reducible assumption | (with_reducible refine settle_mo _ ?_) | (with_reducible refine mbox_mo _ _ _ _ _ _ _ (fun m a hs => ?_) ?_) | (with_reducible refine atPort_mo _ _ _ (fun p _ => ?_) ?_) | (with_reducible refine jobPacket_mo _ _ _ _ _ (fun _ _ _ _ _ a hs => ?_) ?_) | (with_reducible refine current_mo _ _ _ ?_ ?_) | (with_reducible refine collPacket_mo _ _ _ _ (fun _ _ a hs => ?_) ?_) | (with_reducible refine mboxPast_mo _ _ _ _ _ _ _ (fun m a hs => ?_) ?_) | (with_reducible refine ctxCmd_mo _ _ _ _ _ _ (fun m a hs => ?_) ?_) | (with_reducible refine keyMessage_mo _ _ _ _ _ _ _ _ _ (fun a hs => ?_) ?_) | (with_reducible refine sbGo_mo _ _ _ _ _ (fun a hs => ?_) ?_) | (with_reducible refine receive_mo _ _ _ _ _ (fun p a hs => ?_) ?_) | (with_reducible refine atFn_mo _ _ _ ?_ ?_) | (with_reducible refine sbWrite_mo _ _ _ ?_ ?_) | (with_reducible refine foldl_mo (fun a b hs => ?_) ?_) | (with_reducible refine foldl_mo1 (fun a b hs => ?_) ?_) | (with_reducible refine elim_mo (fun a => ?_) ?_) | (with_reducible refine elim_mo1 (fun a => ?_) ?_) | split | simp +contextual (maxDischargeDepth := 90) [hs, foldl_mo, foldl_mo1, foldr_mo]
theorem execTreeForm_mo (c : Caller) (job fan skipovf vtmo dectmo rstmo : Nat) (elig : List Byte) (s : State) (hs : s.mo) :
    ∃ q, execTreeForm c job fan skipovf vtmo dectmo rstmo elig s = .next q ∧ q.mo := by
  unfold execTreeForm
  refine ⟨_, rfl, settle_mo _ (mbox_mo _ _ _ _ _ _ _ (fun m a ha => ?_) hs)⟩
  split
  · exact run_mo _ _ _ _ _ _ (takeHellos_mo _ _ _ ha)
  · exact respond_mo _ _ _ _ _ _ _ ha
theorem execJobFault_mo (c : Caller) (part job : Nat) (s : State) (hs : s.mo) : ∃ q, execJobFault c part job s = .next q ∧ q.mo := by
  unfold execJobFault; exact ⟨_, rfl, by simp +contextual (maxDischargeDepth := 90) [hs]⟩
/-! ### MbSecurity -/

theorem execSpdm_mo (c : Caller) (msg : List Byte) (opens ends : Option Nat) (s : State) (hs : s.mo) : ∃ q, execSpdm c msg opens ends s = .next q ∧ q.mo := by
  unfold execSpdm; exact ⟨_, rfl, by simp +contextual (maxDischargeDepth := 90) [hs]⟩
theorem execSpdmSessionTimeout_mo (transport session : Nat) (s : State) (hs : s.mo) : ∃ q, execSpdmSessionTimeout transport session s = .next q ∧ q.mo := by
  unfold execSpdmSessionTimeout; exact ⟨_, rfl, by simp [hs]⟩
theorem execKeyDeliver_mo (transport session : Nat) (d : List Byte) (s : State) (hs : s.mo) : ∃ q, execKeyDeliver transport session d s = .next q ∧ q.mo := by
  unfold execKeyDeliver; exact ⟨_, rfl, by simp +contextual (maxDischargeDepth := 90) [hs]⟩
theorem execKeyErase_mo (transport session : Nat) (d : List Byte) (s : State) (hs : s.mo) : ∃ q, execKeyErase transport session d s = .next q ∧ q.mo := by
  unfold execKeyErase; exact ⟨_, rfl, by simp +contextual (maxDischargeDepth := 90) [hs]⟩
theorem execKeyQuery_mo (transport session : Nat) (d : List Byte) (s : State) (hs : s.mo) : ∃ q, execKeyQuery transport session d s = .next q ∧ q.mo := by
  unfold execKeyQuery; exact ⟨_, rfl, by simp [hs]⟩
theorem execKeyRelease_mo (c : Caller) (part h : Nat) (s : State) (hs : s.mo) : ∃ q, execKeyRelease c part h s = .next q ∧ q.mo := by
  unfold execKeyRelease; refine ⟨_, rfl, ?_⟩
  repeat' first | with_reducible assumption | (with_reducible refine settle_mo _ ?_) | (with_reducible refine mbox_mo _ _ _ _ _ _ _ (fun m a hs => ?_) ?_) | (with_reducible refine atPort_mo _ _ _ (fun p _ => ?_) ?_) | (with_reducible refine jobPacket_mo _ _ _ _ _ (fun _ _ _ _ _ a hs => ?_) ?_) | (with_reducible refine current_mo _ _ _ ?_ ?_) | (with_reducible refine collPacket_mo _ _ _ _ (fun _ _ a hs => ?_) ?_) | (with_reducible refine mboxPast_mo _ _ _ _ _ _ _ (fun m a hs => ?_) ?_) | (with_reducible refine ctxCmd_mo _ _ _ _ _ _ (fun m a hs => ?_) ?_) | (with_reducible refine keyMessage_mo _ _ _ _ _ _ _ _ _ (fun a hs => ?_) ?_) | (with_reducible refine sbGo_mo _ _ _ _ _ (fun a hs => ?_) ?_) | (with_reducible refine receive_mo _ _ _ _ _ (fun p a hs => ?_) ?_) | (with_reducible refine atFn_mo _ _ _ ?_ ?_) | (with_reducible refine sbWrite_mo _ _ _ ?_ ?_) | (with_reducible refine foldl_mo (fun a b hs => ?_) ?_) | (with_reducible refine foldl_mo1 (fun a b hs => ?_) ?_) | (with_reducible refine elim_mo (fun a => ?_) ?_) | (with_reducible refine elim_mo1 (fun a => ?_) ?_) | split | simp +contextual (maxDischargeDepth := 90) [hs, foldl_mo, foldl_mo1, foldr_mo]
theorem execKeyReleaseErase_mo (c : Caller) (part h : Nat) (s : State) (hs : s.mo) : ∃ q, execKeyReleaseErase c part h s = .next q ∧ q.mo := by
  unfold execKeyReleaseErase; exact ⟨_, rfl, by simp +contextual (maxDischargeDepth := 90) [hs]⟩
theorem execKeyReleaseQuery_mo (c : Caller) (part h : Nat) (s : State) (hs : s.mo) : ∃ q, execKeyReleaseQuery c part h s = .next q ∧ q.mo := by
  unfold execKeyReleaseQuery; exact ⟨_, rfl, by simp +contextual (maxDischargeDepth := 90) [hs]⟩
theorem execConfModeEnter_mo (c : Caller) (session : Nat) (s : State) (hs : s.mo) : ∃ q, execConfModeEnter c session s = .next q ∧ q.mo := by
  unfold execConfModeEnter; exact ⟨_, rfl, by simp +contextual (maxDischargeDepth := 90) [hs]⟩
theorem execConfModeLeave_mo (c : Caller) (s : State) (hs : s.mo) : ∃ q, execConfModeLeave c s = .next q ∧ q.mo := by
  unfold execConfModeLeave; exact ⟨_, rfl, by simp +contextual (maxDischargeDepth := 90) [hs]⟩
theorem execConfModeKeyUpdate_mo (c : Caller) (s : State) (hs : s.mo) : ∃ q, execConfModeKeyUpdate c s = .next q ∧ q.mo := by
  unfold execConfModeKeyUpdate; refine ⟨_, rfl, ?_⟩
  repeat' first | with_reducible assumption | (with_reducible refine settle_mo _ ?_) | (with_reducible refine mbox_mo _ _ _ _ _ _ _ (fun m a hs => ?_) ?_) | (with_reducible refine atPort_mo _ _ _ (fun p _ => ?_) ?_) | (with_reducible refine jobPacket_mo _ _ _ _ _ (fun _ _ _ _ _ a hs => ?_) ?_) | (with_reducible refine current_mo _ _ _ ?_ ?_) | (with_reducible refine collPacket_mo _ _ _ _ (fun _ _ a hs => ?_) ?_) | (with_reducible refine mboxPast_mo _ _ _ _ _ _ _ (fun m a hs => ?_) ?_) | (with_reducible refine ctxCmd_mo _ _ _ _ _ _ (fun m a hs => ?_) ?_) | (with_reducible refine keyMessage_mo _ _ _ _ _ _ _ _ _ (fun a hs => ?_) ?_) | (with_reducible refine sbGo_mo _ _ _ _ _ (fun a hs => ?_) ?_) | (with_reducible refine receive_mo _ _ _ _ _ (fun p a hs => ?_) ?_) | (with_reducible refine atFn_mo _ _ _ ?_ ?_) | (with_reducible refine sbWrite_mo _ _ _ ?_ ?_) | (with_reducible refine foldl_mo (fun a b hs => ?_) ?_) | (with_reducible refine foldl_mo1 (fun a b hs => ?_) ?_) | (with_reducible refine elim_mo (fun a => ?_) ?_) | (with_reducible refine elim_mo1 (fun a => ?_) ?_) | split | simp +contextual (maxDischargeDepth := 90) [hs, foldl_mo, foldl_mo1, foldr_mo]
theorem execDebugUnlockChallenge_mo (c : Caller) (s : State) (hs : s.mo) : ∃ q, execDebugUnlockChallenge c s = .next q ∧ q.mo := by
  unfold execDebugUnlockChallenge; exact ⟨_, rfl, by simp +contextual (maxDischargeDepth := 90) [hs]⟩
theorem execDebugUnlock_mo (c : Caller) (t : List Byte) (s : State) (hs : s.mo) : ∃ q, execDebugUnlock c t s = .next q ∧ q.mo := by
  unfold execDebugUnlock; exact ⟨_, rfl, by simp +contextual (maxDischargeDepth := 90) [hs]⟩
theorem execDebugZeroiseTimeout_mo (s : State) (hs : s.mo) : ∃ q, execDebugZeroiseTimeout s = .next q ∧ q.mo := by
  unfold execDebugZeroiseTimeout; exact ⟨_, rfl, by simp [hs]⟩
/-! ### MbPower -/

theorem execPowerStateForce_mo (c : Caller) (kind unit st : Nat) (s : State) (hs : s.mo) : ∃ q, execPowerStateForce c kind unit st s = .next q ∧ q.mo := by
  unfold execPowerStateForce; exact ⟨_, rfl, by simp +contextual (maxDischargeDepth := 90) [hs]⟩
theorem execPowerStateRelease_mo (c : Caller) (kind unit : Nat) (s : State) (hs : s.mo) : ∃ q, execPowerStateRelease c kind unit s = .next q ∧ q.mo := by
  unfold execPowerStateRelease; exact ⟨_, rfl, by simp +contextual (maxDischargeDepth := 90) [hs]⟩
theorem execPowerStateSetDivider_mo (c : Caller) (part div : Nat) (s : State) (hs : s.mo) : ∃ q, execPowerStateSetDivider c part div s = .next q ∧ q.mo := by
  unfold execPowerStateSetDivider; exact ⟨_, rfl, by simp +contextual (maxDischargeDepth := 90) [hs]⟩
theorem execLtol_mo (c : Caller) (part tol : Nat) (s : State) (hs : s.mo) : ∃ q, execLtol c part tol s = .next q ∧ q.mo := by
  unfold execLtol
  exact ⟨_, rfl, settle_mo _ (mbox_mo _ _ _ _ _ _ _ (fun m a ha => respond_mo _ _ _ _ _ _ _ (wakeForLtol_mo _ ha)) hs)⟩
theorem execPowerCap_mo (c : Caller) (cap : Nat) (s : State) (hs : s.mo) : ∃ q, execPowerCap c cap s = .next q ∧ q.mo := by
  unfold execPowerCap; exact ⟨_, rfl, by simp +contextual (maxDischargeDepth := 90) [hs]⟩
theorem execPowerStatus_mo (c : Caller) (s : State) (hs : s.mo) : ∃ q, execPowerStatus c s = .next q ∧ q.mo := by
  unfold execPowerStatus; exact ⟨_, rfl, by simp +contextual (maxDischargeDepth := 90) [hs]⟩
/-! ### MbFault -/

theorem execFaultConfigWrite_mo (c : Caller) (src cfg : Nat) (s : State) (hs : s.mo) : ∃ q, execFaultConfigWrite c src cfg s = .next q ∧ q.mo := by
  unfold execFaultConfigWrite; exact ⟨_, rfl, by simp +contextual (maxDischargeDepth := 90) [hs]⟩
theorem execFaultConfigRead_mo (c : Caller) (s : State) (hs : s.mo) : ∃ q, execFaultConfigRead c s = .next q ∧ q.mo := by
  unfold execFaultConfigRead; exact ⟨_, rfl, by simp +contextual (maxDischargeDepth := 90) [hs]⟩
theorem execFaultConfigFaultN_mo (c : Caller) (mode fnpw : Nat) (s : State) (hs : s.mo) : ∃ q, execFaultConfigFaultN c mode fnpw s = .next q ∧ q.mo := by
  unfold execFaultConfigFaultN; exact ⟨_, rfl, by simp +contextual (maxDischargeDepth := 90) [hs]⟩
theorem execFaultConfigRelease_mo (c : Caller) (s : State) (hs : s.mo) : ∃ q, execFaultConfigRelease c s = .next q ∧ q.mo := by
  unfold execFaultConfigRelease; exact ⟨_, rfl, by simp +contextual (maxDischargeDepth := 90) [hs]⟩
theorem execFaultConfigPatrol_mo (c : Caller) (iper sper : Nat) (s : State) (hs : s.mo) : ∃ q, execFaultConfigPatrol c iper sper s = .next q ∧ q.mo := by
  unfold execFaultConfigPatrol; exact ⟨_, rfl, by simp +contextual (maxDischargeDepth := 90) [hs]⟩
theorem execFaultConfigInject_mo (c : Caller) (src unit part ctx : Nat) (s : State) (hs : s.mo) : ∃ q, execFaultConfigInject c src unit part ctx s = .next q ∧ q.mo := by
  unfold execFaultConfigInject; exact ⟨_, rfl, by simp +contextual (maxDischargeDepth := 90) [hs]⟩
theorem execFaultConfigWatchdog_mo (c : Caller) (wdt : Nat) (s : State) (hs : s.mo) : ∃ q, execFaultConfigWatchdog c wdt s = .next q ∧ q.mo := by
  unfold execFaultConfigWatchdog; exact ⟨_, rfl, by simp +contextual (maxDischargeDepth := 90) [hs]⟩
theorem execFaultRecordsRead_mo (c : Caller) (start max : Nat) (s : State) (hs : s.mo) : ∃ q, execFaultRecordsRead c start max s = .next q ∧ q.mo := by
  unfold execFaultRecordsRead; exact ⟨_, rfl, by simp +contextual (maxDischargeDepth := 90) [hs]⟩
theorem execFaultRecordsPersistent_mo (c : Caller) (s : State) (hs : s.mo) : ∃ q, execFaultRecordsPersistent c s = .next q ∧ q.mo := by
  unfold execFaultRecordsPersistent; exact ⟨_, rfl, by simp +contextual (maxDischargeDepth := 90) [hs]⟩
theorem execMemStatus_mo (c : Caller) (s : State) (hs : s.mo) : ∃ q, execMemStatus c s = .next q ∧ q.mo := by
  unfold execMemStatus; exact ⟨_, rfl, by simp +contextual (maxDischargeDepth := 90) [hs]⟩
theorem execCorrLog_mo (c : Caller) (st : Nat) (s : State) (hs : s.mo) : ∃ q, execCorrLog c st s = .next q ∧ q.mo := by
  unfold execCorrLog; exact ⟨_, rfl, by simp +contextual (maxDischargeDepth := 90) [hs]⟩
theorem execPortStatus_mo (c : Caller) (s : State) (hs : s.mo) : ∃ q, execPortStatus c s = .next q ∧ q.mo := by
  unfold execPortStatus; exact ⟨_, rfl, by simp +contextual (maxDischargeDepth := 90) [hs]⟩
theorem execFabricStatus_mo (c : Caller) (s : State) (hs : s.mo) : ∃ q, execFabricStatus c s = .next q ∧ q.mo := by
  unfold execFabricStatus; exact ⟨_, rfl, by simp +contextual (maxDischargeDepth := 90) [hs]⟩
theorem execFwUpdateWrite_mo (c : Caller) (kind : Nat) (img : List Byte) (s : State) (hs : s.mo) : ∃ q, execFwUpdateWrite c kind img s = .next q ∧ q.mo := by
  unfold execFwUpdateWrite; exact ⟨_, rfl, by simp +contextual (maxDischargeDepth := 90) [hs]⟩
theorem execFwUpdateQuery_mo (c : Caller) (s : State) (hs : s.mo) : ∃ q, execFwUpdateQuery c s = .next q ∧ q.mo := by
  unfold execFwUpdateQuery; exact ⟨_, rfl, by simp +contextual (maxDischargeDepth := 90) [hs]⟩
theorem execLogRead_mo (c : Caller) (start max : Nat) (s : State) (hs : s.mo) : ∃ q, execLogRead c start max s = .next q ∧ q.mo := by
  unfold execLogRead; exact ⟨_, rfl, by simp +contextual (maxDischargeDepth := 90) [hs]⟩
theorem execCrashDumpRead_mo (c : Caller) (s : State) (hs : s.mo) : ∃ q, execCrashDumpRead c s = .next q ∧ q.mo := by
  unfold execCrashDumpRead; exact ⟨_, rfl, by simp +contextual (maxDischargeDepth := 90) [hs]⟩
theorem execCrashDumpClear_mo (c : Caller) (s : State) (hs : s.mo) : ∃ q, execCrashDumpClear c s = .next q ∧ q.mo := by
  unfold execCrashDumpClear; exact ⟨_, rfl, by simp +contextual (maxDischargeDepth := 90) [hs]⟩
/-! ### Faults -/

theorem execFaultSweep_mo (s : State) (hs : s.mo) : ∃ q, execFaultSweep s = .next q ∧ q.mo := by
  unfold execFaultSweep; exact ⟨_, rfl, by simp [hs]⟩
theorem execBlockResetComplete_mo (ukind unit : Nat) (s : State) (hs : s.mo) : ∃ q, execBlockResetComplete ukind unit s = .next q ∧ q.mo := by
  unfold execBlockResetComplete; exact ⟨_, rfl, by simp [hs]⟩
theorem execFaultNPulseEnd_mo (s : State) (hs : s.mo) : ∃ q, execFaultNPulseEnd s = .next q ∧ q.mo := by
  unfold execFaultNPulseEnd; exact ⟨_, rfl, by simp [hs]⟩
theorem execFaultNGapEnd_mo (s : State) (hs : s.mo) : ∃ q, execFaultNGapEnd s = .next q ∧ q.mo := by
  unfold execFaultNGapEnd; (repeat' split) <;> exact ⟨_, rfl, by simp [hs]⟩
theorem execFaultNHoldRelease_mo (ok : Bool) (s : State) (hs : s.mo) : ∃ q, execFaultNHoldRelease ok s = .next q ∧ q.mo := by
  unfold execFaultNHoldRelease; exact ⟨_, rfl, by simp [hs]⟩
theorem execIslePatrolRead_mo (core : Nat) (fl : List (Nat × Nat)) (s : State) (hs : s.mo) : ∃ q, execIslePatrolRead core fl s = .next q ∧ q.mo := by
  unfold execIslePatrolRead; exact ⟨_, rfl, by simp [hs]⟩
theorem execStackPatrolRead_mo (stack : Nat) (errs : List (Nat × Nat)) (s : State) (hs : s.mo) : ∃ q, execStackPatrolRead stack errs s = .next q ∧ q.mo := by
  unfold execStackPatrolRead; exact ⟨_, rfl, by simp [hs]⟩
theorem execControlSramPatrol_mo (fl : List (Nat × Nat)) (s : State) (hs : s.mo) : ∃ q, execControlSramPatrol fl s = .next q ∧ q.mo := by
  unfold execControlSramPatrol; refine ⟨_, rfl, settle_mo _ ?_⟩
  split
  · exact hs
  · exact foldl_mo (fun a p ha => meetSram_mo _ _ _ ha) (by simp [hs])
theorem execWatchdogKick_mo (s : State) (hs : s.mo) : ∃ q, execWatchdogKick s = .next q ∧ q.mo := by
  unfold execWatchdogKick; exact ⟨_, rfl, by simp [hs]⟩
theorem execWatchdogFirstExpiry_mo (s : State) (hs : s.mo) : ∃ q, execWatchdogFirstExpiry s = .next q ∧ q.mo := by
  unfold execWatchdogFirstExpiry; exact ⟨_, rfl, by simp [hs]⟩
theorem execWatchdogSecondExpiry_mo (s : State) (hs : s.mo) : ∃ q, execWatchdogSecondExpiry s = .next q ∧ q.mo := by
  unfold execWatchdogSecondExpiry; exact ⟨_, rfl, by simp [hs]⟩
theorem execEnclaveWatchdogExpiry_mo (s : State) (hs : s.mo) : ∃ q, execEnclaveWatchdogExpiry s = .next q ∧ q.mo := by
  unfold execEnclaveWatchdogExpiry; exact ⟨_, rfl, by simp [hs]⟩
/-! ### Power -/

theorem execPowerSample_mo (vin iin : Nat) (s : State) (hs : s.mo) : ∃ q, execPowerSample vin iin s = .next q ∧ q.mo := by
  unfold execPowerSample; exact ⟨_, rfl, by simp [hs]⟩
theorem execInputVoltageLow_mo (s : State) (hs : s.mo) : ∃ q, execInputVoltageLow s = .next q ∧ q.mo := by
  unfold execInputVoltageLow; exact ⟨_, rfl, by simp [hs]⟩
theorem execInputVoltageOutOfRange_mo (s : State) (hs : s.mo) : ∃ q, execInputVoltageOutOfRange s = .next q ∧ q.mo := by
  unfold execInputVoltageOutOfRange; exact ⟨_, rfl, by simp [hs]⟩
theorem execFastLimit_mo (s : State) (hs : s.mo) : ∃ q, execFastLimit s = .next q ∧ q.mo := by
  unfold execFastLimit; exact ⟨_, rfl, by simp [hs]⟩
theorem execFastLimitEnd_mo (s : State) (hs : s.mo) : ∃ q, execFastLimitEnd s = .next q ∧ q.mo := by
  unfold execFastLimitEnd; exact ⟨_, rfl, by simp [hs]⟩
theorem execInputOvercurrent_mo (s : State) (hs : s.mo) : ∃ q, execInputOvercurrent s = .next q ∧ q.mo := by
  unfold execInputOvercurrent; exact ⟨_, rfl, by simp [hs]⟩
theorem execPowerCapWindow_mo (avg : Nat) (s : State) (hs : s.mo) : ∃ q, execPowerCapWindow avg s = .next q ∧ q.mo := by
  unfold execPowerCapWindow; exact ⟨_, rfl, by simp [hs]⟩
theorem execThermalSample_mo (junction stackTs others : List Int) (s : State) (hs : s.mo) : ∃ q, execThermalSample junction stackTs others s = .next q ∧ q.mo := by
  unfold execThermalSample; exact ⟨_, rfl, by simp [hs]⟩
theorem execThermalWindow_mo (eighth : Nat) (s : State) (hs : s.mo) : ∃ q, execThermalWindow eighth s = .next q ∧ q.mo := by
  unfold execThermalWindow; exact ⟨_, rfl, by simp [hs]⟩
theorem execThermalTrip_mo (s : State) (hs : s.mo) : ∃ q, execThermalTrip s = .next q ∧ q.mo := by
  unfold execThermalTrip; dsimp only; (repeat' split) <;> refine ⟨_, rfl, ?_⟩
  all_goals (repeat' first | with_reducible assumption | (with_reducible refine settle_mo _ ?_) | (with_reducible refine mbox_mo _ _ _ _ _ _ _ (fun m a hs => ?_) ?_) | (with_reducible refine atPort_mo _ _ _ (fun p _ => ?_) ?_) | (with_reducible refine jobPacket_mo _ _ _ _ _ (fun _ _ _ _ _ a hs => ?_) ?_) | (with_reducible refine current_mo _ _ _ ?_ ?_) | (with_reducible refine collPacket_mo _ _ _ _ (fun _ _ a hs => ?_) ?_) | (with_reducible refine mboxPast_mo _ _ _ _ _ _ _ (fun m a hs => ?_) ?_) | (with_reducible refine ctxCmd_mo _ _ _ _ _ _ (fun m a hs => ?_) ?_) | (with_reducible refine keyMessage_mo _ _ _ _ _ _ _ _ _ (fun a hs => ?_) ?_) | (with_reducible refine sbGo_mo _ _ _ _ _ (fun a hs => ?_) ?_) | (with_reducible refine receive_mo _ _ _ _ _ (fun p a hs => ?_) ?_) | (with_reducible refine atFn_mo _ _ _ ?_ ?_) | (with_reducible refine sbWrite_mo _ _ _ ?_ ?_) | (with_reducible refine foldl_mo (fun a b hs => ?_) ?_) | (with_reducible refine foldl_mo1 (fun a b hs => ?_) ?_) | (with_reducible refine elim_mo (fun a => ?_) ?_) | (with_reducible refine elim_mo1 (fun a => ?_) ?_) | split | simp +contextual (maxDischargeDepth := 90) [hs, foldl_mo, foldl_mo1, foldr_mo])
theorem execDividerChange_mo (eighth : Nat) (s : State) (hs : s.mo) : ∃ q, execDividerChange eighth s = .next q ∧ q.mo := by
  unfold execDividerChange; exact ⟨_, rfl, by simp [hs]⟩
theorem execPllLock_mo (s : State) (hs : s.mo) : ∃ q, execPllLock s = .next q ∧ q.mo := by
  unfold execPllLock; exact ⟨_, rfl, by simp [hs]⟩
theorem execPllLockTimeout_mo (s : State) (hs : s.mo) : ∃ q, execPllLockTimeout s = .next q ∧ q.mo := by
  unfold execPllLockTimeout; exact ⟨_, rfl, by simp [hs]⟩
theorem execPllLockLoss_mo (s : State) (hs : s.mo) : ∃ q, execPllLockLoss s = .next q ∧ q.mo := by
  unfold execPllLockLoss; exact ⟨_, rfl, by simp [hs]⟩
theorem execRailPowerGoodLost_mo (domain : Nat) (s : State) (hs : s.mo) : ∃ q, execRailPowerGoodLost domain s = .next q ∧ q.mo := by
  unfold execRailPowerGoodLost; exact ⟨_, rfl, by simp [hs]⟩
theorem execDomainIdleDescent_mo (kind unit sub : Nat) (s : State) (hs : s.mo) : ∃ q, execDomainIdleDescent kind unit sub s = .next q ∧ q.mo := by
  unfold execDomainIdleDescent; exact ⟨_, rfl, by simp [hs]⟩
theorem execDomainWake_mo (kind unit sub : Nat) (s : State) (hs : s.mo) : ∃ q, execDomainWake kind unit sub s = .next q ∧ q.mo := by
  unfold execDomainWake; exact ⟨_, rfl, by simp [hs]⟩
theorem execForcedStateReached_mo (kind unit : Nat) (s : State) (hs : s.mo) : ∃ q, execForcedStateReached kind unit s = .next q ∧ q.mo := by
  unfold execForcedStateReached; exact ⟨_, rfl, by simp [hs]⟩
/-! ### Startup -/

theorem execAlwaysOnPowerUp_mo (vin : Nat) (pwrEn resetN perstN eoffN mgr : Bool) (slot fold : Nat) (s : State) (hs : s.mo) :
    ∃ q, execAlwaysOnPowerUp vin pwrEn resetN perstN eoffN mgr slot fold s = .next q ∧ q.mo := by
  unfold execAlwaysOnPowerUp
  refine ⟨_, rfl, ?_⟩
  split
  · exact hs
  · exact tryStart_mo _ hs
theorem execPwrEnAssert_mo (s : State) (hs : s.mo) : ∃ q, execPwrEnAssert s = .next q ∧ q.mo := by
  unfold execPwrEnAssert; exact ⟨_, rfl, by simp [hs]⟩
theorem execRailsInRegulation_mo (s : State) (hs : s.mo) : ∃ q, execRailsInRegulation s = .next q ∧ q.mo := by
  unfold execRailsInRegulation; exact ⟨_, rfl, by simp [hs]⟩
theorem execRailRegulationTimeout_mo (domain : Nat) (s : State) (hs : s.mo) : ∃ q, execRailRegulationTimeout domain s = .next q ∧ q.mo := by
  unfold execRailRegulationTimeout; exact ⟨_, rfl, by simp [hs]⟩
theorem execPwrEnDeassert_mo (s : State) (hs : s.mo) : ∃ q, execPwrEnDeassert s = .next q ∧ q.mo := by
  unfold execPwrEnDeassert; exact ⟨_, rfl, by simp [hs]⟩
theorem execResetNAssert_mo (s : State) (hs : s.mo) : ∃ q, execResetNAssert s = .next q ∧ q.mo := by
  unfold execResetNAssert; exact ⟨_, rfl, by simp [hs]⟩
theorem execResetNDeassert_mo (s : State) (hs : s.mo) : ∃ q, execResetNDeassert s = .next q ∧ q.mo := by
  unfold execResetNDeassert; exact ⟨_, rfl, by simp [hs]⟩
theorem execChipResetHoldEnd_mo (s : State) (hs : s.mo) : ∃ q, execChipResetHoldEnd s = .next q ∧ q.mo := by
  unfold execChipResetHoldEnd; exact ⟨_, rfl, by simp [hs]⟩
theorem execPerstNAssert_mo (s : State) (hs : s.mo) : ∃ q, execPerstNAssert s = .next q ∧ q.mo := by
  unfold execPerstNAssert; exact ⟨_, rfl, by simp [hs]⟩
theorem execPerstNDeassert_mo (s : State) (hs : s.mo) : ∃ q, execPerstNDeassert s = .next q ∧ q.mo := by
  unfold execPerstNDeassert; exact ⟨_, rfl, by simp [hs]⟩
theorem execEoffNAssert_mo (s : State) (hs : s.mo) : ∃ q, execEoffNAssert s = .next q ∧ q.mo := by
  unfold execEoffNAssert; exact ⟨_, rfl, by simp [hs]⟩
theorem execEoffNDeassert_mo (s : State) (hs : s.mo) : ∃ q, execEoffNDeassert s = .next q ∧ q.mo := by
  unfold execEoffNDeassert; exact ⟨_, rfl, by simp [hs]⟩
theorem execStrapChange_mo (mgr : Bool) (slot fold : Nat) (s : State) (hs : s.mo) : ∃ q, execStrapChange mgr slot fold s = .next q ∧ q.mo := by
  unfold execStrapChange; exact ⟨_, rfl, by simp [hs]⟩
theorem execEnclaveBootComplete_mo (katOk : Bool) (s : State) (hs : s.mo) : ∃ q, execEnclaveBootComplete katOk s = .next q ∧ q.mo := by
  unfold execEnclaveBootComplete; exact ⟨_, rfl, by simp [hs]⟩
theorem execStackTrainingTimeout_mo (stack step : Nat) (s : State) (hs : s.mo) : ∃ q, execStackTrainingTimeout stack step s = .next q ∧ q.mo := by
  unfold execStackTrainingTimeout; exact ⟨_, rfl, by simp [hs]⟩
theorem execArraySelfTestComplete_mo (found : List (Nat × Nat × Nat × Bool)) (s : State) (hs : s.mo) : ∃ q, execArraySelfTestComplete found s = .next q ∧ q.mo := by
  unfold execArraySelfTestComplete; refine ⟨_, rfl, ?_⟩
  repeat' first | with_reducible assumption | (with_reducible refine settle_mo _ ?_) | (with_reducible refine mbox_mo _ _ _ _ _ _ _ (fun m a hs => ?_) ?_) | (with_reducible refine atPort_mo _ _ _ (fun p _ => ?_) ?_) | (with_reducible refine jobPacket_mo _ _ _ _ _ (fun _ _ _ _ _ a hs => ?_) ?_) | (with_reducible refine current_mo _ _ _ ?_ ?_) | (with_reducible refine collPacket_mo _ _ _ _ (fun _ _ a hs => ?_) ?_) | (with_reducible refine mboxPast_mo _ _ _ _ _ _ _ (fun m a hs => ?_) ?_) | (with_reducible refine ctxCmd_mo _ _ _ _ _ _ (fun m a hs => ?_) ?_) | (with_reducible refine keyMessage_mo _ _ _ _ _ _ _ _ _ (fun a hs => ?_) ?_) | (with_reducible refine sbGo_mo _ _ _ _ _ (fun a hs => ?_) ?_) | (with_reducible refine receive_mo _ _ _ _ _ (fun p a hs => ?_) ?_) | (with_reducible refine atFn_mo _ _ _ ?_ ?_) | (with_reducible refine sbWrite_mo _ _ _ ?_ ?_) | (with_reducible refine foldl_mo (fun a b hs => ?_) ?_) | (with_reducible refine foldl_mo1 (fun a b hs => ?_) ?_) | (with_reducible refine elim_mo (fun a => ?_) ?_) | (with_reducible refine elim_mo1 (fun a => ?_) ?_) | split | simp +contextual (maxDischargeDepth := 90) [hs, foldl_mo, foldl_mo1, foldr_mo]
theorem execDroverInitTimeout_mo (s : State) (hs : s.mo) : ∃ q, execDroverInitTimeout s = .next q ∧ q.mo := by
  unfold execDroverInitTimeout; exact ⟨_, rfl, by simp [hs]⟩
theorem execFlashProgrammingComplete_mo (s : State) (hs : s.mo) : ∃ q, execFlashProgrammingComplete s = .next q ∧ q.mo := by
  unfold execFlashProgrammingComplete; refine ⟨_, rfl, ?_⟩
  (repeat' split) <;> simp (maxDischargeDepth := 90) [hs]
theorem execCrashCaptureComplete_mo (s : State) (hs : s.mo) : ∃ q, execCrashCaptureComplete s = .next q ∧ q.mo := by
  unfold execCrashCaptureComplete; exact ⟨_, rfl, by simp [hs]⟩
/-! ### Sideband -/

theorem execSbSetReadPointer_mo (off : Nat) (ok : Bool) (s : State) (hs : s.mo) : ∃ q, execSbSetReadPointer off ok s = .next q ∧ q.mo := by
  unfold execSbSetReadPointer; exact ⟨_, rfl, by simp [hs]⟩
theorem execSbRegisterRead_mo (s : State) (hs : s.mo) : ∃ q, execSbRegisterRead s = .next q ∧ q.mo := by
  unfold execSbRegisterRead; refine ⟨_, rfl, ?_⟩
  (repeat' split) <;> simp (maxDischargeDepth := 90) [hs]
theorem execSbMbLenWrite_mo (v : Nat) (ok : Bool) (s : State) (hs : s.mo) : ∃ q, execSbMbLenWrite v ok s = .next q ∧ q.mo := by
  unfold execSbMbLenWrite; exact ⟨_, rfl, by simp [hs]⟩
theorem execSbEvtClear_mo (v : Nat) (ok : Bool) (s : State) (hs : s.mo) : ∃ q, execSbEvtClear v ok s = .next q ∧ q.mo := by
  unfold execSbEvtClear; exact ⟨_, rfl, by simp [hs]⟩
theorem execSmbusAlertResponse_mo (s : State) (hs : s.mo) : ∃ q, execSmbusAlertResponse s = .next q ∧ q.mo := by
  unfold execSmbusAlertResponse; exact ⟨_, rfl, by simp [hs]⟩
theorem execSbMbDataWrite_mo (v : Nat) (ok : Bool) (s : State) (hs : s.mo) : ∃ q, execSbMbDataWrite v ok s = .next q ∧ q.mo := by
  unfold execSbMbDataWrite; exact ⟨_, rfl, by simp (maxDischargeDepth := 90) [hs]⟩
theorem execSbMbDataRead_mo (s : State) (hs : s.mo) : ∃ q, execSbMbDataRead s = .next q ∧ q.mo := by
  unfold execSbMbDataRead; dsimp only; (repeat' split) <;> refine ⟨_, rfl, ?_⟩
  all_goals (repeat' first | with_reducible assumption | (with_reducible refine settle_mo _ ?_) | (with_reducible refine mbox_mo _ _ _ _ _ _ _ (fun m a hs => ?_) ?_) | (with_reducible refine atPort_mo _ _ _ (fun p _ => ?_) ?_) | (with_reducible refine jobPacket_mo _ _ _ _ _ (fun _ _ _ _ _ a hs => ?_) ?_) | (with_reducible refine current_mo _ _ _ ?_ ?_) | (with_reducible refine collPacket_mo _ _ _ _ (fun _ _ a hs => ?_) ?_) | (with_reducible refine mboxPast_mo _ _ _ _ _ _ _ (fun m a hs => ?_) ?_) | (with_reducible refine ctxCmd_mo _ _ _ _ _ _ (fun m a hs => ?_) ?_) | (with_reducible refine keyMessage_mo _ _ _ _ _ _ _ _ _ (fun a hs => ?_) ?_) | (with_reducible refine sbGo_mo _ _ _ _ _ (fun a hs => ?_) ?_) | (with_reducible refine receive_mo _ _ _ _ _ (fun p a hs => ?_) ?_) | (with_reducible refine atFn_mo _ _ _ ?_ ?_) | (with_reducible refine sbWrite_mo _ _ _ ?_ ?_) | (with_reducible refine foldl_mo (fun a b hs => ?_) ?_) | (with_reducible refine foldl_mo1 (fun a b hs => ?_) ?_) | (with_reducible refine elim_mo (fun a => ?_) ?_) | (with_reducible refine elim_mo1 (fun a => ?_) ?_) | split | simp +contextual (maxDischargeDepth := 90) [hs, foldl_mo, foldl_mo1, foldr_mo])
theorem execFwWrite_mo (kind : Nat) (ok : Bool) (s : State) (hs : s.mo) : ∃ q, execFwWrite kind ok s = .next q ∧ q.mo := by
  unfold execFwWrite; exact ⟨_, rfl, by simp +contextual (maxDischargeDepth := 90) [hs]⟩
theorem execSbLogRead_mo (ok : Bool) (s : State) (hs : s.mo) : ∃ q, execSbLogRead ok s = .next q ∧ q.mo := by
  unfold execSbLogRead; exact ⟨_, rfl, by simp +contextual (maxDischargeDepth := 90) [hs]⟩
theorem execDumpRead_mo (ok : Bool) (s : State) (hs : s.mo) : ∃ q, execDumpRead ok s = .next q ∧ q.mo := by
  unfold execDumpRead
  refine ⟨_, rfl, settle_mo _ (sbGo_mo _ _ _ _ _ (fun a ha => ?_) hs)⟩
  split
  · exact sbEnd_mo _ _ _ ha
  · exact sbSupply_mo _ _ (freeWords_mo _ _ _ ha)
theorem execDumpClear_mo (ok : Bool) (s : State) (hs : s.mo) : ∃ q, execDumpClear ok s = .next q ∧ q.mo := by
  unfold execDumpClear; exact ⟨_, rfl, by simp +contextual (maxDischargeDepth := 90) [hs]⟩
theorem execFstoreRead_mo (ok : Bool) (s : State) (hs : s.mo) : ∃ q, execFstoreRead ok s = .next q ∧ q.mo := by
  unfold execFstoreRead; exact ⟨_, rfl, by simp +contextual (maxDischargeDepth := 90) [hs]⟩
theorem execChipReset_mo (ok : Bool) (s : State) (hs : s.mo) : ∃ q, execChipReset ok s = .next q ∧ q.mo := by
  unfold execChipReset; exact ⟨_, rfl, by simp +contextual (maxDischargeDepth := 90) [hs]⟩
theorem execSbMbAbort_mo (v : Option Nat) (s : State) (hs : s.mo) : ∃ q, execSbMbAbort v s = .next q ∧ q.mo := by
  unfold execSbMbAbort; refine ⟨_, rfl, sbWrite_mo _ _ _ ?_ hs⟩
  dsimp only; (repeat' split) <;> simp (maxDischargeDepth := 90) [hs]
theorem execSbMbWordTimeout_mo (s : State) (hs : s.mo) : ∃ q, execSbMbWordTimeout s = .next q ∧ q.mo := by
  unfold execSbMbWordTimeout; exact ⟨_, rfl, by simp [hs]⟩
theorem execSetEndpointId_mo (eid : Nat) (s : State) (hs : s.mo) : ∃ q, execSetEndpointId eid s = .next q ∧ q.mo := by
  unfold execSetEndpointId; exact ⟨_, rfl, by simp [hs]⟩
theorem execGetEndpointId_mo (s : State) (hs : s.mo) : ∃ q, execGetEndpointId s = .next q ∧ q.mo := by
  unfold execGetEndpointId; exact ⟨_, rfl, by simp [hs]⟩
theorem execGetEndpointUuid_mo (s : State) (hs : s.mo) : ∃ q, execGetEndpointUuid s = .next q ∧ q.mo := by
  unfold execGetEndpointUuid; exact ⟨_, rfl, by simp [hs]⟩
theorem execGetMctpVersionSupport_mo (s : State) (hs : s.mo) : ∃ q, execGetMctpVersionSupport s = .next q ∧ q.mo := by
  unfold execGetMctpVersionSupport; exact ⟨_, rfl, by simp [hs]⟩
theorem execGetMessageTypeSupport_mo (s : State) (hs : s.mo) : ∃ q, execGetMessageTypeSupport s = .next q ∧ q.mo := by
  unfold execGetMessageTypeSupport; exact ⟨_, rfl, by simp [hs]⟩
theorem execMctpPacket_mo (som eom : Bool) (body : List Byte) (opens ends : Option Nat) (ok : Bool) (s : State) (hs : s.mo) : ∃ q, execMctpPacket som eom body opens ends ok s = .next q ∧ q.mo := by
  unfold execMctpPacket; exact ⟨_, rfl, by simp (maxDischargeDepth := 90) [hs]⟩
theorem execMctpReassemblyTimeout_mo (s : State) (hs : s.mo) : ∃ q, execMctpReassemblyTimeout s = .next q ∧ q.mo := by
  unfold execMctpReassemblyTimeout; exact ⟨_, rfl, by simp [hs]⟩
/-! ### Tap -/

theorem execSamplePreload_mo (cells load : List Bool) (s : State) (hs : s.mo) : ∃ q, execSamplePreload cells load s = .next q ∧ q.mo := by
  unfold execSamplePreload; exact ⟨_, rfl, by simp [hs]⟩
theorem execExtest_mo (cells load : List Bool) (s : State) (hs : s.mo) : ∃ q, execExtest cells load s = .next q ∧ q.mo := by
  unfold execExtest; exact ⟨_, rfl, by simp [hs]⟩
theorem execClamp_mo (s : State) (hs : s.mo) : ∃ q, execClamp s = .next q ∧ q.mo := by
  unfold execClamp; exact ⟨_, rfl, by simp [hs]⟩
theorem execHighz_mo (s : State) (hs : s.mo) : ∃ q, execHighz s = .next q ∧ q.mo := by
  unfold execHighz; exact ⟨_, rfl, by simp [hs]⟩
theorem execExtestPulse_mo (cells load : List Bool) (s : State) (hs : s.mo) : ∃ q, execExtestPulse cells load s = .next q ∧ q.mo := by
  unfold execExtestPulse; exact ⟨_, rfl, by simp [hs]⟩
theorem execExtestTrain_mo (cells load : List Bool) (s : State) (hs : s.mo) : ∃ q, execExtestTrain cells load s = .next q ∧ q.mo := by
  unfold execExtestTrain; exact ⟨_, rfl, by simp [hs]⟩
theorem execBypass_mo (s : State) (hs : s.mo) : ∃ q, execBypass s = .next q ∧ q.mo := by
  unfold execBypass; exact ⟨_, rfl, by simp [hs]⟩
theorem execTapPrivateInstruction_mo (opcode : Nat) (s : State) (hs : s.mo) : ∃ q, execTapPrivateInstruction opcode s = .next q ∧ q.mo := by
  unfold execTapPrivateInstruction; exact ⟨_, rfl, by simp [hs]⟩
theorem execTapReset_mo (s : State) (hs : s.mo) : ∃ q, execTapReset s = .next q ∧ q.mo := by
  unfold execTapReset; exact ⟨_, rfl, by simp [hs]⟩
/-! ### Completions -/

theorem execZeroingComplete_mo (seq : Nat) (s : State) (hs : s.mo) : ∃ q, execZeroingComplete seq s = .next q ∧ q.mo := by
  unfold execZeroingComplete; exact ⟨_, rfl, by simp [hs]⟩
theorem execRegenerationComplete_mo (stack gid : Nat) (s : State) (hs : s.mo) : ∃ q, execRegenerationComplete stack gid s = .next q ∧ q.mo := by
  unfold execRegenerationComplete; exact ⟨_, rfl, by simp [hs]⟩
theorem execRegenerationTimeout_mo (stack gid : Nat) (s : State) (hs : s.mo) : ∃ q, execRegenerationTimeout stack gid s = .next q ∧ q.mo := by
  unfold execRegenerationTimeout; exact ⟨_, rfl, by simp [hs]⟩
/-! ### The last two -/
theorem execAlwaysOnPowerLoss_mo (s : State) : ∃ q, execAlwaysOnPowerLoss s = .next q ∧ q.mo := ⟨_, rfl, mainOff_mo s false⟩
theorem execReady_mo (s : State) (hs : s.mo) : ∃ q, execReady s = .next q ∧ q.mo := by
  unfold execReady; refine ⟨_, rfl, settle_mo _ ?_⟩
  split
  · exact reachReady_mo s hs
  · exact hs

end Sys2Proof.Machine
end

