-- ==== Sys2Proof/Laws/State.lean ====
section
/-! SUPPORT. What each named update of the state does to every field, and what the reads give after it. -/

namespace Sys2Proof.Machine

open Sys2Proof

@[simp] theorem setCtx_pending (s : State) (n : Nat) (c : Context) : (s.setCtx n c).pending = s.pending := rfl
@[simp] theorem setCtx_free (s : State) (n : Nat) (c : Context) : (s.setCtx n c).free = s.free := rfl
@[simp] theorem setCtx_out (s : State) (n : Nat) (c : Context) : (s.setCtx n c).out = s.out := rfl
@[simp] theorem setCtx_mem (s : State) (n : Nat) (c : Context) : (s.setCtx n c).mem = s.mem := rfl
@[simp] theorem setCtx_dramErr (s : State) (n : Nat) (c : Context) : (s.setCtx n c).dramErr = s.dramErr := rfl
@[simp] theorem setCtx_dramHard (s : State) (n : Nat) (c : Context) : (s.setCtx n c).dramHard = s.dramHard := rfl
@[simp] theorem setCtx_nv (s : State) (n : Nat) (c : Context) : (s.setCtx n c).nv = s.nv := rfl
@[simp] theorem setCtx_aon (s : State) (n : Nat) (c : Context) : (s.setCtx n c).aon = s.aon := rfl
@[simp] theorem setCtx_chip (s : State) (n : Nat) (c : Context) : (s.setCtx n c).chip = { s.chip with ctxs := Tab.put s.chip.ctxs n c } := rfl

@[simp] theorem modCtx_pending (s : State) (n : Nat) (f : Context → Context) : (s.modCtx n f).pending = s.pending := rfl
@[simp] theorem modCtx_free (s : State) (n : Nat) (f : Context → Context) : (s.modCtx n f).free = s.free := rfl
@[simp] theorem modCtx_out (s : State) (n : Nat) (f : Context → Context) : (s.modCtx n f).out = s.out := rfl
@[simp] theorem modCtx_mem (s : State) (n : Nat) (f : Context → Context) : (s.modCtx n f).mem = s.mem := rfl
@[simp] theorem modCtx_dramErr (s : State) (n : Nat) (f : Context → Context) : (s.modCtx n f).dramErr = s.dramErr := rfl
@[simp] theorem modCtx_dramHard (s : State) (n : Nat) (f : Context → Context) : (s.modCtx n f).dramHard = s.dramHard := rfl
@[simp] theorem modCtx_nv (s : State) (n : Nat) (f : Context → Context) : (s.modCtx n f).nv = s.nv := rfl
@[simp] theorem modCtx_aon (s : State) (n : Nat) (f : Context → Context) : (s.modCtx n f).aon = s.aon := rfl
@[simp] theorem modCtx_chip (s : State) (n : Nat) (f : Context → Context) : (s.modCtx n f).chip = { s.chip with ctxs := Tab.adjust s.chip.ctxs n f } := rfl

@[simp] theorem setCore_pending (s : State) (n : Nat) (c : Core) : (s.setCore n c).pending = s.pending := rfl
@[simp] theorem setCore_free (s : State) (n : Nat) (c : Core) : (s.setCore n c).free = s.free := rfl
@[simp] theorem setCore_out (s : State) (n : Nat) (c : Core) : (s.setCore n c).out = s.out := rfl
@[simp] theorem setCore_mem (s : State) (n : Nat) (c : Core) : (s.setCore n c).mem = s.mem := rfl
@[simp] theorem setCore_dramErr (s : State) (n : Nat) (c : Core) : (s.setCore n c).dramErr = s.dramErr := rfl
@[simp] theorem setCore_dramHard (s : State) (n : Nat) (c : Core) : (s.setCore n c).dramHard = s.dramHard := rfl
@[simp] theorem setCore_nv (s : State) (n : Nat) (c : Core) : (s.setCore n c).nv = s.nv := rfl
@[simp] theorem setCore_aon (s : State) (n : Nat) (c : Core) : (s.setCore n c).aon = s.aon := rfl
@[simp] theorem setCore_chip (s : State) (n : Nat) (c : Core) : (s.setCore n c).chip = { s.chip with cores := Tab.set s.chip.cores {} n c } := rfl

@[simp] theorem modCore_pending (s : State) (n : Nat) (f : Core → Core) : (s.modCore n f).pending = s.pending := rfl
@[simp] theorem modCore_free (s : State) (n : Nat) (f : Core → Core) : (s.modCore n f).free = s.free := rfl
@[simp] theorem modCore_out (s : State) (n : Nat) (f : Core → Core) : (s.modCore n f).out = s.out := rfl
@[simp] theorem modCore_dramErr (s : State) (n : Nat) (f : Core → Core) : (s.modCore n f).dramErr = s.dramErr := rfl
@[simp] theorem modCore_dramHard (s : State) (n : Nat) (f : Core → Core) : (s.modCore n f).dramHard = s.dramHard := rfl
@[simp] theorem modCore_nv (s : State) (n : Nat) (f : Core → Core) : (s.modCore n f).nv = s.nv := rfl
@[simp] theorem modCore_aon (s : State) (n : Nat) (f : Core → Core) : (s.modCore n f).aon = s.aon := rfl
@[simp] theorem modCore_chip (s : State) (n : Nat) (f : Core → Core) : (s.modCore n f).chip = { s.chip with cores := Tab.set s.chip.cores {} n (f (s.core n)) } := rfl

@[simp] theorem setNmu_pending (s : State) (n : Nat) (c : Nmu) : (s.setNmu n c).pending = s.pending := rfl
@[simp] theorem setNmu_free (s : State) (n : Nat) (c : Nmu) : (s.setNmu n c).free = s.free := rfl
@[simp] theorem setNmu_out (s : State) (n : Nat) (c : Nmu) : (s.setNmu n c).out = s.out := rfl
@[simp] theorem setNmu_dramErr (s : State) (n : Nat) (c : Nmu) : (s.setNmu n c).dramErr = s.dramErr := rfl
@[simp] theorem setNmu_dramHard (s : State) (n : Nat) (c : Nmu) : (s.setNmu n c).dramHard = s.dramHard := rfl
@[simp] theorem setNmu_nv (s : State) (n : Nat) (c : Nmu) : (s.setNmu n c).nv = s.nv := rfl
@[simp] theorem setNmu_aon (s : State) (n : Nat) (c : Nmu) : (s.setNmu n c).aon = s.aon := rfl
@[simp] theorem setNmu_chip (s : State) (n : Nat) (c : Nmu) : (s.setNmu n c).chip = { s.chip with nmus := Tab.set s.chip.nmus {} n c } := rfl

@[simp] theorem modNmu_pending (s : State) (n : Nat) (f : Nmu → Nmu) : (s.modNmu n f).pending = s.pending := rfl
@[simp] theorem modNmu_free (s : State) (n : Nat) (f : Nmu → Nmu) : (s.modNmu n f).free = s.free := rfl
@[simp] theorem modNmu_out (s : State) (n : Nat) (f : Nmu → Nmu) : (s.modNmu n f).out = s.out := rfl
@[simp] theorem modNmu_dramErr (s : State) (n : Nat) (f : Nmu → Nmu) : (s.modNmu n f).dramErr = s.dramErr := rfl
@[simp] theorem modNmu_dramHard (s : State) (n : Nat) (f : Nmu → Nmu) : (s.modNmu n f).dramHard = s.dramHard := rfl
@[simp] theorem modNmu_nv (s : State) (n : Nat) (f : Nmu → Nmu) : (s.modNmu n f).nv = s.nv := rfl
@[simp] theorem modNmu_aon (s : State) (n : Nat) (f : Nmu → Nmu) : (s.modNmu n f).aon = s.aon := rfl
@[simp] theorem modNmu_chip (s : State) (n : Nat) (f : Nmu → Nmu) : (s.modNmu n f).chip = { s.chip with nmus := Tab.set s.chip.nmus {} n (f (s.nmu n)) } := rfl

@[simp] theorem setFn_pending (s : State) (n : Nat) (f : Fn) : (s.setFn n f).pending = s.pending := rfl
@[simp] theorem setFn_free (s : State) (n : Nat) (f : Fn) : (s.setFn n f).free = s.free := rfl
@[simp] theorem setFn_out (s : State) (n : Nat) (f : Fn) : (s.setFn n f).out = s.out := rfl
@[simp] theorem setFn_mem (s : State) (n : Nat) (f : Fn) : (s.setFn n f).mem = s.mem := rfl
@[simp] theorem setFn_dramErr (s : State) (n : Nat) (f : Fn) : (s.setFn n f).dramErr = s.dramErr := rfl
@[simp] theorem setFn_dramHard (s : State) (n : Nat) (f : Fn) : (s.setFn n f).dramHard = s.dramHard := rfl
@[simp] theorem setFn_nv (s : State) (n : Nat) (f : Fn) : (s.setFn n f).nv = s.nv := rfl
@[simp] theorem setFn_aon (s : State) (n : Nat) (f : Fn) : (s.setFn n f).aon = s.aon := rfl
@[simp] theorem setFn_chip (s : State) (n : Nat) (f : Fn) : (s.setFn n f).chip = { s.chip with hif.fns := Tab.set s.chip.hif.fns {} n f } := rfl

@[simp] theorem modFn_pending (s : State) (n : Nat) (f : Fn → Fn) : (s.modFn n f).pending = s.pending := rfl
@[simp] theorem modFn_free (s : State) (n : Nat) (f : Fn → Fn) : (s.modFn n f).free = s.free := rfl
@[simp] theorem modFn_out (s : State) (n : Nat) (f : Fn → Fn) : (s.modFn n f).out = s.out := rfl
@[simp] theorem modFn_dramErr (s : State) (n : Nat) (f : Fn → Fn) : (s.modFn n f).dramErr = s.dramErr := rfl
@[simp] theorem modFn_dramHard (s : State) (n : Nat) (f : Fn → Fn) : (s.modFn n f).dramHard = s.dramHard := rfl
@[simp] theorem modFn_nv (s : State) (n : Nat) (f : Fn → Fn) : (s.modFn n f).nv = s.nv := rfl
@[simp] theorem modFn_aon (s : State) (n : Nat) (f : Fn → Fn) : (s.modFn n f).aon = s.aon := rfl
@[simp] theorem modFn_chip (s : State) (n : Nat) (f : Fn → Fn) : (s.modFn n f).chip = { s.chip with hif.fns := Tab.set s.chip.hif.fns {} n (f (s.fn n)) } := rfl

@[simp] theorem setPort_pending (s : State) (n : Nat) (p : Port) : (s.setPort n p).pending = s.pending := rfl
@[simp] theorem setPort_free (s : State) (n : Nat) (p : Port) : (s.setPort n p).free = s.free := rfl
@[simp] theorem setPort_out (s : State) (n : Nat) (p : Port) : (s.setPort n p).out = s.out := rfl
@[simp] theorem setPort_mem (s : State) (n : Nat) (p : Port) : (s.setPort n p).mem = s.mem := rfl
@[simp] theorem setPort_dramErr (s : State) (n : Nat) (p : Port) : (s.setPort n p).dramErr = s.dramErr := rfl
@[simp] theorem setPort_dramHard (s : State) (n : Nat) (p : Port) : (s.setPort n p).dramHard = s.dramHard := rfl
@[simp] theorem setPort_nv (s : State) (n : Nat) (p : Port) : (s.setPort n p).nv = s.nv := rfl
@[simp] theorem setPort_aon (s : State) (n : Nat) (p : Port) : (s.setPort n p).aon = s.aon := rfl
@[simp] theorem setPort_chip (s : State) (n : Nat) (p : Port) : (s.setPort n p).chip = { s.chip with ports := Tab.set s.chip.ports {} n p } := rfl

@[simp] theorem modPort_pending (s : State) (n : Nat) (f : Port → Port) : (s.modPort n f).pending = s.pending := rfl
@[simp] theorem modPort_free (s : State) (n : Nat) (f : Port → Port) : (s.modPort n f).free = s.free := rfl
@[simp] theorem modPort_out (s : State) (n : Nat) (f : Port → Port) : (s.modPort n f).out = s.out := rfl
@[simp] theorem modPort_mem (s : State) (n : Nat) (f : Port → Port) : (s.modPort n f).mem = s.mem := rfl
@[simp] theorem modPort_dramErr (s : State) (n : Nat) (f : Port → Port) : (s.modPort n f).dramErr = s.dramErr := rfl
@[simp] theorem modPort_dramHard (s : State) (n : Nat) (f : Port → Port) : (s.modPort n f).dramHard = s.dramHard := rfl
@[simp] theorem modPort_nv (s : State) (n : Nat) (f : Port → Port) : (s.modPort n f).nv = s.nv := rfl
@[simp] theorem modPort_aon (s : State) (n : Nat) (f : Port → Port) : (s.modPort n f).aon = s.aon := rfl
@[simp] theorem modPort_chip (s : State) (n : Nat) (f : Port → Port) : (s.modPort n f).chip = { s.chip with ports := Tab.set s.chip.ports {} n (f (s.port n)) } := rfl

@[simp] theorem putSet_pending (s : State) (p k : Nat) (x : OptSet) : (s.putSet p k x).pending = s.pending := rfl
@[simp] theorem putSet_free (s : State) (p k : Nat) (x : OptSet) : (s.putSet p k x).free = s.free := rfl
@[simp] theorem putSet_out (s : State) (p k : Nat) (x : OptSet) : (s.putSet p k x).out = s.out := rfl
@[simp] theorem putSet_mem (s : State) (p k : Nat) (x : OptSet) : (s.putSet p k x).mem = s.mem := rfl
@[simp] theorem putSet_dramErr (s : State) (p k : Nat) (x : OptSet) : (s.putSet p k x).dramErr = s.dramErr := rfl
@[simp] theorem putSet_dramHard (s : State) (p k : Nat) (x : OptSet) : (s.putSet p k x).dramHard = s.dramHard := rfl
@[simp] theorem putSet_nv (s : State) (p k : Nat) (x : OptSet) : (s.putSet p k x).nv = s.nv := rfl
@[simp] theorem putSet_aon (s : State) (p k : Nat) (x : OptSet) : (s.putSet p k x).aon = s.aon := rfl
@[simp] theorem putSet_chip (s : State) (p k : Nat) (x : OptSet) : (s.putSet p k x).chip = { s.chip with sets := Tab.put s.chip.sets (p * 16 + k) x } := rfl

@[simp] theorem modSet_pending (s : State) (p k : Nat) (f : OptSet → OptSet) : (s.modSet p k f).pending = s.pending := rfl
@[simp] theorem modSet_free (s : State) (p k : Nat) (f : OptSet → OptSet) : (s.modSet p k f).free = s.free := rfl
@[simp] theorem modSet_out (s : State) (p k : Nat) (f : OptSet → OptSet) : (s.modSet p k f).out = s.out := rfl
@[simp] theorem modSet_mem (s : State) (p k : Nat) (f : OptSet → OptSet) : (s.modSet p k f).mem = s.mem := rfl
@[simp] theorem modSet_dramErr (s : State) (p k : Nat) (f : OptSet → OptSet) : (s.modSet p k f).dramErr = s.dramErr := rfl
@[simp] theorem modSet_dramHard (s : State) (p k : Nat) (f : OptSet → OptSet) : (s.modSet p k f).dramHard = s.dramHard := rfl
@[simp] theorem modSet_nv (s : State) (p k : Nat) (f : OptSet → OptSet) : (s.modSet p k f).nv = s.nv := rfl
@[simp] theorem modSet_aon (s : State) (p k : Nat) (f : OptSet → OptSet) : (s.modSet p k f).aon = s.aon := rfl
@[simp] theorem modSet_chip (s : State) (p k : Nat) (f : OptSet → OptSet) : (s.modSet p k f).chip = { s.chip with sets := Tab.adjust s.chip.sets (p * 16 + k) f } := rfl

@[simp] theorem putColl_pending (s : State) (x : Coll) : (s.putColl x).pending = s.pending := rfl
@[simp] theorem putColl_free (s : State) (x : Coll) : (s.putColl x).free = s.free := rfl
@[simp] theorem putColl_out (s : State) (x : Coll) : (s.putColl x).out = s.out := rfl
@[simp] theorem putColl_mem (s : State) (x : Coll) : (s.putColl x).mem = s.mem := rfl
@[simp] theorem putColl_dramErr (s : State) (x : Coll) : (s.putColl x).dramErr = s.dramErr := rfl
@[simp] theorem putColl_dramHard (s : State) (x : Coll) : (s.putColl x).dramHard = s.dramHard := rfl
@[simp] theorem putColl_nv (s : State) (x : Coll) : (s.putColl x).nv = s.nv := rfl
@[simp] theorem putColl_aon (s : State) (x : Coll) : (s.putColl x).aon = s.aon := rfl
@[simp] theorem putColl_chip (s : State) (x : Coll) : (s.putColl x).chip = { s.chip with colls := Tab.put s.chip.colls (collKey x.part x.job (cdColl x.desc)) x } := rfl

@[simp] theorem putTree_pending (s : State) (j : Nat) (t : Tree) : (s.putTree j t).pending = s.pending := rfl
@[simp] theorem putTree_free (s : State) (j : Nat) (t : Tree) : (s.putTree j t).free = s.free := rfl
@[simp] theorem putTree_out (s : State) (j : Nat) (t : Tree) : (s.putTree j t).out = s.out := rfl
@[simp] theorem putTree_mem (s : State) (j : Nat) (t : Tree) : (s.putTree j t).mem = s.mem := rfl
@[simp] theorem putTree_dramErr (s : State) (j : Nat) (t : Tree) : (s.putTree j t).dramErr = s.dramErr := rfl
@[simp] theorem putTree_dramHard (s : State) (j : Nat) (t : Tree) : (s.putTree j t).dramHard = s.dramHard := rfl
@[simp] theorem putTree_nv (s : State) (j : Nat) (t : Tree) : (s.putTree j t).nv = s.nv := rfl
@[simp] theorem putTree_aon (s : State) (j : Nat) (t : Tree) : (s.putTree j t).aon = s.aon := rfl
@[simp] theorem putTree_chip (s : State) (j : Nat) (t : Tree) : (s.putTree j t).chip = { s.chip with trees := Tab.put s.chip.trees j t } := rfl

@[simp] theorem modTree_pending (s : State) (j : Nat) (f : Tree → Tree) : (s.modTree j f).pending = s.pending := rfl
@[simp] theorem modTree_free (s : State) (j : Nat) (f : Tree → Tree) : (s.modTree j f).free = s.free := rfl
@[simp] theorem modTree_out (s : State) (j : Nat) (f : Tree → Tree) : (s.modTree j f).out = s.out := rfl
@[simp] theorem modTree_mem (s : State) (j : Nat) (f : Tree → Tree) : (s.modTree j f).mem = s.mem := rfl
@[simp] theorem modTree_dramErr (s : State) (j : Nat) (f : Tree → Tree) : (s.modTree j f).dramErr = s.dramErr := rfl
@[simp] theorem modTree_dramHard (s : State) (j : Nat) (f : Tree → Tree) : (s.modTree j f).dramHard = s.dramHard := rfl
@[simp] theorem modTree_nv (s : State) (j : Nat) (f : Tree → Tree) : (s.modTree j f).nv = s.nv := rfl
@[simp] theorem modTree_aon (s : State) (j : Nat) (f : Tree → Tree) : (s.modTree j f).aon = s.aon := rfl
@[simp] theorem modTree_chip (s : State) (j : Nat) (f : Tree → Tree) : (s.modTree j f).chip = { s.chip with trees := Tab.adjust s.chip.trees j f } := rfl

@[simp] theorem wr_pending (s : State) (k : Nat) (b : Byte) : (s.wr k b).pending = s.pending := rfl
@[simp] theorem wr_free (s : State) (k : Nat) (b : Byte) : (s.wr k b).free = s.free := rfl
@[simp] theorem wr_out (s : State) (k : Nat) (b : Byte) : (s.wr k b).out = s.out := rfl
@[simp] theorem wr_mem (s : State) (k : Nat) (b : Byte) : (s.wr k b).mem = Tab.set s.mem 0 k b := rfl
@[simp] theorem wr_dramErr (s : State) (k : Nat) (b : Byte) : (s.wr k b).dramErr = s.dramErr := rfl
@[simp] theorem wr_dramHard (s : State) (k : Nat) (b : Byte) : (s.wr k b).dramHard = s.dramHard := rfl
@[simp] theorem wr_nv (s : State) (k : Nat) (b : Byte) : (s.wr k b).nv = s.nv := rfl
@[simp] theorem wr_aon (s : State) (k : Nat) (b : Byte) : (s.wr k b).aon = s.aon := rfl
@[simp] theorem wr_chip (s : State) (k : Nat) (b : Byte) : (s.wr k b).chip = s.chip := rfl

@[simp] theorem send_pending (s : State) (o : Out) : (s.send o).pending = s.pending := rfl
@[simp] theorem send_free (s : State) (o : Out) : (s.send o).free = s.free := rfl
@[simp] theorem send_out (s : State) (o : Out) : (s.send o).out = s.out ++ [o] := rfl
@[simp] theorem send_mem (s : State) (o : Out) : (s.send o).mem = s.mem := rfl
@[simp] theorem send_dramErr (s : State) (o : Out) : (s.send o).dramErr = s.dramErr := rfl
@[simp] theorem send_dramHard (s : State) (o : Out) : (s.send o).dramHard = s.dramHard := rfl
@[simp] theorem send_nv (s : State) (o : Out) : (s.send o).nv = s.nv := rfl
@[simp] theorem send_aon (s : State) (o : Out) : (s.send o).aon = s.aon := rfl
@[simp] theorem send_chip (s : State) (o : Out) : (s.send o).chip = s.chip := rfl

@[simp] theorem front_pending (s : State) (i : Instr) : (s.front i).pending = i :: s.pending := rfl
@[simp] theorem front_free (s : State) (i : Instr) : (s.front i).free = s.free := rfl
@[simp] theorem front_out (s : State) (i : Instr) : (s.front i).out = s.out := rfl
@[simp] theorem front_mem (s : State) (i : Instr) : (s.front i).mem = s.mem := rfl
@[simp] theorem front_dramErr (s : State) (i : Instr) : (s.front i).dramErr = s.dramErr := rfl
@[simp] theorem front_dramHard (s : State) (i : Instr) : (s.front i).dramHard = s.dramHard := rfl
@[simp] theorem front_nv (s : State) (i : Instr) : (s.front i).nv = s.nv := rfl
@[simp] theorem front_aon (s : State) (i : Instr) : (s.front i).aon = s.aon := rfl
@[simp] theorem front_chip (s : State) (i : Instr) : (s.front i).chip = s.chip := rfl

/-! ### Reads after updates -/

@[simp] theorem core_setCore (s : State) (n : Nat) (c : Core) (h : Tab.sorted s.chip.cores = true) : (s.setCore n c).core n = c :=
  Tab.get_set_same _ _ _ _ h
theorem core_setCore_ne (s : State) (n m : Nat) (c : Core) (hn : m ≠ n) (h : Tab.sorted s.chip.cores = true) :
    (s.setCore n c).core m = s.core m := Tab.get_set_ne _ _ _ _ _ hn h
@[simp] theorem nmu_setNmu (s : State) (n : Nat) (c : Nmu) (h : Tab.sorted s.chip.nmus = true) : (s.setNmu n c).nmu n = c :=
  Tab.get_set_same _ _ _ _ h
theorem nmu_setNmu_ne (s : State) (n m : Nat) (c : Nmu) (hn : m ≠ n) (h : Tab.sorted s.chip.nmus = true) :
    (s.setNmu n c).nmu m = s.nmu m := Tab.get_set_ne _ _ _ _ _ hn h
@[simp] theorem fn_setFn (s : State) (n : Nat) (f : Fn) (h : Tab.sorted s.chip.hif.fns = true) : (s.setFn n f).fn n = f :=
  Tab.get_set_same _ _ _ _ h
theorem fn_setFn_ne (s : State) (n m : Nat) (f : Fn) (hn : m ≠ n) (h : Tab.sorted s.chip.hif.fns = true) :
    (s.setFn n f).fn m = s.fn m := Tab.get_set_ne _ _ _ _ _ hn h
@[simp] theorem port_setPort (s : State) (n : Nat) (p : Port) (h : Tab.sorted s.chip.ports = true) : (s.setPort n p).port n = p :=
  Tab.get_set_same _ _ _ _ h
@[simp] theorem ctx_setCtx (s : State) (n : Nat) (c : Context) : (s.setCtx n c).ctx? n = some c := Tab.look_put_same _ _ _
theorem ctx_setCtx_ne (s : State) (n m : Nat) (c : Context) (h : m ≠ n) : (s.setCtx n c).ctx? m = s.ctx? m := Tab.look_put_ne _ _ _ _ h

end Sys2Proof.Machine
end

