-- ==== Sys2Proof/Laws/Ops.lean ====
section
/-! SUPPORT. What the shared operations of commands can do: a mailbox command accepted, refused or not started, the checks that every
family shares, a response, the end of a step at a module at rest. -/

namespace Sys2Proof.Machine

open Sys2Proof

/-! ### Mailbox commands (R494, R496) -/

/-- A command that may start and passes its checks is carried out. -/
theorem mbox_ok {s : State} {c : Caller} {opc : Nat} {objs : List Obj} {need : Nat} {checks : List (Bool × Status × Nat)}
    {body : Cmd → State → State} (h : s.mayStart c opc objs = true) (g : firstFail checks = none) :
    s.mbox c opc objs need checks body = body (s.cmdOf c opc) (s.taken c opc) := by
  unfold State.mbox; rw [if_pos h]; dsimp only; rw [g]; rfl

/-- A command that may start and fails a check is accepted and answered with that check. -/
theorem mbox_refused {s : State} {c : Caller} {opc : Nat} {objs : List Obj} {need : Nat} {checks : List (Bool × Status × Nat)}
    {body : Cmd → State → State} {st : Status} {d : Nat} (h : s.mayStart c opc objs = true) (g : firstFail checks = some (st, d)) :
    s.mbox c opc objs need checks body = (s.taken c opc).respond (s.cmdOf c opc) st d (need := need) := by
  unfold State.mbox; rw [if_pos h]; dsimp only; rw [g]; rfl

/-- A command that may not start yet does nothing. -/
theorem mbox_waits {s : State} {c : Caller} {opc : Nat} {objs : List Obj} {need : Nat} {checks : List (Bool × Status × Nat)}
    {body : Cmd → State → State} (h : s.mayStart c opc objs = false) : s.mbox c opc objs need checks body = s := by
  unfold State.mbox; rw [if_neg (by simp [h])]

/-- Nothing starts while the module does not serve. -/
theorem mayStart_unserved {s : State} (h : s.serving = false) (c : Caller) (opc : Nat) (objs : List Obj) : s.mayStart c opc objs = false := by
  simp [State.mayStart, h]

/-- A command that need not wait for those that meet `past`. -/
theorem mboxPast_ok {s : State} {past : Running → Bool} {c : Caller} {opc : Nat} {objs : List Obj} {checks : List (Bool × Status × Nat)}
    {body : Cmd → State → State} (h : s.mayStartPast past c opc objs = true) (g : firstFail checks = none) :
    s.mboxPast past c opc objs checks body = body (s.cmdOf c opc) (s.taken c opc) := by
  unfold State.mboxPast; rw [if_pos h]; unfold State.mayStartPast at h; exact mbox_ok (by simp at h; exact h.1) g

theorem firstFail_nil : firstFail [] = none := rfl
theorem firstFail_ok (a : Status × Nat) (t : List (Bool × Status × Nat)) : firstFail ((false, a) :: t) = firstFail t := rfl
theorem firstFail_hit (a : Status × Nat) (t : List (Bool × Status × Nat)) : firstFail ((true, a) :: t) = some a := rfl

/-! ### Checks that families share -/

theorem mayAct_bound {s : State} {fn h : Nat} (g : s.mayAct fn h = true) : (fn != 0 && (s.boundPart fn).isNone) = false := by
  unfold State.mayAct at g; simp at g; rcases g with g | g <;> simp [g]

theorem bound_chk {s : State} {c : Caller} (g : s.bound c) : (c.fn != 0 && (s.boundPart c.fn).isNone) = false := by
  rcases g with g | g
  · simp [g]
  · cases h : s.boundPart c.fn <;> simp_all

theorem live_ctx {s : State} {n : Nat} (g : s.liveCtx n = true) : (s.ctx? n).isNone = false := by
  unfold State.liveCtx at g; cases h : s.ctx? n <;> simp_all

/-! ### Acceptance touches the host interface alone -/

theorem taken_chip (s : State) (c : Caller) (o : Nat) : (s.taken c o).chip = { s.chip with hif := (s.taken c o).chip.hif } := by
  unfold State.taken State.accept; split <;> rfl
theorem taken_ctx (s : State) (c : Caller) (o n : Nat) : (s.taken c o).ctx? n = s.ctx? n := by
  unfold State.taken State.accept; split <;> rfl
theorem taken_seg (s : State) (c : Caller) (o ctx seg : Nat) : (s.taken c o).seg? ctx seg = s.seg? ctx seg := by
  unfold State.taken State.accept; split <;> rfl
theorem taken_group (s : State) (c : Caller) (o st gid : Nat) : (s.taken c o).group? st gid = s.group? st gid := by
  unfold State.taken State.accept; split <;> rfl
theorem taken_member (s : State) (c : Caller) (o p j : Nat) : (s.taken c o).member? p j = s.member? p j := by
  unfold State.taken State.accept; split <;> rfl
theorem taken_set (s : State) (c : Caller) (o p j : Nat) : (s.taken c o).set? p j = s.set? p j := by
  unfold State.taken State.accept; split <;> rfl
theorem taken_buf (s : State) (c : Caller) (o p j : Nat) : (s.taken c o).buf p j = s.buf p j := by
  unfold State.taken State.accept; split <;> rfl
theorem taken_slot (s : State) (c : Caller) (o core sid : Nat) : (s.taken c o).slot? core sid = s.slot? core sid := by
  unfold State.taken State.accept; split <;> rfl
theorem taken_aon (s : State) (c : Caller) (o : Nat) : (s.taken c o).aon = s.aon := by
  unfold State.taken State.accept; split <;> rfl
theorem taken_free (s : State) (c : Caller) (o : Nat) : (s.taken c o).free = s.free := by
  unfold State.taken State.accept; split <;> rfl
theorem cmdOf_caller (s : State) (c : Caller) (o : Nat) : (s.cmdOf c o).caller = c := by
  unfold State.cmdOf State.accept; split <;> rfl
theorem cmdOf_opc (s : State) (c : Caller) (o : Nat) : (s.cmdOf c o).opc = o := by
  unfold State.cmdOf State.accept; split <;> rfl

/-! ### What leaves everything but the host interface alone -/

@[simp] theorem setFn_inside (s : State) (n : Nat) (f : Fn) : (s.setFn n f).inside = s.inside := rfl
@[simp] theorem modFn_inside (s : State) (n : Nat) (f : Fn → Fn) : (s.modFn n f).inside = s.inside := rfl
@[simp] theorem emit_inside (s : State) (fn : Nat) (o : Out) : (s.emit fn o).inside = s.inside := by
  unfold State.emit; split <;> rfl
@[simp] theorem msix_inside (s : State) (fn v : Nat) : (s.msix fn v).inside = s.inside := by
  unfold State.msix; split <;> simp
@[simp] theorem setIsr_inside (s : State) (fn b : Nat) : (s.setIsr fn b).inside = s.inside := by
  unfold State.setIsr; dsimp only; repeat' split
  all_goals simp
@[simp] theorem countSeal_inside (s : State) (fn a b : Nat) : (s.countSeal fn a b).inside = s.inside := rfl
@[simp] theorem toHostUnder_inside (s : State) (fn a b n k : Nat) (bs : List Byte) : (s.toHostUnder fn a b n k bs).inside = s.inside := by
  unfold State.toHostUnder; split <;> simp
@[simp] theorem toHost_inside (s : State) (fn a b k : Nat) (bs : List Byte) : (s.toHost fn a b k bs).inside = s.inside := by
  unfold State.toHost; split <;> simp
@[simp] theorem ite_inside (c : Prop) [Decidable c] (a b : State) : (if c then a else b).inside = if c then a.inside else b.inside := by
  split <;> rfl
/-- A response leaves everything but the host interface alone. -/
@[simp] theorem respond_inside (s : State) (m : Cmd) (st : Status) (d r : Nat) (bs : List Byte) (n : Nat) :
    (s.respond m st d r bs n).inside = s.inside := by
  unfold State.respond; dsimp only; repeat' split
  all_goals simp
@[simp] theorem taken_inside (s : State) (c : Caller) (o : Nat) : (s.taken c o).inside = s.inside := by
  unfold State.taken State.accept; split <;> rfl
@[simp] theorem answerRun_inside (s : State) (p : Running → Bool) (st : Status) (d : Nat) : (s.answerRun p st d).inside = s.inside := by
  unfold State.answerRun; dsimp only
  have h : ∀ (l : List Running) (a : State), (l.foldl (fun a r =>
      if st = .ok then a.respond { caller := r.caller, opc := r.opc, seq := r.seq, ctr := r.ctr, mute := r.mute } st d r.result r.data
      else a.respond { caller := r.caller, opc := r.opc, seq := r.seq, ctr := r.ctr, mute := r.mute } st d) a).inside = a.inside := by
    intro l
    induction l with
    | nil => intro a; rfl
    | cons x t ih => intro a; rw [List.foldl_cons, ih]; split <;> simp
  exact h _ _

/-- Whether a module is at rest does not hang on its host interface. -/
theorem atRest_inside {s t : State} (h : t.inside = s.inside) : t.atRest = s.atRest := by
  have e : ∀ x : State, x.atRest = x.inside.atRest := fun _ => rfl
  rw [e t, e s, h]

/-! ### A fault leaves power and clocks alone -/

@[simp] theorem modFn_pwr (s : State) (n : Nat) (f : Fn → Fn) : (s.modFn n f).chip.pwr = s.chip.pwr := rfl
@[simp] theorem emit_pwr (s : State) (fn : Nat) (o : Out) : (s.emit fn o).chip.pwr = s.chip.pwr := by unfold State.emit; split <;> rfl
@[simp] theorem msix_pwr (s : State) (fn v : Nat) : (s.msix fn v).chip.pwr = s.chip.pwr := by unfold State.msix; split <;> simp
@[simp] theorem setIsr_pwr (s : State) (fn b : Nat) : (s.setIsr fn b).chip.pwr = s.chip.pwr := by
  unfold State.setIsr; dsimp only; repeat' split
  all_goals simp
@[simp] theorem faultIrq_pwr (s : State) (p : Option Nat) : (s.faultIrq p).chip.pwr = s.chip.pwr := by
  unfold State.faultIrq; dsimp only; split <;> simp
@[simp] theorem record_pwr (s : State) (r : FaultRec) : (s.record r).1.chip.pwr = s.chip.pwr := by unfold State.record; split <;> rfl
@[simp] theorem raise_pwr (s : State) (o : Occ) : (s.raise o).chip.pwr = s.chip.pwr := by
  have ite : ∀ (p : Prop) [Decidable p] (a b : State), (if p then a else b).chip.pwr = if p then a.chip.pwr else b.chip.pwr := by
    intro p _ a b; split <;> rfl
  unfold State.raise; simp [ite]

/-! ### The end of a step at rest -/

theorem foldl_same {β γ : Type} (g : γ → β → γ) (l : List β) (s : γ) (h : ∀ b, b ∈ l → g s b = s) : l.foldl g s = s := by
  induction l with
  | nil => rfl
  | cons x t ih => rw [List.foldl_cons, h x (by simp)]; exact ih fun b hb => h b (by simp [hb])

theorem react_rest {s : State} (h : s.atRest = true) : s.react = s := by
  simp [State.atRest] at h
  obtain ⟨⟨⟨⟨⟨⟨h1, h2⟩, h3⟩, h4⟩, h5⟩, h6⟩, h7⟩ := h
  unfold State.react
  rw [if_neg (by simp [h1])]
  simp only [h2, List.foldl_nil]
  have : s.chip.fc = { s.chip.fc with todoB := [] } := by rw [← h2]
  rw [← this]

/-- At a module at rest a step ends with what the command did. -/
theorem settle_rest {s : State} (h : s.atRest = true) : s.settle = s := by
  have r := react_rest h
  simp [State.atRest] at h
  obtain ⟨⟨⟨⟨⟨⟨h1, h2⟩, h3⟩, h4⟩, h5⟩, h6⟩, h7⟩ := h
  have p : s.pokeAll = s := by
    unfold State.pokeAll
    apply foldl_same
    intro b hb
    rw [h3 b.1 b.2 hb]; rfl
  have g : s.grantClaims = s := by
    unfold State.grantClaims
    apply foldl_same
    intro b hb
    rw [if_neg]
    have := h4 b.1 b.2 hb
    rcases this with this | this <;> simp [this]
  have e : s.endColls = s := by unfold State.endColls; rw [h5]; rfl
  have t : s.pokeTrees = s := by
    unfold State.pokeTrees
    have : s.jobCauses = s := by
      unfold State.jobCauses
      apply foldl_same
      intro b hb
      have : (s.member? b.2.part b.2.job).bind (fun m => m.causes.head?.map fun c => (m, c)) = none := by
        unfold State.member?
        cases k : Tab.look s.chip.members (memberKey b.2.part b.2.job) with
        | none => rfl
        | some m =>
          have := h7 _ _ (Tab.look_mem k)
          simp [this]
      rw [this]
    rw [this, h6]; split <;> rfl
  unfold State.settle
  rw [r, p, g, e, t, r]

end Sys2Proof.Machine
end

