-- ==== Sys2Proof/Laws/Runs.lean ====
section
/-! SUPPORT. Every command but READY answers a next state that keeps the waiting commands and the fuse array; READY keeps
the waiting commands and all fuses but the security versions, which do not fall (R518, R523). -/

namespace Sys2Proof.Machine

open Sys2Proof

/-! ### Tasks -/

theorem execSubmissionTaskEntry_kept (fn ring : Nat) (s : State) : ∃ q, execSubmissionTaskEntry fn ring s = .next q ∧ q.kept = s.kept := by
  unfold execSubmissionTaskEntry; exact ⟨_, rfl, by simp⟩
theorem execQ1SubmissionEntry_kept (fn ring : Nat) (s : State) : ∃ q, execQ1SubmissionEntry fn ring s = .next q ∧ q.kept = s.kept := by
  unfold execQ1SubmissionEntry; exact ⟨_, rfl, by simp⟩
theorem execQueueEntryPlaced_kept (fn ring : Nat) (s : State) : ∃ q, execQueueEntryPlaced fn ring s = .next q ∧ q.kept = s.kept := by
  unfold execQueueEntryPlaced; refine ⟨_, rfl, ?_⟩
  repeat' first | with_reducible rfl | (with_reducible refine foldl_kept_eq (fun a b => ?_) ?_) | (with_reducible refine foldl_kept1_eq (fun a b => ?_) ?_) | (with_reducible refine elim_kept_eq (fun a => ?_) ?_) | (with_reducible refine elim_kept1_eq (fun a => ?_) ?_) | split | simp
theorem execTaskDispatch_kept (core : Nat) (s : State) : ∃ q, execTaskDispatch core s = .next q ∧ q.kept = s.kept := by
  unfold execTaskDispatch; refine ⟨_, rfl, ?_⟩
  repeat' first | with_reducible rfl | (with_reducible refine foldl_kept_eq (fun a b => ?_) ?_) | (with_reducible refine foldl_kept1_eq (fun a b => ?_) ?_) | (with_reducible refine elim_kept_eq (fun a => ?_) ?_) | (with_reducible refine elim_kept1_eq (fun a => ?_) ?_) | split | simp
theorem execDispatchAgeing_kept (core ctx : Nat) (s : State) : ∃ q, execDispatchAgeing core ctx s = .next q ∧ q.kept = s.kept := by
  unfold execDispatchAgeing; refine ⟨_, rfl, ?_⟩
  repeat' first | with_reducible rfl | (with_reducible refine foldl_kept_eq (fun a b => ?_) ?_) | (with_reducible refine foldl_kept1_eq (fun a b => ?_) ?_) | (with_reducible refine elim_kept_eq (fun a => ?_) ?_) | (with_reducible refine elim_kept1_eq (fun a => ?_) ?_) | split | simp
theorem execPassEnd_kept (core eng : Nat) (parity : Option Nat) (upsets : List (Nat × Nat)) (s : State) : ∃ q, execPassEnd core eng parity upsets s = .next q ∧ q.kept = s.kept := by
  unfold execPassEnd; exact ⟨_, rfl, by simp⟩
theorem execChunkDrainEnd_kept (core eng : Nat) (s : State) : ∃ q, execChunkDrainEnd core eng s = .next q ∧ q.kept = s.kept := by
  unfold execChunkDrainEnd; exact ⟨_, rfl, by simp⟩
theorem execCopyBlockEnd_kept (core entry word fl : Nat) (s : State) : ∃ q, execCopyBlockEnd core entry word fl s = .next q ∧ q.kept = s.kept := by
  unfold execCopyBlockEnd; exact ⟨_, rfl, by simp⟩
theorem execTaskEnd_kept (core entry cycles : Nat) (s : State) : ∃ q, execTaskEnd core entry cycles s = .next q ∧ q.kept = s.kept := by
  unfold execTaskEnd; exact ⟨_, rfl, by simp⟩
theorem execSignalArrival_kept (n : Nat) (s : State) : ∃ q, execSignalArrival n s = .next q ∧ q.kept = s.kept := by
  unfold execSignalArrival; dsimp only; (repeat' split) <;> exact ⟨_, rfl, by simp⟩
theorem execTableSetSwap_kept (core ctx : Nat) (bad : AreaErrs) (s : State) : ∃ q, execTableSetSwap core ctx bad s = .next q ∧ q.kept = s.kept := by
  unfold execTableSetSwap; exact ⟨_, rfl, by simp⟩
theorem execStateSaveComplete_kept (core ctx : Nat) (upsets : List (Nat × Nat × Nat)) (s : State) : ∃ q, execStateSaveComplete core ctx upsets s = .next q ∧ q.kept = s.kept := by
  unfold execStateSaveComplete; exact ⟨_, rfl, by simp⟩
theorem execStateRestoreComplete_kept (core ctx : Nat) (bad : AreaErrs) (s : State) : ∃ q, execStateRestoreComplete core ctx bad s = .next q ∧ q.kept = s.kept := by
  unfold execStateRestoreComplete; exact ⟨_, rfl, by simp⟩
theorem execIsleScrubWrite_kept (core word : Nat) (s : State) : ∃ q, execIsleScrubWrite core word s = .next q ∧ q.kept = s.kept := by
  unfold execIsleScrubWrite; exact ⟨_, rfl, by simp⟩
theorem execScrubAbandon_kept (core word : Nat) (s : State) : ∃ q, execScrubAbandon core word s = .next q ∧ q.kept = s.kept := by
  unfold execScrubAbandon; exact ⟨_, rfl, by simp⟩
/-! ### Streams -/

theorem execSubmissionArmEntry_kept (fn ring : Nat) (s : State) : ∃ q, execSubmissionArmEntry fn ring s = .next q ∧ q.kept = s.kept := by
  unfold execSubmissionArmEntry; exact ⟨_, rfl, by simp⟩
theorem execStreamIssue_kept (core : Nat) (s : State) : ∃ q, execStreamIssue core s = .next q ∧ q.kept = s.kept := by
  unfold execStreamIssue; exact ⟨_, rfl, by simp⟩
theorem execBackgroundAgeing_kept (core sid : Nat) (s : State) : ∃ q, execBackgroundAgeing core sid s = .next q ∧ q.kept = s.kept := by
  unfold execBackgroundAgeing; refine ⟨_, rfl, ?_⟩
  repeat' first | with_reducible rfl | (with_reducible refine foldl_kept_eq (fun a b => ?_) ?_) | (with_reducible refine foldl_kept1_eq (fun a b => ?_) ?_) | (with_reducible refine elim_kept_eq (fun a => ?_) ?_) | (with_reducible refine elim_kept1_eq (fun a => ?_) ?_) | split | simp
theorem execStreamResponse_kept (core tag gen : Nat) (s : State) : ∃ q, execStreamResponse core tag gen s = .next q ∧ q.kept = s.kept := by
  unfold execStreamResponse; exact ⟨_, rfl, by simp⟩
theorem execMcastCredit_kept (group member : Nat) (s : State) : ∃ q, execMcastCredit group member s = .next q ∧ q.kept = s.kept := by
  unfold execMcastCredit; exact ⟨_, rfl, by simp⟩
theorem execMcastTileArrival_kept (group member : Nat) (s : State) : ∃ q, execMcastTileArrival group member s = .next q ∧ q.kept = s.kept := by
  unfold execMcastTileArrival; exact ⟨_, rfl, by simp⟩
theorem execVersionResolution_kept (core sid : Nat) (s : State) : ∃ q, execVersionResolution core sid s = .next q ∧ q.kept = s.kept := by
  unfold execVersionResolution; exact ⟨_, rfl, by simp⟩
theorem execTagTimeout_kept (core tag : Nat) (s : State) : ∃ q, execTagTimeout core tag s = .next q ∧ q.kept = s.kept := by
  unfold execTagTimeout; exact ⟨_, rfl, by simp⟩
theorem execTagQuarantineEnd_kept (core tag : Nat) (s : State) : ∃ q, execTagQuarantineEnd core tag s = .next q ∧ q.kept = s.kept := by
  unfold execTagQuarantineEnd; exact ⟨_, rfl, by simp⟩
theorem execIsleAccess_kept (core : Nat) (fl : List (Nat × Nat)) (s : State) : ∃ q, execIsleAccess core fl s = .next q ∧ q.kept = s.kept := by
  unfold execIsleAccess; exact ⟨_, rfl, by simp⟩
/-! ### Nmu -/

theorem execNmuRequestArrival_kept (stack core : Nat) (s : State) : ∃ q, execNmuRequestArrival stack core s = .next q ∧ q.kept = s.kept := by
  unfold execNmuRequestArrival; dsimp only; (repeat' split) <;> exact ⟨_, rfl, by simp⟩
theorem execSorterAdmit_kept (stack : Nat) (s : State) : ∃ q, execSorterAdmit stack s = .next q ∧ q.kept = s.kept := by
  unfold execSorterAdmit; exact ⟨_, rfl, by simp⟩
theorem execBankService_kept (stack chan pc bank aged : Nat) (errs : List (Nat × Nat)) (s : State) : ∃ q, execBankService stack chan pc bank aged errs s = .next q ∧ q.kept = s.kept := by
  unfold execBankService; exact ⟨_, rfl, by simp⟩
theorem execDramRefresh_kept (stack : Nat) (s : State) : ∃ q, execDramRefresh stack s = .next q ∧ q.kept = s.kept := by
  unfold execDramRefresh; exact ⟨_, rfl, by simp⟩
theorem execStageClaimsGranted_kept (part set : Nat) (s : State) : ∃ q, execStageClaimsGranted part set s = .next q ∧ q.kept = s.kept := by
  unfold execStageClaimsGranted; exact ⟨_, rfl, by simp⟩
theorem execStageTimeout_kept (part set : Nat) (s : State) : ∃ q, execStageTimeout part set s = .next q ∧ q.kept = s.kept := by
  unfold execStageTimeout; exact ⟨_, rfl, by simp⟩
theorem execStageKernelsEnd_kept (part set : Nat) (s : State) : ∃ q, execStageKernelsEnd part set s = .next q ∧ q.kept = s.kept := by
  unfold execStageKernelsEnd; exact ⟨_, rfl, by simp⟩
theorem execFormatRefresh_kept (part set : Nat) (s : State) : ∃ q, execFormatRefresh part set s = .next q ∧ q.kept = s.kept := by
  unfold execFormatRefresh; exact ⟨_, rfl, by simp⟩
theorem execMigrationHoldersEnded_kept (ctx seg : Nat) (s : State) : ∃ q, execMigrationHoldersEnded ctx seg s = .next q ∧ q.kept = s.kept := by
  unfold execMigrationHoldersEnded; exact ⟨_, rfl, by simp⟩
theorem execMigrationTimeout_kept (ctx seg : Nat) (s : State) : ∃ q, execMigrationTimeout ctx seg s = .next q ∧ q.kept = s.kept := by
  unfold execMigrationTimeout; refine ⟨_, rfl, ?_⟩
  repeat' first | with_reducible rfl | (with_reducible refine foldl_kept_eq (fun a b => ?_) ?_) | (with_reducible refine foldl_kept1_eq (fun a b => ?_) ?_) | (with_reducible refine elim_kept_eq (fun a => ?_) ?_) | (with_reducible refine elim_kept1_eq (fun a => ?_) ?_) | split | simp
theorem execMigrationCopyComplete_kept (ctx seg : Nat) (s : State) : ∃ q, execMigrationCopyComplete ctx seg s = .next q ∧ q.kept = s.kept := by
  unfold execMigrationCopyComplete; exact ⟨_, rfl, by simp⟩
/-! ### Link -/

theorem execTrainingFrame_kept (port lane ctl : Nat) (rx : LaneRx) (rdy pre : Bool) (preset ask : Nat) (s : State) : ∃ q, execTrainingFrame port lane ctl rx rdy pre preset ask s = .next q ∧ q.kept = s.kept := by
  unfold execTrainingFrame; exact ⟨_, rfl, by simp⟩
theorem execTrainingTimeout_kept (port : Nat) (s : State) : ∃ q, execTrainingTimeout port s = .next q ∧ q.kept = s.kept := by
  unfold execTrainingTimeout; refine ⟨_, rfl, ?_⟩
  try rw [settle_kept]
  repeat' first | with_reducible rfl | (with_reducible refine mbox_kept _ _ _ _ _ _ _ (fun m a => ?_)) | (with_reducible refine atPort_kept _ _ _ (fun p => ?_)) | (with_reducible refine receive_kept _ _ _ _ _ (fun p a => ?_)) | (with_reducible refine atFn_kept _ _ _ ?_) | (with_reducible refine sbWrite_kept _ _ _ ?_) | (with_reducible refine foldl_kept_eq (fun a b => ?_) ?_) | (with_reducible refine foldl_kept1_eq (fun a b => ?_) ?_) | (with_reducible refine elim_kept_eq (fun a => ?_) ?_) | (with_reducible refine elim_kept1_eq (fun a => ?_) ?_) | split | simp
theorem execTrainingWaitEnd_kept (port : Nat) (s : State) : ∃ q, execTrainingWaitEnd port s = .next q ∧ q.kept = s.kept := by
  unfold execTrainingWaitEnd; exact ⟨_, rfl, by simp⟩
theorem execFastRetrainTimeout_kept (port : Nat) (s : State) : ∃ q, execFastRetrainTimeout port s = .next q ∧ q.kept = s.kept := by
  unfold execFastRetrainTimeout; exact ⟨_, rfl, by simp⟩
theorem execCodeword_kept (port cwcnt : Nat) (corrected : List Nat) (bad : Bool) (s : State) : ∃ q, execCodeword port cwcnt corrected bad s = .next q ∧ q.kept = s.kept := by
  unfold execCodeword; exact ⟨_, rfl, by simp⟩
theorem execFlitReceive_kept (port : Nat) (flit : List Byte) (failed : Bool) (s : State) : ∃ q, execFlitReceive port flit failed s = .next q ∧ q.kept = s.kept := by
  unfold execFlitReceive; exact ⟨_, rfl, by simp⟩
theorem execConfig_kept (port : Nat) (flit : List Byte) (failed : Bool) (s : State) : ∃ q, execConfig port flit failed s = .next q ∧ q.kept = s.kept := by
  unfold execConfig; exact ⟨_, rfl, by simp⟩
theorem execRetrain_kept (port : Nat) (flit : List Byte) (failed : Bool) (s : State) : ∃ q, execRetrain port flit failed s = .next q ∧ q.kept = s.kept := by
  unfold execRetrain; exact ⟨_, rfl, by simp⟩
theorem execDown_kept (port : Nat) (flit : List Byte) (failed : Bool) (s : State) : ∃ q, execDown port flit failed s = .next q ∧ q.kept = s.kept := by
  unfold execDown; exact ⟨_, rfl, by simp⟩
theorem execEchoReq_kept (port : Nat) (flit : List Byte) (failed : Bool) (s : State) : ∃ q, execEchoReq port flit failed s = .next q ∧ q.kept = s.kept := by
  unfold execEchoReq; exact ⟨_, rfl, by simp⟩
theorem execEchoRsp_kept (port : Nat) (flit : List Byte) (failed : Bool) (s : State) : ∃ q, execEchoRsp port flit failed s = .next q ∧ q.kept = s.kept := by
  unfold execEchoRsp; exact ⟨_, rfl, by simp⟩
theorem execFlitTransmit_kept (port : Nat) (s : State) : ∃ q, execFlitTransmit port s = .next q ∧ q.kept = s.kept := by
  unfold execFlitTransmit; refine ⟨_, rfl, ?_⟩
  try rw [settle_kept]
  repeat' first | with_reducible rfl | (with_reducible refine mbox_kept _ _ _ _ _ _ _ (fun m a => ?_)) | (with_reducible refine atPort_kept _ _ _ (fun p => ?_)) | (with_reducible refine receive_kept _ _ _ _ _ (fun p a => ?_)) | (with_reducible refine atFn_kept _ _ _ ?_) | (with_reducible refine sbWrite_kept _ _ _ ?_) | (with_reducible refine foldl_kept_eq (fun a b => ?_) ?_) | (with_reducible refine foldl_kept1_eq (fun a b => ?_) ?_) | (with_reducible refine elim_kept_eq (fun a => ?_) ?_) | (with_reducible refine elim_kept1_eq (fun a => ?_) ?_) | split | simp
theorem execReplayTimeout_kept (port : Nat) (s : State) : ∃ q, execReplayTimeout port s = .next q ∧ q.kept = s.kept := by
  unfold execReplayTimeout; refine ⟨_, rfl, ?_⟩
  try rw [settle_kept]
  repeat' first | with_reducible rfl | (with_reducible refine mbox_kept _ _ _ _ _ _ _ (fun m a => ?_)) | (with_reducible refine atPort_kept _ _ _ (fun p => ?_)) | (with_reducible refine receive_kept _ _ _ _ _ (fun p a => ?_)) | (with_reducible refine atFn_kept _ _ _ ?_) | (with_reducible refine sbWrite_kept _ _ _ ?_) | (with_reducible refine foldl_kept_eq (fun a b => ?_) ?_) | (with_reducible refine foldl_kept1_eq (fun a b => ?_) ?_) | (with_reducible refine elim_kept_eq (fun a => ?_) ?_) | (with_reducible refine elim_kept1_eq (fun a => ?_) ?_) | split | simp
theorem execRecoveryTimeout_kept (port : Nat) (s : State) : ∃ q, execRecoveryTimeout port s = .next q ∧ q.kept = s.kept := by
  unfold execRecoveryTimeout; exact ⟨_, rfl, by simp⟩
theorem execIdleFlitTimer_kept (port : Nat) (s : State) : ∃ q, execIdleFlitTimer port s = .next q ∧ q.kept = s.kept := by
  unfold execIdleFlitTimer; exact ⟨_, rfl, by simp⟩
theorem execCreditRelease_kept (port vc : Nat) (s : State) : ∃ q, execCreditRelease port vc s = .next q ∧ q.kept = s.kept := by
  unfold execCreditRelease; exact ⟨_, rfl, by simp⟩
theorem execLsymWindowEnd_kept (port lane : Nat) (s : State) : ∃ q, execLsymWindowEnd port lane s = .next q ∧ q.kept = s.kept := by
  unfold execLsymWindowEnd; exact ⟨_, rfl, by simp⟩
theorem execLaneLockLoss_kept (port lane : Nat) (s : State) : ∃ q, execLaneLockLoss port lane s = .next q ∧ q.kept = s.kept := by
  unfold execLaneLockLoss; exact ⟨_, rfl, by simp⟩
theorem execDisableDrainTimeout_kept (port : Nat) (s : State) : ∃ q, execDisableDrainTimeout port s = .next q ∧ q.kept = s.kept := by
  unfold execDisableDrainTimeout; exact ⟨_, rfl, by simp⟩
/-! ### Fabric -/

theorem execPut_kept (port vc : Nat) (s : State) : ∃ q, execPut port vc s = .next q ∧ q.kept = s.kept := by
  unfold execPut; exact ⟨_, rfl, by simp⟩
theorem execGetReq_kept (port vc : Nat) (s : State) : ∃ q, execGetReq port vc s = .next q ∧ q.kept = s.kept := by
  unfold execGetReq; exact ⟨_, rfl, by simp⟩
theorem execPutAck_kept (port vc : Nat) (s : State) : ∃ q, execPutAck port vc s = .next q ∧ q.kept = s.kept := by
  unfold execPutAck; exact ⟨_, rfl, by simp⟩
theorem execGetRsp_kept (port vc : Nat) (s : State) : ∃ q, execGetRsp port vc s = .next q ∧ q.kept = s.kept := by
  unfold execGetRsp; exact ⟨_, rfl, by simp⟩
theorem execNack_kept (port vc : Nat) (s : State) : ∃ q, execNack port vc s = .next q ∧ q.kept = s.kept := by
  unfold execNack; exact ⟨_, rfl, by simp⟩
theorem execRed_kept (port vc : Nat) (s : State) : ∃ q, execRed port vc s = .next q ∧ q.kept = s.kept := by
  unfold execRed; exact ⟨_, rfl, by simp⟩
theorem execDlv_kept (port vc : Nat) (s : State) : ∃ q, execDlv port vc s = .next q ∧ q.kept = s.kept := by
  unfold execDlv; exact ⟨_, rfl, by simp⟩
theorem execRep_kept (port vc : Nat) (s : State) : ∃ q, execRep port vc s = .next q ∧ q.kept = s.kept := by
  unfold execRep; exact ⟨_, rfl, by simp⟩
theorem execBar_kept (port vc : Nat) (s : State) : ∃ q, execBar port vc s = .next q ∧ q.kept = s.kept := by
  unfold execBar; exact ⟨_, rfl, by simp⟩
theorem execBarRel_kept (port vc : Nat) (s : State) : ∃ q, execBarRel port vc s = .next q ∧ q.kept = s.kept := by
  unfold execBarRel; exact ⟨_, rfl, by simp⟩
theorem execCollectiveTimeout_kept (part job coll : Nat) (s : State) : ∃ q, execCollectiveTimeout part job coll s = .next q ∧ q.kept = s.kept := by
  unfold execCollectiveTimeout; refine ⟨_, rfl, ?_⟩
  repeat' first | with_reducible rfl | (with_reducible refine foldl_kept_eq (fun a b => ?_) ?_) | (with_reducible refine foldl_kept1_eq (fun a b => ?_) ?_) | (with_reducible refine elim_kept_eq (fun a => ?_) ?_) | (with_reducible refine elim_kept1_eq (fun a => ?_) ?_) | split | simp
theorem execPacketForward_kept (port vc : Nat) (s : State) : ∃ q, execPacketForward port vc s = .next q ∧ q.kept = s.kept := by
  unfold execPacketForward; exact ⟨_, rfl, by simp⟩
theorem execPacketQueueTimeout_kept (port vc : Nat) (s : State) : ∃ q, execPacketQueueTimeout port vc s = .next q ∧ q.kept = s.kept := by
  unfold execPacketQueueTimeout; exact ⟨_, rfl, by simp⟩
/-! ### Tree -/

theorem execHello_kept (port vc : Nat) (s : State) : ∃ q, execHello port vc s = .next q ∧ q.kept = s.kept := by
  unfold execHello; refine ⟨_, rfl, ?_⟩
  try rw [settle_kept]
  repeat' first | with_reducible rfl | (with_reducible refine mbox_kept _ _ _ _ _ _ _ (fun m a => ?_)) | (with_reducible refine atPort_kept _ _ _ (fun p => ?_)) | (with_reducible refine receive_kept _ _ _ _ _ (fun p a => ?_)) | (with_reducible refine atFn_kept _ _ _ ?_) | (with_reducible refine sbWrite_kept _ _ _ ?_) | (with_reducible refine foldl_kept_eq (fun a b => ?_) ?_) | (with_reducible refine foldl_kept1_eq (fun a b => ?_) ?_) | (with_reducible refine elim_kept_eq (fun a => ?_) ?_) | (with_reducible refine elim_kept1_eq (fun a => ?_) ?_) | split | simp
theorem execTreeOk_kept (port vc : Nat) (s : State) : ∃ q, execTreeOk port vc s = .next q ∧ q.kept = s.kept := by
  unfold execTreeOk; exact ⟨_, rfl, by simp⟩
theorem execTreeFormTimeout_kept (job : Nat) (s : State) : ∃ q, execTreeFormTimeout job s = .next q ∧ q.kept = s.kept := by
  unfold execTreeFormTimeout; dsimp only; (repeat' split) <;> exact ⟨_, rfl, by simp⟩
theorem execVote_kept (port vc : Nat) (s : State) : ∃ q, execVote port vc s = .next q ∧ q.kept = s.kept := by
  unfold execVote; exact ⟨_, rfl, by simp⟩
theorem execVoteTimeout_kept (job who : Nat) (s : State) : ∃ q, execVoteTimeout job who s = .next q ∧ q.kept = s.kept := by
  unfold execVoteTimeout; exact ⟨_, rfl, by simp⟩
theorem execDecide_kept (port vc : Nat) (s : State) : ∃ q, execDecide port vc s = .next q ∧ q.kept = s.kept := by
  unfold execDecide; exact ⟨_, rfl, by simp⟩
theorem execDecisionTimeout_kept (job : Nat) (s : State) : ∃ q, execDecisionTimeout job s = .next q ∧ q.kept = s.kept := by
  unfold execDecisionTimeout; refine ⟨_, rfl, ?_⟩
  repeat' first | with_reducible rfl | (with_reducible refine foldl_kept_eq (fun a b => ?_) ?_) | (with_reducible refine foldl_kept1_eq (fun a b => ?_) ?_) | (with_reducible refine elim_kept_eq (fun a => ?_) ?_) | (with_reducible refine elim_kept1_eq (fun a => ?_) ?_) | split | simp
theorem execFault_kept (port vc : Nat) (s : State) : ∃ q, execFault port vc s = .next q ∧ q.kept = s.kept := by
  unfold execFault; exact ⟨_, rfl, by simp⟩
theorem execRestart_kept (port vc : Nat) (s : State) : ∃ q, execRestart port vc s = .next q ∧ q.kept = s.kept := by
  unfold execRestart; exact ⟨_, rfl, by simp⟩
theorem execRestartStopComplete_kept (job : Nat) (s : State) : ∃ q, execRestartStopComplete job s = .next q ∧ q.kept = s.kept := by
  unfold execRestartStopComplete; refine ⟨_, rfl, ?_⟩
  repeat' first | with_reducible rfl | (with_reducible refine foldl_kept_eq (fun a b => ?_) ?_) | (with_reducible refine foldl_kept1_eq (fun a b => ?_) ?_) | (with_reducible refine elim_kept_eq (fun a => ?_) ?_) | (with_reducible refine elim_kept1_eq (fun a => ?_) ?_) | split | simp
theorem execRestartStopTimeout_kept (job : Nat) (s : State) : ∃ q, execRestartStopTimeout job s = .next q ∧ q.kept = s.kept := by
  unfold execRestartStopTimeout; refine ⟨_, rfl, ?_⟩
  repeat' first | with_reducible rfl | (with_reducible refine foldl_kept_eq (fun a b => ?_) ?_) | (with_reducible refine foldl_kept1_eq (fun a b => ?_) ?_) | (with_reducible refine elim_kept_eq (fun a => ?_) ?_) | (with_reducible refine elim_kept1_eq (fun a => ?_) ?_) | split | simp
theorem execStateRpt_kept (port vc : Nat) (s : State) : ∃ q, execStateRpt port vc s = .next q ∧ q.kept = s.kept := by
  unfold execStateRpt; exact ⟨_, rfl, by simp⟩
theorem execRestartHoldEnd_kept (job : Nat) (s : State) : ∃ q, execRestartHoldEnd job s = .next q ∧ q.kept = s.kept := by
  unfold execRestartHoldEnd; refine ⟨_, rfl, ?_⟩
  repeat' first | with_reducible rfl | (with_reducible refine foldl_kept_eq (fun a b => ?_) ?_) | (with_reducible refine foldl_kept1_eq (fun a b => ?_) ?_) | (with_reducible refine elim_kept_eq (fun a => ?_) ?_) | (with_reducible refine elim_kept1_eq (fun a => ?_) ?_) | split | simp
theorem execStateReportTimeout_kept (job : Nat) (s : State) : ∃ q, execStateReportTimeout job s = .next q ∧ q.kept = s.kept := by
  unfold execStateReportTimeout; refine ⟨_, rfl, ?_⟩
  repeat' first | with_reducible rfl | (with_reducible refine foldl_kept_eq (fun a b => ?_) ?_) | (with_reducible refine foldl_kept1_eq (fun a b => ?_) ?_) | (with_reducible refine elim_kept_eq (fun a => ?_) ?_) | (with_reducible refine elim_kept1_eq (fun a => ?_) ?_) | split | simp
theorem execResume_kept (port vc : Nat) (s : State) : ∃ q, execResume port vc s = .next q ∧ q.kept = s.kept := by
  unfold execResume; exact ⟨_, rfl, by simp⟩
theorem execRestartTimeout_kept (job : Nat) (s : State) : ∃ q, execRestartTimeout job s = .next q ∧ q.kept = s.kept := by
  unfold execRestartTimeout; refine ⟨_, rfl, ?_⟩
  repeat' first | with_reducible rfl | (with_reducible refine foldl_kept_eq (fun a b => ?_) ?_) | (with_reducible refine foldl_kept1_eq (fun a b => ?_) ?_) | (with_reducible refine elim_kept_eq (fun a => ?_) ?_) | (with_reducible refine elim_kept1_eq (fun a => ?_) ?_) | split | simp
/-! ### Contexts -/

theorem execDependencyTimeout_kept (core ctx kind which : Nat) (s : State) : ∃ q, execDependencyTimeout core ctx kind which s = .next q ∧ q.kept = s.kept := by
  unfold execDependencyTimeout; dsimp only; (repeat' split) <;> exact ⟨_, rfl, by simp⟩
theorem execPreemptionDeadline_kept (ctx : Nat) (s : State) : ∃ q, execPreemptionDeadline ctx s = .next q ∧ q.kept = s.kept := by
  unfold execPreemptionDeadline; refine ⟨_, rfl, ?_⟩
  repeat' first | with_reducible rfl | (with_reducible refine foldl_kept_eq (fun a b => ?_) ?_) | (with_reducible refine foldl_kept1_eq (fun a b => ?_) ?_) | (with_reducible refine elim_kept_eq (fun a => ?_) ?_) | (with_reducible refine elim_kept1_eq (fun a => ?_) ?_) | split | simp
theorem execContextStopped_kept (ctx : Nat) (s : State) : ∃ q, execContextStopped ctx s = .next q ∧ q.kept = s.kept := by
  unfold execContextStopped; exact ⟨_, rfl, by simp⟩
theorem execStopTimeout_kept (ctx : Nat) (s : State) : ∃ q, execStopTimeout ctx s = .next q ∧ q.kept = s.kept := by
  unfold execStopTimeout; refine ⟨_, rfl, ?_⟩
  repeat' first | with_reducible rfl | (with_reducible refine foldl_kept_eq (fun a b => ?_) ?_) | (with_reducible refine foldl_kept1_eq (fun a b => ?_) ?_) | (with_reducible refine elim_kept_eq (fun a => ?_) ?_) | (with_reducible refine elim_kept1_eq (fun a => ?_) ?_) | split | simp
theorem execTeardownComplete_kept (ctx : Nat) (s : State) : ∃ q, execTeardownComplete ctx s = .next q ∧ q.kept = s.kept := by
  unfold execTeardownComplete; exact ⟨_, rfl, by simp⟩
/-! ### HostRegs -/

theorem execRegisterWrite_kept (space off value : Nat) (ok : Bool) (s : State) : ∃ q, execRegisterWrite space off value ok s = .next q ∧ q.kept = s.kept := by
  unfold execRegisterWrite; exact ⟨_, rfl, by simp⟩
theorem execUnmappedRegisterAccess_kept (space off bytes : Nat) (write : Bool) (s : State) : ∃ q, execUnmappedRegisterAccess space off bytes write s = .next q ∧ q.kept = s.kept := by
  unfold execUnmappedRegisterAccess; exact ⟨_, rfl, by simp⟩
theorem execMailboxEnable_kept (fn logn : Nat) (s : State) : ∃ q, execMailboxEnable fn logn s = .next q ∧ q.kept = s.kept := by
  unfold execMailboxEnable; exact ⟨_, rfl, by simp⟩
theorem execMailboxDisable_kept (fn logn : Nat) (s : State) : ∃ q, execMailboxDisable fn logn s = .next q ∧ q.kept = s.kept := by
  unfold execMailboxDisable; exact ⟨_, rfl, by simp⟩
theorem execMailboxDoorbell_kept (fn index : Nat) (s : State) : ∃ q, execMailboxDoorbell fn index s = .next q ∧ q.kept = s.kept := by
  unfold execMailboxDoorbell; exact ⟨_, rfl, by simp⟩
theorem execMailboxResponseDoorbell_kept (fn index : Nat) (s : State) : ∃ q, execMailboxResponseDoorbell fn index s = .next q ∧ q.kept = s.kept := by
  unfold execMailboxResponseDoorbell; exact ⟨_, rfl, by simp⟩
theorem execSubmissionDoorbell_kept (fn ring index : Nat) (s : State) : ∃ q, execSubmissionDoorbell fn ring index s = .next q ∧ q.kept = s.kept := by
  unfold execSubmissionDoorbell; exact ⟨_, rfl, by simp⟩
theorem execCompletionDoorbell_kept (fn ring index : Nat) (s : State) : ∃ q, execCompletionDoorbell fn ring index s = .next q ∧ q.kept = s.kept := by
  unfold execCompletionDoorbell; exact ⟨_, rfl, by simp⟩
theorem execCompletionInterruptTimer_kept (fn ring : Nat) (s : State) : ∃ q, execCompletionInterruptTimer fn ring s = .next q ∧ q.kept = s.kept := by
  unfold execCompletionInterruptTimer; exact ⟨_, rfl, by simp⟩
theorem execMsixVectorUnmask_kept (fn vector : Nat) (s : State) : ∃ q, execMsixVectorUnmask fn vector s = .next q ∧ q.kept = s.kept := by
  unfold execMsixVectorUnmask; exact ⟨_, rfl, by simp⟩
theorem execConfigRequest_kept (fn off : Nat) (write : Bool) (s : State) : ∃ q, execConfigRequest fn off write s = .next q ∧ q.kept = s.kept := by
  unfold execConfigRequest; exact ⟨_, rfl, by simp⟩
theorem execConfigImageLoaded_kept (s : State) : ∃ q, execConfigImageLoaded s = .next q ∧ q.kept = s.kept := by
  unfold execConfigImageLoaded; exact ⟨_, rfl, by simp⟩
theorem execVfEnableSet_kept (numVFs : Nat) (s : State) : ∃ q, execVfEnableSet numVFs s = .next q ∧ q.kept = s.kept := by
  unfold execVfEnableSet; exact ⟨_, rfl, by simp⟩
theorem execVfEnableClear_kept (s : State) : ∃ q, execVfEnableClear s = .next q ∧ q.kept = s.kept := by
  unfold execVfEnableClear; refine ⟨_, rfl, ?_⟩
  try rw [settle_kept]
  repeat' first | with_reducible rfl | (with_reducible refine mbox_kept _ _ _ _ _ _ _ (fun m a => ?_)) | (with_reducible refine atPort_kept _ _ _ (fun p => ?_)) | (with_reducible refine receive_kept _ _ _ _ _ (fun p a => ?_)) | (with_reducible refine atFn_kept _ _ _ ?_) | (with_reducible refine sbWrite_kept _ _ _ ?_) | (with_reducible refine foldl_kept_eq (fun a b => ?_) ?_) | (with_reducible refine foldl_kept1_eq (fun a b => ?_) ?_) | (with_reducible refine elim_kept_eq (fun a => ?_) ?_) | (with_reducible refine elim_kept1_eq (fun a => ?_) ?_) | split | simp
theorem execVfFlr_kept (fn : Nat) (s : State) : ∃ q, execVfFlr fn s = .next q ∧ q.kept = s.kept := by
  unfold execVfFlr; exact ⟨_, rfl, by simp⟩
theorem execPfFlr_kept (s : State) : ∃ q, execPfFlr s = .next q ∧ q.kept = s.kept := by
  unfold execPfFlr; exact ⟨_, rfl, by simp⟩
theorem execPcieHotReset_kept (s : State) : ∃ q, execPcieHotReset s = .next q ∧ q.kept = s.kept := by
  unfold execPcieHotReset; exact ⟨_, rfl, by simp⟩
theorem execPcieLinkDown_kept (s : State) : ∃ q, execPcieLinkDown s = .next q ∧ q.kept = s.kept := by
  unfold execPcieLinkDown; exact ⟨_, rfl, by simp⟩
theorem execBusMasterEnableClear_kept (fn : Nat) (s : State) : ∃ q, execBusMasterEnableClear fn s = .next q ∧ q.kept = s.kept := by
  unfold execBusMasterEnableClear; exact ⟨_, rfl, by simp⟩
theorem execBusMasterEnableSet_kept (fn : Nat) (s : State) : ∃ q, execBusMasterEnableSet fn s = .next q ∧ q.kept = s.kept := by
  unfold execBusMasterEnableSet; exact ⟨_, rfl, by simp⟩
theorem execHostCopyBmeTimeout_kept (fn seq : Nat) (s : State) : ∃ q, execHostCopyBmeTimeout fn seq s = .next q ∧ q.kept = s.kept := by
  unfold execHostCopyBmeTimeout; exact ⟨_, rfl, by simp⟩
theorem execHostReadCompletion_kept (fn kind which : Nat) (bytes : List Byte) (ok : Bool) (s : State) : ∃ q, execHostReadCompletion fn kind which bytes ok s = .next q ∧ q.kept = s.kept := by
  unfold execHostReadCompletion; exact ⟨_, rfl, by simp⟩
theorem execHostReadError_kept (fn kind which : Nat) (late : Bool) (s : State) : ∃ q, execHostReadError fn kind which late s = .next q ∧ q.kept = s.kept := by
  unfold execHostReadError; exact ⟨_, rfl, by simp⟩
/-! ### MbDevice -/

theorem execNop_kept (c : Caller) (value : Nat) (s : State) : ∃ q, execNop c value s = .next q ∧ q.kept = s.kept := by
  unfold execNop; exact ⟨_, rfl, by simp⟩
theorem execDeviceInfo_kept (c : Caller) (s : State) : ∃ q, execDeviceInfo c s = .next q ∧ q.kept = s.kept := by
  unfold execDeviceInfo; exact ⟨_, rfl, by simp⟩
theorem execPartLayout_kept (c : Caller) (start : Nat) (s : State) : ∃ q, execPartLayout c start s = .next q ∧ q.kept = s.kept := by
  unfold execPartLayout; exact ⟨_, rfl, by simp⟩
theorem execPartConfig_kept (c : Caller) (part pdl age lo hi : Nat) (s : State) : ∃ q, execPartConfig c part pdl age lo hi s = .next q ∧ q.kept = s.kept := by
  unfold execPartConfig; exact ⟨_, rfl, by simp⟩
theorem execCtxCreate_kept (c : Caller) (d : List Byte) (s : State) : ∃ q, execCtxCreate c d s = .next q ∧ q.kept = s.kept := by
  unfold execCtxCreate; exact ⟨_, rfl, by simp⟩
theorem execCtxDestroy_kept (c : Caller) (n : Nat) (s : State) : ∃ q, execCtxDestroy c n s = .next q ∧ q.kept = s.kept := by
  unfold execCtxDestroy; exact ⟨_, rfl, by simp⟩
theorem execCtxStop_kept (c : Caller) (n : Nat) (s : State) : ∃ q, execCtxStop c n s = .next q ∧ q.kept = s.kept := by
  unfold execCtxStop; exact ⟨_, rfl, by simp⟩
theorem execCtxResume_kept (c : Caller) (n : Nat) (s : State) : ∃ q, execCtxResume c n s = .next q ∧ q.kept = s.kept := by
  unfold execCtxResume; exact ⟨_, rfl, by simp⟩
theorem execCtxReset_kept (c : Caller) (n : Nat) (s : State) : ∃ q, execCtxReset c n s = .next q ∧ q.kept = s.kept := by
  unfold execCtxReset; exact ⟨_, rfl, by simp⟩
theorem execCtxEvict_kept (c : Caller) (n : Nat) (s : State) : ∃ q, execCtxEvict c n s = .next q ∧ q.kept = s.kept := by
  unfold execCtxEvict; dsimp only; (repeat' split) <;> exact ⟨_, rfl, by simp⟩
theorem execCtxRestore_kept (c : Caller) (n : Nat) (s : State) : ∃ q, execCtxRestore c n s = .next q ∧ q.kept = s.kept := by
  unfold execCtxRestore; dsimp only; (repeat' split) <;> exact ⟨_, rfl, by simp⟩
theorem execCtxStatus_kept (c : Caller) (n : Nat) (s : State) : ∃ q, execCtxStatus c n s = .next q ∧ q.kept = s.kept := by
  unfold execCtxStatus; refine ⟨_, rfl, ?_⟩
  try rw [settle_kept]
  repeat' first | with_reducible rfl | (with_reducible refine mbox_kept _ _ _ _ _ _ _ (fun m a => ?_)) | (with_reducible refine atPort_kept _ _ _ (fun p => ?_)) | (with_reducible refine receive_kept _ _ _ _ _ (fun p a => ?_)) | (with_reducible refine atFn_kept _ _ _ ?_) | (with_reducible refine sbWrite_kept _ _ _ ?_) | (with_reducible refine foldl_kept_eq (fun a b => ?_) ?_) | (with_reducible refine foldl_kept1_eq (fun a b => ?_) ?_) | (with_reducible refine elim_kept_eq (fun a => ?_) ?_) | (with_reducible refine elim_kept1_eq (fun a => ?_) ?_) | split | simp
theorem execClientQuery_kept (c : Caller) (client : Nat) (s : State) : ∃ q, execClientQuery c client s = .next q ∧ q.kept = s.kept := by
  unfold execClientQuery; exact ⟨_, rfl, by simp⟩
theorem execClientSetQuota_kept (c : Caller) (client quota : Nat) (s : State) : ∃ q, execClientSetQuota c client quota s = .next q ∧ q.kept = s.kept := by
  unfold execClientSetQuota; exact ⟨_, rfl, by simp⟩
theorem execClientClear_kept (c : Caller) (client : Nat) (s : State) : ∃ q, execClientClear c client s = .next q ∧ q.kept = s.kept := by
  unfold execClientClear; exact ⟨_, rfl, by simp⟩
/-! ### MbSeg -/

theorem execSegCreate_kept (c : Caller) (d : List Byte) (ctx : Nat) (s : State) : ∃ q, execSegCreate c d ctx s = .next q ∧ q.kept = s.kept := by
  unfold execSegCreate; exact ⟨_, rfl, by simp⟩
theorem execSegQuery_kept (c : Caller) (ctx seg : Nat) (s : State) : ∃ q, execSegQuery c ctx seg s = .next q ∧ q.kept = s.kept := by
  unfold execSegQuery; refine ⟨_, rfl, ?_⟩
  try rw [settle_kept]
  repeat' first | with_reducible rfl | (with_reducible refine mbox_kept _ _ _ _ _ _ _ (fun m a => ?_)) | (with_reducible refine atPort_kept _ _ _ (fun p => ?_)) | (with_reducible refine receive_kept _ _ _ _ _ (fun p a => ?_)) | (with_reducible refine atFn_kept _ _ _ ?_) | (with_reducible refine sbWrite_kept _ _ _ ?_) | (with_reducible refine foldl_kept_eq (fun a b => ?_) ?_) | (with_reducible refine foldl_kept1_eq (fun a b => ?_) ?_) | (with_reducible refine elim_kept_eq (fun a => ?_) ?_) | (with_reducible refine elim_kept1_eq (fun a => ?_) ?_) | split | simp
theorem execSegProtect_kept (c : Caller) (ctx seg perm : Nat) (s : State) : ∃ q, execSegProtect c ctx seg perm s = .next q ∧ q.kept = s.kept := by
  unfold execSegProtect; exact ⟨_, rfl, by simp⟩
theorem execSegMigrate_kept (c : Caller) (ctx seg attr pref tmo : Nat) (s : State) : ∃ q, execSegMigrate c ctx seg attr pref tmo s = .next q ∧ q.kept = s.kept := by
  unfold execSegMigrate; exact ⟨_, rfl, by simp⟩
theorem execSegDelete_kept (c : Caller) (ctx seg tmo : Nat) (s : State) : ∃ q, execSegDelete c ctx seg tmo s = .next q ∧ q.kept = s.kept := by
  unfold execSegDelete; exact ⟨_, rfl, by simp⟩
theorem execPgroupCreate_kept (c : Caller) (d : List Byte) (s : State) : ∃ q, execPgroupCreate c d s = .next q ∧ q.kept = s.kept := by
  unfold execPgroupCreate; dsimp only; (repeat' split) <;> exact ⟨_, rfl, by simp⟩
theorem execPgroupDelete_kept (c : Caller) (st gid : Nat) (s : State) : ∃ q, execPgroupDelete c st gid s = .next q ∧ q.kept = s.kept := by
  unfold execPgroupDelete; refine ⟨_, rfl, ?_⟩
  try rw [settle_kept]
  repeat' first | with_reducible rfl | (with_reducible refine mbox_kept _ _ _ _ _ _ _ (fun m a => ?_)) | (with_reducible refine atPort_kept _ _ _ (fun p => ?_)) | (with_reducible refine receive_kept _ _ _ _ _ (fun p a => ?_)) | (with_reducible refine atFn_kept _ _ _ ?_) | (with_reducible refine sbWrite_kept _ _ _ ?_) | (with_reducible refine foldl_kept_eq (fun a b => ?_) ?_) | (with_reducible refine foldl_kept1_eq (fun a b => ?_) ?_) | (with_reducible refine elim_kept_eq (fun a => ?_) ?_) | (with_reducible refine elim_kept1_eq (fun a => ?_) ?_) | split | simp
theorem execNmuProgramLoad_kept (c : Caller) (part st prog : Nat) (bs : List Byte) (s : State) : ∃ q, execNmuProgramLoad c part st prog bs s = .next q ∧ q.kept = s.kept := by
  unfold execNmuProgramLoad; exact ⟨_, rfl, by simp⟩
theorem execNmuProgramDelete_kept (c : Caller) (part st prog : Nat) (s : State) : ∃ q, execNmuProgramDelete c part st prog s = .next q ∧ q.kept = s.kept := by
  unfold execNmuProgramDelete; exact ⟨_, rfl, by simp⟩
theorem execStateLoad_kept (c : Caller) (st gid epoch cva : Nat) (s : State) : ∃ q, execStateLoad c st gid epoch cva s = .next q ∧ q.kept = s.kept := by
  unfold execStateLoad; dsimp only; (repeat' split) <;> exact ⟨_, rfl, by simp⟩
theorem execStateExport_kept (c : Caller) (st gid haddr : Nat) (s : State) : ∃ q, execStateExport c st gid haddr s = .next q ∧ q.kept = s.kept := by
  unfold execStateExport; refine ⟨_, rfl, ?_⟩
  try rw [settle_kept]
  repeat' first | with_reducible rfl | (with_reducible refine mbox_kept _ _ _ _ _ _ _ (fun m a => ?_)) | (with_reducible refine atPort_kept _ _ _ (fun p => ?_)) | (with_reducible refine receive_kept _ _ _ _ _ (fun p a => ?_)) | (with_reducible refine atFn_kept _ _ _ ?_) | (with_reducible refine sbWrite_kept _ _ _ ?_) | (with_reducible refine foldl_kept_eq (fun a b => ?_) ?_) | (with_reducible refine foldl_kept1_eq (fun a b => ?_) ?_) | (with_reducible refine elim_kept_eq (fun a => ?_) ?_) | (with_reducible refine elim_kept1_eq (fun a => ?_) ?_) | split | simp
theorem execWeightImport_kept (c : Caller) (st gid key cva bytes : Nat) (s : State) : ∃ q, execWeightImport c st gid key cva bytes s = .next q ∧ q.kept = s.kept := by
  unfold execWeightImport; dsimp only; (repeat' split) <;> exact ⟨_, rfl, by simp⟩
theorem execHostCopy_kept (c : Caller) (d ext : List Byte) (s : State) : ∃ q, execHostCopy c d ext s = .next q ∧ q.kept = s.kept := by
  unfold execHostCopy; exact ⟨_, rfl, by simp⟩
/-! ### Rings -/

theorem execRingCreateSubmission_kept (c : Caller) (ctx form logn base shadow : Nat) (s : State) : ∃ q, execRingCreateSubmission c ctx form logn base shadow s = .next q ∧ q.kept = s.kept := by
  unfold execRingCreateSubmission; exact ⟨_, rfl, by simp⟩
theorem execRingCreateCompletion_kept (c : Caller) (logn vector icnt itime base shadow : Nat) (s : State) : ∃ q, execRingCreateCompletion c logn vector icnt itime base shadow s = .next q ∧ q.kept = s.kept := by
  unfold execRingCreateCompletion; exact ⟨_, rfl, by simp⟩
theorem execRingDestroy_kept (c : Caller) (kind ring : Nat) (s : State) : ∃ q, execRingDestroy c kind ring s = .next q ∧ q.kept = s.kept := by
  unfold execRingDestroy; refine ⟨_, rfl, ?_⟩
  try rw [settle_kept]
  repeat' first | with_reducible rfl | (with_reducible refine mbox_kept _ _ _ _ _ _ _ (fun m a => ?_)) | (with_reducible refine atPort_kept _ _ _ (fun p => ?_)) | (with_reducible refine receive_kept _ _ _ _ _ (fun p a => ?_)) | (with_reducible refine atFn_kept _ _ _ ?_) | (with_reducible refine sbWrite_kept _ _ _ ?_) | (with_reducible refine foldl_kept_eq (fun a b => ?_) ?_) | (with_reducible refine foldl_kept1_eq (fun a b => ?_) ?_) | (with_reducible refine elim_kept_eq (fun a => ?_) ?_) | (with_reducible refine elim_kept1_eq (fun a => ?_) ?_) | split | simp
theorem execRingReset_kept (c : Caller) (kind ring : Nat) (s : State) : ∃ q, execRingReset c kind ring s = .next q ∧ q.kept = s.kept := by
  unfold execRingReset; exact ⟨_, rfl, by simp⟩
theorem execRingBindNotice_kept (c : Caller) (ctx ring : Nat) (s : State) : ∃ q, execRingBindNotice c ctx ring s = .next q ∧ q.kept = s.kept := by
  unfold execRingBindNotice; exact ⟨_, rfl, by simp⟩
/-! ### MbStream -/

theorem execCounter_kept (c : Caller) (ctx core idx value : Nat) (s : State) : ∃ q, execCounter c ctx core idx value s = .next q ∧ q.kept = s.kept := by
  unfold execCounter; exact ⟨_, rfl, by simp⟩
theorem execStreamSlotAllocate_kept (c : Caller) (ctx core sid : Nat) (s : State) : ∃ q, execStreamSlotAllocate c ctx core sid s = .next q ∧ q.kept = s.kept := by
  unfold execStreamSlotAllocate; exact ⟨_, rfl, by simp⟩
theorem execStreamSlotFree_kept (c : Caller) (ctx core sid : Nat) (s : State) : ∃ q, execStreamSlotFree c ctx core sid s = .next q ∧ q.kept = s.kept := by
  unfold execStreamSlotFree; exact ⟨_, rfl, by simp⟩
theorem execStreamArm_kept (c : Caller) (ctx core : Nat) (d : List Byte) (s : State) : ∃ q, execStreamArm c ctx core d s = .next q ∧ q.kept = s.kept := by
  unfold execStreamArm; exact ⟨_, rfl, by simp⟩
theorem execStreamCancel_kept (c : Caller) (ctx core sid : Nat) (s : State) : ∃ q, execStreamCancel c ctx core sid s = .next q ∧ q.kept = s.kept := by
  unfold execStreamCancel; exact ⟨_, rfl, by simp⟩
theorem execStreamStatus_kept (c : Caller) (ctx core sid : Nat) (s : State) : ∃ q, execStreamStatus c ctx core sid s = .next q ∧ q.kept = s.kept := by
  unfold execStreamStatus; exact ⟨_, rfl, by simp⟩
theorem execBankCap_kept (c : Caller) (part cap : Nat) (s : State) : ∃ q, execBankCap c part cap s = .next q ∧ q.kept = s.kept := by
  unfold execBankCap; exact ⟨_, rfl, by simp⟩
theorem execTagtmo_kept (c : Caller) (part tmo : Nat) (s : State) : ∃ q, execTagtmo c part tmo s = .next q ∧ q.kept = s.kept := by
  unfold execTagtmo; exact ⟨_, rfl, by simp⟩
theorem execMcastGroupCreate_kept (c : Caller) (ctx leader : Nat) (bits : List Byte) (s : State) : ∃ q, execMcastGroupCreate c ctx leader bits s = .next q ∧ q.kept = s.kept := by
  unfold execMcastGroupCreate; exact ⟨_, rfl, by simp⟩
theorem execMcastGroupDelete_kept (c : Caller) (group : Nat) (s : State) : ∃ q, execMcastGroupDelete c group s = .next q ∧ q.kept = s.kept := by
  unfold execMcastGroupDelete; exact ⟨_, rfl, by simp⟩
theorem execLayoutCreate_kept (c : Caller) (ctx : Nat) (d : List Byte) (s : State) : ∃ q, execLayoutCreate c ctx d s = .next q ∧ q.kept = s.kept := by
  unfold execLayoutCreate; exact ⟨_, rfl, by simp⟩
theorem execLayoutDelete_kept (c : Caller) (ctx h : Nat) (s : State) : ∃ q, execLayoutDelete c ctx h s = .next q ∧ q.kept = s.kept := by
  unfold execLayoutDelete; exact ⟨_, rfl, by simp⟩
theorem execHistogramRead_kept (c : Caller) (ctx first count : Nat) (s : State) : ∃ q, execHistogramRead c ctx first count s = .next q ∧ q.kept = s.kept := by
  unfold execHistogramRead; exact ⟨_, rfl, by simp⟩
theorem execHistogramClear_kept (c : Caller) (ctx first count : Nat) (s : State) : ∃ q, execHistogramClear c ctx first count s = .next q ∧ q.kept = s.kept := by
  unfold execHistogramClear; exact ⟨_, rfl, by simp⟩
theorem execFormatTableWrite_kept (c : Caller) (ctx first count : Nat) (es : List Byte) (s : State) : ∃ q, execFormatTableWrite c ctx first count es s = .next q ∧ q.kept = s.kept := by
  unfold execFormatTableWrite; exact ⟨_, rfl, by simp⟩
theorem execFormatTableRead_kept (c : Caller) (ctx first count : Nat) (s : State) : ∃ q, execFormatTableRead c ctx first count s = .next q ∧ q.kept = s.kept := by
  unfold execFormatTableRead; exact ⟨_, rfl, by simp⟩
theorem execQ1Tblload_kept (c : Caller) (ctx pair fcva dcva : Nat) (s : State) : ∃ q, execQ1Tblload c ctx pair fcva dcva s = .next q ∧ q.kept = s.kept := by
  unfold execQ1Tblload; refine ⟨_, rfl, ?_⟩
  try rw [settle_kept]
  repeat' first | with_reducible rfl | (with_reducible refine mbox_kept _ _ _ _ _ _ _ (fun m a => ?_)) | (with_reducible refine atPort_kept _ _ _ (fun p => ?_)) | (with_reducible refine receive_kept _ _ _ _ _ (fun p a => ?_)) | (with_reducible refine atFn_kept _ _ _ ?_) | (with_reducible refine sbWrite_kept _ _ _ ?_) | (with_reducible refine foldl_kept_eq (fun a b => ?_) ?_) | (with_reducible refine foldl_kept1_eq (fun a b => ?_) ?_) | (with_reducible refine elim_kept_eq (fun a => ?_) ?_) | (with_reducible refine elim_kept1_eq (fun a => ?_) ?_) | split | simp
/-! ### MbJob -/

theorem execDeviceId_kept (c : Caller) (devid : Nat) (s : State) : ∃ q, execDeviceId c devid s = .next q ∧ q.kept = s.kept := by
  unfold execDeviceId; exact ⟨_, rfl, by simp⟩
theorem execJobJoin_kept (c : Caller) (part job midx nmem : Nat) (t : List Byte) (s : State) : ∃ q, execJobJoin c part job midx nmem t s = .next q ∧ q.kept = s.kept := by
  unfold execJobJoin; refine ⟨_, rfl, ?_⟩
  try rw [settle_kept]
  repeat' first | with_reducible rfl | (with_reducible refine mbox_kept _ _ _ _ _ _ _ (fun m a => ?_)) | (with_reducible refine atPort_kept _ _ _ (fun p => ?_)) | (with_reducible refine receive_kept _ _ _ _ _ (fun p a => ?_)) | (with_reducible refine atFn_kept _ _ _ ?_) | (with_reducible refine sbWrite_kept _ _ _ ?_) | (with_reducible refine foldl_kept_eq (fun a b => ?_) ?_) | (with_reducible refine foldl_kept1_eq (fun a b => ?_) ?_) | (with_reducible refine elim_kept_eq (fun a => ?_) ?_) | (with_reducible refine elim_kept1_eq (fun a => ?_) ?_) | split | simp
theorem execJobLeave_kept (c : Caller) (part job : Nat) (s : State) : ∃ q, execJobLeave c part job s = .next q ∧ q.kept = s.kept := by
  unfold execJobLeave; exact ⟨_, rfl, by simp⟩
theorem execRoute_kept (c : Caller) (first count : Nat) (es : List Byte) (s : State) : ∃ q, execRoute c first count es s = .next q ∧ q.kept = s.kept := by
  unfold execRoute; exact ⟨_, rfl, by simp⟩
theorem execWindowOpen_kept (c : Caller) (d : List Byte) (s : State) : ∃ q, execWindowOpen c d s = .next q ∧ q.kept = s.kept := by
  unfold execWindowOpen; exact ⟨_, rfl, by simp⟩
theorem execWindowClose_kept (c : Caller) (rwin : Nat) (s : State) : ∃ q, execWindowClose c rwin s = .next q ∧ q.kept = s.kept := by
  unfold execWindowClose; exact ⟨_, rfl, by simp⟩
theorem execCollective_kept (c : Caller) (d : List Byte) (s : State) : ∃ q, execCollective c d s = .next q ∧ q.kept = s.kept := by
  unfold execCollective; refine ⟨_, rfl, ?_⟩
  try rw [settle_kept]
  repeat' first | with_reducible rfl | (with_reducible refine mbox_kept _ _ _ _ _ _ _ (fun m a => ?_)) | (with_reducible refine atPort_kept _ _ _ (fun p => ?_)) | (with_reducible refine receive_kept _ _ _ _ _ (fun p a => ?_)) | (with_reducible refine atFn_kept _ _ _ ?_) | (with_reducible refine sbWrite_kept _ _ _ ?_) | (with_reducible refine foldl_kept_eq (fun a b => ?_) ?_) | (with_reducible refine foldl_kept1_eq (fun a b => ?_) ?_) | (with_reducible refine elim_kept_eq (fun a => ?_) ?_) | (with_reducible refine elim_kept1_eq (fun a => ?_) ?_) | split | simp
theorem execCollCancel_kept (c : Caller) (part job coll : Nat) (s : State) : ∃ q, execCollCancel c part job coll s = .next q ∧ q.kept = s.kept := by
  unfold execCollCancel; refine ⟨_, rfl, ?_⟩
  try rw [settle_kept]
  repeat' first | with_reducible rfl | (with_reducible refine mbox_kept _ _ _ _ _ _ _ (fun m a => ?_)) | (with_reducible refine atPort_kept _ _ _ (fun p => ?_)) | (with_reducible refine receive_kept _ _ _ _ _ (fun p a => ?_)) | (with_reducible refine atFn_kept _ _ _ ?_) | (with_reducible refine sbWrite_kept _ _ _ ?_) | (with_reducible refine foldl_kept_eq (fun a b => ?_) ?_) | (with_reducible refine foldl_kept1_eq (fun a b => ?_) ?_) | (with_reducible refine elim_kept_eq (fun a => ?_) ?_) | (with_reducible refine elim_kept1_eq (fun a => ?_) ?_) | split | simp
theorem execPortEnable_kept (c : Caller) (port : Nat) (s : State) : ∃ q, execPortEnable c port s = .next q ∧ q.kept = s.kept := by
  unfold execPortEnable; exact ⟨_, rfl, by simp⟩
theorem execPortDisable_kept (c : Caller) (port : Nat) (s : State) : ∃ q, execPortDisable c port s = .next q ∧ q.kept = s.kept := by
  unfold execPortDisable; exact ⟨_, rfl, by simp⟩
theorem execPortLaneRestore_kept (c : Caller) (port : Nat) (s : State) : ∃ q, execPortLaneRestore c port s = .next q ∧ q.kept = s.kept := by
  unfold execPortLaneRestore; exact ⟨_, rfl, by simp⟩
theorem execPortCreditAllocation_kept (c : Caller) (port : Nat) (init : List Nat) (s : State) : ∃ q, execPortCreditAllocation c port init s = .next q ∧ q.kept = s.kept := by
  unfold execPortCreditAllocation; exact ⟨_, rfl, by simp⟩
/-! ### MbCommit -/

theorem execRole_kept (c : Caller) (elig : Nat) (s : State) : ∃ q, execRole c elig s = .next q ∧ q.kept = s.kept := by
  unfold execRole; exact ⟨_, rfl, by simp⟩
theorem execOptSetCreate_kept (c : Caller) (part stmo : Nat) (s : State) : ∃ q, execOptSetCreate c part stmo s = .next q ∧ q.kept = s.kept := by
  unfold execOptSetCreate; exact ⟨_, rfl, by simp⟩
theorem execOptSetDelete_kept (c : Caller) (part set : Nat) (s : State) : ∃ q, execOptSetDelete c part set s = .next q ∧ q.kept = s.kept := by
  unfold execOptSetDelete; refine ⟨_, rfl, ?_⟩
  try rw [settle_kept]
  repeat' first | with_reducible rfl | (with_reducible refine mbox_kept _ _ _ _ _ _ _ (fun m a => ?_)) | (with_reducible refine atPort_kept _ _ _ (fun p => ?_)) | (with_reducible refine receive_kept _ _ _ _ _ (fun p a => ?_)) | (with_reducible refine atFn_kept _ _ _ ?_) | (with_reducible refine sbWrite_kept _ _ _ ?_) | (with_reducible refine foldl_kept_eq (fun a b => ?_) ?_) | (with_reducible refine foldl_kept1_eq (fun a b => ?_) ?_) | (with_reducible refine elim_kept_eq (fun a => ?_) ?_) | (with_reducible refine elim_kept1_eq (fun a => ?_) ?_) | split | simp
theorem execOptSetQuery_kept (c : Caller) (part set : Nat) (s : State) : ∃ q, execOptSetQuery c part set s = .next q ∧ q.kept = s.kept := by
  unfold execOptSetQuery; exact ⟨_, rfl, by simp⟩
theorem execUpdateStage_kept (c : Caller) (part set : Nat) (b : List Byte) (s : State) : ∃ q, execUpdateStage c part set b s = .next q ∧ q.kept = s.kept := by
  unfold execUpdateStage; exact ⟨_, rfl, by simp⟩
theorem execSetResolveCommit_kept (c : Caller) (part set : Nat) (s : State) : ∃ q, execSetResolveCommit c part set s = .next q ∧ q.kept = s.kept := by
  unfold execSetResolveCommit; exact ⟨_, rfl, by simp⟩
theorem execSetResolveAbort_kept (c : Caller) (part set : Nat) (s : State) : ∃ q, execSetResolveAbort c part set s = .next q ∧ q.kept = s.kept := by
  unfold execSetResolveAbort; exact ⟨_, rfl, by simp⟩
theorem execStepBind_kept (c : Caller) (ctx set sig score rcva : Nat) (s : State) : ∃ q, execStepBind c ctx set sig score rcva s = .next q ∧ q.kept = s.kept := by
  unfold execStepBind; exact ⟨_, rfl, by simp⟩
theorem execLossScaleSet_kept (c : Caller) (part set dyn lse lsmin lsmax ngrow : Nat) (s : State) : ∃ q, execLossScaleSet c part set dyn lse lsmin lsmax ngrow s = .next q ∧ q.kept = s.kept := by
  unfold execLossScaleSet; exact ⟨_, rfl, by simp⟩
theorem execLossScaleQuery_kept (c : Caller) (part set : Nat) (s : State) : ∃ q, execLossScaleQuery c part set s = .next q ∧ q.kept = s.kept := by
  unfold execLossScaleQuery; exact ⟨_, rfl, by simp⟩
theorem execCommitGroupStage_kept (c : Caller) (part buf : Nat) (acts : List Byte) (s : State) : ∃ q, execCommitGroupStage c part buf acts s = .next q ∧ q.kept = s.kept := by
  unfold execCommitGroupStage; exact ⟨_, rfl, by simp⟩
theorem execCommitGroupApply_kept (c : Caller) (part buf : Nat) (s : State) : ∃ q, execCommitGroupApply c part buf s = .next q ∧ q.kept = s.kept := by
  unfold execCommitGroupApply; refine ⟨_, rfl, ?_⟩
  try rw [settle_kept]
  repeat' first | with_reducible rfl | (with_reducible refine mbox_kept _ _ _ _ _ _ _ (fun m a => ?_)) | (with_reducible refine atPort_kept _ _ _ (fun p => ?_)) | (with_reducible refine receive_kept _ _ _ _ _ (fun p a => ?_)) | (with_reducible refine atFn_kept _ _ _ ?_) | (with_reducible refine sbWrite_kept _ _ _ ?_) | (with_reducible refine foldl_kept_eq (fun a b => ?_) ?_) | (with_reducible refine foldl_kept1_eq (fun a b => ?_) ?_) | (with_reducible refine elim_kept_eq (fun a => ?_) ?_) | (with_reducible refine elim_kept1_eq (fun a => ?_) ?_) | split | simp
theorem execCommitGroupBind_kept (c : Caller) (part buf set : Nat) (s : State) : ∃ q, execCommitGroupBind c part buf set s = .next q ∧ q.kept = s.kept := by
  unfold execCommitGroupBind; exact ⟨_, rfl, by simp⟩
theorem execCommitGroupDiscard_kept (c : Caller) (part buf : Nat) (s : State) : ∃ q, execCommitGroupDiscard c part buf s = .next q ∧ q.kept = s.kept := by
  unfold execCommitGroupDiscard; exact ⟨_, rfl, by simp⟩
theorem execCommitGroupQuery_kept (c : Caller) (part buf : Nat) (s : State) : ∃ q, execCommitGroupQuery c part buf s = .next q ∧ q.kept = s.kept := by
  unfold execCommitGroupQuery; exact ⟨_, rfl, by simp⟩
theorem execJobStepBind_kept (c : Caller) (part job sets nctx sig score : Nat) (s : State) : ∃ q, execJobStepBind c part job sets nctx sig score s = .next q ∧ q.kept = s.kept := by
  unfold execJobStepBind; refine ⟨_, rfl, ?_⟩
  try rw [settle_kept]
  repeat' first | with_reducible rfl | (with_reducible refine mbox_kept _ _ _ _ _ _ _ (fun m a => ?_)) | (with_reducible refine atPort_kept _ _ _ (fun p => ?_)) | (with_reducible refine receive_kept _ _ _ _ _ (fun p a => ?_)) | (with_reducible refine atFn_kept _ _ _ ?_) | (with_reducible refine sbWrite_kept _ _ _ ?_) | (with_reducible refine foldl_kept_eq (fun a b => ?_) ?_) | (with_reducible refine foldl_kept1_eq (fun a b => ?_) ?_) | (with_reducible refine elim_kept_eq (fun a => ?_) ?_) | (with_reducible refine elim_kept1_eq (fun a => ?_) ?_) | split | simp
theorem execJobStepUnbind_kept (c : Caller) (part job sets : Nat) (s : State) : ∃ q, execJobStepUnbind c part job sets s = .next q ∧ q.kept = s.kept := by
  unfold execJobStepUnbind; refine ⟨_, rfl, ?_⟩
  try rw [settle_kept]
  repeat' first | with_reducible rfl | (with_reducible refine mbox_kept _ _ _ _ _ _ _ (fun m a => ?_)) | (with_reducible refine atPort_kept _ _ _ (fun p => ?_)) | (with_reducible refine receive_kept _ _ _ _ _ (fun p a => ?_)) | (with_reducible refine atFn_kept _ _ _ ?_) | (with_reducible refine sbWrite_kept _ _ _ ?_) | (with_reducible refine foldl_kept_eq (fun a b => ?_) ?_) | (with_reducible refine foldl_kept1_eq (fun a b => ?_) ?_) | (with_reducible refine elim_kept_eq (fun a => ?_) ?_) | (with_reducible refine elim_kept1_eq (fun a => ?_) ?_) | split | simp
theorem execTreeForm_kept (c : Caller) (job fan skipovf vtmo dectmo rstmo : Nat) (elig : List Byte) (s : State) : ∃ q, execTreeForm c job fan skipovf vtmo dectmo rstmo elig s = .next q ∧ q.kept = s.kept := by
  unfold execTreeForm; dsimp only; (repeat' split) <;> exact ⟨_, rfl, by simp⟩
theorem execJobFault_kept (c : Caller) (part job : Nat) (s : State) : ∃ q, execJobFault c part job s = .next q ∧ q.kept = s.kept := by
  unfold execJobFault; exact ⟨_, rfl, by simp⟩
/-! ### MbSecurity -/

theorem execSpdm_kept (c : Caller) (msg : List Byte) (opens ends : Option Nat) (s : State) : ∃ q, execSpdm c msg opens ends s = .next q ∧ q.kept = s.kept := by
  unfold execSpdm; exact ⟨_, rfl, by simp⟩
theorem execSpdmSessionTimeout_kept (transport session : Nat) (s : State) : ∃ q, execSpdmSessionTimeout transport session s = .next q ∧ q.kept = s.kept := by
  unfold execSpdmSessionTimeout; exact ⟨_, rfl, by simp⟩
theorem execKeyDeliver_kept (transport session : Nat) (d : List Byte) (s : State) : ∃ q, execKeyDeliver transport session d s = .next q ∧ q.kept = s.kept := by
  unfold execKeyDeliver; exact ⟨_, rfl, by simp⟩
theorem execKeyErase_kept (transport session : Nat) (d : List Byte) (s : State) : ∃ q, execKeyErase transport session d s = .next q ∧ q.kept = s.kept := by
  unfold execKeyErase; exact ⟨_, rfl, by simp⟩
theorem execKeyQuery_kept (transport session : Nat) (d : List Byte) (s : State) : ∃ q, execKeyQuery transport session d s = .next q ∧ q.kept = s.kept := by
  unfold execKeyQuery; exact ⟨_, rfl, by simp⟩
theorem execKeyRelease_kept (c : Caller) (part h : Nat) (s : State) : ∃ q, execKeyRelease c part h s = .next q ∧ q.kept = s.kept := by
  unfold execKeyRelease; refine ⟨_, rfl, ?_⟩
  try rw [settle_kept]
  repeat' first | with_reducible rfl | (with_reducible refine mbox_kept _ _ _ _ _ _ _ (fun m a => ?_)) | (with_reducible refine atPort_kept _ _ _ (fun p => ?_)) | (with_reducible refine receive_kept _ _ _ _ _ (fun p a => ?_)) | (with_reducible refine atFn_kept _ _ _ ?_) | (with_reducible refine sbWrite_kept _ _ _ ?_) | (with_reducible refine foldl_kept_eq (fun a b => ?_) ?_) | (with_reducible refine foldl_kept1_eq (fun a b => ?_) ?_) | (with_reducible refine elim_kept_eq (fun a => ?_) ?_) | (with_reducible refine elim_kept1_eq (fun a => ?_) ?_) | split | simp
theorem execKeyReleaseErase_kept (c : Caller) (part h : Nat) (s : State) : ∃ q, execKeyReleaseErase c part h s = .next q ∧ q.kept = s.kept := by
  unfold execKeyReleaseErase; exact ⟨_, rfl, by simp⟩
theorem execKeyReleaseQuery_kept (c : Caller) (part h : Nat) (s : State) : ∃ q, execKeyReleaseQuery c part h s = .next q ∧ q.kept = s.kept := by
  unfold execKeyReleaseQuery; exact ⟨_, rfl, by simp⟩
theorem execConfModeEnter_kept (c : Caller) (session : Nat) (s : State) : ∃ q, execConfModeEnter c session s = .next q ∧ q.kept = s.kept := by
  unfold execConfModeEnter; exact ⟨_, rfl, by simp⟩
theorem execConfModeLeave_kept (c : Caller) (s : State) : ∃ q, execConfModeLeave c s = .next q ∧ q.kept = s.kept := by
  unfold execConfModeLeave; exact ⟨_, rfl, by simp⟩
theorem execConfModeKeyUpdate_kept (c : Caller) (s : State) : ∃ q, execConfModeKeyUpdate c s = .next q ∧ q.kept = s.kept := by
  unfold execConfModeKeyUpdate; refine ⟨_, rfl, ?_⟩
  try rw [settle_kept]
  repeat' first | with_reducible rfl | (with_reducible refine mbox_kept _ _ _ _ _ _ _ (fun m a => ?_)) | (with_reducible refine atPort_kept _ _ _ (fun p => ?_)) | (with_reducible refine receive_kept _ _ _ _ _ (fun p a => ?_)) | (with_reducible refine atFn_kept _ _ _ ?_) | (with_reducible refine sbWrite_kept _ _ _ ?_) | (with_reducible refine foldl_kept_eq (fun a b => ?_) ?_) | (with_reducible refine foldl_kept1_eq (fun a b => ?_) ?_) | (with_reducible refine elim_kept_eq (fun a => ?_) ?_) | (with_reducible refine elim_kept1_eq (fun a => ?_) ?_) | split | simp
theorem execDebugUnlockChallenge_kept (c : Caller) (s : State) : ∃ q, execDebugUnlockChallenge c s = .next q ∧ q.kept = s.kept := by
  unfold execDebugUnlockChallenge; exact ⟨_, rfl, by simp⟩
theorem execDebugUnlock_kept (c : Caller) (t : List Byte) (s : State) : ∃ q, execDebugUnlock c t s = .next q ∧ q.kept = s.kept := by
  unfold execDebugUnlock; refine ⟨_, rfl, ?_⟩
  try rw [settle_kept]
  repeat' first | with_reducible rfl | (with_reducible refine mbox_kept _ _ _ _ _ _ _ (fun m a => ?_)) | (with_reducible refine atPort_kept _ _ _ (fun p => ?_)) | (with_reducible refine receive_kept _ _ _ _ _ (fun p a => ?_)) | (with_reducible refine atFn_kept _ _ _ ?_) | (with_reducible refine sbWrite_kept _ _ _ ?_) | (with_reducible refine foldl_kept_eq (fun a b => ?_) ?_) | (with_reducible refine foldl_kept1_eq (fun a b => ?_) ?_) | (with_reducible refine elim_kept_eq (fun a => ?_) ?_) | (with_reducible refine elim_kept1_eq (fun a => ?_) ?_) | split | simp
theorem execDebugZeroiseTimeout_kept (s : State) : ∃ q, execDebugZeroiseTimeout s = .next q ∧ q.kept = s.kept := by
  unfold execDebugZeroiseTimeout; exact ⟨_, rfl, by simp⟩
/-! ### MbPower -/

theorem execPowerStateForce_kept (c : Caller) (kind unit st : Nat) (s : State) : ∃ q, execPowerStateForce c kind unit st s = .next q ∧ q.kept = s.kept := by
  unfold execPowerStateForce; exact ⟨_, rfl, by simp⟩
theorem execPowerStateRelease_kept (c : Caller) (kind unit : Nat) (s : State) : ∃ q, execPowerStateRelease c kind unit s = .next q ∧ q.kept = s.kept := by
  unfold execPowerStateRelease; exact ⟨_, rfl, by simp⟩
theorem execPowerStateSetDivider_kept (c : Caller) (part div : Nat) (s : State) : ∃ q, execPowerStateSetDivider c part div s = .next q ∧ q.kept = s.kept := by
  unfold execPowerStateSetDivider; exact ⟨_, rfl, by simp⟩
theorem execLtol_kept (c : Caller) (part tol : Nat) (s : State) : ∃ q, execLtol c part tol s = .next q ∧ q.kept = s.kept := by
  unfold execLtol; exact ⟨_, rfl, by simp⟩
theorem execPowerCap_kept (c : Caller) (cap : Nat) (s : State) : ∃ q, execPowerCap c cap s = .next q ∧ q.kept = s.kept := by
  unfold execPowerCap; exact ⟨_, rfl, by simp⟩
theorem execPowerStatus_kept (c : Caller) (s : State) : ∃ q, execPowerStatus c s = .next q ∧ q.kept = s.kept := by
  unfold execPowerStatus; exact ⟨_, rfl, by simp⟩
/-! ### MbFault -/

theorem execFaultConfigWrite_kept (c : Caller) (src cfg : Nat) (s : State) : ∃ q, execFaultConfigWrite c src cfg s = .next q ∧ q.kept = s.kept := by
  unfold execFaultConfigWrite; exact ⟨_, rfl, by simp⟩
theorem execFaultConfigRead_kept (c : Caller) (s : State) : ∃ q, execFaultConfigRead c s = .next q ∧ q.kept = s.kept := by
  unfold execFaultConfigRead; exact ⟨_, rfl, by simp⟩
theorem execFaultConfigFaultN_kept (c : Caller) (mode fnpw : Nat) (s : State) : ∃ q, execFaultConfigFaultN c mode fnpw s = .next q ∧ q.kept = s.kept := by
  unfold execFaultConfigFaultN; exact ⟨_, rfl, by simp⟩
theorem execFaultConfigRelease_kept (c : Caller) (s : State) : ∃ q, execFaultConfigRelease c s = .next q ∧ q.kept = s.kept := by
  unfold execFaultConfigRelease; exact ⟨_, rfl, by simp⟩
theorem execFaultConfigPatrol_kept (c : Caller) (iper sper : Nat) (s : State) : ∃ q, execFaultConfigPatrol c iper sper s = .next q ∧ q.kept = s.kept := by
  unfold execFaultConfigPatrol; exact ⟨_, rfl, by simp⟩
theorem execFaultConfigInject_kept (c : Caller) (src unit part ctx : Nat) (s : State) : ∃ q, execFaultConfigInject c src unit part ctx s = .next q ∧ q.kept = s.kept := by
  unfold execFaultConfigInject; exact ⟨_, rfl, by simp⟩
theorem execFaultConfigWatchdog_kept (c : Caller) (wdt : Nat) (s : State) : ∃ q, execFaultConfigWatchdog c wdt s = .next q ∧ q.kept = s.kept := by
  unfold execFaultConfigWatchdog; exact ⟨_, rfl, by simp⟩
theorem execFaultRecordsRead_kept (c : Caller) (start max : Nat) (s : State) : ∃ q, execFaultRecordsRead c start max s = .next q ∧ q.kept = s.kept := by
  unfold execFaultRecordsRead; exact ⟨_, rfl, by simp⟩
theorem execFaultRecordsPersistent_kept (c : Caller) (s : State) : ∃ q, execFaultRecordsPersistent c s = .next q ∧ q.kept = s.kept := by
  unfold execFaultRecordsPersistent; exact ⟨_, rfl, by simp⟩
theorem execMemStatus_kept (c : Caller) (s : State) : ∃ q, execMemStatus c s = .next q ∧ q.kept = s.kept := by
  unfold execMemStatus; exact ⟨_, rfl, by simp⟩
theorem execCorrLog_kept (c : Caller) (st : Nat) (s : State) : ∃ q, execCorrLog c st s = .next q ∧ q.kept = s.kept := by
  unfold execCorrLog; exact ⟨_, rfl, by simp⟩
theorem execPortStatus_kept (c : Caller) (s : State) : ∃ q, execPortStatus c s = .next q ∧ q.kept = s.kept := by
  unfold execPortStatus; exact ⟨_, rfl, by simp⟩
theorem execFabricStatus_kept (c : Caller) (s : State) : ∃ q, execFabricStatus c s = .next q ∧ q.kept = s.kept := by
  unfold execFabricStatus; exact ⟨_, rfl, by simp⟩
theorem execFwUpdateWrite_kept (c : Caller) (kind : Nat) (img : List Byte) (s : State) : ∃ q, execFwUpdateWrite c kind img s = .next q ∧ q.kept = s.kept := by
  unfold execFwUpdateWrite; exact ⟨_, rfl, by simp⟩
theorem execFwUpdateQuery_kept (c : Caller) (s : State) : ∃ q, execFwUpdateQuery c s = .next q ∧ q.kept = s.kept := by
  unfold execFwUpdateQuery; exact ⟨_, rfl, by simp⟩
theorem execLogRead_kept (c : Caller) (start max : Nat) (s : State) : ∃ q, execLogRead c start max s = .next q ∧ q.kept = s.kept := by
  unfold execLogRead; exact ⟨_, rfl, by simp⟩
theorem execCrashDumpRead_kept (c : Caller) (s : State) : ∃ q, execCrashDumpRead c s = .next q ∧ q.kept = s.kept := by
  unfold execCrashDumpRead; exact ⟨_, rfl, by simp⟩
theorem execCrashDumpClear_kept (c : Caller) (s : State) : ∃ q, execCrashDumpClear c s = .next q ∧ q.kept = s.kept := by
  unfold execCrashDumpClear; exact ⟨_, rfl, by simp⟩
/-! ### Faults -/

theorem execFaultSweep_kept (s : State) : ∃ q, execFaultSweep s = .next q ∧ q.kept = s.kept := by
  unfold execFaultSweep; exact ⟨_, rfl, by simp⟩
theorem execBlockResetComplete_kept (ukind unit : Nat) (s : State) : ∃ q, execBlockResetComplete ukind unit s = .next q ∧ q.kept = s.kept := by
  unfold execBlockResetComplete; exact ⟨_, rfl, by simp⟩
theorem execFaultNPulseEnd_kept (s : State) : ∃ q, execFaultNPulseEnd s = .next q ∧ q.kept = s.kept := by
  unfold execFaultNPulseEnd; exact ⟨_, rfl, by simp⟩
theorem execFaultNGapEnd_kept (s : State) : ∃ q, execFaultNGapEnd s = .next q ∧ q.kept = s.kept := by
  unfold execFaultNGapEnd; (repeat' split) <;> exact ⟨_, rfl, by simp⟩
theorem execFaultNHoldRelease_kept (ok : Bool) (s : State) : ∃ q, execFaultNHoldRelease ok s = .next q ∧ q.kept = s.kept := by
  unfold execFaultNHoldRelease; exact ⟨_, rfl, by simp⟩
theorem execIslePatrolRead_kept (core : Nat) (fl : List (Nat × Nat)) (s : State) : ∃ q, execIslePatrolRead core fl s = .next q ∧ q.kept = s.kept := by
  unfold execIslePatrolRead; exact ⟨_, rfl, by simp⟩
theorem execStackPatrolRead_kept (stack : Nat) (errs : List (Nat × Nat)) (s : State) : ∃ q, execStackPatrolRead stack errs s = .next q ∧ q.kept = s.kept := by
  unfold execStackPatrolRead; exact ⟨_, rfl, by simp⟩
theorem execControlSramPatrol_kept (fl : List (Nat × Nat)) (s : State) : ∃ q, execControlSramPatrol fl s = .next q ∧ q.kept = s.kept := by
  unfold execControlSramPatrol; refine ⟨_, rfl, ?_⟩
  repeat' first | with_reducible rfl | (with_reducible refine foldl_kept_eq (fun a b => ?_) ?_) | (with_reducible refine foldl_kept1_eq (fun a b => ?_) ?_) | (with_reducible refine elim_kept_eq (fun a => ?_) ?_) | (with_reducible refine elim_kept1_eq (fun a => ?_) ?_) | split | simp
theorem execWatchdogKick_kept (s : State) : ∃ q, execWatchdogKick s = .next q ∧ q.kept = s.kept := by
  unfold execWatchdogKick; exact ⟨_, rfl, by simp⟩
theorem execWatchdogFirstExpiry_kept (s : State) : ∃ q, execWatchdogFirstExpiry s = .next q ∧ q.kept = s.kept := by
  unfold execWatchdogFirstExpiry; exact ⟨_, rfl, by simp⟩
theorem execWatchdogSecondExpiry_kept (s : State) : ∃ q, execWatchdogSecondExpiry s = .next q ∧ q.kept = s.kept := by
  unfold execWatchdogSecondExpiry; exact ⟨_, rfl, by simp⟩
theorem execEnclaveWatchdogExpiry_kept (s : State) : ∃ q, execEnclaveWatchdogExpiry s = .next q ∧ q.kept = s.kept := by
  unfold execEnclaveWatchdogExpiry; exact ⟨_, rfl, by simp⟩
/-! ### Power -/

theorem execPowerSample_kept (vin iin : Nat) (s : State) : ∃ q, execPowerSample vin iin s = .next q ∧ q.kept = s.kept := by
  unfold execPowerSample; exact ⟨_, rfl, by simp⟩
theorem execInputVoltageLow_kept (s : State) : ∃ q, execInputVoltageLow s = .next q ∧ q.kept = s.kept := by
  unfold execInputVoltageLow; exact ⟨_, rfl, by simp⟩
theorem execInputVoltageOutOfRange_kept (s : State) : ∃ q, execInputVoltageOutOfRange s = .next q ∧ q.kept = s.kept := by
  unfold execInputVoltageOutOfRange; exact ⟨_, rfl, by simp⟩
theorem execFastLimit_kept (s : State) : ∃ q, execFastLimit s = .next q ∧ q.kept = s.kept := by
  unfold execFastLimit; exact ⟨_, rfl, by simp⟩
theorem execFastLimitEnd_kept (s : State) : ∃ q, execFastLimitEnd s = .next q ∧ q.kept = s.kept := by
  unfold execFastLimitEnd; exact ⟨_, rfl, by simp⟩
theorem execInputOvercurrent_kept (s : State) : ∃ q, execInputOvercurrent s = .next q ∧ q.kept = s.kept := by
  unfold execInputOvercurrent; exact ⟨_, rfl, by simp⟩
theorem execPowerCapWindow_kept (avg : Nat) (s : State) : ∃ q, execPowerCapWindow avg s = .next q ∧ q.kept = s.kept := by
  unfold execPowerCapWindow; exact ⟨_, rfl, by simp⟩
theorem execThermalSample_kept (junction stackTs others : List Int) (s : State) : ∃ q, execThermalSample junction stackTs others s = .next q ∧ q.kept = s.kept := by
  unfold execThermalSample; exact ⟨_, rfl, by simp⟩
theorem execThermalWindow_kept (eighth : Nat) (s : State) : ∃ q, execThermalWindow eighth s = .next q ∧ q.kept = s.kept := by
  unfold execThermalWindow; exact ⟨_, rfl, by simp⟩
theorem execThermalTrip_kept (s : State) : ∃ q, execThermalTrip s = .next q ∧ q.kept = s.kept := by
  unfold execThermalTrip; dsimp only; (repeat' split) <;> exact ⟨_, rfl, by simp⟩
theorem execDividerChange_kept (eighth : Nat) (s : State) : ∃ q, execDividerChange eighth s = .next q ∧ q.kept = s.kept := by
  unfold execDividerChange; exact ⟨_, rfl, by simp⟩
theorem execPllLock_kept (s : State) : ∃ q, execPllLock s = .next q ∧ q.kept = s.kept := by
  unfold execPllLock; exact ⟨_, rfl, by simp⟩
theorem execPllLockTimeout_kept (s : State) : ∃ q, execPllLockTimeout s = .next q ∧ q.kept = s.kept := by
  unfold execPllLockTimeout; exact ⟨_, rfl, by simp⟩
theorem execPllLockLoss_kept (s : State) : ∃ q, execPllLockLoss s = .next q ∧ q.kept = s.kept := by
  unfold execPllLockLoss; exact ⟨_, rfl, by simp⟩
theorem execRailPowerGoodLost_kept (domain : Nat) (s : State) : ∃ q, execRailPowerGoodLost domain s = .next q ∧ q.kept = s.kept := by
  unfold execRailPowerGoodLost; exact ⟨_, rfl, by simp⟩
theorem execDomainIdleDescent_kept (kind unit sub : Nat) (s : State) : ∃ q, execDomainIdleDescent kind unit sub s = .next q ∧ q.kept = s.kept := by
  unfold execDomainIdleDescent; exact ⟨_, rfl, by simp⟩
theorem execDomainWake_kept (kind unit sub : Nat) (s : State) : ∃ q, execDomainWake kind unit sub s = .next q ∧ q.kept = s.kept := by
  unfold execDomainWake; exact ⟨_, rfl, by simp⟩
theorem execForcedStateReached_kept (kind unit : Nat) (s : State) : ∃ q, execForcedStateReached kind unit s = .next q ∧ q.kept = s.kept := by
  unfold execForcedStateReached; exact ⟨_, rfl, by simp⟩
/-! ### Startup -/

theorem execAlwaysOnPowerUp_kept (vin : Nat) (pwrEn resetN perstN eoffN mgr : Bool) (slot fold : Nat) (s : State) : ∃ q, execAlwaysOnPowerUp vin pwrEn resetN perstN eoffN mgr slot fold s = .next q ∧ q.kept = s.kept := by
  unfold execAlwaysOnPowerUp; refine ⟨_, rfl, ?_⟩; split
  · rfl
  · exact tryStart_kept _
theorem execAlwaysOnPowerLoss_kept (s : State) : ∃ q, execAlwaysOnPowerLoss s = .next q ∧ q.kept = s.kept := ⟨_, rfl, mainOff_kept s false⟩
theorem execPwrEnAssert_kept (s : State) : ∃ q, execPwrEnAssert s = .next q ∧ q.kept = s.kept := by
  unfold execPwrEnAssert; exact ⟨_, rfl, by simp⟩
theorem execRailsInRegulation_kept (s : State) : ∃ q, execRailsInRegulation s = .next q ∧ q.kept = s.kept := by
  unfold execRailsInRegulation; exact ⟨_, rfl, by simp⟩
theorem execRailRegulationTimeout_kept (domain : Nat) (s : State) : ∃ q, execRailRegulationTimeout domain s = .next q ∧ q.kept = s.kept := by
  unfold execRailRegulationTimeout; exact ⟨_, rfl, by simp⟩
theorem execPwrEnDeassert_kept (s : State) : ∃ q, execPwrEnDeassert s = .next q ∧ q.kept = s.kept := by
  unfold execPwrEnDeassert; exact ⟨_, rfl, by simp⟩
theorem execResetNAssert_kept (s : State) : ∃ q, execResetNAssert s = .next q ∧ q.kept = s.kept := by
  unfold execResetNAssert; exact ⟨_, rfl, by simp⟩
theorem execResetNDeassert_kept (s : State) : ∃ q, execResetNDeassert s = .next q ∧ q.kept = s.kept := by
  unfold execResetNDeassert; exact ⟨_, rfl, by simp⟩
theorem execChipResetHoldEnd_kept (s : State) : ∃ q, execChipResetHoldEnd s = .next q ∧ q.kept = s.kept := by
  unfold execChipResetHoldEnd; exact ⟨_, rfl, by simp⟩
theorem execPerstNAssert_kept (s : State) : ∃ q, execPerstNAssert s = .next q ∧ q.kept = s.kept := by
  unfold execPerstNAssert; exact ⟨_, rfl, by simp⟩
theorem execPerstNDeassert_kept (s : State) : ∃ q, execPerstNDeassert s = .next q ∧ q.kept = s.kept := by
  unfold execPerstNDeassert; exact ⟨_, rfl, by simp⟩
theorem execEoffNAssert_kept (s : State) : ∃ q, execEoffNAssert s = .next q ∧ q.kept = s.kept := by
  unfold execEoffNAssert; exact ⟨_, rfl, by simp⟩
theorem execEoffNDeassert_kept (s : State) : ∃ q, execEoffNDeassert s = .next q ∧ q.kept = s.kept := by
  unfold execEoffNDeassert; exact ⟨_, rfl, by simp⟩
theorem execStrapChange_kept (mgr : Bool) (slot fold : Nat) (s : State) : ∃ q, execStrapChange mgr slot fold s = .next q ∧ q.kept = s.kept := by
  unfold execStrapChange; exact ⟨_, rfl, by simp⟩
theorem execEnclaveBootComplete_kept (katOk : Bool) (s : State) : ∃ q, execEnclaveBootComplete katOk s = .next q ∧ q.kept = s.kept := by
  unfold execEnclaveBootComplete; exact ⟨_, rfl, by simp⟩
theorem execStackTrainingTimeout_kept (stack step : Nat) (s : State) : ∃ q, execStackTrainingTimeout stack step s = .next q ∧ q.kept = s.kept := by
  unfold execStackTrainingTimeout; exact ⟨_, rfl, by simp⟩
theorem execArraySelfTestComplete_kept (found : List (Nat × Nat × Nat × Bool)) (s : State) : ∃ q, execArraySelfTestComplete found s = .next q ∧ q.kept = s.kept := by
  unfold execArraySelfTestComplete; refine ⟨_, rfl, ?_⟩
  repeat' first | with_reducible rfl | (with_reducible refine foldl_kept_eq (fun a b => ?_) ?_) | (with_reducible refine foldl_kept1_eq (fun a b => ?_) ?_) | (with_reducible refine elim_kept_eq (fun a => ?_) ?_) | (with_reducible refine elim_kept1_eq (fun a => ?_) ?_) | split | simp
theorem execDroverInitTimeout_kept (s : State) : ∃ q, execDroverInitTimeout s = .next q ∧ q.kept = s.kept := by
  unfold execDroverInitTimeout; exact ⟨_, rfl, by simp⟩
/-- The fuse update raises the security versions and touches no other fuse (R523). -/
theorem fuseUpdate_kept (s : State) : s.fuseUpdate.pending = s.pending ∧ s.fuseUpdate.fixedFuses = s.fixedFuses ∧
    ∀ k, s.fusedSvn k ≤ s.fuseUpdate.fusedSvn k ∨ 3 ≤ k := by
  have hm : ∀ (x : State) (n : Nat), (x.measured n).kept = x.kept := measured_kept
  unfold State.fuseUpdate
  dsimp only
  split
  · exact ⟨rfl, rfl, fun k => .inl (Nat.le_refl _)⟩
  · have h := hm ({ s with nv.svn := [0, 1, 2].map fun k => max (s.nv.svn.getD k 0) ((Tab.look s.chip.enc.images (k + 1)).elim 0 (·.minsvn)) } : State) 5
    simp only [State.kept, Prod.mk.injEq] at h
    obtain ⟨h1, h2, h3, h4, h5, h6⟩ := h
    refine ⟨h1, ?_, fun k => ?_⟩
    · simp only [State.fixedFuses]; rw [h2, h3, h5, h6]
    · simp only [State.fusedSvn]
      rw [h4]
      match k with
      | 0 => exact .inl (by simp)
      | 1 => exact .inl (by simp)
      | 2 => exact .inl (by simp)
      | n + 3 => exact .inr (by omega)
/-- READY answers a next state: the queue and the fuses but the security versions stay, and those do not fall. -/
theorem execReady_kept (s : State) : ∃ q, execReady s = .next q ∧ q.pending = s.pending ∧ q.fixedFuses = s.fixedFuses ∧
    ∀ k < 3, s.fusedSvn k ≤ q.fusedSvn k := by
  have same : ∀ x y : State, x.kept = y.kept → x.pending = y.pending ∧ x.fixedFuses = y.fixedFuses ∧ ∀ k, x.fusedSvn k = y.fusedSvn k := by
    intro x y h
    simp only [State.kept, Prod.mk.injEq] at h
    obtain ⟨h1, h2, h3, h4, h5, h6⟩ := h
    exact ⟨h1, by simp only [State.fixedFuses]; rw [h2, h3, h5, h6], fun k => by simp only [State.fusedSvn]; rw [h4]⟩
  have rise : ∀ x : State, x.kept = s.kept → x.fuseUpdate.pending = s.pending ∧ x.fuseUpdate.fixedFuses = s.fixedFuses ∧
      ∀ k < 3, s.fusedSvn k ≤ x.fuseUpdate.fusedSvn k := by
    intro x hx
    obtain ⟨a1, a2, a3⟩ := same x s hx
    obtain ⟨b1, b2, b3⟩ := fuseUpdate_kept x
    exact ⟨b1.trans a1, b2.trans a2, fun k hk => (Nat.le_of_eq (a3 k).symm).trans ((b3 k).resolve_right (by omega))⟩
  have shape : ∃ x : State, s.reachReady = x.fuseUpdate.pumpAll ∧ x.kept = s.kept := by
    unfold State.reachReady
    refine ⟨_, rfl, ?_⟩
    rw [foldl_kept]
    · exact zeroUnlocked_kept s
    · intro a fn; dsimp only; split <;> simp
  refine ⟨_, rfl, ?_⟩
  split
  · obtain ⟨x, hx, hk⟩ := shape
    obtain ⟨c1, c2, c3⟩ := same s.reachReady.settle x.fuseUpdate (by rw [settle_kept, hx]; exact pumpAll_kept _)
    obtain ⟨d1, d2, d3⟩ := rise x hk
    exact ⟨c1.trans d1, c2.trans d2, fun k hk => (d3 k hk).trans (Nat.le_of_eq (c3 k).symm)⟩
  · obtain ⟨a1, a2, a3⟩ := same _ _ (settle_kept s)
    exact ⟨a1, a2, fun k _ => Nat.le_of_eq (a3 k).symm⟩

theorem execFlashProgrammingComplete_kept (s : State) : ∃ q, execFlashProgrammingComplete s = .next q ∧ q.kept = s.kept := by
  unfold execFlashProgrammingComplete; refine ⟨_, rfl, ?_⟩
  repeat' first | with_reducible rfl | (with_reducible refine foldl_kept_eq (fun a b => ?_) ?_) | (with_reducible refine foldl_kept1_eq (fun a b => ?_) ?_) | (with_reducible refine elim_kept_eq (fun a => ?_) ?_) | (with_reducible refine elim_kept1_eq (fun a => ?_) ?_) | split | simp
theorem execCrashCaptureComplete_kept (s : State) : ∃ q, execCrashCaptureComplete s = .next q ∧ q.kept = s.kept := by
  unfold execCrashCaptureComplete; exact ⟨_, rfl, by simp⟩
/-! ### Sideband -/

theorem execSbSetReadPointer_kept (off : Nat) (ok : Bool) (s : State) : ∃ q, execSbSetReadPointer off ok s = .next q ∧ q.kept = s.kept := by
  unfold execSbSetReadPointer; refine ⟨_, rfl, ?_⟩
  try rw [settle_kept]
  repeat' first | with_reducible rfl | (with_reducible refine mbox_kept _ _ _ _ _ _ _ (fun m a => ?_)) | (with_reducible refine atPort_kept _ _ _ (fun p => ?_)) | (with_reducible refine receive_kept _ _ _ _ _ (fun p a => ?_)) | (with_reducible refine atFn_kept _ _ _ ?_) | (with_reducible refine sbWrite_kept _ _ _ ?_) | (with_reducible refine foldl_kept_eq (fun a b => ?_) ?_) | (with_reducible refine foldl_kept1_eq (fun a b => ?_) ?_) | (with_reducible refine elim_kept_eq (fun a => ?_) ?_) | (with_reducible refine elim_kept1_eq (fun a => ?_) ?_) | split | simp
theorem execSbRegisterRead_kept (s : State) : ∃ q, execSbRegisterRead s = .next q ∧ q.kept = s.kept := by
  unfold execSbRegisterRead; refine ⟨_, rfl, ?_⟩
  repeat' first | with_reducible rfl | (with_reducible refine foldl_kept_eq (fun a b => ?_) ?_) | (with_reducible refine foldl_kept1_eq (fun a b => ?_) ?_) | (with_reducible refine elim_kept_eq (fun a => ?_) ?_) | (with_reducible refine elim_kept1_eq (fun a => ?_) ?_) | split | simp
theorem execSbMbLenWrite_kept (v : Nat) (ok : Bool) (s : State) : ∃ q, execSbMbLenWrite v ok s = .next q ∧ q.kept = s.kept := by
  unfold execSbMbLenWrite; exact ⟨_, rfl, by simp⟩
theorem execSbEvtClear_kept (v : Nat) (ok : Bool) (s : State) : ∃ q, execSbEvtClear v ok s = .next q ∧ q.kept = s.kept := by
  unfold execSbEvtClear; refine ⟨_, rfl, ?_⟩
  try rw [settle_kept]
  repeat' first | with_reducible rfl | (with_reducible refine mbox_kept _ _ _ _ _ _ _ (fun m a => ?_)) | (with_reducible refine atPort_kept _ _ _ (fun p => ?_)) | (with_reducible refine receive_kept _ _ _ _ _ (fun p a => ?_)) | (with_reducible refine atFn_kept _ _ _ ?_) | (with_reducible refine sbWrite_kept _ _ _ ?_) | (with_reducible refine foldl_kept_eq (fun a b => ?_) ?_) | (with_reducible refine foldl_kept1_eq (fun a b => ?_) ?_) | (with_reducible refine elim_kept_eq (fun a => ?_) ?_) | (with_reducible refine elim_kept1_eq (fun a => ?_) ?_) | split | simp
theorem execSmbusAlertResponse_kept (s : State) : ∃ q, execSmbusAlertResponse s = .next q ∧ q.kept = s.kept := by
  unfold execSmbusAlertResponse; exact ⟨_, rfl, by simp⟩
theorem execSbMbDataWrite_kept (v : Nat) (ok : Bool) (s : State) : ∃ q, execSbMbDataWrite v ok s = .next q ∧ q.kept = s.kept := by
  unfold execSbMbDataWrite; exact ⟨_, rfl, by simp⟩
theorem execSbMbDataRead_kept (s : State) : ∃ q, execSbMbDataRead s = .next q ∧ q.kept = s.kept := by
  unfold execSbMbDataRead; dsimp only; (repeat' split) <;> exact ⟨_, rfl, by simp⟩
theorem execFwWrite_kept (kind : Nat) (ok : Bool) (s : State) : ∃ q, execFwWrite kind ok s = .next q ∧ q.kept = s.kept := by
  unfold execFwWrite; exact ⟨_, rfl, by simp⟩
theorem execSbLogRead_kept (ok : Bool) (s : State) : ∃ q, execSbLogRead ok s = .next q ∧ q.kept = s.kept := by
  unfold execSbLogRead; exact ⟨_, rfl, by simp⟩
theorem execDumpRead_kept (ok : Bool) (s : State) : ∃ q, execDumpRead ok s = .next q ∧ q.kept = s.kept := by
  unfold execDumpRead; exact ⟨_, rfl, by simp⟩
theorem execDumpClear_kept (ok : Bool) (s : State) : ∃ q, execDumpClear ok s = .next q ∧ q.kept = s.kept := by
  unfold execDumpClear; exact ⟨_, rfl, by simp⟩
theorem execFstoreRead_kept (ok : Bool) (s : State) : ∃ q, execFstoreRead ok s = .next q ∧ q.kept = s.kept := by
  unfold execFstoreRead; exact ⟨_, rfl, by simp⟩
theorem execChipReset_kept (ok : Bool) (s : State) : ∃ q, execChipReset ok s = .next q ∧ q.kept = s.kept := by
  unfold execChipReset; exact ⟨_, rfl, by simp⟩
theorem execSbMbAbort_kept (v : Option Nat) (s : State) : ∃ q, execSbMbAbort v s = .next q ∧ q.kept = s.kept := by
  unfold execSbMbAbort; exact ⟨_, rfl, by simp⟩
theorem execSbMbWordTimeout_kept (s : State) : ∃ q, execSbMbWordTimeout s = .next q ∧ q.kept = s.kept := by
  unfold execSbMbWordTimeout; exact ⟨_, rfl, by simp⟩
theorem execSetEndpointId_kept (eid : Nat) (s : State) : ∃ q, execSetEndpointId eid s = .next q ∧ q.kept = s.kept := by
  unfold execSetEndpointId; exact ⟨_, rfl, by simp⟩
theorem execGetEndpointId_kept (s : State) : ∃ q, execGetEndpointId s = .next q ∧ q.kept = s.kept := by
  unfold execGetEndpointId; exact ⟨_, rfl, by simp⟩
theorem execGetEndpointUuid_kept (s : State) : ∃ q, execGetEndpointUuid s = .next q ∧ q.kept = s.kept := by
  unfold execGetEndpointUuid; exact ⟨_, rfl, by simp⟩
theorem execGetMctpVersionSupport_kept (s : State) : ∃ q, execGetMctpVersionSupport s = .next q ∧ q.kept = s.kept := by
  unfold execGetMctpVersionSupport; exact ⟨_, rfl, by simp⟩
theorem execGetMessageTypeSupport_kept (s : State) : ∃ q, execGetMessageTypeSupport s = .next q ∧ q.kept = s.kept := by
  unfold execGetMessageTypeSupport; exact ⟨_, rfl, by simp⟩
theorem execMctpPacket_kept (som eom : Bool) (body : List Byte) (opens ends : Option Nat) (ok : Bool) (s : State) : ∃ q, execMctpPacket som eom body opens ends ok s = .next q ∧ q.kept = s.kept := by
  unfold execMctpPacket; exact ⟨_, rfl, by simp⟩
theorem execMctpReassemblyTimeout_kept (s : State) : ∃ q, execMctpReassemblyTimeout s = .next q ∧ q.kept = s.kept := by
  unfold execMctpReassemblyTimeout; exact ⟨_, rfl, by simp⟩
/-! ### Tap -/

theorem execSamplePreload_kept (cells load : List Bool) (s : State) : ∃ q, execSamplePreload cells load s = .next q ∧ q.kept = s.kept := by
  unfold execSamplePreload; exact ⟨_, rfl, by simp⟩
theorem execExtest_kept (cells load : List Bool) (s : State) : ∃ q, execExtest cells load s = .next q ∧ q.kept = s.kept := by
  unfold execExtest; exact ⟨_, rfl, by simp⟩
theorem execClamp_kept (s : State) : ∃ q, execClamp s = .next q ∧ q.kept = s.kept := by
  unfold execClamp; exact ⟨_, rfl, by simp⟩
theorem execHighz_kept (s : State) : ∃ q, execHighz s = .next q ∧ q.kept = s.kept := by
  unfold execHighz; exact ⟨_, rfl, by simp⟩
theorem execExtestPulse_kept (cells load : List Bool) (s : State) : ∃ q, execExtestPulse cells load s = .next q ∧ q.kept = s.kept := by
  unfold execExtestPulse; exact ⟨_, rfl, by simp⟩
theorem execExtestTrain_kept (cells load : List Bool) (s : State) : ∃ q, execExtestTrain cells load s = .next q ∧ q.kept = s.kept := by
  unfold execExtestTrain; exact ⟨_, rfl, by simp⟩
theorem execBypass_kept (s : State) : ∃ q, execBypass s = .next q ∧ q.kept = s.kept := by
  unfold execBypass; exact ⟨_, rfl, by simp⟩
theorem execTapPrivateInstruction_kept (opcode : Nat) (s : State) : ∃ q, execTapPrivateInstruction opcode s = .next q ∧ q.kept = s.kept := by
  unfold execTapPrivateInstruction; exact ⟨_, rfl, by simp⟩
theorem execTapReset_kept (s : State) : ∃ q, execTapReset s = .next q ∧ q.kept = s.kept := by
  unfold execTapReset; exact ⟨_, rfl, by simp⟩
/-! ### Completions -/

theorem execZeroingComplete_kept (seq : Nat) (s : State) : ∃ q, execZeroingComplete seq s = .next q ∧ q.kept = s.kept := by
  unfold execZeroingComplete; exact ⟨_, rfl, by simp⟩
theorem execRegenerationComplete_kept (stack gid : Nat) (s : State) : ∃ q, execRegenerationComplete stack gid s = .next q ∧ q.kept = s.kept := by
  unfold execRegenerationComplete; exact ⟨_, rfl, by simp⟩
theorem execRegenerationTimeout_kept (stack gid : Nat) (s : State) : ∃ q, execRegenerationTimeout stack gid s = .next q ∧ q.kept = s.kept := by
  unfold execRegenerationTimeout; exact ⟨_, rfl, by simp⟩

end Sys2Proof.Machine
end

