-- ==== Sys2Proof/Tests/Slice0.lean ====
section
/-! SUPPORT. Well-formedness refuses what it should, words of the spec decode to what they stand for, and every statement's hypotheses are
met: each theorem `witness_<Statement>` applies the clauses of its statement to small concrete states. -/

namespace Sys2Proof.Tests

set_option Elab.async false

open Sys2Proof Sys2Proof.Machine

/-- A command completes. -/
def Runs (i : Instr) (s : State) : Prop := ∃ t, exec i s = .next t

/-! ### Small states -/

/-- The physical function with its mailbox on and Bus Master Enable set. -/
def fn0 : Fn := { mb := { en := true, logn := 4 }, bme := true }
/-- A module that is READY and serves the physical function. -/
def dev : State := { State.reset with
  aon := { up := true, mainOn := true, pgood := true, addr := some 0x60, vin := 72000 }
  chip.boot := .ready
  chip.hif.configReady := true
  chip.hif.ready := true
  chip.hif.fns := [(0, fn0)] }
def pf : Caller := { fn := 0 }
def ctx0 (st : CtxState) : Context := { st := st, prio := 0, client := 0, dtmo := 100, qmin := 1, qmax := 4 }
/-- The same with context 0. -/
def devC (x : Context) : State := { dev with chip.ctxs := [(0, x)] }
def seg0 (arch : Bool) : Segment :=
  { cbase := 0x10000, npage := 1, dbase := if arch then archBase else 0x100000, rd := true, wr := true, arch := arch, comp := false, ilv := 0
    fixed := false, pref := 0xFFFF }
def zeros (n : Nat) : List Byte := List.replicate n 0#8
/-- A command that runs. -/
def going (w : Await) : Running := { seq := 7, caller := pf, opc := 0, objs := [], await := w }

theorem witness_DeviceAndClientCommands (h : Obligations.DeviceAndClientCommands) :
    Runs (.nop pf 5) dev ∧ Runs (.deviceInfo pf) dev ∧ Runs (.partLayout pf 0x11) dev ∧ Runs (.partConfig pf 0 2 1 0 65535) dev ∧
    Runs (.clientQuery pf 3) dev ∧ Runs (.clientSetQuota pf 3 512) dev ∧ Runs (.clientClear pf 3) dev :=
  ⟨⟨_, h.1 dev pf 5 (by decide +kernel)⟩, ⟨_, h.2.1 dev pf (by decide +kernel) (by unfold State.bufferHolds; decide +kernel)⟩, ⟨_, h.2.2.1 dev pf 0x11 [0] (by decide +kernel) rfl (by decide +kernel) (by decide +kernel) (by decide +kernel) (by decide +kernel)⟩,
   (by refine ⟨_, h.2.2.2.1 dev _ pf 0 2 1 0 65535 (by decide +kernel) rfl ?_ ?_ ?_ ?_ ?_ ?_ rfl⟩ <;> decide +kernel),
   ⟨_, (h.2.2.2.2 dev _ pf 3 _ (by decide +kernel) rfl rfl).1 (by decide +kernel) (by unfold State.bufferHolds; decide +kernel)⟩, ⟨_, (h.2.2.2.2 dev _ pf 3 _ (by decide +kernel) rfl rfl).2.1 rfl 512 (by decide +kernel) (by decide +kernel)⟩,
   ⟨_, (h.2.2.2.2 dev _ pf 3 _ (by decide +kernel) rfl rfl).2.2 rfl (by decide +kernel)⟩⟩

def ctxDesc : List Byte := leBytes 6 0 ++ leBytes 1 64 ++ leBytes 1 64 ++ zeros 8
def devSt (arch : Bool) : State := devC { ctx0 .stopped with segs := [(0, seg0 arch)] }
def dev8 : State := { dev with chip.start := 0xFF }
def devEv : State := devC { ctx0 .evicted with segs := [(0, { seg0 false with former := some 3 })] }

theorem witness_ContextCommands (h : Obligations.ContextCommands) :
    Runs (.ctxCreate pf ctxDesc) dev8 ∧ Runs (.ctxDestroy pf 0) (devC (ctx0 .active)) ∧ Runs (.ctxStop pf 0) (devC (ctx0 .active)) ∧
    Runs (.ctxStop pf 0) (devC (ctx0 .stopping)) ∧ Runs (.ctxStop pf 0) (devC (ctx0 .stopped)) ∧
    Runs (.ctxResume pf 0) (devC (ctx0 .stopped)) ∧ Runs (.ctxReset pf 0) (devC (ctx0 .active)) ∧
    Runs (.ctxEvict pf 0) (devC (ctx0 .stopped)) ∧ Runs (.ctxEvict pf 0) (devSt true) ∧ Runs (.ctxRestore pf 0) (devC (ctx0 .evicted)) ∧
    Runs (.ctxRestore pf 0) devEv ∧ Runs (.ctxStatus pf 0) (devC (ctx0 .active)) :=
  ⟨(by refine ⟨_, h.1 dev8 _ pf ctxDesc 0 0 0 ((dev8.ctxReserve 0).getD []) _ (by decide +kernel) (by decide +kernel) (by decide +kernel) (by decide +kernel) (by unfold State.mayOnPart; decide +kernel) ?_ ?_ ?_ ?_ ?_ ?_ ?_ ?_ ?_ ?_ rfl rfl⟩ <;> decide +kernel),
   ⟨_, h.2.1 (devC (ctx0 .active)) pf 0 (by decide +kernel) (by unfold State.mayOnCtx; decide +kernel)⟩,
   ⟨_, ((h.2.2 (devC (ctx0 .active)) pf 0 (ctx0 .active) (by unfold State.mayOnCtx; decide +kernel) rfl).1 (by decide +kernel)).1 rfl⟩,
   ⟨_, ((h.2.2 (devC (ctx0 .stopping)) pf 0 (ctx0 .stopping) (by unfold State.mayOnCtx; decide +kernel) rfl).1 (by decide +kernel)).2.1 rfl⟩,
   ⟨_, ((h.2.2 (devC (ctx0 .stopped)) pf 0 (ctx0 .stopped) (by unfold State.mayOnCtx; decide +kernel) rfl).1 (by decide +kernel)).2.2 rfl⟩,
   ⟨_, (h.2.2 (devC (ctx0 .stopped)) pf 0 (ctx0 .stopped) (by unfold State.mayOnCtx; decide +kernel) rfl).2.1 (by decide +kernel) rfl⟩,
   ⟨_, (h.2.2 (devC (ctx0 .active)) pf 0 (ctx0 .active) (by unfold State.mayOnCtx; decide +kernel) rfl).2.2.1 (by decide +kernel) (by decide +kernel)⟩,
   ⟨_, ((h.2.2 (devC (ctx0 .stopped)) pf 0 (ctx0 .stopped) (by unfold State.mayOnCtx; decide +kernel) rfl).2.2.2.1 (by decide +kernel) (by decide +kernel)).1 (by decide +kernel)⟩,
   ⟨_, ((h.2.2 (devSt true) pf 0 _ (by unfold State.mayOnCtx; decide +kernel) rfl).2.2.2.1 (by decide +kernel) (by decide +kernel)).2 0 { seg0 false with dbase := 0 } [] (by decide +kernel)⟩,
   ⟨_, ((h.2.2 (devC (ctx0 .evicted)) pf 0 (ctx0 .evicted) (by unfold State.mayOnCtx; decide +kernel) rfl).2.2.2.2.1 (by decide +kernel) rfl).1 (by decide +kernel)⟩,
   ⟨_, ((h.2.2 devEv pf 0 _ (by unfold State.mayOnCtx; decide +kernel) rfl).2.2.2.2.1 (by decide +kernel) rfl).2 0 { seg0 true with pref := 3, dbase := archBase + 4096 * 384 * 3 } [] (by decide +kernel)⟩,
   ⟨_, (h.2.2 (devC (ctx0 .active)) pf 0 (ctx0 .active) (by unfold State.mayOnCtx; decide +kernel) rfl).2.2.2.2.2 (by decide +kernel) (by unfold State.bufferHolds; decide +kernel)⟩⟩

/-- A one-element SGD group of set 0 on stack 0, with its gradient in segment 0. -/
def gdesc : List Byte :=
  zeros 8 ++ leBytes 4 1 ++ leBytes 4 1 ++ leBytes 2 1 ++ leBytes 2 1 ++ leBytes 1 1 ++ leBytes 3 0 ++ zeros 8 ++ leBytes 8 0x20000 ++ leBytes 8 0x30000
    ++ leBytes 8 0x10000 ++ leBytes 8 1024 ++ zeros 64
def devS : State := { devC { ctx0 .active with segs := [(0, seg0 false)] } with chip.sets := [(0, {})] }
def sg (cva n : Nat) (dbase : Nat) (copies : Bool) : Segment :=
  { cbase := cva, npage := n, dbase := dbase, rd := false, wr := false, arch := false, comp := false, ilv := 0, fixed := false, pref := 0
    vers := some (0, 0), copies := copies }
def segDesc (fixed : Bool) : List Byte :=
  leBytes 8 0x40000 ++ leBytes 8 1 ++ leBytes 6 (if fixed then 0x100000 else 0) ++ leBytes 1 (if fixed then 0xC2 else 0xC0) ++ leBytes 1 0
    ++ leBytes 2 0xFFFF ++ zeros 6

theorem witness_SegmentCommands (h : Obligations.SegmentCommands) :
    Runs (.segCreate pf (segDesc true) 0) devS ∧ Runs (.segCreate pf (segDesc false) 0) devS ∧ Runs (.segQuery pf 0 0) devS ∧
    Runs (.segProtect pf 0 0 3) devS ∧ Runs (.segMigrate pf 0 0 0 0xFFFF 10000) devS ∧ Runs (.segDelete pf 0 0 10000) devS :=
  ⟨(by refine ⟨_, (h.1 devS pf (segDesc true) 0 1 _ _ (by decide +kernel) (by unfold State.mayOnCtx; decide +kernel) (by unfold State.bufferHolds; decide +kernel) rfl rfl ?_ ?_ ?_ ?_ ?_ ?_ ?_).1 (by decide +kernel) rfl (by decide +kernel) (by decide +kernel) (by decide +kernel)⟩ <;> decide +kernel),
   (by refine ⟨_, (h.1 devS pf (segDesc false) 0 1 _ _ (by decide +kernel) (by unfold State.mayOnCtx; decide +kernel) (by unfold State.bufferHolds; decide +kernel) rfl rfl ?_ ?_ ?_ ?_ ?_ ?_ ?_).2 (by decide +kernel) { Segment.ofDesc (segDesc false) with dbase := 2 ^ 36 } (by decide +kernel)⟩ <;> decide +kernel),
   ⟨_, (h.2 devS pf 0 0 (seg0 false) (by unfold State.mayOnCtx; decide +kernel) rfl).1 (by decide +kernel) (by unfold State.bufferHolds; decide +kernel)⟩, ⟨_, (h.2 devS pf 0 0 (seg0 false) (by unfold State.mayOnCtx; decide +kernel) rfl).2.1 (by decide +kernel) rfl 3 (by decide +kernel)⟩,
   ⟨_, (h.2 devS pf 0 0 (seg0 false) (by unfold State.mayOnCtx; decide +kernel) rfl).2.2.1 (by decide +kernel) rfl rfl rfl 0 0xFFFF 10000 { seg0 false with dbase := 2 ^ 36 } (by decide +kernel) (by decide +kernel) (by decide +kernel) (by decide +kernel) (by decide +kernel)⟩,
   ⟨_, (h.2 devS pf 0 0 (seg0 false) (by unfold State.mayOnCtx; decide +kernel) rfl).2.2.2 (by decide +kernel) rfl rfl rfl 10000 (by decide +kernel)⟩⟩

/-- With the group made, its segments placed, and a loaded key. -/
def devG : State := { devS with
  chip.ctxs := [(0, { ctx0 .active with segs := [(0, seg0 false), (1, sg 0x20000 2 0 false), (2, sg 0x30000 2 8192 true)] })]
  chip.nmus := [(0, { groups := [(0, { desc := gdesc })], keys := [1] })] }
/-- One instruction: OUT 1 from register 0. -/
def ucode1 : List Byte := leBytes 16 1 ++ [0x11#8, 0x01#8] ++ zeros 6
def devP : State := { dev with chip.nmus := [(0, { progs := [(15, ucode1)] })] }
def copyDesc (dir : Nat) : List Byte := zeros 2 ++ leBytes 2 dir ++ zeros 4 ++ leBytes 8 0x10000 ++ leBytes 8 0x1000 ++ leBytes 8 16

theorem witness_GroupProgramAndCopyCommands (h : Obligations.GroupProgramAndCopyCommands) :
    Runs (.pgroupCreate pf gdesc) devS ∧ Runs (.pgroupDelete pf 0 0) devG ∧ Runs (.stateLoad pf 0 0 7 0x10000) devG ∧
    Runs (.stateExport pf 0 0 0x1000) devG ∧ Runs (.weightImport pf 0 0 1 0x10000 16) devG ∧ Runs (.nmuProgramLoad pf 0 0 15 ucode1) dev ∧
    Runs (.nmuProgramDelete pf 0 0 15) devP ∧ Runs (.hostCopy pf (copyDesc 0) []) devS ∧ Runs (.hostCopy pf (copyDesc 1) []) devS :=
  ⟨(by refine ⟨_, h.1 devS _ pf gdesc { desc := gdesc } 0 1 2 1 2 {} _ (sg 0x20000 2 0 false) (sg 0x30000 2 0 true) (sg 0x20000 2 0 false)
      (sg 0x30000 2 8192 true) rfl rfl (by decide +kernel) (by unfold State.mayOnCtx; decide +kernel) (by unfold State.bufferHolds; decide +kernel) (by decide +kernel) (by decide +kernel) (by decide +kernel) (by decide +kernel) rfl rfl ?_ ?_ ?_ ?_ ?_ ?_ ?_ ?_ ?_ rfl⟩ <;> decide +kernel),
   ⟨_, (h.2.1 devG pf 0 0 { desc := gdesc } (by unfold State.mayOnStack; decide +kernel) rfl (by decide +kernel)).1 (by decide +kernel)⟩,
   ⟨_, (h.2.1 devG pf 0 0 { desc := gdesc } (by unfold State.mayOnStack; decide +kernel) rfl (by decide +kernel)).2.1 (by decide +kernel) 7 0x10000 0x100000 (by decide +kernel)⟩,
   ⟨_, (h.2.1 devG pf 0 0 { desc := gdesc } (by unfold State.mayOnStack; decide +kernel) rfl (by decide +kernel)).2.2.1 (by decide +kernel) 0x1000 _ _ rfl (Prod.ext rfl (by decide +kernel))⟩,
   ⟨_, (h.2.1 devG pf 0 0 { desc := gdesc } (by unfold State.mayOnStack; decide +kernel) rfl (by decide +kernel)).2.2.2 (by decide +kernel) 1 0x10000 16 0x100000 (by decide +kernel) (by decide +kernel) (by decide +kernel)⟩,
   ⟨_, (h.2.2.1 dev pf 0 0 15 (by decide +kernel) (by unfold State.mayOnPart; decide +kernel) (by decide +kernel) (by decide +kernel) (by decide +kernel)).1 ucode1 (by decide +kernel) (by decide +kernel)⟩, ⟨_, (h.2.2.1 devP pf 0 0 15 (by decide +kernel) (by unfold State.mayOnPart; decide +kernel) (by decide +kernel) (by decide +kernel) (by decide +kernel)).2 (by decide +kernel)⟩,
   (by refine ⟨_, h.2.2.2 devS pf (copyDesc 0) [] 0 0 (seg0 false) _ (by decide +kernel) (by decide +kernel) (by unfold State.mayOnCtx; decide +kernel) ?_ ?_ ?_ ?_ ?_ ?_ rfl (by decide +kernel) rfl rfl⟩ <;> decide +kernel),
   (by refine ⟨_, h.2.2.2 devS pf (copyDesc 1) [] 0 0 (seg0 false) _ (by decide +kernel) (by decide +kernel) (by unfold State.mayOnCtx; decide +kernel) ?_ ?_ ?_ ?_ ?_ ?_ rfl (by decide +kernel) rfl rfl⟩ <;> decide +kernel)⟩

def ring0 : SubRing := { ctx := 0, q1 := false, logn := 4, base := 0x1000, shadow := 0x100 }
def cpl0 : CplRing := { logn := 6, vector := 1, icnt := 1, itime := 0, base := 0x2000, shadow := 0x200 }
def devR : State := { devC { ctx0 .active with notice := some (0, 0) } with
  chip.hif.fns := [(0, { fn0 with sub := [(0, ring0)], cpl := [(0, cpl0), (1, cpl0)] })] }

theorem witness_RingCommands (h : Obligations.RingCommands) :
    Runs (.ringCreateSubmission pf 0 1 12 0x1000 0x10) devR ∧ Runs (.ringCreateCompletion pf 15 63 256 1000 0x1000 0x10) devR ∧
    Runs (.ringDestroy pf 0 0) devR ∧ Runs (.ringReset pf 0 0) devR ∧ Runs (.ringDestroy pf 1 1) devR ∧ Runs (.ringReset pf 1 15) devR ∧
    Runs (.ringBindNotice pf 0 1) devR :=
  ⟨(by refine ⟨_, h.1 devR pf 0 1 12 0x1000 0x10 1 _ (by decide +kernel) (by unfold State.mayOnCtx; decide +kernel) rfl ?_ ?_ ?_ ?_ ?_ ?_⟩ <;> decide +kernel),
   (by refine ⟨_, h.2.1 devR pf 15 63 256 1000 0x1000 0x10 2 _ (by decide +kernel) (by unfold State.bound; decide +kernel) ?_ ?_ ?_ ?_ ?_ ?_ ?_ ?_ ?_ rfl⟩ <;> decide +kernel),
   ⟨_, ((h.2.2.1 devR pf 0 (by unfold State.bound; decide +kernel)).1 (by decide +kernel)).1 (by decide +kernel)⟩, ⟨_, ((h.2.2.1 devR pf 0 (by unfold State.bound; decide +kernel)).1 (by decide +kernel)).2⟩, ⟨_, ((h.2.2.1 devR pf 1 (by unfold State.bound; decide +kernel)).2 (by decide +kernel)).1 cpl0 (by decide +kernel) (by decide +kernel) (by decide +kernel)⟩,
   ⟨_, ((h.2.2.1 devR pf 15 (by unfold State.bound; decide +kernel)).2 (by decide +kernel)).2⟩, ⟨_, h.2.2.2 devR pf 0 1 (by decide +kernel) (by unfold State.mayOnCtx; decide +kernel) (by decide +kernel)⟩⟩

def armDesc : List Byte :=
  leBytes 4 1 ++ leBytes 1 0 ++ leBytes 3 1 ++ leBytes 8 0x20000 ++ leBytes 6 0x10000 ++ zeros 6 ++ leBytes 2 2 ++ leBytes 2 1 ++ leBytes 4 1
    ++ leBytes 4 32 ++ zeros 24
/-- Context 0 with a stacked segment and one in the Isle of core 0; slot 0 of core 0 is its. -/
def ctxA : Context := { ctx0 .active with segs := [(0, { seg0 false with npage := 4 }), (1, { seg0 true with cbase := 0x20000 })] }
def devA (x : Slot) : State := { devC ctxA with chip.cores := [(0, { slots := [(0, x)] })] }
def arm0 : Arm := { desc := armDesc, seq := 0, origin := none, effect := false, segs := [] }

theorem witness_StreamSlots (h : Obligations.StreamCommands) :
    Runs (.counter pf 0 0 63 5) (devC ctxA) ∧ Runs (.streamSlotAllocate pf 0 0 0xFF) (devC ctxA) ∧
    Runs (.streamSlotAllocate pf 0 0 31) (devC ctxA) ∧ Runs (.streamSlotFree pf 0 0 0) (devA { ctx := 0 }) ∧
    Runs (.streamArm pf 0 0 armDesc) (devA { ctx := 0 }) ∧ Runs (.streamCancel pf 0 0 0) (devA { ctx := 0, cur := some arm0 }) ∧
    Runs (.streamStatus pf 0 0 0) (devA { ctx := 0, cur := some arm0 }) :=
  ⟨⟨_, (h.1 (devC ctxA) pf 0 0 (by unfold State.mayOnCore State.mayOnCtx; decide +kernel)).1 (by decide +kernel) (by decide +kernel) 63 5 (by decide +kernel)⟩, ⟨_, ((h.1 (devC ctxA) pf 0 0 (by unfold State.mayOnCore State.mayOnCtx; decide +kernel)).2.1 (by decide +kernel)).1 0 (by decide +kernel)⟩,
   ⟨_, ((h.1 (devC ctxA) pf 0 0 (by unfold State.mayOnCore State.mayOnCtx; decide +kernel)).2.1 (by decide +kernel)).2.1 31 (by decide +kernel) rfl⟩, ⟨_, ((h.1 (devA { ctx := 0 }) pf 0 0 (by unfold State.mayOnCore State.mayOnCtx; decide +kernel)).2.1 (by decide +kernel)).2.2 0 { ctx := 0 } (by decide +kernel) rfl rfl rfl rfl⟩,
   ⟨_, (h.1 (devA { ctx := 0 }) pf 0 0 (by unfold State.mayOnCore State.mayOnCtx; decide +kernel)).2.2.1 (by decide +kernel) armDesc ctxA rfl (by decide +kernel)⟩,
   ⟨_, ((h.1 (devA { ctx := 0, cur := some arm0 }) pf 0 0 (by unfold State.mayOnCore State.mayOnCtx; decide +kernel)).2.2.2 0 _ (by decide +kernel) rfl rfl).1 (by decide +kernel)⟩,
   ⟨_, ((h.1 (devA { ctx := 0, cur := some arm0 }) pf 0 0 (by unfold State.mayOnCore State.mayOnCtx; decide +kernel)).2.2.2 0 _ (by decide +kernel) rfl rfl).2 (by decide +kernel) (by unfold State.bufferHolds; decide +kernel)⟩⟩

def layDesc : List Byte := leBytes 1 1 ++ leBytes 2 0xE0 ++ leBytes 1 1 ++ zeros 12 ++ leBytes 5 1 ++ leBytes 3 4 ++ zeros 40 ++ leBytes 4 4 ++ zeros 60
def devL : State := { devC { ctxA with layouts := [(1, layDesc)] } with
  chip.mcast := [(3, { ctx := 0, members := [0, 1], leader := 0 })]
  chip.start := 0xFF
  mem := [(0x100006, 0x80#8), (0x100007, 0x3F#8), (0x10000A, 0x80#8), (0x10000B, 0x3F#8)] }
def mb72 : List Byte := [3#8] ++ zeros 71
/-- A format entry: FP32, scale 0, window base 1. -/
def fmtE : List Byte := leBytes 8 0x10000

theorem witness_StreamTables (h : Obligations.StreamCommands) :
    Runs (.bankCap pf 0 16) dev ∧ Runs (.tagtmo pf 0 1000) dev ∧ Runs (.mcastGroupCreate pf 0 1 mb72) devL ∧ Runs (.mcastGroupDelete pf 3) devL ∧
    Runs (.layoutCreate pf 0 layDesc) devL ∧ Runs (.layoutDelete pf 0 1) devL ∧ Runs (.histogramRead pf 0 4095 1) devL ∧
    Runs (.histogramClear pf 0 0 4096) devL ∧ Runs (.formatTableRead pf 0 4095 1) devL ∧ Runs (.formatTableWrite pf 0 4095 1 fmtE) devL ∧
    Runs (.q1Tblload pf 0 7 0x10000 0x10000) devL :=
  ⟨⟨_, (h.2.1 dev _ pf 0 16 (by unfold State.mayOnPart; decide +kernel)).1 (by decide +kernel) (by decide +kernel) (by decide +kernel) rfl⟩, ⟨_, (h.2.1 dev _ pf 0 1000 (by unfold State.mayOnPart; decide +kernel)).2 (by decide +kernel) (by decide +kernel) (by decide +kernel) rfl⟩,
   ⟨_, ((h.2.2 devL _ pf 0 _ (by unfold State.mayOnCtx; decide +kernel) rfl).1 (by decide +kernel) rfl).1 1 mb72 0 (by decide +kernel) (by decide +kernel) (by decide +kernel) (by decide +kernel) (by decide +kernel)⟩, ⟨_, ((h.2.2 devL _ pf 0 _ (by unfold State.mayOnCtx; decide +kernel) rfl).1 (by decide +kernel) rfl).2 3 _ rfl rfl (by decide +kernel)⟩,
   ⟨_, ((h.2.2 devL devL pf 0 _ (by unfold State.mayOnCtx; decide +kernel) rfl).2.1 (by decide +kernel)).1 layDesc 1 (by decide +kernel) (by decide +kernel) (by decide +kernel)⟩, ⟨_, ((h.2.2 devL devL pf 0 _ (by unfold State.mayOnCtx; decide +kernel) rfl).2.1 (by decide +kernel)).2 1 (by decide +kernel) (by decide +kernel)⟩,
   ⟨_, (((h.2.2 devL devL pf 0 _ (by unfold State.mayOnCtx; decide +kernel) rfl).2.2.1 4095 1 (by decide +kernel) (by decide +kernel)).1 (by decide +kernel)).1 (by unfold State.bufferHolds; decide +kernel)⟩, ⟨_, (((h.2.2 devL devL pf 0 _ (by unfold State.mayOnCtx; decide +kernel) rfl).2.2.1 0 4096 (by decide +kernel) (by decide +kernel)).1 (by decide +kernel)).2⟩,
   ⟨_, (((h.2.2 devL devL pf 0 _ (by unfold State.mayOnCtx; decide +kernel) rfl).2.2.1 4095 1 (by decide +kernel) (by decide +kernel)).2 (by decide +kernel)).1 (by unfold State.bufferHolds; decide +kernel)⟩, ⟨_, (((h.2.2 devL devL pf 0 _ (by unfold State.mayOnCtx; decide +kernel) rfl).2.2.1 4095 1 (by decide +kernel) (by decide +kernel)).2 (by decide +kernel)).2 fmtE (by decide +kernel) (by decide +kernel) (by decide +kernel)⟩,
   ⟨_, (h.2.2 devL devL pf 0 _ (by unfold State.mayOnCtx; decide +kernel) rfl).2.2.2 (by decide +kernel) 7 0x10000 0x10000 _ _ _ _ (by decide +kernel) (by decide +kernel) (by decide +kernel) (by decide +kernel) rfl rfl rfl rfl⟩⟩

def tbl1 : List Byte := leBytes 8 5
def mem0 : Member := { part := 0, job := 1, midx := 0, nmem := 1, table := tbl1 }
/-- Device 5, the one member of job 1. -/
def devJ : State := { devC { ctx0 .active with segs := [(0, seg0 false)] } with chip.devid := some 5, chip.members := [(memberKey 0 1, mem0)] }
def devId : State := { dev with chip.devid := some 5, chip.start := 0xFF }
/-- A BARRIER of job 1. -/
def barD : List Byte := leBytes 2 4 ++ leBytes 2 1 ++ zeros 44
def devK : State := { devJ with chip.colls := [(memberKey 0 1 * 65536, { part := 0, job := 1, desc := barD })] }
def winD : List Byte := leBytes 8 0x10000 ++ leBytes 8 4096 ++ leBytes 2 1 ++ leBytes 2 0 ++ leBytes 1 9 ++ leBytes 1 7 ++ zeros 10
def win0 : Window := { part := 0, ctx := 0, job := 1, cbase := 0x10000, wlen := 4096, pget := true, pput := true, pcol := true }
def devW : State := { devJ with chip.wins := [(9, win0)] }
/-- Port 3 in state `l`. -/
def devPort (l : LinkState) : State := { dev with chip.ports := [(3, { st := l })] }

theorem witness_JobCommands (h : Obligations.JobCommands) :
    Runs (.deviceId pf 32767) dev ∧ Runs (.route pf 32767 1 (zeros 8)) dev ∧ Runs (.jobJoin pf 0 4095 0 1 tbl1) devId ∧
    Runs (.jobLeave pf 0 1) devJ ∧ Runs (.collCancel pf 0 1 0) devK ∧ Runs (.windowOpen pf winD) devJ ∧ Runs (.windowClose pf 9) devW ∧
    Runs (.collective pf barD) devJ ∧ Runs (.portEnable pf 15) dev ∧ Runs (.portDisable pf 3) (devPort .detect) ∧
    Runs (.portDisable pf 3) (devPort .active) ∧ Runs (.portLaneRestore pf 3) (devPort .active) ∧
    Runs (.portCreditAllocation pf 3 [16, 16, 16, 16, 16, 16, 16, 3984]) dev :=
  ⟨⟨_, (h.1 dev _ pf rfl).1 (by decide +kernel) rfl rfl rfl 32767 (by decide +kernel)⟩, ⟨_, (h.1 dev _ pf rfl).2 (by decide +kernel) rfl 32767 1 (zeros 8) (by decide +kernel) (by decide +kernel) (by decide +kernel) (by decide +kernel)⟩,
   (by refine ⟨_, h.2.1 devId _ pf 0 4095 0 1 tbl1 (5, 0, 0, 0) ((devId.joinReserve 0 1).1.getD []) ((devId.joinReserve 0 1).2.getD []) (by decide +kernel) (by unfold State.mayOnPart; decide +kernel) ?_ ?_ ?_ ?_ ?_ ?_ ?_ rfl (by decide +kernel) (by decide +kernel) (by decide +kernel) (by decide +kernel) (by decide +kernel) rfl⟩ <;> decide +kernel),
   ⟨_, (h.2.2.1 devJ pf 0 1 (by unfold State.mayOnPart; decide +kernel) (by decide +kernel)).1 (by decide +kernel) (by decide +kernel) (by decide +kernel)⟩, ⟨_, (h.2.2.1 devK pf 0 1 (by unfold State.mayOnPart; decide +kernel) (by decide +kernel)).2 (by decide +kernel) 0 { part := 0, job := 1, desc := barD } (by decide +kernel)⟩,
   (by refine ⟨_, h.2.2.2.1 devJ _ pf winD 0 9 1 win0 0 (seg0 false) ?_ ?_ ?_ ?_ ?_ ?_ (by unfold State.mayOnCtx; decide +kernel) ?_ ?_ ?_ ?_ ?_ ?_ rfl (fun _ => rfl) (fun _ => rfl) (by decide +kernel) rfl⟩ <;> decide +kernel),
   ⟨_, h.2.2.2.2.1 devW _ pf 9 win0 (by decide +kernel) rfl (by decide +kernel) rfl⟩,
   (by refine ⟨_, h.2.2.2.2.2.1 devJ _ _ pf barD 0 1 mem0 (by decide +kernel) (by decide +kernel) (by decide +kernel) (by unfold State.mayOnCtx; decide +kernel) ?_ ?_ ?_ ?_ ?_ ?_ ?_ ?_ rfl rfl⟩ <;> decide +kernel),
   ⟨_, (h.2.2.2.2.2.2 dev pf 15 (by decide +kernel) (by unfold State.mayOnPort; decide +kernel)).1⟩, ⟨_, (h.2.2.2.2.2.2 (devPort .detect) pf 3 (by decide +kernel) (by unfold State.mayOnPort; decide +kernel)).2.1 _ (Prod.ext rfl (by decide +kernel))⟩,
   ⟨_, (h.2.2.2.2.2.2 (devPort .active) pf 3 (by decide +kernel) (by unfold State.mayOnPort; decide +kernel)).2.2.1 _ (Prod.ext rfl (by decide +kernel))⟩,
   ⟨_, (h.2.2.2.2.2.2 (devPort .active) pf 3 (by decide +kernel) (by unfold State.mayOnPort; decide +kernel)).2.2.2.1 (by decide +kernel)⟩, ⟨_, (h.2.2.2.2.2.2 dev pf 3 (by decide +kernel) (by unfold State.mayOnPort; decide +kernel)).2.2.2.2 _ (by decide +kernel)⟩⟩

def devO (x : OptSet) : State := { devC { ctx0 .active with segs := [(0, seg0 false)] } with chip.sets := [(15, x)] }

theorem witness_OptimizerSets (h : Obligations.CommitCommands) :
    Runs (.role pf 1) dev ∧ Runs (.optSetCreate pf 0 10000) dev ∧ Runs (.optSetDelete pf 0 15) (devO {}) ∧ Runs (.optSetQuery pf 0 15) (devO {}) ∧
    Runs (.updateStage pf 0 15 (zeros 32)) (devO {}) ∧ Runs (.setResolveCommit pf 0 15) (devO { st := .staged }) ∧
    Runs (.setResolveAbort pf 0 15) (devO { st := .staging }) ∧ Runs (.lossScaleSet pf 0 15 1 0 0xC0 0x3F 65535) (devO {}) ∧
    Runs (.lossScaleQuery pf 0 15) (devO {}) ∧ Runs (.stepBind pf 0 15 63 0 0x10000) (devO {}) :=
  ⟨⟨_, h.1.1 dev _ pf 1 (by decide +kernel) rfl (by decide +kernel) (.inl (by decide +kernel)) rfl⟩, ⟨_, h.1.2.1 dev pf 0 10000 0 (by decide +kernel) (by unfold State.mayOnPart; decide +kernel) (by decide +kernel) (by decide +kernel)⟩,
   ⟨_, ((h.1.2.2.1 (devO {}) _ pf 0 15 {} (by unfold State.mayOnPart; decide +kernel) (by decide +kernel) rfl).1 (by decide +kernel) rfl).1 rfl (by decide +kernel) (by decide +kernel) rfl⟩, ⟨_, ((h.1.2.2.1 (devO {}) _ pf 0 15 {} (by unfold State.mayOnPart; decide +kernel) (by decide +kernel) rfl).1 (by decide +kernel) rfl).2 (by unfold State.bufferHolds; decide +kernel)⟩,
   ⟨_, (h.1.2.2.1 (devO {}) (devO {}) pf 0 15 {} (by unfold State.mayOnPart; decide +kernel) (by decide +kernel) rfl).2.1 (by decide +kernel) (zeros 32) (by decide +kernel) rfl (by decide +kernel)⟩,
   ⟨_, ((h.1.2.2.1 (devO { st := .staged }) (devO {}) pf 0 15 _ (by unfold State.mayOnPart; decide +kernel) (by decide +kernel) rfl).2.2.1 (by decide +kernel) rfl).1 rfl rfl⟩,
   ⟨_, ((h.1.2.2.1 (devO { st := .staging }) (devO {}) pf 0 15 _ (by unfold State.mayOnPart; decide +kernel) (by decide +kernel) rfl).2.2.1 (by decide +kernel) rfl).2 (.inl rfl)⟩,
   (by refine ⟨_, ((h.1.2.2.1 (devO {}) (devO {}) pf 0 15 _ (by unfold State.mayOnPart; decide +kernel) (by decide +kernel) rfl).2.2.2 (by decide +kernel)).1 rfl 1 0 0xC0 0x3F 65535 ?_ ?_ ?_ ?_ ?_ ?_ ?_⟩ <;> decide +kernel),
   ⟨_, ((h.1.2.2.1 (devO {}) (devO {}) pf 0 15 _ (by unfold State.mayOnPart; decide +kernel) (by decide +kernel) rfl).2.2.2 (by decide +kernel)).2 (by unfold State.bufferHolds; decide +kernel)⟩,
   ⟨_, h.1.2.2.2 (devO {}) pf 0 15 63 0 0x10000 (by decide +kernel) (by unfold State.mayOnCore State.mayOnCtx; decide +kernel) (by decide +kernel) (by decide +kernel) (by decide +kernel) (.inr (by decide +kernel))⟩⟩

/-- Counter 0 of core 0 of context 0 raised by 1. -/
def act2 : List Byte := leBytes 8 2 ++ leBytes 1 1 ++ zeros 23
def devB (b : CommitBuf) : State := { devO {} with chip.bufs := [(7, b)] }
def devM (m : Member) : State :=
  { devO {} with chip.devid := some 5, chip.elig := true, chip.members := [(memberKey 0 1, m)] }

theorem witness_CommitBuffersAndTrees (h : Obligations.CommitCommands) :
    Runs (.commitGroupStage pf 0 7 act2) (devB {}) ∧ Runs (.commitGroupApply pf 0 7) (devB { acts := [act2] }) ∧
    Runs (.commitGroupDiscard pf 0 7) (devB {}) ∧ Runs (.commitGroupQuery pf 0 7) (devB {}) ∧
    Runs (.commitGroupBind pf 0 7 15) (devB { acts := [act2] }) ∧ Runs (.jobStepBind pf 0 1 0x8000 0 63 0) (devM mem0) ∧
    Runs (.jobStepUnbind pf 0 1 0x8000) (devM { mem0 with sets := [15] }) ∧ Runs (.jobFault pf 0 1) (devM mem0) ∧
    Runs (.treeForm pf 1 64 1 1000 10000 600 [1#8]) (devM { mem0 with sets := [15] }) :=
  ⟨⟨_, ((h.2.1 (devB {}) pf 0 7 {} (by unfold State.mayOnPart; decide +kernel) (by decide +kernel) rfl).1 (by decide +kernel)).1 act2 [act2] (by decide +kernel) (by decide +kernel) (by decide +kernel) (by decide +kernel) (by decide +kernel) rfl⟩,
   ⟨_, ((h.2.1 (devB { acts := [act2] }) pf 0 7 _ (by unfold State.mayOnPart; decide +kernel) (by decide +kernel) rfl).1 (by decide +kernel)).2.1 (by decide +kernel) rfl _ (Prod.ext rfl (by decide +kernel))⟩,
   ⟨_, ((h.2.1 (devB {}) pf 0 7 {} (by unfold State.mayOnPart; decide +kernel) (by decide +kernel) rfl).1 (by decide +kernel)).2.2.1⟩, ⟨_, ((h.2.1 (devB {}) pf 0 7 {} (by unfold State.mayOnPart; decide +kernel) (by decide +kernel) rfl).1 (by decide +kernel)).2.2.2 (by unfold State.bufferHolds; decide +kernel)⟩,
   ⟨_, (h.2.1 (devB { acts := [act2] }) pf 0 7 _ (by unfold State.mayOnPart; decide +kernel) (by decide +kernel) rfl).2 15 (by decide +kernel) (by decide +kernel) (by decide +kernel) (by decide +kernel) rfl⟩,
   ⟨_, (h.2.2.1 (devM mem0) pf 0 1 0x8000 mem0 [15] (by unfold State.mayOnPart; decide +kernel) rfl (by decide +kernel)).1 0 63 0 (by decide +kernel) (by decide +kernel) (by decide +kernel) (by decide +kernel) rfl (by decide +kernel) (by decide +kernel) (by decide +kernel) (by decide +kernel) (by decide +kernel)⟩,
   ⟨_, (h.2.2.1 (devM { mem0 with sets := [15] }) pf 0 1 0x8000 _ [15] (by unfold State.mayOnPart; decide +kernel) rfl (by decide +kernel)).2.1 (by decide +kernel) (by decide +kernel) (.inl (by decide +kernel))⟩,
   ⟨_, (h.2.2.1 (devM mem0) pf 0 1 0 mem0 [] (by unfold State.mayOnPart; decide +kernel) rfl (by decide +kernel)).2.2 (by decide +kernel)⟩,
   (by refine ⟨_, h.2.2.2 (devM { mem0 with sets := [15] }) pf 1 64 1 1000 10000 600 [1#8] _ [] _ rfl (by decide +kernel) (by unfold State.bound; decide +kernel) (.inl rfl) (.inl (by decide +kernel)) ?_ ?_ ?_ ?_ ?_ ?_ ?_ ?_ ?_ ?_ ?_ ?_ ?_ rfl (.inr (by decide +kernel))⟩ <;> decide +kernel)⟩

/-- A session of the physical function. -/
def devQ : State := { dev with chip.enc.sessions := [(0, 4)] }
def deliverD : List Byte := leBytes 1 1 ++ leBytes 1 0 ++ leBytes 2 15 ++ leBytes 4 0x40 ++ beBytes 48 (devQ.policyDigest 0x40) ++ zeros 32
def keyD (code : Nat) : List Byte := leBytes 2 code ++ leBytes 2 15 ++ zeros 4
def devH : State := { dev with chip.enc.keys := [(keyIndex 0 15, { mmask := 0x40, poldig := devQ.policyDigest 0x40, revoke := false, key := 1 })] }
def devConf : State := { dev with chip.hif.fns := [(0, { fn0 with conf := some { session := 4 } })] }

/-- `answerLen` is a free value of 1 to 65,536 bytes: the buffer holds every one of them. -/
theorem answer_fits (s : State) (h : s.sealBytes 0 = 0) : s.bufferHolds pf s.answerLen := by
  unfold State.bufferHolds State.answerLen
  have : Config.freeValue 8 s.free % 65536 < 65536 := Nat.mod_lt _ (by decide)
  show _ + s.sealBytes 0 ≤ 0x1000000
  omega

theorem spdm_fits (s : State) (h : s.sealBytes 0 = 0) : s.bufferHolds pf (s.spdmAnswer 0 [0x12#8]).2.length := by
  have l (n : Nat) : ∀ x, (leBytes n x).length = n := by induction n with
    | zero => intro _; rfl
    | succ n ih => intro x; simp [leBytes, ih]
  have e : (s.spdmAnswer 0 [0x12#8]).2.length = s.answerLen := by simp [State.spdmAnswer, State.answerBytes, l]
  rw [e]
  exact answer_fits s h

/-- GET_MEASUREMENTS for all blocks with a signature. -/
def measAll : List Byte := [0x12#8, 0xE0#8, 0x01#8, 0xFF#8] ++ zeros 33

/-- The debug-authority keys are opaque, so that only the last clause's token is assumed to pass its checks. -/
def devAlias : State := { dev with chip.enc.aliasKey := some 5 }

theorem witness_SecurityCommands (h : Obligations.SecurityCommands) (t : List Byte) (nonce : Nat) (ht : t.length = 256)
    (hf : (zeroFlds t [(1, 1, 7)] && zeroRange t 2 14 && (num t 0 1 == 1 || num t 0 1 == 2)) = true)
    (hk : ({ dev with chip.enc.nonce := some nonce } : State).tokenOk t = true) (hl : 0 < num t 0 1) :
    Runs (.spdm pf [0x12#8] (some 4) none) dev ∧ Runs (.spdmSessionTimeout 0 4) devQ ∧ Runs (.keyDeliver 0 4 deliverD) devQ ∧
    Runs (.keyErase 0 4 (keyD 2)) devQ ∧ Runs (.keyQuery 0 4 (keyD 3)) devQ ∧ Runs (.keyRelease pf 0 15) devH ∧
    Runs (.keyReleaseErase pf 0 15) devH ∧ Runs (.keyReleaseQuery pf 0 15) devH ∧ Runs (.confModeEnter pf 4) devQ ∧ Runs (.confModeLeave pf) devConf ∧
    Runs (.confModeKeyUpdate pf) devConf ∧ Runs (.debugUnlockChallenge pf) dev ∧ Runs (.debugUnlock pf t) { dev with chip.enc.nonce := some nonce } ∧
    Runs .debugZeroiseTimeout dev ∧ ∃ body sig, (devAlias.spdmAnswer 0 measAll).2 = body ++ sig :=
  ⟨⟨_, h.1 dev _ pf [0x12#8] _ (some 4) none (by decide +kernel) (by decide +kernel) (by decide +kernel) (spdm_fits dev (by decide +kernel)) rfl⟩, ⟨_, h.2.2.2.1 devQ 0 4⟩,
   ⟨_, (h.2.2.2.2.1 devQ _ 0 4 0 15 deliverD _ (by decide +kernel) (by decide +kernel) (by decide +kernel) (by decide +kernel) (by decide +kernel)).1 (by decide +kernel) (by decide +kernel) (.inl (by decide +kernel)) (by decide +kernel) rfl rfl⟩,
   ⟨_, (h.2.2.2.2.1 devQ devQ 0 4 0 15 (keyD 2) { mmask := 0, poldig := 0, revoke := false, key := 0 } (by decide +kernel) (by decide +kernel) (by decide +kernel) (by decide +kernel) (by decide +kernel)).2.1 (by decide +kernel) (by decide +kernel)⟩,
   ⟨_, (h.2.2.2.2.1 devQ devQ 0 4 0 15 (keyD 3) { mmask := 0, poldig := 0, revoke := false, key := 0 } (by decide +kernel) (by decide +kernel) (by decide +kernel) (by decide +kernel) (by decide +kernel)).2.2 (by decide +kernel) (by decide +kernel)⟩,
   ⟨_, (h.2.2.2.2.2.1 devH _ pf 0 15 (by decide +kernel) (by unfold State.mayOnPart; decide +kernel) (by decide +kernel)).1 _ rfl (by decide +kernel) rfl⟩, ⟨_, (h.2.2.2.2.2.1 devH devH pf 0 15 (by decide +kernel) (by unfold State.mayOnPart; decide +kernel) (by decide +kernel)).2.1⟩, ⟨_, (h.2.2.2.2.2.1 devH devH pf 0 15 (by decide +kernel) (by unfold State.mayOnPart; decide +kernel) (by decide +kernel)).2.2 (by unfold State.bufferHolds; decide +kernel)⟩,
   ⟨_, ((h.2.2.2.2.2.2.1 devQ pf (by decide +kernel) (by unfold State.bound; decide +kernel)).1 (by decide +kernel)).1 4 (by decide +kernel)⟩, ⟨_, ((h.2.2.2.2.2.2.1 devConf pf (by decide +kernel) (by unfold State.bound; decide +kernel)).1 (by decide +kernel)).2⟩,
   ⟨_, (h.2.2.2.2.2.2.1 devConf pf (by decide +kernel) (by unfold State.bound; decide +kernel)).2 (by unfold State.bufferHolds; decide +kernel) (by decide +kernel) (by decide +kernel) (by decide +kernel) _ rfl⟩,
   ⟨_, (h.2.2.2.2.2.2.2.1 dev _ pf _ (by decide +kernel) rfl).1 (by unfold State.bufferHolds; decide +kernel) rfl⟩,
   ⟨_, (h.2.2.2.2.2.2.2.1 { dev with chip.enc.nonce := some nonce } _ pf 0 (by show dev.mayStart pf 0x0703 [] = true; decide +kernel) rfl).2 t ht rfl hf rfl rfl rfl
      (by show dev.chip.hif.fns.any (fun f => f.2.conf.isSome) = false; decide +kernel) hk hl rfl⟩,
   ⟨_, h.2.2.2.2.2.2.2.2 dev⟩,
   (h.2.1 devAlias 0 5 measAll rfl (by decide +kernel) (by decide +kernel) (by decide +kernel) (by decide +kernel) (by decide +kernel)).elim fun _ x => x.elim fun _ y => y.elim fun b z => ⟨b, _, z.2.2⟩⟩

def devDump : State := { dev with nv.dump := some 0 }
theorem log_fits (s : State) (n : Nat) (h : s.sealBytes 0 = 0) (hn : n < 65536) : s.bufferHolds pf (s.logLen n) := by
  unfold State.bufferHolds State.logLen
  have : Config.freeValue 11 s.free % (n + 1) < n + 1 := Nat.mod_lt _ (by omega)
  show _ + s.sealBytes 0 ≤ 0x1000000
  omega

theorem witness_PowerAndFaultConfigCommands (h : Obligations.PowerAndFaultConfigCommands) :
    Runs (.powerStateForce pf 0 575 0) dev ∧ Runs (.powerStateForce pf 1 31 3) dev ∧ Runs (.powerStateRelease pf 0 0) dev ∧
    Runs (.powerStateForce pf 2 15 0) dev ∧ Runs (.powerStateForce pf 2 3 3) (devPort .detect) ∧ Runs (.powerStateForce pf 2 3 3) (devPort .active) ∧
    Runs (.powerStateRelease pf 2 0) dev ∧ Runs (.powerStateSetDivider pf 0 16) dev ∧ Runs (.powerStateSetDivider pf 0 6) dev ∧
    Runs (.ltol pf 0 10000000) dev ∧ Runs (.powerStatus pf) dev ∧ Runs (.powerCap pf 1000) dev ∧ Runs (.powerCap pf 6500) dev ∧
    Runs (.faultConfigWrite pf 0x10 1) dev ∧ Runs (.faultConfigRead pf) dev ∧ Runs (.faultConfigFaultN pf 1 10000) dev ∧
    Runs (.faultConfigRelease pf) dev ∧ Runs (.faultConfigPatrol pf 65536 10000) dev ∧ Runs (.faultConfigInject pf 0x10 0 0 0) (devC (ctx0 .active)) ∧
    Runs (.faultConfigWatchdog pf 10) dev :=
  ⟨⟨_, (h.1 dev pf 0 575 (by decide +kernel) rfl (by decide +kernel) (by decide +kernel) (by decide +kernel)).1⟩, ⟨_, (h.1 dev pf 1 31 (by decide +kernel) rfl (by decide +kernel) (by decide +kernel) (by decide +kernel)).2.1 (by decide +kernel)⟩, ⟨_, (h.1 dev pf 0 0 (by decide +kernel) rfl (by decide +kernel) (by decide +kernel) (by decide +kernel)).2.2⟩,
   ⟨_, (h.2.1 dev pf 15 (by decide +kernel) rfl (by decide +kernel) (by decide +kernel)).1⟩, ⟨_, (h.2.1 (devPort .detect) pf 3 (by decide +kernel) rfl (by decide +kernel) (by decide +kernel)).2.1 _ (Prod.ext rfl (by decide +kernel))⟩,
   ⟨_, (h.2.1 (devPort .active) pf 3 (by decide +kernel) rfl (by decide +kernel) (by decide +kernel)).2.2.1 _ (Prod.ext rfl (by decide +kernel))⟩, ⟨_, (h.2.1 dev pf 0 (by decide +kernel) rfl (by decide +kernel) (by decide +kernel)).2.2.2⟩,
   ⟨_, (h.2.2.1 dev _ _ pf 0 16 (by unfold State.mayOnPart; decide +kernel)).1 (by decide +kernel) (by decide +kernel) (by decide +kernel) rfl rfl⟩, ⟨_, (h.2.2.1 dev _ _ pf 0 6 (by unfold State.mayOnPart; decide +kernel)).1 (by decide +kernel) (by decide +kernel) (by decide +kernel) rfl rfl⟩,
   ⟨_, (h.2.2.1 dev _ dev pf 0 10000000 (by unfold State.mayOnPart; decide +kernel)).2 (by decide +kernel) (by decide +kernel) rfl⟩, ⟨_, h.2.2.2.1 dev _ pf (by decide +kernel) (by unfold State.bufferHolds; decide +kernel) rfl⟩, ⟨_, h.2.2.2.2.1 dev _ pf 1000 (by decide +kernel) rfl (by decide +kernel) (by decide +kernel) rfl⟩,
   ⟨_, h.2.2.2.2.1 dev _ pf 6500 (by decide +kernel) rfl (by decide +kernel) (by decide +kernel) rfl⟩, ⟨_, (h.2.2.2.2.2 dev _ pf (by decide +kernel) rfl rfl).1 0x10 1 (by decide +kernel) (by decide +kernel)⟩,
   ⟨_, (h.2.2.2.2.2 dev _ pf (by decide +kernel) rfl rfl).2.1 (by unfold State.bufferHolds; decide +kernel)⟩, ⟨_, (h.2.2.2.2.2 dev _ pf (by decide +kernel) rfl rfl).2.2.1 1 10000 (by decide +kernel) (by decide +kernel) (by decide +kernel)⟩,
   ⟨_, (h.2.2.2.2.2 dev _ pf (by decide +kernel) rfl rfl).2.2.2.1⟩, ⟨_, (h.2.2.2.2.2 dev _ pf (by decide +kernel) rfl rfl).2.2.2.2.1 65536 10000 (by decide +kernel) (by decide +kernel)⟩,
   ⟨_, (h.2.2.2.2.2 (devC (ctx0 .active)) _ pf (by decide +kernel) rfl rfl).2.2.2.2.2.1 0x10 0 0 0 (by decide +kernel) (by decide +kernel) (by decide +kernel) (by decide +kernel) (by decide +kernel)⟩,
   ⟨_, (h.2.2.2.2.2 dev _ pf (by decide +kernel) rfl rfl).2.2.2.2.2.2 10 (by decide +kernel) (by decide +kernel)⟩⟩

theorem witness_TelemetryAndFirmwareCommands (h : Obligations.TelemetryAndFirmwareCommands) :
    Runs (.faultRecordsRead pf 0 64) dev ∧ Runs (.faultRecordsPersistent pf) dev ∧ Runs (.memStatus pf) dev ∧ Runs (.portStatus pf) dev ∧
    Runs (.fabricStatus pf) dev ∧ Runs (.corrLog pf 31) dev ∧ Runs (.fwUpdateWrite pf 3 (zeros 256)) dev ∧ Runs (.fwUpdateQuery pf) dev ∧
    Runs (.logRead pf 0 65535) dev ∧ Runs (.crashDumpRead pf) devDump ∧ Runs (.crashDumpClear pf) devDump :=
  ⟨⟨_, (h.1 dev _ pf (by decide +kernel) rfl).1 (by unfold State.bound; decide +kernel) 0 64 (by unfold State.bufferHolds; decide +kernel)⟩, ⟨_, (h.1 dev _ pf (by decide +kernel) rfl).2 rfl (by unfold State.bufferHolds; decide +kernel)⟩, ⟨_, (h.2.1 dev pf (by unfold State.bound; decide +kernel)).1 (by decide +kernel) (by unfold State.bufferHolds; decide +kernel)⟩, ⟨_, (h.2.1 dev pf (by unfold State.bound; decide +kernel)).2.1 (by decide +kernel) (by unfold State.bufferHolds; decide +kernel)⟩,
   ⟨_, (h.2.1 dev pf (by unfold State.bound; decide +kernel)).2.2 (by decide +kernel) (by unfold State.bufferHolds; decide +kernel)⟩, ⟨_, h.2.2.1 dev pf 31 (by decide +kernel) (by unfold State.mayOnStack; decide +kernel) (by unfold State.bufferHolds; decide +kernel)⟩, ⟨_, ((h.2.2.2 dev pf rfl).1 (by decide +kernel)).1 3 (zeros 256) (by decide +kernel) (by decide +kernel) rfl⟩,
   ⟨_, ((h.2.2.2 dev pf rfl).1 (by decide +kernel)).2 (by unfold State.bufferHolds; decide +kernel)⟩, ⟨_, (h.2.2.2 dev pf rfl).2.1 (by decide +kernel) 0 65535 _ _ _ (log_fits dev 65535 (by decide +kernel) (by decide +kernel)) rfl rfl⟩,
   ⟨_, (h.2.2.2 devDump pf rfl).2.2.1 (by decide +kernel) (by unfold State.bufferHolds; decide +kernel) rfl _ _ rfl⟩, ⟨_, (h.2.2.2 devDump pf rfl).2.2.2 (by decide +kernel) _ rfl⟩⟩

/-! ### Tasks -/

def nopD : List Byte := [0#8, 2#8] ++ zeros 254
def opD (o : Nat) : List Byte := leBytes 1 o ++ [2#8] ++ zeros 254
def taskE : List Byte := [1#8] ++ zeros 15 ++ nopD
def q1E : List Byte := [1#8] ++ zeros 15 ++ (zeros 24 ++ leBytes 6 0x20000 ++ zeros 98)
def devRing (r : SubRing) : State := { devC (ctx0 .active) with chip.hif.fns := [(0, { fn0 with sub := [(0, r)] })] }
def ring1 : SubRing := { ctx := 0, q1 := false, logn := 4, base := 0x1000, shadow := 0x100 }
def ringT : SubRing := { ring1 with head := some taskE }
def ringQ : SubRing := { ring1 with q1 := true, head := some q1E }
def ringW : SubRing := { ring1 with head := some taskE, checked := some (0, nopD) }

theorem witness_SubmissionEntriesPlaced (h : Obligations.SubmissionEntriesPlaced) :
    Runs (.submissionTaskEntry 0 0) (devRing ringT) ∧ Runs (.q1SubmissionEntry 0 0) (devRing ringQ) ∧
    Runs (.queueEntryPlaced 0 0) (devRing ringW) :=
  ⟨⟨_, h.1 (devRing ringT) 0 0 ringT taskE (ctx0 .active) rfl rfl rfl rfl rfl rfl rfl (by decide +kernel) (by decide +kernel) (by decide +kernel) (by decide +kernel)⟩,
   (by refine ⟨_, h.2.1 (devRing ringQ) 0 0 ringQ q1E (ctx0 .active) rfl rfl rfl rfl rfl rfl rfl ?_ ?_ ?_ ?_ ?_ ?_⟩ <;> decide +kernel),
   ⟨_, h.2.2 (devRing ringW) 0 0 ringW 0 nopD (ctx0 .active) rfl rfl rfl rfl (by decide +kernel)⟩⟩

/-- Core 0 with one task of context 0. -/
def devT (t : Task) : State := { devC (ctx0 .active) with chip.cores := [(0, { queue := [t] })] }
def run0 : Run := { segs := [], holds := [] }
def nopT : Task := { ctx := 0, desc := nopD }
def nopR : Task := { nopT with stage := .running, run := some run0 }
def badR : Run := { run0 with fail := some (.integrity, 0) }
def sig0 : Signal := { ctx := 0, core := 0, idx := 63, inc := 255 }
def devSig : State := { devC { ctx0 .active with cnt := [(63, 0xFFFFFFFF#32)] } with chip.sigs := [sig0] }

theorem witness_TasksRunAndEnd (h : Obligations.TasksRunAndEnd) :
    Runs (.taskDispatch 0) (devT nopT) ∧ Runs (.dispatchAgeing 0 0) (devT nopT) ∧ Runs (.taskEnd 0 0 9) (devT nopR) ∧
    Runs (.taskEnd 0 0 9) (devT { nopR with run := some badR }) ∧ Runs (.signalArrival 0) devSig :=
  ⟨⟨_, ((h.1 (devT nopT) 0 0 0 nopT (ctx0 .active) { ins := [], outs := [], maskKey := none, run := run0 } rfl rfl).2 _ rfl).1 rfl _ false rfl⟩,
   ⟨_, h.2.1 (devT nopT) 0 0 0 nopT rfl⟩,
   ⟨_, ((h.2.2.1 (devT nopR) 0 0 9 nopR run0 (ctx0 .active) rfl rfl rfl (.inl rfl) rfl rfl _ _ rfl).2 rfl _ _ rfl).2 rfl⟩,
   ⟨_, h.2.2.2.1 _ 0 0 9 _ badR (ctx0 .active) .integrity 0 rfl rfl rfl (.inl rfl) rfl⟩,
   ⟨_, h.2.2.2.2 devSig 0 sig0 _ rfl rfl⟩⟩

/-- A 1 x 1 x 1 product on engine 0, and a COPY of one element. -/
def mmD : List Byte := [1#8, 2#8, 0#8, 0#8, 0x10#8] ++ zeros 45 ++ leBytes 2 1 ++ leBytes 2 1 ++ leBytes 2 1 ++ zeros 200
def hd1 : Hdr := { fmt := .bf16, noblk := true, scale := 127, layer := 0, epoch := 0, ctx := 0, count := 1, plen := 1 }
def out1 : OutTile := { hdr := hd1, base := 0x1000, slot := none }
def mmRun (p : Pos) : Run := { run0 with a := some (hd1, 0), b := some (hd1, 0x100), outs := [out1], pos := [p] }
def mmT (p : Pos) : Task := { ctx := 0, desc := mmD, stage := .running, run := some (mmRun p) }
def cpT (x : Option (Nat × List Word)) : Task :=
  { ctx := 0, desc := opD 5, stage := .running, run := some { run0 with a := some (hd1, 0), outs := [out1], staged := x, acks := 9 } }
def pos0 : Pos := { eng := 0, chunk := 0, pass := 0 }
def pos1 : Pos := { eng := 0, chunk := 1, pass := 0, drains := [0] }

def cpS : Task := cpT (some (1, [0#32]))

theorem witness_RunningTasksAdvance (h : Obligations.RunningTasksAdvance) :
    Runs (.passEnd 0 0 (some 63) [(3, 1)]) (devT (mmT pos0)) ∧ Runs (.chunkDrainEnd 0 0) (devT (mmT pos1)) ∧
    Runs (.copyBlockEnd 0 0 5 0) (devT (cpT none)) ∧ Runs (.copyBlockEnd 0 0 5 0) (devT cpS) ∧
    Runs (.copyBlockEnd 0 0 5 0x20) (devT cpS) ∧ Runs (.copyBlockEnd 0 0 5 0x21) (devT cpS) :=
  have c := fun w f => h.2.2 (devT cpS) 0 0 w f cpS _ (ctx0 .active) (hd1, 0) out1 rfl rfl rfl rfl rfl rfl (by decide +kernel) rfl (by decide +kernel) (by decide +kernel)
  ⟨⟨_, h.1 _ 0 0 (some 63) [(3, 1)] 0 (mmT pos0) (mmRun pos0) pos0 (ctx0 .active) (hd1, 0) (hd1, 0x100) rfl rfl rfl rfl rfl rfl (by decide +kernel) rfl⟩,
   ⟨_, h.2.1 _ 0 0 0 (mmT pos1) (mmRun pos1) pos1 (ctx0 .active) 0 [] rfl rfl rfl rfl⟩,
   ⟨_, (h.2.2 (devT (cpT none)) 0 0 5 0 (cpT none) _ (ctx0 .active) (hd1, 0) out1 rfl rfl rfl rfl rfl rfl (by decide +kernel) rfl (by decide +kernel) (by decide +kernel)).1 rfl rfl⟩,
   ⟨_, ((c 5 0).2 1 [0#32] rfl).1 rfl⟩, ⟨_, ((c 5 0x20).2 1 [0#32] rfl).2.1 (by decide) (by decide)⟩,
   ⟨_, ((c 5 0x21).2 1 [0#32] rfl).2.2 (by decide) (by decide)⟩⟩

def tblT : Task := { ctx := 0, desc := opD 6 }
def stpT (g : TaskStage) : Task := { mmT pos0 with stage := g }
/-- A task of context 1 for the same engine. -/
def wantT : Task := { mmT pos0 with ctx := 1, stage := .queued, run := none }
def devScrub : State := { devT nopT with chip.cores := [(0, { scrubs := [(4, 1)] })], chip.isleErr := [(4, 0x20)] }
/-- The save area of context 0 on core 0 is at key 0x1000; its control record is zero but for TSET. -/
def ctxS : Context := { ctx0 .active with reserved := [{ stack := 0, frame := 1, count := 82 }] }
def record0 (tset : Bool) : List (Nat × Byte) :=
  (if tset then [(0x1002, 8#8)] else []) ++ ((List.range 4).zip (leBytes 4 (crc32 (zeros 0xFFC)))).map fun p => (0x1FFC + p.1, p.2)
def devSv (q : List Task) (res : List Resident) (tset : Bool) : State := { dev with
  mem := record0 tset
  chip.ctxs := [(0, ctxS), (1, ctx0 .active)]
  chip.cores := [(0, { queue := q, resident := res })] }
def res4 : List Resident := [{ ctx := 1, dirty := true }, { ctx := 2, used := 1 }, { ctx := 3, used := 2 }, { ctx := 4, used := 3 }]

/-- A CRC-32 has 32 bits. -/
theorem crc32_lt (bs : List Byte) : crc32 bs < 2 ^ 32 := by
  have h1 (p : Nat) (hp : p < 2 ^ 32) : ∀ n x, x < 2 ^ 32 → crcShiftsR p n x < 2 ^ 32 := by
    intro n
    induction n with
    | zero => intro x hx; exact hx
    | succ n ih =>
      intro x hx
      unfold crcShiftsR crcShiftR
      have := Nat.xor_lt_two_pow (x := x >>> 1) (y := p) (n := 32) (by rw [Nat.shiftRight_eq_div_pow]; omega) hp
      split <;> refine ih _ ?_ <;> first | exact this | (rw [Nat.shiftRight_eq_div_pow]; omega)
  have h2 (l : List Byte) : ∀ x, x < 2 ^ 32 → l.foldl (fun crc b => crcShiftsR 0xEDB88320 8 (crc ^^^ b.toNat)) x < 2 ^ 32 := by
    induction l with
    | nil => intro x hx; exact hx
    | cons b l ih =>
      intro x hx
      exact ih _ (h1 _ (by decide) 8 _ (Nat.xor_lt_two_pow hx (Nat.lt_of_lt_of_le b.isLt (by decide))))
  exact Nat.xor_lt_two_pow (h2 bs _ (by decide)) (by decide)


/-- The four bytes of an RCRC, and zeros before them. -/
theorem record_reads (s : State) (c : Nat) (hc : c < 2 ^ 32)
    (m : s.mem = ((List.range 4).zip (leBytes 4 c)).map fun p => (0x1FFC + p.1, p.2)) (n : Nat) (hn : n ≤ 0xFFC) :
    s.rdN 0x1000 n = zeros n ∧ leNat (s.rdN 0x1FFC 4) = c := by
  constructor
  · unfold State.rdN zeros
    rw [List.map_congr_left (g := fun _ => 0#8), List.map_const', List.length_range]
    intro i hi
    have := List.mem_range.1 hi
    unfold State.rd
    rw [m]
    show ((if 0x1000 + i = 0x1FFC then _ else if 0x1000 + i < 0x1FFC then none else _ : Option Byte)).getD 0#8 = 0#8
    rw [if_neg (by omega), if_pos (by omega)]; rfl
  · have f : s.rdN 0x1FFC 4 = leBytes 4 c := by
      unfold State.rdN State.rd
      rw [m]
      rfl
    rw [f]
    simp only [leBytes, leNat, BitVec.toNat_ofNat]
    omega

theorem record_crc (s : State) (n : Nat) (hn : n ≤ 0xFFC)
    (m : s.mem = ((List.range 4).zip (leBytes 4 (crc32 (zeros n)))).map fun p => (0x1FFC + p.1, p.2)) :
    crc32 (s.rdN 0x1000 n) = leNat (s.rdN 0x1FFC 4) := by
  have a := record_reads s _ (crc32_lt _) m n hn
  rw [a.2, a.1]

theorem restore_reads : ((devSv [stpT .saved] [] false).moverRead 0x1000 [] [] false).2 = none := by
  have e := record_crc (devSv [stpT .saved] [] false) 0xFFC (by decide) (List.nil_append _)
  simp only [State.moverRead, List.map_nil, Nat.reduceAdd, e]
  simp
  decide +kernel

theorem witness_TableSets (h : Obligations.StateMoverAndScrubs) :
    Runs (.tableSetSwap 0 0 ⟨[], false⟩) (devSv [tblT] [] false) ∧ Runs (.tableSetSwap 0 0 ⟨[], false⟩) (devSv [tblT] res4 false) ∧
    Runs (.tableSetSwap 0 0 ⟨[(0, 3)], true⟩) (devSv [tblT] [] true) :=
  ⟨⟨_, (h.1 (devSv [tblT] [] false) _ 0 0 ctxS none [] false rfl rfl rfl (.inl ⟨by decide, rfl⟩) rfl).1 0x1000 rfl rfl⟩,
   ⟨_, (h.1 (devSv [tblT] res4 false) _ 0 0 ctxS (some { ctx := 1, dirty := true }) [] false rfl rfl rfl (.inr ⟨by decide, rfl, by decide⟩) rfl).1 0x1000 rfl rfl⟩,
   ⟨_, (h.1 (devSv [tblT] [] true) _ 0 0 ctxS none [(0, 3)] true rfl rfl rfl (.inl ⟨by decide, rfl⟩) rfl).2 0x1000 _ _ rfl rfl Prod.mk.eta.symm⟩⟩

theorem witness_StateMoverAndScrubs (h : Obligations.StateMoverAndScrubs) :
    Runs (.stateSaveComplete 0 0 []) (devSv [stpT .stopped, wantT] [] false) ∧
    Runs (.stateRestoreComplete 0 0 ⟨[], false⟩) (devSv [stpT .saved] [] false) ∧
    Runs (.stateRestoreComplete 0 0 ⟨[], true⟩) (devSv [stpT .saved] [] false) ∧
    Runs (.isleScrubWrite 0 4) devScrub ∧ Runs (.scrubAbandon 0 4) devScrub :=
  ⟨⟨_, (h.2.1 (devSv [stpT .stopped, wantT] [] false) _ _ 0 0 0 0x1000 (stpT .stopped) (mmRun pos0) [] false rfl rfl rfl rfl rfl).2 rfl _ rfl⟩,
   ⟨_, (h.2.2.1 (devSv [stpT .saved] [] false) _ 0 0 0 0x1000 (stpT .saved) (mmRun pos0) ctxS [] false _ rfl rfl rfl rfl rfl rfl Prod.mk.eta.symm).1 restore_reads⟩,
   ⟨_, (h.2.2.1 (devSv [stpT .saved] [] false) _ 0 0 0 0x1000 (stpT .saved) (mmRun pos0) ctxS [] true _ rfl rfl rfl rfl rfl rfl Prod.mk.eta.symm).2 0 (by decide +kernel)⟩,
   ⟨_, h.2.2.2.1 devScrub 0 4 1 rfl⟩, ⟨_, h.2.2.2.2 devScrub 0 4⟩⟩

/-! ### Streams -/

def armE (d : List Byte) : List Byte := [2#8] ++ zeros 15 ++ d ++ zeros 192
/-- Slot 0 of core 0 is context 0's; its ring 0 holds an entry at its head. -/
def devE (d : List Byte) : State :=
  { devA { ctx := 0 } with chip.hif.fns := [(0, { fn0 with sub := [(0, { ring1 with head := some (armE d) })] })] }
def badArm : List Byte := [9#8] ++ armDesc.drop 1
def arm1 : Arm := { arm0 with effect := true, started := true, segs := ctxA.segs }
/-- A header with one FP32 element, valid. -/
def hb : List Byte := ({ fmt := .fp32, noblk := false, scale := 0, layer := 0, epoch := 0, ctx := 0, count := 1, plen := 1 } : Hdr).bytes

/-- What the channel that issues, or the first background one of slot 0, would do: a slot's request with its tags, or the COPY's. -/
def slotAct (x : Option Cand) : Option (List Nat) :=
  x.bind fun x => match x.act with
    | .inl y => y.2.req.bind fun _ => ((y.2.s.slot? 0 x.sid).bind (·.cur)).map fun _ => (y.2.s.core 0).freeTags
    | .inr _ => none
def copyAct (x : Option Cand) : Option (Nat × Nat) :=
  x.bind fun x => match x.act with
    | .inl _ => none
    | .inr y => some y

theorem witness_SlotIssues (h : Obligations.ArmsAcceptedAndIssued) (s : State) (ts : List Nat) (h1 : s.mcastDiffers 0 = none)
    (h2 : (s.candidates 0).find? (fun x => x.2.2.2.moved && x.2.2.2.req.isNone) = none)
    (h3 : slotAct (chooseCand (s.core 0).rr (s.cands 0)) = some (0 :: ts)) : Runs (.streamIssue 0) s := by
  cases hx : chooseCand (s.core 0).rr (s.cands 0) with
  | none => rw [hx] at h3; cases h3
  | some x =>
    rw [hx] at h3
    rcases ha : x.act with ⟨ctx, pr⟩ | b
    · cases hr : pr.req with
      | none => simp [slotAct, ha, hr] at h3
      | some k =>
        simp only [slotAct, Option.bind_some, ha, hr] at h3
        cases hc : (pr.s.slot? 0 x.sid).bind (·.cur) with
        | none => rw [hc] at h3; cases h3
        | some a => rw [hc] at h3; exact ⟨_, h.2.2.1 s 0 ctx k.1 0 x a pr k.2 ts h1 h2 hx ha hr hc (Option.some.inj h3)⟩
    · simp [slotAct, ha] at h3

theorem witness_CopyIssues (h : Obligations.ArmsAcceptedAndIssued) (s : State) (y : Nat × Nat) (ts : List Nat) (h1 : s.mcastDiffers 0 = none)
    (h2 : (s.candidates 0).find? (fun x => x.2.2.2.moved && x.2.2.2.req.isNone) = none)
    (h3 : copyAct (chooseCand (s.core 0).rr (s.cands 0)) = some y) (h4 : (s.core 0).freeTags = 0 :: ts) : Runs (.streamIssue 0) s := by
  cases hx : chooseCand (s.core 0).rr (s.cands 0) with
  | none => rw [hx] at h3; cases h3
  | some x =>
    rw [hx] at h3
    rcases ha : x.act with b | b
    · simp [copyAct, ha] at h3
    · exact ⟨_, h.2.2.2.1 s 0 b.1 b.2 0 x ts h1 h2 hx ha h4⟩

theorem witness_ChannelAges (h : Obligations.ArmsAcceptedAndIssued) (s : State) (sid : Nat)
    (h1 : ((s.cands 0).find? fun x => x.sid == sid && !x.rated).isSome = true) (h2 : sid = 32 ∨ ((s.slot? 0 sid).bind (·.cur)).isSome = true)
    (h3 : sid = 32 → (copyAct ((s.cands 0).find? fun x => x.sid == sid && !x.rated)).isSome = true) : Runs (.backgroundAgeing 0 sid) s := by
  obtain ⟨x, hx⟩ := Option.isSome_iff_exists.1 h1
  rw [hx] at h3
  rcases ha : x.act with ⟨ctx, pr⟩ | b
  · rcases h2 with e | h2
    · simp [copyAct, ha] at h3; exact absurd e h3
    · obtain ⟨a, hc⟩ := Option.isSome_iff_exists.1 h2
      exact ⟨_, (h.2.2.2.2 s 0 sid x hx).1 ctx pr a ha hc⟩
  · exact ⟨_, (h.2.2.2.2 s 0 sid x hx).2 b.1 b.2 ha⟩

/-- A COPY of one element that has issued nothing yet. -/
def cpI : Task := { ctx := 0, desc := opD 5, stage := .running, run := some { run0 with a := some (hd1, 0), outs := [out1] } }

theorem witness_ArmsAcceptedAndIssued (h : Obligations.ArmsAcceptedAndIssued) :
    Runs (.submissionArmEntry 0 0) (devE armDesc) ∧ Runs (.submissionArmEntry 0 0) (devE badArm) ∧
    Runs (.streamIssue 0) (devA { ctx := 0, cur := some arm1 }) ∧ Runs (.streamIssue 0) (devT cpI) ∧
    Runs (.backgroundAgeing 0 0) (devA { ctx := 0, cur := some arm1 }) ∧ Runs (.backgroundAgeing 0 32) (devT cpI) :=
  ⟨⟨_, h.1 (devE armDesc) 0 0 { ring1 with head := some (armE armDesc) } _ ctxA rfl rfl rfl rfl rfl rfl rfl (by decide +kernel) (by decide +kernel) (by decide +kernel) (by decide +kernel)⟩,
   ⟨_, h.2.1 (devE badArm) 0 0 { ring1 with head := some (armE badArm) } _ ctxA 1 .argRange rfl rfl rfl rfl rfl rfl rfl (by decide +kernel) (by decide +kernel) (by decide +kernel) (by decide +kernel)⟩,
   witness_SlotIssues h _ ((List.range 64).drop 1) (by decide +kernel) (Option.isNone_iff_eq_none.1 (by decide +kernel)) (by decide +kernel),
   witness_CopyIssues h _ (0, 0) ((List.range 64).drop 1) (by decide +kernel) (Option.isNone_iff_eq_none.1 (by decide +kernel)) (by decide +kernel) (by decide +kernel),
   witness_ChannelAges h _ 0 (by decide +kernel) (.inr (by decide +kernel)) (fun x => absurd x (by decide)),
   witness_ChannelAges h _ 32 (by decide +kernel) (.inl rfl) (fun _ => by decide +kernel)⟩

def req0 (k : ReqKind) : Req := { kind := k, far := 0x10000, len := 4, pieces := [(0, 4, 16)] }
def out0 (k : ReqKind) : Outst := { ctx := 0, sid := 0, seq := 0, tile := 0, req := req0 k }
def resp0 (st : Status) (bs : List Byte) : Resp := { core := 0, sid := 0, tag := 5, gen := 1023, data := bs, status := st }
def arm2 : Arm := { arm1 with tiles := [(0, { hdr := hb, live := 1 })] }
/-- Tag 5 of core 0 waits for `o`, generation `g`; the answer `p` has come. -/
def devTag (p : Resp) (o : Option Outst) (g : Nat) : State :=
  { devA { ctx := 0, cur := some arm2 } with
    chip.cores := [(0, { slots := [(0, { ctx := 0, cur := some arm2 })], tags := [(5, { gen := g, req := o })] })]
    chip.resps := [p] }

/-- Tag 5 of core 0 waits for a request of the COPY channel. -/
def devCt (p : List Resp) : State := { devC (ctx0 .active) with
  chip.cores := [(0, { queue := [cpI], tags := [(5, { gen := 1023, req := some { out0 .data with sid := copySid } })] })]
  chip.resps := p }

theorem witness_ResponsesAndTags (h : Obligations.ResponsesAndTags) :
    Runs (.streamResponse 0 5 1023) (devTag (resp0 .ok []) none 1023) ∧ Runs (.streamResponse 0 5 1023) (devTag (resp0 .ok []) (some (out0 .data)) 0) ∧
    Runs (.streamResponse 0 5 1023) (devTag (resp0 .integrity []) (some (out0 .data)) 1023) ∧
    Runs (.streamResponse 0 5 1023) (devTag (resp0 .ok (zeros 4)) (some (out0 .index)) 1023) ∧
    Runs (.streamResponse 0 5 1023) (devTag (resp0 .ok (zeros 4)) (some (out0 .data)) 1023) ∧
    Runs (.streamResponse 0 5 1023) (devTag (resp0 .ok hb) (some (out0 .head)) 1023) ∧
    Runs (.streamResponse 0 5 1023) (devCt [resp0 .ok []]) ∧ Runs (.tagTimeout 0 5) (devCt []) ∧
    Runs (.tagTimeout 0 5) (devTag (resp0 .ok []) (some (out0 .data)) 1023) ∧ Runs (.tagQuarantineEnd 0 63) dev :=
  have n : (out0 .data).sid ≠ copySid := by decide
  ⟨⟨_, h.1 _ 0 5 1023 (resp0 .ok []) rfl (.inl rfl)⟩, ⟨_, h.1 (devTag (resp0 .ok []) (some (out0 .data)) 0) 0 5 1023 (resp0 .ok []) rfl (.inr (by decide +kernel))⟩,
   ⟨_, (h.2.1 (devTag (resp0 .integrity []) (some (out0 .data)) 1023) 0 5 1023 _ (out0 .data) arm2 _ _ rfl rfl rfl rfl n rfl rfl rfl rfl).1 (by decide +kernel)⟩,
   ⟨_, (h.2.1 (devTag (resp0 .ok (zeros 4)) (some (out0 .index)) 1023) 0 5 1023 _ (out0 .index) arm2 _ _ rfl rfl rfl rfl n rfl rfl rfl rfl).2.1 rfl rfl⟩,
   ⟨_, (h.2.1 (devTag (resp0 .ok (zeros 4)) (some (out0 .data)) 1023) 0 5 1023 _ (out0 .data) arm2 _ _ rfl rfl rfl rfl n rfl rfl rfl rfl).2.2.1
      _ rfl rfl rfl (by decide +kernel)⟩,
   ⟨_, (h.2.1 (devTag (resp0 .ok hb) (some (out0 .head)) 1023) 0 5 1023 _ (out0 .head) arm2 _ _ rfl rfl rfl rfl n rfl rfl rfl rfl).2.2.2 _ rfl rfl rfl⟩,
   ⟨_, h.2.2.1 (devCt [resp0 .ok []]) 0 5 1023 (resp0 .ok []) _ rfl rfl rfl rfl⟩,
   ⟨_, h.2.2.2.1 (devCt []) 0 5 0 _ cpI _ rfl rfl rfl rfl⟩,
   ⟨_, h.2.2.2.2.1 (devTag (resp0 .ok []) (some (out0 .data)) 1023) 0 5 (out0 .data) _ arm2 rfl n rfl rfl rfl rfl⟩, ⟨_, h.2.2.2.2.2 dev 0 63⟩⟩

/-- Group 3 of cores 0 (leader) and 1; slot 0 of both is armed. -/
def mcArm (k : Nat) : Arm := { arm1 with desc := leBytes 1 k ++ armDesc.drop 1 |>.set 22 3#8 }
def mg0 : McastGroup := { ctx := 0, members := [0, 1], leader := 0 }
def cred0 : McastCredit := { group := 3, member := 1, tile := 0, slack := 7 }
def mtile0 : McastTile := { group := 3, member := 1, tile := 0, bytes := hb ++ zeros 16 }
def devMc : State := { devC ctxA with
  chip.cores := [(0, { slots := [(0, { ctx := 0, cur := some (mcArm 5) })] }), (1, { slots := [(0, { ctx := 0, cur := some (mcArm 6) })] })]
  chip.mcast := [(3, mg0)]
  chip.credits := [cred0]
  chip.mtiles := [mtile0] }
def devMt (t : McastTile) : State := { devMc with chip.mtiles := [t] }
/-- The member has tile 0 complete already. -/
def devMd : State := { devMc with
  chip.cores := [(0, { slots := [(0, { ctx := 0, cur := some (mcArm 5) })] }), (1, { slots := [(0, { ctx := 0, cur := some { mcArm 6 with done := [0] } })] })] }
def verArm : Arm := { arm1 with resolving := true, vgrp := some (0, 0) }
def grpV (e : Nat) : Group := { desc := gdesc, v0 := { st := .current, epoch := e } }
def devV (e : Nat) : State := { devA { ctx := 0, cur := some verArm } with chip.nmus := [(0, { groups := [(0, grpV e)] })] }

theorem witness_MulticastAndVersions (h : Obligations.MulticastAndVersions) :
    Runs (.mcastCredit 3 1) devMc ∧ Runs (.mcastTileArrival 3 1) devMc ∧ Runs (.mcastTileArrival 3 1) (devMt { mtile0 with head := true }) ∧
    Runs (.mcastTileArrival 3 1) (devMt { mtile0 with bytes := zeros 32 }) ∧ Runs (.mcastTileArrival 3 1) devMd ∧ Runs (.versionResolution 0 0) (devV 0x10000) ∧
    Runs (.versionResolution 0 0) (devV 1) :=
  ⟨⟨_, h.1 devMc 3 1 0 mg0 cred0 (mcArm 5) rfl rfl rfl rfl rfl⟩, 
   ⟨_, ((h.2.1 devMc _ 3 1 0 mg0 mtile0 (mcArm 6) rfl rfl rfl rfl).2 (by decide +kernel)).2 _ _ _ rfl (by decide +kernel) (by decide +kernel) rfl (by decide +kernel) rfl |>.2 rfl (by decide +kernel)⟩,
   ⟨_, ((h.2.1 (devMt { mtile0 with head := true }) _ 3 1 0 mg0 { mtile0 with head := true } (mcArm 6) rfl rfl rfl rfl).2 (by decide +kernel)).2 _ _ _ rfl (by decide +kernel) (by decide +kernel) rfl (by decide +kernel) rfl |>.1 rfl⟩,
   ⟨_, ((h.2.1 (devMt { mtile0 with bytes := zeros 32 }) _ 3 1 0 mg0 { mtile0 with bytes := zeros 32 } (mcArm 6) rfl rfl rfl rfl).2 (by decide +kernel)).1 1 (by decide +kernel)⟩,
   ⟨_, (h.2.1 devMd _ 3 1 0 mg0 mtile0 { mcArm 6 with done := [0] } rfl rfl rfl rfl).1 (.inr (by decide))⟩,
   ⟨_, (h.2.2 (devV 0x10000) 0 0 0 0 _ verArm (grpV 0x10000) rfl rfl rfl rfl rfl).1 0 (by decide +kernel)⟩,
   ⟨_, (h.2.2 (devV 1) 0 0 0 0 _ verArm (grpV 1) rfl rfl rfl rfl rfl).2 (by decide +kernel)⟩⟩

/-! ### Isles and stacks -/

def nreq (ctx : Nat) (w : Bool) : NReq :=
  { core := 0, sid := 0, tag := 0, gen := 0, ctx := ctx, write := w, addr := 0x1000, len := 4, data := if w then zeros 4 else [] }
def mreq (stack : Bool) (r : NReq) : MReq := { toStack := stack, dst := 0, req := r }
def devMesh (m : MReq) : State := { dev with chip.mesh := [m] }

def devMeshE (m : MReq) : State := { devMesh m with chip.isleErr := [((isleBase 0 + 0x1000) / 4, 3)] }
def ireq (ctx : Nat) (w : Bool) : NReq := { nreq ctx w with addr := isleBase 0 + 0x1000, len := 3, data := if w then zeros 3 else [] }

theorem witness_IsleAccesses (h : Obligations.IsleAccesses) :
    Runs (.isleAccess 0 []) (devMesh (mreq false (ireq 0 false))) ∧ Runs (.isleAccess 0 []) (devMesh (mreq false (ireq 0 true))) ∧
    Runs (.isleAccess 0 []) (devMeshE (mreq false (ireq 0 false))) ∧ Runs (.isleAccess 0 []) (devMeshE (mreq false (ireq 0 true))) ∧
    Runs (.isleAccess 0 []) (devMesh (mreq false (ireq 64 false))) :=
  have a := fun w => h.2.1 (devMesh (mreq false (ireq 0 w))) _ 0 _ _ _ rfl rfl (by cases w <;> decide +kernel) rfl rfl
  have b := fun w => h.2.1 (devMeshE (mreq false (ireq 0 w))) _ 0 _ _ _ rfl rfl (by cases w <;> decide +kernel) rfl rfl
  ⟨⟨_, (a false).1 rfl (by decide +kernel)⟩, ⟨_, (a true).2.1 rfl (by decide +kernel)⟩,
   ⟨_, (b false).2.2.1 ((isleBase 0 + 0x1000) / 4, 3) rfl (by decide +kernel) (by decide +kernel)⟩, ⟨_, (b true).2.2.2 rfl (by decide +kernel)⟩,
   ⟨_, h.2.2 (devMesh (mreq false (ireq 64 false))) 0 _ rfl (by decide +kernel)⟩⟩

def accReq : NReq := { nreq 0 true with accum := some { aseq := 0, num := 0, layer := 0, fmt := .fp32, base := 0 } }
def devIn (r : NReq) : State := { dev with chip.nmus := [(0, { ingress := [r] })] }
def devWin (r : NReq) : State := { dev with chip.nmus := [(0, { window := [r] })] }
/-- A write whose data is yet to be pulled for a tag that its engine has abandoned. -/
def stale : NReq := { nreq 0 true with pull := some (0, [], []) }

theorem witness_StackRequestsServed (h : Obligations.StackRequestsServed) :
    Runs (.nmuRequestArrival 0 0) (devMesh (mreq true (nreq 0 true))) ∧ Runs (.sorterAdmit 0) (devIn (nreq 0 true)) ∧ Runs (.sorterAdmit 0) (devIn stale) ∧
    Runs (.bankService 0 2 0 0 0 []) (devWin (nreq 0 false)) ∧ Runs (.bankService 0 2 0 0 0 []) (devWin (nreq 0 true)) ∧
    Runs (.bankService 0 2 0 0 1 []) (devWin accReq) ∧ Runs (.dramRefresh 31) dev :=
  ⟨⟨_, h.1 _ 0 0 _ rfl⟩,
   ⟨_, (h.2.1 (devIn (nreq 0 true)) 0 0 (nreq 0 true) _ (by decide +kernel) rfl rfl).2 _ _ rfl rfl⟩,
   ⟨_, (h.2.1 (devIn stale) 0 0 stale _ (by decide +kernel) rfl rfl).1 (by decide +kernel)⟩,
   ⟨_, (h.2.2.2.1 (devWin (nreq 0 false)) _ 0 2 0 0 0 (nreq 0 false) (by decide +kernel) rfl).1 rfl rfl rfl (by decide +kernel)⟩,
   ⟨_, (h.2.2.2.1 (devWin (nreq 0 true)) _ 0 2 0 0 0 (nreq 0 true) (by decide +kernel) rfl).2.1 rfl rfl rfl (by decide +kernel)⟩,
   ⟨_, (h.2.2.2.1 (devWin accReq) _ 0 2 0 0 1 accReq (by decide +kernel) rfl).2.2 _ rfl⟩, ⟨_, h.2.2.2.2 dev 31⟩⟩

/-- Set 0 with one group on stack 0. -/
def devUp (x : OptSet) (v : VState) : State := { devG with
  chip.nmus := [(0, { groups := [(0, { desc := gdesc, v0 := { st := v } })] })]
  chip.sets := [(0, x)] }

def devStall : State := { devUp { st := .staging } .current with
  chip.nmus := [(0, { groups := [(0, { desc := gdesc, v0 := { st := .current }, v1 := { st := .prior, claimed := true, count := 1 } })] })] }

theorem witness_UpdatesStaged (h : Obligations.UpdatesStaged) :
    Runs (.stageClaimsGranted 0 0) (devUp { st := .staging } .staging) ∧
    Runs (.stageTimeout 0 0) devStall ∧ Runs (.stageKernelsEnd 0 0) (devUp { st := .staging, kernels := true } .staging) ∧
    Runs (.formatRefresh 0 0) dev :=
  ⟨⟨_, h.1 _ 0 0 { st := .staging } rfl rfl rfl (by decide +kernel) (by decide +kernel) (by decide +kernel)⟩, ⟨_, h.2.1 devStall 0 0 { st := .staging } _ [] rfl rfl rfl rfl⟩,
   ⟨_, h.2.2.1 _ 0 0 { st := .staging, kernels := true } rfl rfl rfl⟩, ⟨_, h.2.2.2 dev 0 0⟩⟩

/-- Segment 0 of context 0 is being moved or deleted. -/
def devMove (w : Await) : State := { devC { ctx0 .active with segs := [(0, { seg0 false with mig := true })] } with
  chip.hif.running := [going w] }
def segN : Segment := { seg0 false with dbase := 0x200000 }

theorem witness_MigrationsRun (h : Obligations.MigrationsRun) :
    Runs (.migrationHoldersEnded 0 0) (devMove (.delete 0 0)) ∧ Runs (.migrationHoldersEnded 0 0) (devMove (.migrate 0 0 segN 0)) ∧
    Runs (.migrationTimeout 0 0) (devMove (.migrate 0 0 segN 0)) ∧ Runs (.migrationCopyComplete 0 0) (devMove (.migrate 0 0 segN 1)) ∧
    Runs (.migrationCopyComplete 0 0) { devMove (.migrate 0 0 segN 1) with dramErr := [(0x100000 / 32, 0x3FFFF)] } :=
  ⟨⟨_, (h.1 (devMove (.delete 0 0)) 0 0 _ rfl (by decide +kernel)).1 rfl⟩, ⟨_, (h.1 (devMove (.migrate 0 0 segN 0)) 0 0 _ rfl (by decide +kernel)).2 _ rfl⟩,
   ⟨_, h.2.1 _ 0 0 segN rfl⟩,
   ⟨_, (h.2.2 (devMove (.migrate 0 0 segN 1)) 0 0 segN { seg0 false with mig := true }
      { ctx0 .active with segs := [(0, { seg0 false with mig := true })] } (by decide +kernel) (by decide +kernel) (by decide +kernel)).1 (by decide +kernel)⟩,
   ⟨_, (h.2.2 { devMove (.migrate 0 0 segN 1) with dramErr := [(0x100000 / 32, 0x3FFFF)] } 0 0 segN { seg0 false with mig := true }
      { ctx0 .active with segs := [(0, { seg0 false with mig := true })] } (by decide +kernel) (by decide +kernel) (by decide +kernel)).2 (by decide +kernel)⟩⟩

/-! ### Links -/

/-- Port 3 is `p`. -/
def devP3 (p : Port) : State := { dev with chip.ports := [(3, p)] }
def ctl0 : Nat := 2 ^ 56 * crc8 (zeros 7)

theorem witness_LinksTrain (h : Obligations.LinksTrain) :
    Runs (.trainingFrame 3 7 ctl0 ⟨false, true⟩ true false 1 2) (devPort .detect) ∧ Runs (.trainingFrame 3 7 ctl0 ⟨true, true⟩ true true 1 2) (devPort .lock) ∧
    Runs (.trainingFrame 3 0 (ctl0 + 1) ⟨false, true⟩ true false 1 2) (devPort .eq) ∧
    Runs (.trainingFrame 3 0 ctl0 ⟨false, true⟩ true false 1 2) (devPort .retrain) ∧
    Runs (.trainingTimeout 3) (devPort .detect) ∧ Runs (.trainingTimeout 3) (devPort .lock) ∧ Runs (.trainingTimeout 3) (devPort .eq) ∧
    Runs (.trainingTimeout 3) (devPort .align) ∧ Runs (.trainingTimeout 3) (devPort .config) ∧ Runs (.trainingWaitEnd 3) (devPort .wait) ∧
    Runs (.trainingWaitEnd 3) (devPort .noPartner) ∧ Runs (.fastRetrainTimeout 3) (devP3 { st := .align, fast := true }) :=
  ⟨⟨_, h.1 (devPort .detect) 3 7 ctl0 ⟨false, true⟩ true false 1 2 _ _ (by decide +kernel) (by decide +kernel) rfl (.inl rfl) (fun _ => rfl) (fun x => absurd x (by decide +kernel))⟩,
   ⟨_, h.1 (devPort .lock) 3 7 ctl0 ⟨true, true⟩ true true 1 2 _ _ (by decide +kernel) (by decide +kernel) rfl (.inr (.inl rfl)) (fun _ => rfl) (fun x => absurd x (by decide +kernel))⟩,
   ⟨_, h.1 (devPort .eq) 3 0 (ctl0 + 1) ⟨false, true⟩ true false 1 2 _ { st := .eq } (by decide +kernel) (by decide +kernel) rfl (.inr (.inr (.inl rfl))) (fun x => absurd x (by decide +kernel)) (fun _ => rfl)⟩,
   ⟨_, h.1 (devPort .retrain) 3 0 ctl0 ⟨false, true⟩ true false 1 2 _ _ (by decide +kernel) (by decide +kernel) rfl (.inr (.inr (.inr rfl))) (fun _ => rfl) (fun x => absurd x (by decide +kernel))⟩,
   ⟨_, (h.2.1 (devPort .detect) 3 _ (by decide +kernel) rfl rfl).1 rfl⟩, ⟨_, (h.2.1 (devPort .lock) 3 _ (by decide +kernel) rfl rfl).2.1 rfl⟩,
   ⟨_, (h.2.1 (devPort .eq) 3 _ (by decide +kernel) rfl rfl).2.2.1 rfl⟩, ⟨_, (h.2.1 (devPort .align) 3 _ (by decide +kernel) rfl rfl).2.2.2.1 rfl⟩,
   ⟨_, (h.2.1 (devPort .config) 3 _ (by decide +kernel) rfl rfl).2.2.2.2 rfl⟩, ⟨_, h.2.2.1 (devPort .wait) 3 (by decide +kernel) (.inl rfl)⟩,
   ⟨_, h.2.2.1 (devPort .noPartner) 3 (by decide +kernel) (.inr rfl)⟩, ⟨_, h.2.2.2 (devP3 { st := .align, fast := true }) 3 (by decide +kernel) rfl (.inr (.inl rfl))⟩⟩

theorem witness_CodewordsCounted (h : Obligations.CodewordsCounted) :
    exec (.codeword 3 5 (List.replicate 16 1) false) dev = exec (.codeword 3 5 [] true) dev ∧
    Runs (.codeword 3 4095 [0, 7] true) (devP3 { st := .align, cwGood := 63, cwNum := 4095 }) ∧
    Runs (.codeword 3 4095 [0, 7] false) (devP3 { st := .align, cwGood := 63, cwNum := 4095 }) ∧
    Runs (.codeword 3 9 [] false) (devP3 { st := .align, cwGood := 63, cwNum := 4095 }) ∧
    Runs (.codeword 3 5 [] true) (devP3 { st := .active, cwHist := List.replicate 8 (true, false) }) ∧
    Runs (.codeword 3 5 [] false) (devP3 { st := .config }) :=
  ⟨h.1 dev 3 5 _ _ (by decide +kernel),
   ⟨_, (h.2.1 (devP3 { st := .align, cwGood := 63, cwNum := 4095 }) 3 4095 [0, 7] true _ (by decide +kernel) rfl rfl (by decide +kernel)).1 rfl⟩,
   ⟨_, (h.2.1 (devP3 { st := .align, cwGood := 63, cwNum := 4095 }) 3 4095 [0, 7] false _ (by decide +kernel) rfl rfl (by decide +kernel)).2.1 rfl (by decide +kernel) (by decide +kernel)⟩,
   ⟨_, (h.2.1 (devP3 { st := .align, cwGood := 63, cwNum := 4095 }) 3 9 [] false _ (by decide +kernel) rfl rfl (by decide +kernel)).2.2 rfl (.inr (by decide +kernel))⟩,
   ⟨_, h.2.2 (devP3 { st := .active, cwHist := List.replicate 8 (true, false) }) 3 5 [] true _ _ (by decide +kernel) rfl (.inr rfl) (by decide +kernel) rfl⟩,
   ⟨_, h.2.2 (devP3 { st := .config }) 3 5 [] false _ _ (by decide +kernel) rfl (.inl rfl) (by decide +kernel) rfl⟩⟩

theorem leBytes_length (n x : Nat) : (leBytes n x).length = n := by
  induction n generalizing x with
  | zero => rfl
  | succ n ih => simp [leBytes, ih]

theorem leNat_leBytes (n x : Nat) : leNat (leBytes n x) = x % 256 ^ n := by
  induction n generalizing x with
  | zero => simp [leBytes, leNat, Nat.mod_one]
  | succ n ih =>
    simp only [leBytes, leNat, ih, BitVec.toNat_ofNat]
    rw [Nat.pow_succ 256, Nat.mul_comm (256 ^ n), Nat.mod_mul]

theorem crcShiftsR_lt (p n c : Nat) (hp : p < 2 ^ 64) (h : c < 2 ^ 64) : crcShiftsR p n c < 2 ^ 64 := by
  induction n generalizing c with
  | zero => exact h
  | succ n ih =>
    unfold crcShiftsR
    refine ih _ ?_
    unfold crcShiftR
    have h1 : c >>> 1 < 2 ^ 64 := by rw [Nat.shiftRight_eq_div_pow]; omega
    split
    · exact Nat.xor_lt_two_pow h1 hp
    · exact h1

theorem crc64_lt (bs : List Byte) : crc64 bs < 2 ^ 64 := by
  unfold crc64
  refine Nat.xor_lt_two_pow ?_ (by decide)
  unfold crcLsb
  suffices h : ∀ c, c < 2 ^ 64 → bs.foldl (fun crc b => crcShiftsR 0xC96C5795D7870F42 8 (crc ^^^ b.toNat)) c < 2 ^ 64 from h _ (by decide)
  induction bs with
  | nil => exact fun c h => h
  | cons b t ih =>
    intro c h
    exact ih _ (crcShiftsR_lt _ _ _ (by decide) (Nat.xor_lt_two_pow h (Nat.lt_of_lt_of_le b.isLt (by decide))))

theorem slice_take (a b : List Byte) (n : Nat) (h : a.length = n) : slice (a ++ b) 0 n = a := by
  subst h; simp [slice]

theorem slice_drop (a b : List Byte) (k n : Nat) (h : a.length = k) (g : b.length = n) : slice (a ++ b) k n = b := by
  subst h; subst g; simp [slice]

theorem mkFlit_crc (a b c d e f g h : Nat) (p : List Byte) :
    num (mkFlit a b c d e f g h p) 248 8 = crc64 (slice (mkFlit a b c d e f g h p) 0 248) := by
  have hl : (slice p 0 240).length = 240 := by unfold slice; simp
  unfold mkFlit
  dsimp only
  rw [slice_take _ _ 248 (by simp only [List.length_append, leBytes_length, hl])]
  unfold num
  rw [slice_drop _ _ 248 8 (by simp only [List.length_append, leBytes_length, hl]) (leBytes_length _ _), leNat_leBytes]
  exact Nat.mod_eq_of_lt (crc64_lt _)

/-- A flit whose CRC is one too large. -/
def badFlit : List Byte := zeros 248 ++ leBytes 8 (crc64 (zeros 248) + 1)
theorem bad_crc (z : List Byte) (hz : z.length = 248) :
    num (z ++ leBytes 8 (crc64 z + 1)) 248 8 ≠ crc64 (slice (z ++ leBytes 8 (crc64 z + 1)) 0 248) := by
  have h := crc64_lt z
  unfold num
  rw [slice_take _ _ 248 hz, slice_drop _ _ 248 8 hz (leBytes_length _ _), leNat_leBytes]
  generalize crc64 z = c at h ⊢
  omega

def flit (ty : Nat) (pay : List Byte) : List Byte := mkFlit ty 0 0 4095 0 0 0 0 pay

theorem witness_FlitsReceived (h : Obligations.FlitsReceived) :
    Runs (.flitReceive 3 (flit 1 (zeros 240)) false) (devPort .active) ∧ Runs (.flitReceive 3 (flit 1 (zeros 240)) true) (devPort .active) ∧
    Runs (.flitReceive 3 badFlit false) (devPort .active) ∧ Runs (.flitReceive 3 (flit 1 (zeros 240)) false) (devP3 { st := .active, spoilt := [0] }) ∧
    Runs (.creditRelease 3 7) (devP3 { st := .active, heldBuf := List.replicate 8 1 }) :=
  ⟨⟨_, h.1 (devPort .active) _ _ 3 (flit 1 (zeros 240)) _ (by decide +kernel) rfl rfl (mkFlit_crc ..) (by decide +kernel) (by decide +kernel) rfl rfl (by decide +kernel) (by decide +kernel)⟩,
   ⟨_, h.2.1 (devPort .active) _ 3 _ true _ (by decide +kernel) rfl rfl rfl (.inl rfl)⟩,
   ⟨_, h.2.1 (devPort .active) _ 3 badFlit false _ (by decide +kernel) rfl rfl rfl (.inr (.inl (bad_crc (zeros 248) List.length_replicate)))⟩,
   ⟨_, h.2.1 (devP3 { st := .active, spoilt := [0] }) _ 3 _ false _ (by decide +kernel) rfl rfl rfl (.inr (.inr (by decide +kernel)))⟩,
   ⟨_, h.2.2 (devP3 { st := .active, heldBuf := List.replicate 8 1 }) 3 7 0 (by decide +kernel) (by decide +kernel) (by decide +kernel) (by decide +kernel)⟩⟩

def msg (ty : Nat) : List Byte := leBytes 1 ty ++ [1#8] ++ zeros 238

theorem witness_MessagesActedOn (h : Obligations.MessagesActedOn) :
    Runs (.retrain 3 (flit 2 (msg 2)) false) (devPort .active) ∧ Runs (.down 3 (flit 2 (msg 3)) false) (devPort .active) ∧
    Runs (.echoReq 3 (flit 2 (msg 4)) false) (devPort .active) ∧ Runs (.echoRsp 3 (flit 2 (msg 5)) false) (devPort .active) ∧
    Runs (.config 3 (flit 2 (leBytes 1 1 ++ [2#8] ++ zeros 238)) false) (devPort .config) ∧ Runs (.config 3 (flit 2 (msg 1)) false) (devPort .config) := by
  have m (f : List Byte) (hc hm) (hs : ((devPort .active).setPort 3 ((devPort .active).port 3).nextFlit.1 |>.fieldsIn 3 f |>.port 3).st = .active) hx :=
    h.1 (devPort .active) _ _ 3 f _ (by decide +kernel) rfl rfl hc hm (by decide +kernel) rfl hs hx rfl
  have c (f : List Byte) (hc hm ht) := h.2 (devPort .config) _ 3 f _ (by decide +kernel) rfl rfl hc hm ht (by decide +kernel) rfl
  exact ⟨⟨_, (m (flit 2 (msg 2)) (mkFlit_crc ..) (by decide +kernel) (by decide +kernel) (by decide +kernel)).1 (by decide +kernel)⟩,
   ⟨_, (m (flit 2 (msg 3)) (mkFlit_crc ..) (by decide +kernel) (by decide +kernel) (by decide +kernel)).2.1 (by decide +kernel)⟩,
   ⟨_, (m (flit 2 (msg 4)) (mkFlit_crc ..) (by decide +kernel) (by decide +kernel) (by decide +kernel)).2.2.1 (by decide +kernel)⟩,
   ⟨_, (m (flit 2 (msg 5)) (mkFlit_crc ..) (by decide +kernel) (by decide +kernel) (by decide +kernel)).2.2.2 (by decide +kernel)⟩,
   ⟨_, (c (flit 2 (leBytes 1 1 ++ [2#8] ++ zeros 238)) (mkFlit_crc ..) (by decide +kernel) (by decide +kernel)).1 (by decide +kernel)⟩,
   ⟨_, (c (flit 2 (msg 1)) (mkFlit_crc ..) (by decide +kernel) (by decide +kernel)).2 (by decide +kernel)⟩⟩

def bufP : Port := { st := .active, buf := [(0, flit 1 (zeros 240))] }

theorem witness_FlitsSent (h : Obligations.FlitsSent) :
    Runs (.flitTransmit 3) (devP3 { bufP with replayAt := some 0 }) ∧ Runs (.flitTransmit 3) (devP3 { st := .active, ctrl := [msg 4] }) ∧
    Runs (.flitTransmit 3) (devP3 { st := .active, tx := [(7, zeros 32)], init := List.replicate 8 4 }) ∧ Runs (.idleFlitTimer 3) (devPort .active) ∧
    Runs (.replayTimeout 3) (devP3 bufP) ∧ Runs (.recoveryTimeout 3) (devP3 { st := .active, recovering := true }) ∧
    Runs (.flitTransmit 3) (devPort .config) :=
  ⟨⟨_, (h.1 (devP3 { bufP with replayAt := some 0 }) 3 _ (by decide +kernel) rfl rfl).1 0 _ rfl rfl⟩,
   ⟨_, (h.1 (devP3 { st := .active, ctrl := [msg 4] }) 3 _ (by decide +kernel) rfl rfl).2.1 _ _ rfl (by decide +kernel) rfl⟩,
   ⟨_, (h.1 (devP3 { st := .active, tx := [(7, zeros 32)], init := List.replicate 8 4 }) 3 _ (by decide +kernel) rfl rfl).2.2.1 7 rfl (by decide +kernel) rfl rfl (by decide +kernel)⟩,
   ⟨_, (h.1 (devPort .active) 3 _ (by decide +kernel) rfl rfl).2.2.2.1⟩, ⟨_, (h.1 (devP3 bufP) 3 _ (by decide +kernel) rfl rfl).2.2.2.2.1 _ _ rfl⟩,
   ⟨_, (h.1 (devP3 { st := .active, recovering := true }) 3 _ (by decide +kernel) rfl rfl).2.2.2.2.2 rfl⟩, ⟨_, h.2 _ 3 (by decide +kernel) rfl⟩⟩

theorem witness_LanesWatched (h : Obligations.LanesWatched) :
    Runs (.lsymWindowEnd 3 7) (devPort .active) ∧ Runs (.laneLockLoss 3 7) (devP3 { st := .active, lanes := List.replicate 8 { locked := true } }) ∧
    Runs (.disableDrainTimeout 3) (devP3 { st := .active, draining := true }) ∧ Runs (.disableDrainTimeout 3) (devP3 { bufP with draining := true }) :=
  ⟨⟨_, h.1 (devPort .active) _ 3 7 _ (by decide +kernel) (by decide +kernel) rfl rfl⟩, ⟨_, h.2.1 (devP3 { st := .active, lanes := List.replicate 8 { locked := true } }) 3 7 _ (by decide +kernel) (by decide +kernel) rfl (.inl rfl) (by decide +kernel)⟩,
   ⟨_, (h.2.2 (devP3 { st := .active, draining := true }) 3 (by decide +kernel) rfl).1 rfl⟩, ⟨_, (h.2.2 (devP3 { bufP with draining := true }) 3 (by decide +kernel) rfl).2 (by decide +kernel)⟩⟩

/-! ### Fabric -/

/-- A packet of job 1 for this module (device 5). -/
def pkt (ty len off fl : Nat) (pay : List Byte) (dig : Nat := 0) : List Byte :=
  mkPacket (packetHead ty 0 0 5 7 1 len 0 575 63 1023 off 9 fl 0 0 dig) pay
/-- Packet `p` has come over the mesh; window 9 is open. -/
def devPk (p : List Byte) : State := { devW with chip.orig := [p] }
def putP : List Byte := pkt 1 16 4080 0 (zeros 16)
def getP (off : Nat) : List Byte := pkt 2 0 off 0 [] 1024
/-- A PUT with a header whose check code is wrong. -/
def badP : List Byte := pkt 1 16 0 16 (zeros 15 ++ [1#8])
/-- Two flipped bits in the sector that `getP 3072` reads first. -/
def devPe : State := { devPk (getP 3072) with dramErr := [((0x100000 + 3072) / 32, 3)] }

theorem witness_RemoteMemoryAnswered (h : Obligations.RemoteMemoryAnswered) :
    Runs (.put 16 0) (devPk putP) ∧ Runs (.put 16 0) (devPk badP) ∧ Runs (.put 16 0) (devPk (pkt 1 16 4096 0 (zeros 16))) ∧
    Runs (.getReq 16 0) (devPk (getP 3072)) ∧ Runs (.getReq 16 0) devPe ∧ Runs (.getReq 16 0) (devPk (getP 3088)) ∧
    Runs (.putAck 16 2) (devPk (pkt 3 0 0 0 [])) ∧ Runs (.getRsp 16 2) (devPk (pkt 4 16 0 0 (zeros 16))) ∧
    Runs (.nack 16 2) (devPk (pkt 5 0 0 1 [])) ∧ Runs (.nack 16 2) (devPk (pkt 5 0 0 6 [])) :=
  let c : Context := { ctx0 .active with segs := [(0, seg0 false)] }
  ⟨⟨_, (h.1 (devPk putP) _ 16 0 putP win0 c (by decide +kernel) rfl (by decide +kernel)).1 _ (by decide +kernel) (by decide +kernel) rfl⟩,
   ⟨_, (h.1 (devPk badP) _ 16 0 badP win0 c (by decide +kernel) rfl (by decide +kernel)).2.1 (by decide +kernel) (by decide +kernel)⟩,
   ⟨_, (h.1 (devPk (pkt 1 16 4096 0 (zeros 16))) _ 16 0 (pkt 1 16 4096 0 (zeros 16)) win0 c (by decide +kernel) rfl (by decide +kernel)).2.2.1 3 (by decide +kernel) (by decide +kernel) (by decide +kernel)⟩,
   ⟨_, (h.1 (devPk (getP 3072)) _ 16 0 (getP 3072) win0 c (by decide +kernel) rfl (by decide +kernel)).2.2.2.1 (by decide +kernel) (by decide +kernel) (by decide +kernel)⟩,
   ⟨_, (h.1 devPe _ 16 0 (getP 3072) win0 c (by decide +kernel) rfl (by decide +kernel)).2.2.2.2.1 (by decide +kernel) (by decide +kernel) (by decide +kernel)⟩,
   ⟨_, (h.1 (devPk (getP 3088)) _ 16 0 (getP 3088) win0 c (by decide +kernel) rfl (by decide +kernel)).2.2.2.2.2 3 (by decide +kernel) (by decide +kernel)⟩,
   ⟨_, (h.2 (devPk (pkt 3 0 0 0 [])) _ 16 2 (pkt 3 0 0 0 []) (by decide +kernel) rfl (by decide +kernel)).1 (by decide +kernel)⟩,
   ⟨_, (h.2 (devPk (pkt 4 16 0 0 (zeros 16))) _ 16 2 (pkt 4 16 0 0 (zeros 16)) (by decide +kernel) rfl (by decide +kernel)).2.1 (by decide +kernel)⟩,
   ⟨_, (h.2 (devPk (pkt 5 0 0 1 [])) _ 16 2 (pkt 5 0 0 1 []) (by decide +kernel) rfl (by decide +kernel)).2.2.1 (by decide +kernel) (by decide +kernel)⟩,
   ⟨_, (h.2 (devPk (pkt 5 0 0 6 [])) _ 16 2 (pkt 5 0 0 6 []) (by decide +kernel) rfl (by decide +kernel)).2.2.2 (by decide +kernel) (by decide +kernel)⟩⟩

def coll0 : Coll := { part := 0, job := 1, desc := barD }
/-- A REDSCAT of one tile of four FP32 elements. -/
def redD : List Byte := leBytes 2 0 ++ leBytes 2 1 ++ zeros 10 ++ leBytes 1 9 ++ [0#8] ++ leBytes 4 1 ++ leBytes 4 1 ++ leBytes 4 32 ++ leBytes 4 4 ++ zeros 20
def coll1 : Coll := { part := 0, job := 1, desc := redD }
def devCp (x : Coll) (p : List Byte) : State := { devJ with chip.colls := [(memberKey 0 1 * 65536, x)], chip.orig := [p] }
def cpk (d : List Byte) (ty len : Nat) : List Byte := pkt ty len 0 0 (zeros len) (ddig d)

theorem witness_CollectivePackets (h : Obligations.CollectivePackets) :
    Runs (.red 16 4) (devCp coll1 (cpk redD 6 16)) ∧ Runs (.dlv 16 4) (devCp coll1 (cpk redD 7 16)) ∧ Runs (.rep 16 4) (devCp coll1 (cpk redD 8 16)) ∧
    Runs (.red 16 4) (devCp coll1 (cpk redD 6 32)) ∧ Runs (.dlv 16 4) (devCp coll1 (cpk redD 7 32)) ∧ Runs (.rep 16 4) (devCp coll1 (cpk redD 8 32)) ∧
    Runs (.bar 16 4) (devCp coll0 (cpk barD 9 0)) ∧ Runs (.barRel 16 4) (devCp coll0 (cpk barD 10 0)) ∧ Runs (.collectiveTimeout 0 1 0) devK :=
  have a (ty len : Nat) := fun d f g => h.1 (devCp coll1 (cpk redD ty len)) _ 16 4 (cpk redD ty len) coll1 mem0 d rfl f g
  have b (ty : Nat) := fun d f g => h.1 (devCp coll0 (cpk barD ty 0)) _ 16 4 (cpk barD ty 0) coll0 mem0 d rfl f g
  ⟨⟨_, (a 6 16 (by decide +kernel) (by decide +kernel) (by decide +kernel)).1 (by decide +kernel) (by decide +kernel) (by decide +kernel)⟩,
   ⟨_, (a 7 16 (by decide +kernel) (by decide +kernel) (by decide +kernel)).2.1 (by decide +kernel) (by decide +kernel)⟩,
   ⟨_, (a 8 16 (by decide +kernel) (by decide +kernel) (by decide +kernel)).2.2.1 (by decide +kernel) (by decide +kernel)⟩,
   ⟨_, ((a 6 32 (by decide +kernel) (by decide +kernel) (by decide +kernel)).2.2.2.1 (by decide +kernel)).1 (by decide +kernel) (by decide +kernel)⟩,
   ⟨_, ((a 7 32 (by decide +kernel) (by decide +kernel) (by decide +kernel)).2.2.2.1 (by decide +kernel)).2.1 (by decide +kernel)⟩,
   ⟨_, ((a 8 32 (by decide +kernel) (by decide +kernel) (by decide +kernel)).2.2.2.1 (by decide +kernel)).2.2 (by decide +kernel)⟩,
   ⟨_, (b 9 (by decide +kernel) (by decide +kernel) (by decide +kernel)).2.2.2.2.1 (by decide +kernel)⟩,
   ⟨_, (b 10 (by decide +kernel) (by decide +kernel) (by decide +kernel)).2.2.2.2.2 (by decide +kernel)⟩, ⟨_, h.2 devK 0 1 0 coll0 rfl⟩⟩

/-- A packet for device 6, whose route leaves by port 3; `hops` hops so far. -/
def tpk (hops : Nat) : List Byte := mkPacket (packetHead 3 0 hops 6 7 1 0 0 0 0 0 0 0 0 0 0 0) []
def devRt (p : List Byte) : State := { devW with
  chip.ports := [(2, { st := .active, rx := [(2, p)] }), (3, { st := .active, outq := [(2, [(2, p)])] })]
  chip.routes := [(6, leBytes 2 8 ++ zeros 6)]
  chip.orig := [p] }

/-- `devRt` without a route. -/
def devLost (p : List Byte) : State := { devRt p with chip.routes := [] }

theorem witness_PacketsRouted (h : Obligations.PacketsRouted) :
    Runs (.packetForward 2 2) (devRt (tpk 30)) ∧ Runs (.packetForward 2 2) (devRt (tpk 31)) ∧ Runs (.packetForward 16 2) (devRt (tpk 0)) ∧
    Runs (.packetForward 2 2) (devLost (tpk 30)) ∧ Runs (.packetForward 16 2) (devLost (tpk 0)) ∧
    Runs (.packetQueueTimeout 3 2) (devRt (tpk 0)) :=
  ⟨⟨_, (h.1 (devRt (tpk 30)) _ 2 2 3 0 (tpk 30) (by decide +kernel) (by decide +kernel) (by decide +kernel) rfl (by decide +kernel)).1 (by decide +kernel)⟩,
   ⟨_, (h.1 (devRt (tpk 31)) _ 2 2 3 0 (tpk 31) (by decide +kernel) (by decide +kernel) (by decide +kernel) rfl (by decide +kernel)).2 (by decide +kernel)⟩,
   ⟨_, h.2.1 (devRt (tpk 0)) _ 16 2 3 0 (tpk 0) (by decide +kernel) (by decide +kernel) rfl (by decide +kernel)⟩,
   ⟨_, (h.2.2.1 (devLost (tpk 30)) _ 2 2 (tpk 30)).1 (by decide +kernel) (by decide +kernel) (by decide +kernel) rfl (by decide +kernel)⟩,
   ⟨_, (h.2.2.1 (devLost (tpk 0)) _ 16 2 (tpk 0)).2 (by decide +kernel) (by decide +kernel) rfl (by decide +kernel)⟩,
   ⟨_, h.2.2.2 (devRt (tpk 0)) 3 2 2 (tpk 0) [] (by decide +kernel) (by decide +kernel)⟩⟩

/-! ### Trees -/

/-- The tree of job 1 on device 5: one child, device 7. -/
def tree0 : Tree :=
  { fan := 2, vtmo := 1, dectmo := 1, rstmo := 1, skipovf := false, elig := [], tdig := 77, parent := none, children := [(7, 0)], root := (5, 0) }
def low (t : Tree) : Tree := { t with parent := some (9, 0), root := (9, 0) }
def formed : Tree := { tree0 with formed := true }
def rst : Tree := { formed with restarting := true, attempt := 3 }
/-- A job-control message of device 7 with SEQ `seq` and digest `tdig`. -/
def jmsg (ty seq tdig : Nat) : List Byte := pkt ty 32 0 0 (({ ncount := 1 } : JobMsg).body tdig seq)
def devTr (t : Tree) : State := { devJ with chip.trees := [(1, t)] }
def devTm (t : Tree) (p : List Byte) : State := { devTr t with chip.orig := [p] }
def devVt (t : Tree) : State := { devTr t with
  chip.members := [(memberKey 0 1, { mem0 with sets := [0, 1] })]
  chip.sets := [(0, { st := .staged }), (1, { st := .staging })] }

theorem witness_TreesFormAndDecide (h : Obligations.TreesFormAndDecide) :
    Runs (.hello 16 6) { devJ with chip.orig := [jmsg 0x10 0 77] } ∧ Runs (.hello 16 6) (devTm tree0 (jmsg 0x10 0 77)) ∧
    Runs (.hello 16 6) (devTm tree0 (jmsg 0x10 0 78)) ∧ Runs (.treeOk 16 6) (devTm (low tree0) (jmsg 0x11 0 77)) ∧
    Runs (.vote 16 6) (devTm formed (jmsg 0x12 0 77)) ∧ Runs (.decide 16 6) (devTm (low formed) (jmsg 0x13 0 77)) ∧
    Runs (.treeFormTimeout 1) (devTr tree0) ∧ Runs (.voteTimeout 1 0) (devVt formed) ∧
    Runs (.voteTimeout 1 8) (devTr { formed with votes := [(7, {})] }) ∧ Runs (.decisionTimeout 1) (devTr { low formed with voted := true }) :=
  ⟨⟨_, (h.1 { devJ with chip.orig := [jmsg 0x10 0 77] } _ 16 6 (jmsg 0x10 0 77) (by decide +kernel) rfl (by decide +kernel)).1 (by decide +kernel)⟩,
   ⟨_, (h.1 (devTm tree0 (jmsg 0x10 0 77)) _ 16 6 (jmsg 0x10 0 77) (by decide +kernel) rfl (by decide +kernel)).2 tree0 _ (by decide +kernel) rfl rfl (by decide +kernel) rfl⟩,
   ⟨_, (h.1 (devTm tree0 (jmsg 0x10 0 78)) _ 16 6 (jmsg 0x10 0 78) (by decide +kernel) rfl (by decide +kernel)).2 tree0 _ (by decide +kernel) rfl rfl (by decide +kernel) rfl⟩,
   ⟨_, (h.2.1 (devTm (low tree0) (jmsg 0x11 0 77)) _ 16 6 (jmsg 0x11 0 77) (low tree0) rfl (by decide +kernel) rfl (by decide +kernel) (by decide +kernel)).1 (by decide +kernel) rfl (by decide +kernel)⟩,
   ⟨_, (h.2.1 (devTm formed (jmsg 0x12 0 77)) _ 16 6 (jmsg 0x12 0 77) formed rfl (by decide +kernel) rfl (by decide +kernel) (by decide +kernel)).2.1 (by decide +kernel) (by decide +kernel) rfl rfl (by decide +kernel)⟩,
   ⟨_, (h.2.1 (devTm (low formed) (jmsg 0x13 0 77)) _ 16 6 (jmsg 0x13 0 77) (low formed) rfl (by decide +kernel) rfl (by decide +kernel) (by decide +kernel)).2.2 (by decide +kernel) (by decide +kernel) rfl (by decide +kernel)⟩,
   ⟨_, h.2.2.1 (devTr tree0) 1 tree0 rfl rfl rfl⟩,
   (by refine ⟨_, (h.2.2.2.1 (devVt formed) 1 0 formed rfl rfl rfl rfl rfl).1 { mem0 with sets := [0, 1] } ?_ ?_ ?_ ?_ ?_ ?_⟩ <;> decide +kernel),
   ⟨_, (h.2.2.2.1 (devTr { formed with votes := [(7, {})] }) 1 8 _ rfl rfl rfl rfl rfl).2 (by decide +kernel) (by decide +kernel)⟩,
   ⟨_, h.2.2.2.2 (devTr { low formed with voted := true }) 1 _ rfl rfl rfl rfl rfl (by decide +kernel)⟩⟩

theorem witness_JobsRestart (h : Obligations.JobsRestart) :
    Runs (.fault 16 6) (devTm rst (jmsg 0x14 3 77)) ∧ Runs (.restart 16 6) (devTm (low rst) (jmsg 0x15 4 77)) ∧
    Runs (.stateRpt 16 6) (devTm rst (jmsg 0x16 3 77)) ∧ Runs (.resume 16 6) (devTm (low rst) (jmsg 0x17 3 77)) ∧
    Runs (.restartStopComplete 1) { devTr { rst with stopped := true } with chip.ctxs := [(0, ctx0 .stopped)] } ∧
    Runs (.restartStopTimeout 1) (devTr rst) ∧
    Runs (.restartHoldEnd 1) (devTr { rst with reported := true }) ∧ Runs (.stateReportTimeout 1) (devTr rst) ∧
    Runs (.restartTimeout 1) (devTr (low rst)) :=
  ⟨⟨_, (h.1 (devTm rst (jmsg 0x14 3 77)) _ 16 6 (jmsg 0x14 3 77) rst rfl (by decide +kernel) rfl (by decide +kernel) (by decide +kernel)).1 (by decide +kernel) (by decide +kernel) rfl rfl⟩,
   ⟨_, (h.1 (devTm (low rst) (jmsg 0x15 4 77)) _ 16 6 (jmsg 0x15 4 77) (low rst) rfl (by decide +kernel) rfl (by decide +kernel) (by decide +kernel)).2.1 (by decide +kernel) rfl (by decide +kernel) (by decide +kernel)⟩,
   ⟨_, (h.1 (devTm rst (jmsg 0x16 3 77)) _ 16 6 (jmsg 0x16 3 77) rst rfl (by decide +kernel) rfl (by decide +kernel) (by decide +kernel)).2.2.1 (by decide +kernel) (by decide +kernel) rfl rfl (by decide +kernel)⟩,
   ⟨_, (h.1 (devTm (low rst) (jmsg 0x17 3 77)) _ 16 6 (jmsg 0x17 3 77) (low rst) rfl (by decide +kernel) rfl (by decide +kernel) (by decide +kernel)).2.2.2 (by decide +kernel) (by decide +kernel) rfl (by decide +kernel)⟩,
   ⟨_, (h.2.1 { devTr { rst with stopped := true } with chip.ctxs := [(0, ctx0 .stopped)] } 1 { rst with stopped := true } rfl rfl rfl rfl).1 rfl (by decide +kernel)⟩,
   ⟨_, (h.2.1 (devTr rst) 1 rst rfl rfl rfl rfl).2⟩,
   ⟨_, (h.2.2.1 (devTr { rst with reported := true }) 1 { rst with reported := true } rfl rfl rfl rfl).1 (by decide +kernel)⟩,
   ⟨_, (h.2.2.1 (devTr rst) 1 rst rfl rfl rfl rfl).2 (by decide +kernel)⟩, ⟨_, h.2.2.2 (devTr (low rst)) 1 _ rfl rfl rfl (by decide +kernel)⟩⟩

/-! ### Timers -/

/-- Waits for counter 1 to reach 1. -/
def waitT : Task := { ctx := 0, desc := [0#8, 2#8] ++ zeros 10 ++ [0x81#8, 0#8, 0#8, 0#8] ++ leBytes 4 1 ++ zeros 236 }
def devStop (t : List Task) : State :=
  { devC (ctx0 .stopping) with chip.cores := [(0, { queue := t })], chip.hif.running := [going (.stop 0)] }
def deadC : State := { devC (ctx0 .dead) with chip.clients := [(0, { running := 1 })], chip.hif.running := [going (.teardown 0)] }

theorem witness_ContextTimers (h : Obligations.ContextTimersAndCompletions) :
    Runs (.dependencyTimeout 0 0 1 0) (devT waitT) ∧ Runs (.preemptionDeadline 0) (devStop [nopR]) ∧ Runs (.contextStopped 0) (devStop []) ∧
    Runs (.stopTimeout 0) (devStop [nopR]) ∧ Runs (.teardownComplete 0) deadC :=
  ⟨⟨_, h.1.1 (devT waitT) 0 0 1 0 1 1#32 (ctx0 .active) (by decide +kernel) (by decide +kernel) rfl rfl (by decide +kernel)⟩, ⟨_, (h.1.2.1 (devStop [nopR]) 0 rfl).1⟩,
   ⟨_, (h.1.2.1 (devStop []) 0 rfl).2.1 (by decide +kernel)⟩, ⟨_, (h.1.2.1 (devStop [nopR]) 0 rfl).2.2 0 0 (by decide +kernel)⟩, ⟨_, h.1.2.2 deadC 0 _ rfl rfl⟩⟩

def devWait (w : Await) : State := { devG with chip.hif.running := [going w] }
def devOut (n : Nat) : State := { devWait (.load 0 0 none none) with
  chip.nmus := [(0, { groups := [(0, { desc := gdesc, v0 := { st := .current, count := n } })] })] }

theorem witness_WaitingCommandsComplete (h : Obligations.ContextTimersAndCompletions) :
    Runs (.zeroingComplete 7) (devWait (.newSeg 0 9 segN)) ∧ Runs (.zeroingComplete 7) (devWait (.newLayout 0x81)) ∧
    Runs (.zeroingComplete 7) (devWait (.zeroise 2)) ∧ Runs (.regenerationComplete 0 0) (devOut 0) ∧ Runs (.regenerationTimeout 0 0) (devOut 1) :=
  ⟨⟨_, (h.2.1 (devWait (.newSeg 0 9 segN)) 7 _ rfl).1 0 9 segN rfl⟩, ⟨_, (h.2.1 (devWait (.newLayout 0x81)) 7 _ rfl).2.1 _ rfl⟩,
   ⟨_, (h.2.1 (devWait (.zeroise 2)) 7 _ rfl).2.2 2 rfl⟩,
   ⟨_, (h.2.2 (devOut 0) 0 0 { desc := gdesc, v0 := { st := .current, count := 0 } } rfl (by decide +kernel)).1 rfl⟩,
   ⟨_, (h.2.2 (devOut 1) 0 0 { desc := gdesc, v0 := { st := .current, count := 1 } } rfl (by decide +kernel)).2 (by decide +kernel)⟩⟩

/-! ### Host -/

/-- The mailbox of function 0 is off. -/
def devOff : State := { dev with chip.hif.fns := [(0, { bme := true, msix := [(7, 1#32)], pending := [1] })] }
def devSb : State := dev

theorem witness_HostRegisterWrites (h : Obligations.HostRegisterWrites) :
    Runs (.registerWrite 0 0x10 0x7F true) dev ∧ Runs (.registerWrite 0 0x14 0 true) dev ∧ Runs (.registerWrite 0 0x24 0xFFFFFFFF true) devOff ∧
    Runs (.registerWrite 0 (0x8000 + 4 * 8) 5 true) dev ∧ Runs (.registerWrite 9 0x14 0x1F true) dev ∧ Runs (.msixVectorUnmask 0 1) devOff ∧
    Runs (.unmappedRegisterAccess 0 12 4 true) dev ∧ Runs (.unmappedRegisterAccess 0 0 2 false) dev ∧ Runs (.mailboxEnable 0 12) devOff ∧
    Runs (.mailboxEnable 0 13) devOff ∧ Runs (.mailboxEnable 0 3) devOff ∧ Runs (.mailboxDisable 0 5) dev :=
  ⟨⟨_, (h.1 dev 0 0x7F true rfl (by decide +kernel) (by decide +kernel)).1⟩, ⟨_, (h.1 dev 0 0 true rfl (by decide +kernel) (by decide +kernel)).2.1⟩, ⟨_, ((h.1 devOff 0 0xFFFFFFFF true rfl (by decide +kernel) (by decide +kernel)).2.2.1 rfl _ rfl).1⟩,
   ⟨_, (h.1 dev 0 5 true rfl (by decide +kernel) (by decide +kernel)).2.2.2 8 (by decide +kernel) (by decide +kernel)⟩, ⟨_, h.2.1 dev 0x14 0x1F 0x1F rfl (by decide +kernel)⟩, ⟨_, h.2.2.1 devOff _ 0 1 rfl (by decide +kernel) rfl⟩,
   ⟨_, (h.2.2.2.1 dev 0 12 4 rfl (by decide +kernel) (.inl (by decide +kernel))).1⟩, ⟨_, (h.2.2.2.1 dev 0 0 2 rfl (by decide +kernel) (.inr (by decide +kernel))).2⟩,
   ⟨_, (h.2.2.2.2.1 devOff 0 12 rfl rfl).1 (by decide +kernel)⟩, ⟨_, (h.2.2.2.2.1 devOff 0 13 rfl rfl).2 (.inr (by decide +kernel)) (by decide +kernel)⟩,
   ⟨_, (h.2.2.2.2.1 devOff 0 3 rfl rfl).2 (.inl (by decide +kernel)) (by decide +kernel)⟩, ⟨_, h.2.2.2.2.2 dev 0 5 rfl⟩⟩

def cpl1 : CplRing := { cpl0 with prod := 3, since := 2 }
def devBell : State := { devC (ctx0 .active) with chip.hif.fns := [(0, { fn0 with sub := [(0, ring0)], cpl := [(0, cpl1)] })] }

theorem witness_DoorbellsRing (h : Obligations.DoorbellsRing) :
    Runs (.mailboxDoorbell 0 16) dev ∧ Runs (.mailboxDoorbell 0 17) dev ∧ Runs (.mailboxResponseDoorbell 0 0) dev ∧
    Runs (.mailboxDoorbell 0 1) devOff ∧ Runs (.mailboxResponseDoorbell 0 1) devOff ∧ Runs (.submissionDoorbell 0 0 16) devBell ∧
    Runs (.submissionDoorbell 0 0 17) devBell ∧ Runs (.completionDoorbell 0 0 3) devBell ∧ Runs (.completionInterruptTimer 0 0) devBell ∧
    Runs (.submissionDoorbell 0 63 0) devBell ∧ Runs (.completionDoorbell 0 15 0) devBell :=
  ⟨⟨_, (h.1 dev 0 16 _ rfl rfl rfl).1 (by decide +kernel)⟩, ⟨_, (h.1 dev 0 17 _ rfl rfl rfl).2.1 (by decide +kernel)⟩, ⟨_, (h.1 dev 0 0 _ rfl rfl rfl).2.2 (by decide +kernel)⟩,
   ⟨_, (h.2.1 devOff 0 1 rfl rfl).1⟩, ⟨_, (h.2.1 devOff 0 1 rfl rfl).2⟩, ⟨_, (h.2.2.1 devBell 0 0 16 ring0 rfl rfl).1 (by decide +kernel)⟩,
   ⟨_, (h.2.2.1 devBell 0 0 17 ring0 rfl rfl).2 (by decide +kernel)⟩, ⟨_, (h.2.2.2.1 devBell 0 0 3 cpl1 rfl rfl).1 (by decide +kernel)⟩,
   ⟨_, (h.2.2.2.1 devBell 0 0 3 cpl1 rfl rfl).2 (by decide +kernel)⟩, ⟨_, (h.2.2.2.2 devBell 0 63 0 rfl).1 rfl⟩, ⟨_, (h.2.2.2.2 devBell 0 15 0 rfl).2 rfl⟩⟩

def devBoot (ready drs : Bool) : State := { dev with chip.boot := .init, chip.hif.configReady := ready, chip.hif.drs := drs }
def devVf : State := { dev with chip.hif.vfEnable := true, chip.hif.numVFs := 8 }

def devVfBoot : State := { devVf with chip.boot := .init, chip.hif.configReady := true, chip.hif.drs := true }

theorem witness_ConfigurationAndResets (h : Obligations.ConfigurationAndResets) :
    Runs .configImageLoaded (devBoot false false) ∧ Runs (.configRequest 8 0 false) (devBoot false false) ∧
    Runs (.configRequest 0 0 false) (devBoot true true) ∧ Runs (.configRequest 1 0 false) devVfBoot ∧
    Runs (.configRequest 8 0x3C false) devVfBoot ∧ Runs (.configRequest 0 4 true) (devBoot true false) ∧ Runs (.vfEnableSet 8) dev ∧
    Runs .vfEnableClear devVf ∧ Runs (.vfFlr 8) devVf ∧ Runs .pfFlr devVf ∧ Runs .pcieHotReset dev ∧ Runs .pcieLinkDown dev :=
  ⟨⟨_, h.1 (devBoot false false) rfl⟩, ⟨_, (h.2.1 (devBoot false false) 8 0 false (by decide +kernel) (by decide +kernel) (by decide +kernel) (by decide +kernel)).1 rfl⟩,
   ⟨_, ((h.2.1 (devBoot true true) 0 0 false (by decide +kernel) (by decide +kernel) (by decide +kernel) (by decide +kernel)).2.1 rfl rfl).1⟩, ⟨_, ((h.2.1 devVfBoot 0 0 false (by decide +kernel) (by decide +kernel) (by decide +kernel) (by decide +kernel)).2.1 rfl rfl).2.1 rfl⟩,
   ⟨_, (((h.2.1 devVfBoot 8 0 false (by decide +kernel) (by decide +kernel) (by decide +kernel) (by decide +kernel)).2.1 rfl rfl).2.2 (.inr rfl)).2.2⟩, ⟨_, (h.2.1 (devBoot true false) 0 4 true (by decide +kernel) (by decide +kernel) (by decide +kernel) (by decide +kernel)).2.2 rfl (.inl rfl) rfl⟩,
   ⟨_, h.2.2.1 dev 8 rfl rfl (by decide +kernel) (by decide +kernel)⟩, ⟨_, h.2.2.2.1 devVf rfl rfl⟩, ⟨_, h.2.2.2.2.1 devVf 8 rfl (by decide +kernel) (by decide +kernel)⟩, ⟨_, (h.2.2.2.2.2 devVf rfl).1⟩,
   ⟨_, (h.2.2.2.2.2 dev rfl).2.1⟩, ⟨_, (h.2.2.2.2.2 dev rfl).2.2⟩⟩

def hcArg : List Byte := copyDesc 0
def hcRun : Running := { going (.hostCopy 0 0 0 16 hcArg) with opc := 0x030A }
def devHc (bme : Bool) : State := { devS with
  chip.hif.running := [hcRun]
  chip.hif.fns := [(0, { fn0 with bme := bme, mb.reading := true, sub := [(5, { ring0 with reading := true })] })] }

def fetched0 : Fetched := { seq := 9, ctag := 5, opc := 0x0100, fence := false, xwait := true }
/-- A command of the mailbox waits for its argument. -/
def devFx : State := { devS with chip.hif.fns := [(0, { fn0 with mb.fetched := [fetched0] })] }
/-- `devHc` in confidential mode, with a command that waits for its argument. -/
def devCf : State := { devHc true with
  chip.hif.fns := [(0, { fn0 with
    mb.reading := true, mb.fetched := [fetched0], sub := [(5, { ring0 with reading := true })], conf := some { session := 1 } })] }

theorem witness_ReadsComplete (h : Obligations.ReadsComplete) :
    Runs (.busMasterEnableClear 0) dev ∧ Runs (.busMasterEnableSet 0) dev ∧ Runs (.hostCopyBmeTimeout 0 7) (devHc false) ∧
    Runs (.hostReadCompletion 0 0 0 (zeros 256) true) (devHc true) ∧ Runs (.hostReadCompletion 0 2 5 [] true) devFx ∧
    Runs (.hostReadCompletion 0 1 5 (zeros 272) true) (devHc true) ∧ Runs (.hostReadCompletion 0 3 7 (zeros 15) true) (devHc true) ∧
    Runs (.hostReadCompletion 0 0 0 [] false) devCf ∧ Runs (.hostReadCompletion 0 2 5 [] false) devCf ∧
    Runs (.hostReadCompletion 0 1 5 [] false) devCf ∧ Runs (.hostReadCompletion 0 3 7 [] false) devCf ∧
    Runs (.hostReadError 0 2 5 true) devFx ∧ Runs (.hostReadError 0 0 0 true) (devHc true) ∧
    Runs (.hostReadError 0 1 5 false) (devHc true) ∧ Runs (.hostReadError 0 3 7 true) (devHc true) :=
  ⟨⟨_, (h.1 dev 0 rfl).1⟩, ⟨_, (h.1 dev 0 rfl).2 rfl⟩, ⟨_, h.2.1 (devHc false) 0 7 rfl⟩,
   ⟨_, (h.2.2.1 (devHc true) 0 0 (zeros 256) true rfl (.inl rfl)).1 rfl (by decide +kernel)⟩,
   ⟨_, (h.2.2.1 devFx 0 5 [] true rfl (.inl rfl)).2.1 fetched0 (by decide +kernel)⟩,
   ⟨_, (h.2.2.1 (devHc true) 0 5 (zeros 272) true rfl (.inl rfl)).2.2.1 _ rfl rfl (by decide +kernel)⟩,
   ⟨_, (h.2.2.1 (devHc true) 0 7 (zeros 15) true rfl (.inl rfl)).2.2.2 hcRun _ 0 0 16 hcArg _ _ (by decide +kernel) rfl rfl rfl (by decide +kernel) (by decide +kernel)
     (fun x => absurd x (by decide +kernel)) Prod.mk.eta.symm⟩,
   ⟨_, (h.2.2.2.1 devCf 0 0 [] rfl rfl).1 rfl (by decide +kernel)⟩, ⟨_, (h.2.2.2.1 devCf 0 5 [] rfl rfl).2.1 fetched0 (by decide +kernel)⟩,
   ⟨_, (h.2.2.2.1 devCf 0 5 [] rfl rfl).2.2.1 _ rfl rfl (by decide +kernel)⟩,
   ⟨_, (h.2.2.2.1 devCf 0 7 [] rfl rfl).2.2.2 hcRun _ 0 0 16 hcArg (by decide +kernel) rfl rfl rfl (by decide +kernel)⟩,
   ⟨_, (h.2.2.2.2 devFx 0 5 true rfl).1 fetched0 (by decide +kernel)⟩, ⟨_, (h.2.2.2.2 (devHc true) 0 0 true rfl).2.1 rfl⟩,
   ⟨_, (h.2.2.2.2 (devHc true) 0 5 false rfl).2.2.1 _ rfl rfl⟩, ⟨_, (h.2.2.2.2 (devHc true) 0 7 true rfl).2.2.2⟩⟩

/-! ### Faults, power, heat -/

def devWd : State := { dev with chip.fc.wdFirst := true }
def devPulse : State := { dev with aon.fnOn := true, aon.fnPulse := true }
def devGap (d : Option Nat) : State := { dev with aon.fnGap := true, aon.fnDefer := d }
def devHold : State := { dev with aon.hold := true, aon.fnOn := true }
def devBlk : State := { dev with chip.fc.blk := [(1, 575), (2, 2303), (3, 31), (4, 15)] }

theorem witness_FaultEvents (h : Obligations.FaultEventsAndPatrols) :
    Runs .faultSweep dev ∧ Runs .watchdogKick dev ∧ Runs .watchdogFirstExpiry dev ∧ Runs .watchdogSecondExpiry devWd ∧
    Runs .enclaveWatchdogExpiry dev ∧ Runs .faultNPulseEnd devPulse ∧ Runs .faultNGapEnd (devGap none) ∧ Runs .faultNGapEnd (devGap (some 0x72)) ∧
    Runs (.faultNHoldRelease true) devHold ∧ Runs (.faultNHoldRelease false) dev ∧ Runs (.blockResetComplete 1 575) devBlk ∧
    Runs (.blockResetComplete 2 2303) devBlk ∧ Runs (.blockResetComplete 3 31) devBlk ∧ Runs (.blockResetComplete 4 15) devBlk :=
  ⟨⟨_, h.1.1 dev⟩, ⟨_, (h.1.2.1 dev rfl).1⟩, ⟨_, (h.1.2.1 dev rfl).2.1 rfl⟩, ⟨_, (h.1.2.1 devWd rfl).2.2 rfl⟩, ⟨_, h.1.2.2.1 dev (by decide +kernel) (by decide +kernel)⟩,
   ⟨_, h.1.2.2.2.1 devPulse rfl rfl⟩, ⟨_, (h.1.2.2.2.2.1 (devGap none) rfl).1 rfl⟩, ⟨_, (h.1.2.2.2.2.1 (devGap (some 0x72)) rfl).2 0x72 rfl⟩,
   ⟨_, (h.1.2.2.2.2.2.1 devHold rfl).1 rfl⟩, ⟨_, (h.1.2.2.2.2.2.1 dev rfl).2⟩, ⟨_, h.1.2.2.2.2.2.2 devBlk _ 575 1 (by decide +kernel) rfl⟩,
   ⟨_, h.1.2.2.2.2.2.2 devBlk _ 2303 2 (by decide +kernel) rfl⟩, ⟨_, h.1.2.2.2.2.2.2 devBlk _ 31 3 (by decide +kernel) rfl⟩, ⟨_, h.1.2.2.2.2.2.2 devBlk _ 15 4 (by decide +kernel) rfl⟩⟩

/-- The control SRAM holds an image. -/
def devSr : State := { dev with chip.sram := some .factory }

theorem witness_Patrols (h : Obligations.FaultEventsAndPatrols) :
    Runs (.islePatrolRead 575 [(0, 1)]) dev ∧ Runs (.stackPatrolRead 0 [(0, 3)]) devS ∧
    Runs (.controlSramPatrol []) devSr ∧ Runs (.controlSramPatrol []) { devSr with chip.sramErr := [(3, 1)] } ∧
    Runs (.controlSramPatrol []) { devSr with chip.sramErr := [(3, 3)] } ∧
    exec (.controlSramPatrol [(3, 3)]) devSr = exec (.controlSramPatrol []) { devSr with chip.sramErr := [(3, 3)] } :=
  ⟨⟨_, h.2.1 dev _ _ 575 0 [(0, 1)] (by decide +kernel) (by decide +kernel) (by decide +kernel) rfl rfl⟩, ⟨_, h.2.2.1 devS _ 0 1024 [(0, 3)] (by decide +kernel) (by decide +kernel) rfl (by decide +kernel) (by decide +kernel) rfl⟩,
   ⟨_, (h.2.2.2 devSr _ 3 1 (by decide +kernel) rfl (by decide +kernel) rfl).1⟩,
   ⟨_, (h.2.2.2 devSr _ 3 1 (by decide +kernel) rfl (by decide +kernel) rfl).2.2.1 (by decide +kernel)⟩,
   ⟨_, (h.2.2.2 devSr _ 3 3 (by decide +kernel) rfl (by decide +kernel) rfl).2.2.2 (by decide +kernel)⟩,
   (h.2.2.2 devSr _ 3 3 (by decide +kernel) rfl (by decide +kernel) rfl).2.1⟩

/-- All junction sensors at `t` eighths of a degree. -/
def hotAt (t : Int) : List Int := List.replicate 144 t
def devHot (t : Int) (d : Nat) : State := { dev with chip.pwr.junction := hotAt t, chip.pwr.therm := [(7, d)] }
def devCool (t : Int) : State := { dev with chip.pwr.junction := hotAt t }
def devVi (v i : Nat) : State := { dev with aon.vin := v, aon.iin := i }

theorem witness_PowerAndHeat (h : Obligations.PowerHeatAndCapFollowed) :
    Runs (.powerSample 62000 1) dev ∧ Runs .inputVoltageLow (devVi 61999 0) ∧ Runs .inputVoltageOutOfRange (devVi 57999 0) ∧
    Runs .inputVoltageOutOfRange (devVi 82001 0) ∧ Runs .inputOvercurrent (devVi 72000 120001) ∧ Runs .thermalTrip (devCool 920) ∧
    Runs .fastLimit (devVi 72000 112001) ∧ Runs .fastLimitEnd dev ∧ Runs (.thermalSample (hotAt 800) (List.replicate 32 700) []) dev ∧
    Runs (.thermalWindow 7) (devHot 840 8) ∧ Runs (.thermalWindow 7) (devCool 840) ∧ Runs (.thermalWindow 7) (devHot 800 8) :=
  ⟨⟨_, h.1.1 dev 62000 1 rfl⟩, ⟨_, h.1.2.1 (devVi 61999 0) rfl rfl (by decide +kernel)⟩, ⟨_, (h.1.2.2.1 (devVi 57999 0) rfl).1 (by decide +kernel)⟩,
   ⟨_, (h.1.2.2.1 (devVi 82001 0) rfl).2.1 (by decide +kernel)⟩, ⟨_, (h.1.2.2.1 (devVi 72000 120001) rfl).2.2.1 (by decide +kernel)⟩,
   ⟨_, (h.1.2.2.1 (devCool 920) rfl).2.2.2 0 0 920 (by decide +kernel)⟩, ⟨_, (h.1.2.2.2.1 (devVi 72000 112001)).1 rfl (by decide +kernel)⟩, ⟨_, (h.1.2.2.2.1 dev).2⟩,
   ⟨_, h.1.2.2.2.2.1 dev _ _ _ [] rfl List.length_replicate List.length_replicate rfl⟩,
   ⟨_, (h.1.2.2.2.2.2 (devHot 840 8) 7 8 rfl (by decide +kernel) (by decide +kernel)).1 (by decide +kernel) (by decide +kernel)⟩, ⟨_, (h.1.2.2.2.2.2 (devCool 840) 7 6 rfl (by decide +kernel) (by decide +kernel)).2.1 (by decide +kernel) rfl⟩,
   ⟨_, (h.1.2.2.2.2.2 (devHot 800 8) 7 8 rfl (by decide +kernel) (by decide +kernel)).2.2 (by decide +kernel) (by decide +kernel)⟩⟩

def devCap (d b : Nat) : State := { dev with chip.pwr.capDiv := d, chip.pwr.below := b }

theorem witness_PowerCap (h : Obligations.PowerHeatAndCapFollowed) :
    Runs (.powerCapWindow 6500001) (devCap 16 0) ∧ Runs (.powerCapWindow 6500001) (devCap 6 0) ∧ Runs (.powerCapWindow 6174999) (devCap 7 8) ∧
    Runs (.powerCapWindow 6174999) (devCap 7 9) ∧ Runs (.powerCapWindow 6500000) (devCap 7 9) :=
  ⟨⟨_, (h.2 (devCap 16 0) 6500001 _ rfl rfl).1 (by decide +kernel) (by decide +kernel)⟩, ⟨_, (h.2 (devCap 6 0) 6500001 _ rfl rfl).2.1 (by decide +kernel) rfl⟩,
   ⟨_, (h.2 (devCap 7 8) 6174999 _ rfl rfl).2.2.1 (by decide +kernel) (by decide +kernel)⟩, ⟨_, (h.2 (devCap 7 9) 6174999 _ rfl rfl).2.2.2.1 (by decide +kernel) (by decide +kernel)⟩,
   ⟨_, (h.2 (devCap 7 9) 6500000 _ rfl rfl).2.2.2.2 (by decide +kernel) (by decide +kernel)⟩⟩

def devPll : State := { dev with chip.boot := .pll }
def devForce : State := { dev with chip.hif.running := [going (.force 0 575 true)] }

theorem witness_ClocksAndDomains (h : Obligations.ClocksAndDomains) :
    Runs .pllLock devPll ∧ Runs .pllLockTimeout devPll ∧ Runs .pllLockLoss dev ∧ Runs (.railPowerGoodLost 6) dev ∧ Runs (.dividerChange 7) dev ∧
    Runs (.domainIdleDescent 0 575 0) dev ∧ Runs (.domainWake 0 575 0) dev ∧ Runs (.forcedStateReached 0 575) devForce ∧
    Runs (.domainWake 4 31 0) dev ∧ Runs (.domainWake 5 31 0) dev :=
  ⟨⟨_, (h.1 devPll rfl).1⟩, ⟨_, (h.1 devPll rfl).2⟩, ⟨_, h.2.1 dev (by decide +kernel) (by decide +kernel)⟩, ⟨_, h.2.2.1 dev 6 rfl rfl⟩, ⟨_, h.2.2.2.1 dev _ 7 (by decide +kernel) rfl⟩,
   ⟨_, (h.2.2.2.2.1 dev 575 (by decide +kernel)).1 rfl (by decide +kernel) (by decide +kernel) (by decide +kernel)⟩, ⟨_, (h.2.2.2.2.1 dev 575 (by decide +kernel)).2.1 (by decide +kernel)⟩, ⟨_, (h.2.2.2.2.1 devForce 575 (by decide +kernel)).2.2 (by decide +kernel)⟩,
   ⟨_, (h.2.2.2.2.2 dev 31 (by decide +kernel) (by decide +kernel)).1⟩, ⟨_, (h.2.2.2.2.2 dev 31 (by decide +kernel) (by decide +kernel)).2⟩⟩

/-! ### Start-up, sideband, test access -/

/-- Before the always-on supply; on with its pins at `x`; starting. -/
def devPin (x : Pins) : State := { dev with aon.pins := x }
def devStart : State := { dev with aon.mainOn := false, aon.starting := true }

theorem witness_SuppliesAndPins (h : Obligations.SuppliesAndPins) :
    Runs (.alwaysOnPowerUp 40000 true true true true false 7 4095) State.reset ∧ Runs .alwaysOnPowerLoss dev ∧ Runs .chipResetHoldEnd dev ∧
    Runs .railsInRegulation devStart ∧ Runs (.railRegulationTimeout 6) devStart ∧ Runs .pwrEnAssert dev ∧ Runs .resetNDeassert dev ∧
    Runs .perstNDeassert dev ∧ Runs .eoffNDeassert dev ∧ Runs (.strapChange true 7 4095) dev ∧ Runs .perstNAssert dev ∧ Runs .resetNAssert dev ∧
    Runs .eoffNAssert dev ∧ Runs .pwrEnDeassert (devPin { pwrEn := true }) :=
  ⟨⟨_, h.1 State.reset 40000 7 4095 true true true true false rfl (by decide +kernel)⟩, ⟨_, (h.2.1 dev).1⟩, ⟨_, (h.2.1 dev).2⟩, ⟨_, (h.2.2.1 devStart rfl).1⟩,
   ⟨_, (h.2.2.1 devStart rfl).2 6⟩, ⟨_, (h.2.2.2.1 dev rfl).1⟩, ⟨_, (h.2.2.2.1 dev rfl).2.1⟩, ⟨_, (h.2.2.2.1 dev rfl).2.2.1⟩,
   ⟨_, (h.2.2.2.1 dev rfl).2.2.2.1⟩, ⟨_, (h.2.2.2.1 dev rfl).2.2.2.2 true 7 4095⟩, ⟨_, (h.2.2.2.2 dev dev rfl).1 rfl rfl⟩,
   ⟨_, (h.2.2.2.2 dev dev rfl).2.1 rfl rfl⟩, ⟨_, (h.2.2.2.2 dev _ rfl).2.2.1 rfl rfl rfl⟩,
   ⟨_, (h.2.2.2.2 (devPin { pwrEn := true }) _ rfl).2.2.2 rfl rfl rfl⟩⟩

theorem factory_chosen (s : State) (hn : s.nv = {}) (k : Nat) : s.chooseImage k = .inl (factory k) := by
  have h : s.nv.svn.getD (k - 1) 0 = 0 := by
    rw [hn]
    rcases k - 1 with _ | _ | _ | _ <;> rfl
  simp [State.chooseImage, State.copyOf, hn, Tab.get, Tab.look] at h ⊢
  omega

def devEnc : State := { dev with chip.boot := .enclave }
def devNoImg : State := { devEnc with nv.flash := [(2, .invalid), (3, .invalid)] }
def devInit (n : Nat) : State := { dev with chip.boot := .init, chip.nmus := [(31, { tries := n })] }

theorem witness_StartUpRuns (h : Obligations.StartUpRuns) :
    Runs (.enclaveBootComplete false) devEnc ∧ Runs (.enclaveBootComplete true) devEnc ∧ Runs (.enclaveBootComplete true) devNoImg ∧
    Runs (.stackTrainingTimeout 31 2) (devInit 0) ∧ Runs (.stackTrainingTimeout 31 2) (devInit 1) ∧ Runs .droverInitTimeout (devInit 0) ∧
    Runs .ready (devInit 0) ∧ Runs (.arraySelfTestComplete [(2303, 2, 2, true)]) (devInit 0) ∧
    Runs (.arraySelfTestComplete [(2303, 3, 2, true)]) (devInit 0) :=
  ⟨⟨_, (h.1 devEnc rfl).1⟩,
   ⟨_, (h.1 devEnc rfl).2.1 _ _ _ _ (factory_chosen devEnc rfl 1) (factory_chosen devEnc rfl 3) (factory_chosen devEnc rfl 2) rfl⟩,
   ⟨_, (h.1 devNoImg rfl).2.2 (1, 1) rfl⟩, ⟨_, (h.2.1 (devInit 0) 31 2 (by decide +kernel) rfl rfl).1 rfl⟩, ⟨_, (h.2.1 (devInit 1) 31 2 (by decide +kernel) rfl rfl).2 (by decide +kernel)⟩,
   ⟨_, (h.2.2.1 (devInit 0) rfl rfl).1⟩, ⟨_, (h.2.2.1 (devInit 0) rfl rfl).2 rfl⟩,
   ⟨_, h.2.2.2.1 (devInit 0) 2303 2 2 _ (by decide +kernel) rfl rfl rfl (by decide +kernel) (by decide +kernel)⟩,
   ⟨_, h.2.2.2.2 (devInit 0) 2303 3 2 _ (by decide +kernel) rfl rfl rfl (.inl (by decide +kernel)) (by decide +kernel) (by decide +kernel)⟩⟩

def devFw (w : FwWrite) : State := { dev with aon.fw := some w }
def img0 : List Byte := zeros 256
def wr (b : List Byte) (a : Bool) : FwWrite := { kind := 3, host := none, len := 256, bytes := b, copyA := a }

/-- Whether an image is signed with a key of the vendor is opaque: the second clause takes one that is (R521). -/
theorem witness_FlashProgrammed (h : Obligations.FlashProgrammed) (img : List Byte) (hi : 256 ≤ img.length)
    (ok : (devFw (wr img false)).imageFails 3 img = 0) :
    Runs .flashProgrammingComplete (devFw (wr img0 true)) ∧ Runs .flashProgrammingComplete (devFw (wr img false)) ∧
    Runs .flashProgrammingComplete (devFw (wr img0 false)) ∧ Runs .crashCaptureComplete { dev with aon.capture := true } :=
  ⟨⟨_, (h.1 (devFw (wr img0 true)) (wr img0 true) rfl rfl (by decide +kernel)).1 rfl⟩, ⟨_, (h.1 (devFw (wr img false)) (wr img false) rfl rfl hi).2.1 rfl ok⟩,
   ⟨_, (h.1 (devFw (wr img0 false)) (wr img0 false) rfl rfl (by decide +kernel)).2.2 rfl 1 (by decide +kernel) (by decide +kernel)⟩, ⟨_, h.2 { dev with aon.capture := true } rfl⟩⟩

theorem witness_SidebandRegisters (h : Obligations.SidebandRegisters) :
    Runs (.sbSetReadPointer 0xFFFF true) dev ∧ Runs (.sbSetReadPointer 5 false) dev ∧ Runs (.sbMbLenWrite 0xFFFFFFFF true) dev ∧
    Runs (.sbEvtClear 0x1F true) dev ∧ Runs .sbRegisterRead dev ∧ Runs .sbRegisterRead { dev with aon.rdPtr := 3 } ∧
    Runs .smbusAlertResponse { dev with aon.evt := 1, aon.emask := 0 } :=
  ⟨⟨_, (h.1 dev 0xFFFF rfl).1⟩, ⟨_, (h.1 dev 5 rfl).2.1⟩, ⟨_, (h.1 dev 0xFFFFFFFF rfl).2.2.1⟩, ⟨_, (h.1 dev 0x1F rfl).2.2.2.1⟩,
   ⟨_, (h.1 dev 0 rfl).2.2.2.2.1 _ rfl⟩, ⟨_, (h.1 { dev with aon.rdPtr := 3 } 0 rfl).2.2.2.2.2 rfl⟩,
   ⟨_, h.2 { dev with aon.evt := 1, aon.emask := 0 } 0x60 rfl (by decide +kernel) rfl⟩⟩

def devMb (m : SbMailbox) : State := { dev with aon.mb := m }
def devDmp : State := { dev with nv.dump := some 0 }
def fwBusy : State := { devMb { op := 1, busy := true } with aon.fw := some { kind := 3, host := none, len := 256 } }

theorem witness_SidebandMailbox (h : Obligations.SidebandMailbox) :
    Runs (.fwWrite 3 true) (devMb { len := 256 }) ∧ Runs (.sbLogRead true) { dev with chip.hif.ready := false } ∧ Runs (.sbLogRead true) dev ∧
    Runs (.dumpRead true) dev ∧ Runs (.dumpRead true) devDmp ∧ Runs (.dumpClear true) dev ∧ Runs (.fstoreRead true) dev ∧
    Runs (.chipReset true) dev ∧ Runs (.dumpRead true) fwBusy ∧ Runs (.fstoreRead true) fwBusy ∧ Runs (.dumpClear true) fwBusy ∧
    Runs (.chipReset true) fwBusy ∧ Runs (.sbMbAbort (some 5)) fwBusy ∧ Runs (.sbMbAbort (some (2 ^ 31 + 5))) fwBusy ∧ Runs .sbMbWordTimeout fwBusy ∧ Runs (.sbMbDataWrite 9 true) fwBusy ∧
    Runs .sbMbDataRead (devMb { op := 5, busy := true, data := [1#32] }) ∧ Runs .sbMbDataRead dev :=
  ⟨⟨_, (h.1 (devMb { len := 256 }) _ rfl rfl (by decide +kernel)).1 3 (by decide +kernel) (by decide +kernel) rfl rfl rfl⟩, ⟨_, ((h.1 { dev with chip.hif.ready := false } _ rfl rfl (by decide +kernel)).2.1 rfl).1 rfl⟩,
   ⟨_, ((h.1 dev _ rfl rfl (by decide +kernel)).2.1 rfl).2 rfl rfl⟩, ⟨_, ((h.1 dev _ rfl rfl (by decide +kernel)).2.2.1 rfl).1 rfl⟩,
   ⟨_, ((h.1 devDmp _ rfl rfl (by decide +kernel)).2.2.1 rfl).2 rfl rfl⟩, ⟨_, (h.1 dev _ rfl rfl (by decide +kernel)).2.2.2.1 rfl⟩, ⟨_, (h.1 dev _ rfl rfl (by decide +kernel)).2.2.2.2.1 rfl⟩,
   ⟨_, (h.1 dev _ rfl rfl (by decide +kernel)).2.2.2.2.2 rfl rfl⟩, ⟨_, (h.2.1 fwBusy rfl rfl).2.2.1⟩, ⟨_, (h.2.1 fwBusy rfl rfl).2.2.2.1⟩,
   ⟨_, (h.2.1 fwBusy rfl rfl).2.2.2.2.1⟩, ⟨_, (h.2.1 fwBusy rfl rfl).2.2.2.2.2.1⟩,
   ⟨_, (h.2.1 fwBusy rfl rfl).2.2.2.2.2.2.1 5 _ rfl⟩, ⟨_, (h.2.1 fwBusy rfl rfl).2.2.2.2.2.2.1 (2 ^ 31 + 5) _ rfl⟩,
   ⟨_, (h.2.1 fwBusy rfl rfl).2.2.2.2.2.2.2.1 (by decide +kernel) (.inl rfl)⟩,
   ⟨_, (h.2.1 fwBusy rfl rfl).2.2.2.2.2.2.2.2 _ 9 rfl rfl rfl (by decide +kernel)⟩, ⟨_, h.2.2.1 (devMb { op := 5, busy := true, data := [1#32] }) _ 1#32 [] rfl rfl rfl⟩,
   ⟨_, h.2.2.2 dev rfl rfl⟩⟩

theorem witness_MctpAnswered (h : Obligations.MctpAnswered) :
    Runs (.setEndpointId 0xFE) dev ∧ Runs .getEndpointId dev ∧ Runs .getEndpointUuid dev ∧ Runs .getMctpVersionSupport dev ∧
    Runs .getMessageTypeSupport dev ∧ Runs (.mctpPacket true true (zeros 64) none none true) dev ∧
    Runs (.mctpPacket true false (zeros 64) none none true) dev ∧ Runs (.mctpPacket false true (zeros 64) none none true) { dev with aon.mctp := [5#8] } ∧
    Runs .mctpReassemblyTimeout dev :=
  ⟨⟨_, (h.1 dev rfl).1 0xFE (by decide +kernel) (by decide +kernel) (by decide +kernel)⟩, ⟨_, (h.1 dev rfl).2.1⟩, ⟨_, (h.1 dev rfl).2.2.1⟩, ⟨_, (h.1 dev rfl).2.2.2.1⟩, ⟨_, (h.1 dev rfl).2.2.2.2.1⟩,
   ⟨_, ((h.1 dev rfl).2.2.2.2.2.1 _ _ _ (by decide +kernel)).1⟩, ⟨_, ((h.1 dev rfl).2.2.2.2.2.1 _ _ _ (by decide +kernel)).2⟩,
   ⟨_, (h.1 { dev with aon.mctp := [5#8] } rfl).2.2.2.2.2.2 _ _ _ (by decide +kernel) (by decide +kernel) (by decide +kernel)⟩, ⟨_, h.2 dev⟩⟩

def devTap : State := devPin { resetN := false }
def cells0 : List Bool := List.replicate 321 true

theorem witness_TestAccessPort (h : Obligations.TestAccessPort) :
    Runs .clamp dev ∧ Runs .highz dev ∧ Runs .bypass dev ∧ Runs .tapReset dev ∧ Runs (.tapPrivateInstruction 0xFE) dev ∧
    Runs (.samplePreload cells0 cells0) dev ∧ Runs (.extest cells0 cells0) devTap ∧ Runs (.extestPulse cells0 cells0) devTap ∧
    Runs (.extestTrain cells0 cells0) devTap ∧ Runs (.extest cells0 cells0) dev :=
  ⟨⟨_, (h dev rfl).1⟩, ⟨_, (h dev rfl).2.1⟩, ⟨_, (h dev rfl).2.2.1⟩, ⟨_, (h dev rfl).2.2.2.1⟩, ⟨_, (h dev rfl).2.2.2.2.1 0xFE (by decide +kernel) (by decide +kernel)⟩,
   ⟨_, ((h dev rfl).2.2.2.2.2 _ _ List.length_replicate List.length_replicate).1⟩,
   ⟨_, (((h devTap rfl).2.2.2.2.2 _ _ List.length_replicate List.length_replicate).2.1 rfl).1⟩,
   ⟨_, (((h devTap rfl).2.2.2.2.2 _ _ List.length_replicate List.length_replicate).2.1 rfl).2.1⟩,
   ⟨_, (((h devTap rfl).2.2.2.2.2 _ _ List.length_replicate List.length_replicate).2.1 rfl).2.2⟩,
   ⟨_, ((h dev rfl).2.2.2.2.2 _ _ List.length_replicate List.length_replicate).2.2 rfl⟩⟩

/-! ### The whole machine -/

def devNop : State := { dev with pending := [.nop pf 5, .nop pf 6] }

theorem witness_StepRunsFrontCommand (h : Obligations.StepRunsFrontCommand) :
    step devNop = exec (.nop pf 5) { devNop with pending := [.nop pf 6] } := h devNop _ _ rfl

theorem witness_ResetStateAndIdle (h : Obligations.ResetStateAndIdle) : step dev = .next { dev with aon.time := 1 } :=
  h.2.2.2.2.2.2.2.2.2.2.2.2.2.2.2.2.2 dev rfl rfl

theorem witness_FusesHeld (h : Obligations.FusesHeld) : ∃ t, step devNop = .next t ∧ t.fixedFuses = devNop.fixedFuses :=
  ⟨_, rfl, (h devNop _ rfl).1⟩

theorem witness_MemoryStaysCanonical (h : Obligations.MemoryStaysCanonical) : ∃ t, step devNop = .next t ∧ Memory.wf t.mem = true :=
  ⟨_, rfl, h devNop _ rfl rfl⟩

theorem witness_LegalLayouts (h : Obligations.LegalLayouts) :
    6 % partSize 0x55 6 = 0 ∧ ((partsOf 0x55).filter fun h => decide (h ≤ 7) && decide (7 < h + partSize 0x55 h)).length = 1 ∧ 0x55 < 256 :=
  ⟨((h.1 0x55 (by decide +kernel)).1 6 (by decide +kernel)).2.1, (h.1 0x55 (by decide +kernel)).2 7 (by decide +kernel), h.2.2 0x55 (by decide +kernel)⟩

theorem witness_HostIdentification (h : Obligations.HostIdentification) :
    State.reset.barReg 0 8 = some 0 ∧ dev.barReg 0 8 = some (0 / 1000 % 2 ^ 32) ∧
    ({ dev with chip.hif.fatal := true, aon.time := 5000 } : State).barReg 8 8 = ({ dev with chip.hif.fatal := true } : State).barReg 8 8 :=
  ⟨(h State.reset 0).2.1 rfl, (h dev 0).2.2.1 rfl rfl, (h { dev with chip.hif.fatal := true } 8).2.2.2 rfl rfl 5000⟩

/-- Function 1 is enabled and bound to partition 0. -/
def pf1 : Caller := { fn := 1 }
def devF1 : State := { dev with chip.hif.vfEnable := true, chip.hif.numVFs := 8, chip.hif.fns := [(0, fn0), (1, fn0)] }

theorem witness_PowerCapCommand (h : Obligations.PowerCapCommand) :
    Runs (.powerCap pf1 1000) devF1 ∧ Runs (.powerCap pf 1000) dev ∧ Runs (.powerCap pf 6500) dev ∧ Runs (.powerCap pf 999) dev ∧
    Runs (.powerCap pf 6501) dev ∧ Runs (.powerCapWindow 6500001) dev :=
  ⟨((h.1 devF1 _ pf1 1000 (by decide +kernel) rfl).1 (by decide +kernel)).elim fun _ x => ⟨_, x⟩, ⟨_, (h.1 dev _ pf 1000 (by decide +kernel) rfl).2.1 rfl (by decide +kernel) (by decide +kernel)⟩,
   ⟨_, (h.1 dev _ pf 6500 (by decide +kernel) rfl).2.1 rfl (by decide +kernel) (by decide +kernel)⟩, ((h.1 dev _ pf 999 (by decide +kernel) rfl).2.2 rfl (.inl (by decide +kernel))).elim fun _ x => ⟨_, x⟩,
   ((h.1 dev _ pf 6501 (by decide +kernel) rfl).2.2 rfl (.inr (by decide +kernel))).elim fun _ x => ⟨_, x⟩, (h.2.2.2 dev 6500001 rfl).elim fun _ x => ⟨_, x.1⟩⟩

def rec0 (sev : Nat) : FaultRec :=
  { seq := 0, time := 0, src := 0x10, sev := sev, inj := false, react := 0, rep := 0, part := none, ctx := none, ukind := 1, unit := 0
    detail := 0, info := 0 }
def full : FaultCollector := { recs := List.replicate 4096 (rec0 1) }

theorem witness_RecordStoreReplaces (h : Obligations.RecordStoreReplaces) :
    (dev.record (rec0 1)).1.chip.fc = ({ dev.chip.fc with seq := 1 } : FaultCollector).put (rec0 1) ∧
    ({} : FaultCollector).put (rec0 1) = { recs := [rec0 1] } ∧ (full.put (rec0 1)).lost = satAdd 32 0 1 ∧ (full.put (rec0 0)).recs = full.recs :=
  ⟨h.1 dev (rec0 1) rfl, h.2.1 {} (rec0 1) (by decide +kernel),
   (h.2.2.1 full (rec0 1) (rec0 1) [] (List.replicate 4095 (rec0 1)) (Nat.le_of_eq List.length_replicate.symm) (by decide +kernel) rfl
     (fun x hx => by rw [List.eq_of_mem_replicate hx]) (fun x hx => absurd hx List.not_mem_nil) (by decide +kernel)).2,
   (h.2.2.2 full (rec0 0) (Nat.le_of_eq List.length_replicate.symm) (by decide +kernel) (fun x hx => by rw [List.eq_of_mem_replicate hx]; decide)).1⟩

theorem witness_PhysicalFunctionCommandsGuarded (h : Obligations.PhysicalFunctionCommandsGuarded) :
    Runs (.partLayout pf1 1) devF1 ∧ Runs (.partConfig pf1 0 2 1 0 0) devF1 ∧ Runs (.clientSetQuota pf1 3 1) devF1 ∧ Runs (.clientClear pf1 3) devF1 ∧
    Runs (.deviceId pf1 1) devF1 ∧ Runs (.role pf1 1) devF1 ∧ Runs (.debugUnlockChallenge pf1) devF1 ∧ Runs (.powerCap pf1 1000) devF1 ∧
    Runs (.faultConfigRead pf1) devF1 ∧ Runs (.faultRecordsPersistent pf1) devF1 ∧ Runs (.fwUpdateQuery pf1) devF1 ∧ Runs (.logRead pf1 0 0) devF1 ∧
    Runs (.crashDumpClear pf1) devF1 ∧ exec (.nop pf 0) State.reset = .next State.reset :=
  have a := h.1 devF1 pf1 (by decide +kernel)
  ⟨⟨_, a.1 (by decide +kernel) 1⟩, ⟨_, a.2.1 (by decide +kernel) 0 2 1 0 0⟩, ⟨_, (a.2.2.1 3 (by decide +kernel)).1 1⟩, ⟨_, (a.2.2.1 3 (by decide +kernel)).2⟩, ⟨_, a.2.2.2.1 (by decide +kernel) 1⟩, ⟨_, a.2.2.2.2.1 (by decide +kernel) 1⟩,
   ⟨_, a.2.2.2.2.2.1 (by decide +kernel)⟩, ⟨_, a.2.2.2.2.2.2.1 (by decide +kernel) 1000⟩, ⟨_, (a.2.2.2.2.2.2.2.1 (by decide +kernel)).2.1⟩, ⟨_, a.2.2.2.2.2.2.2.2.1 (by decide +kernel)⟩,
   ⟨_, (a.2.2.2.2.2.2.2.2.2.1 (by decide +kernel)).2⟩, ⟨_, a.2.2.2.2.2.2.2.2.2.2.1 (by decide +kernel) 0 0⟩, ⟨_, (a.2.2.2.2.2.2.2.2.2.2.2 (by decide +kernel)).2⟩,
   (h.2 State.reset pf rfl rfl).1⟩

/-- A command completes and leaves the inside of the module as it was. -/
def Quiet (i : Instr) (s : State) : Prop := ∃ t, exec i s = .next t ∧ t.inside = s.inside

theorem witness_ReadsChangeNothingInside (h : Obligations.ReadsChangeNothingInside) :
    Quiet (.nop pf 5) dev ∧ Quiet (.deviceInfo pf) dev ∧ Quiet (.clientQuery pf 3) dev ∧ Quiet (.segQuery pf 0 0) devS ∧
    Quiet (.streamStatus pf 0 0 0) dev ∧ Quiet (.histogramRead pf 0 0 1) devS ∧ Quiet (.formatTableRead pf 0 0 1) devS ∧
    Quiet (.optSetQuery pf 0 0) devS ∧ Quiet (.lossScaleQuery pf 0 0) devS ∧ Quiet (.commitGroupQuery pf 0 0) dev ∧
    Quiet (.keyReleaseQuery pf 0 0) dev ∧ Quiet (.powerStatus pf) dev ∧ Quiet (.faultConfigRead pf) dev ∧ Quiet (.faultRecordsRead pf 0 0) dev ∧
    Quiet (.faultRecordsPersistent pf) dev ∧ Quiet (.memStatus pf) dev ∧ Quiet (.corrLog pf 0) dev ∧ Quiet (.portStatus pf) dev ∧
    Quiet (.fabricStatus pf) dev ∧ Quiet (.fwUpdateQuery pf) dev :=
  have a := fun t => h dev t pf (by decide +kernel)
  have b := fun t => h devS t pf (by decide +kernel)
  ⟨⟨_, rfl, (a _).1 5 rfl⟩, ⟨_, rfl, (a _).2.1 rfl⟩, ⟨_, rfl, (a _).2.2.1 3 rfl⟩, ⟨_, rfl, (b _).2.2.2.1 0 0 rfl⟩,
   ⟨_, rfl, (a _).2.2.2.2.1 0 0 0 rfl⟩, ⟨_, rfl, (b _).2.2.2.2.2.1 0 0 1 rfl⟩, ⟨_, rfl, (b _).2.2.2.2.2.2.1 0 0 1 rfl⟩,
   ⟨_, rfl, (b _).2.2.2.2.2.2.2.1 0 0 rfl⟩, ⟨_, rfl, (b _).2.2.2.2.2.2.2.2.1 0 0 rfl⟩, ⟨_, rfl, (a _).2.2.2.2.2.2.2.2.2.1 0 0 rfl⟩,
   ⟨_, rfl, (a _).2.2.2.2.2.2.2.2.2.2.1 0 0 rfl⟩, ⟨_, rfl, (a _).2.2.2.2.2.2.2.2.2.2.2.1 rfl⟩, ⟨_, rfl, (a _).2.2.2.2.2.2.2.2.2.2.2.2.1 rfl⟩,
   ⟨_, rfl, (a _).2.2.2.2.2.2.2.2.2.2.2.2.2.1 0 0 rfl⟩, ⟨_, rfl, (a _).2.2.2.2.2.2.2.2.2.2.2.2.2.2.1 rfl⟩,
   ⟨_, rfl, (a _).2.2.2.2.2.2.2.2.2.2.2.2.2.2.2.1 rfl⟩, ⟨_, rfl, (a _).2.2.2.2.2.2.2.2.2.2.2.2.2.2.2.2.1 0 rfl⟩,
   ⟨_, rfl, (a _).2.2.2.2.2.2.2.2.2.2.2.2.2.2.2.2.2.1 rfl⟩, ⟨_, rfl, (a _).2.2.2.2.2.2.2.2.2.2.2.2.2.2.2.2.2.2.1 rfl⟩,
   ⟨_, rfl, (a _).2.2.2.2.2.2.2.2.2.2.2.2.2.2.2.2.2.2.2 rfl⟩⟩

theorem witness_NewSegmentReadsZero (h : Obligations.NewSegmentReadsZero) :
    ∃ t, exec (.zeroingComplete 7) (devWait (.newSeg 0 9 segN)) = .next t ∧ t.rd 0x200000 = 0 :=
  ⟨_, rfl, (h (devWait (.newSeg 0 9 segN)) _ _ 7 0 9 _ segN rfl (by decide +kernel) (by decide +kernel) rfl rfl rfl rfl 0x200000).trans (if_pos (by decide +kernel))⟩

/-! ### Well-formedness refuses an operand outside its field or range -/

theorem test_wf_u4 : Instr.wf (.mailboxEnable 0 16) = false := by decide
theorem test_wf_u8 : Instr.wf (.partLayout pf 256) = false := by decide
theorem test_wf_u16 : Instr.wf (.registerWrite 0 65536 0 true) = false := by decide
theorem test_wf_u32 : Instr.wf (.registerWrite 0 0 (2 ^ 32) true) = false := by decide
theorem test_wf_u64 : Instr.wf (.nop pf (2 ^ 64)) = false := by decide
theorem test_wf_bytesOk : Instr.wf (.ctxCreate pf (zeros 15)) = false := by decide
theorem test_wf_initOk : Instr.wf (.portCreditAllocation pf 0 [1, 2, 3]) = false := by decide
theorem test_wf_wordFlips : Instr.wf (.isleAccess 0 [(0, 2 ^ 39)]) = false := by decide
theorem test_wf_sectorFlips : Instr.wf (.bankService 0 0 0 0 0 [(0, 2 ^ 36)]) = false := by decide
theorem test_wf_cellsOk : Instr.wf (.extest [true] cells0) = false := by decide
theorem test_wf_flitOk : Instr.wf (.flitReceive 0 (zeros 255) false) = false := by decide +kernel
theorem test_wf_fnOk : Instr.wf (.mailboxEnable 9 4) = false := by decide
theorem test_wf_transportOk : Instr.wf (.registerWrite 10 0 0 true) = false := by decide
theorem test_wf_coreOk : Instr.wf (.taskDispatch 576) = false := by decide
theorem test_wf_engOk : Instr.wf (.passEnd 0 4 none []) = false := by decide
theorem test_wf_entryOk : Instr.wf (.copyBlockEnd 0 64 0 0) = false := by decide
theorem test_wf_tagOk : Instr.wf (.streamResponse 0 64 0) = false := by decide
theorem test_wf_sidOk : Instr.wf (.backgroundAgeing 0 32) = false := by decide
theorem test_wf_stackOk : Instr.wf (.nmuRequestArrival 32 0) = false := by decide
theorem test_wf_chanOk : Instr.wf (.bankService 0 32 0 0 0 []) = false := by decide
theorem test_wf_pcOk : Instr.wf (.bankService 0 0 2 0 0 []) = false := by decide
theorem test_wf_bankOk : Instr.wf (.bankService 0 0 0 64 0 []) = false := by decide
theorem test_wf_portOk : Instr.wf (.hello 17 6) = false := by decide
theorem test_wf_laneOk : Instr.wf (.lsymWindowEnd 0 8) = false := by decide
theorem test_wf_vcOk : Instr.wf (.hello 0 8) = false := by decide
theorem test_wf_ctxOk : Instr.wf (.dispatchAgeing 0 512) = false := by decide
theorem test_wf_segOk : Instr.wf (.migrationTimeout 0 4096) = false := by decide
theorem test_wf_setOk : Instr.wf (.stageTimeout 0 16) = false := by decide
theorem test_wf_partOk : Instr.wf (.stageTimeout 8 0) = false := by decide
theorem test_wf_voterOk : Instr.wf (.voteTimeout 1 9) = false := by decide
theorem test_wf_jobOk : Instr.wf (.treeFormTimeout 4096) = false := by decide
theorem test_wf_subRingOk : Instr.wf (.submissionDoorbell 0 64 0) = false := by decide
theorem test_wf_cplRingOk : Instr.wf (.completionDoorbell 0 16 0) = false := by decide
theorem test_wf_vectorOk : Instr.wf (.msixVectorUnmask 0 64) = false := by decide
theorem test_wf_slotOk : Instr.wf (.strapChange true 8 0) = false := by decide
theorem test_wf_foldOk : Instr.wf (.strapChange true 0 4096) = false := by decide
theorem test_wf_callerOk : Instr.wf (.nop { pf with rbuf := 8 } 0) = false := by decide
theorem test_wf_extOk (l : List Byte) (h : l.length = 2 ^ 24 + 1) : extOk l = false := by unfold extOk; rw [h]; rfl
theorem test_wf_voter_combined : Instr.wf (.voteTimeout 1 8) = true := by decide

/-! ### Worked examples of the spec -/

/-- The Isle of core 355 (example under R33). -/
theorem test_isle_of_core : coreOfDpa 0x100021500040 = 355 ∧ isleBase 355 = 0x100021480000 := by decide +kernel
/-- PLEN of an MXFP6 E3M2 tile of 100 elements (example under R56). -/
theorem test_plen : (Fmt.ofCode 8).map (·.plen false 100) = some 7 := rfl
/-- 0.0371 in an MXFP8 E4M3 block: scale byte 0x72, element 0x79 (example under R64). -/
theorem test_block_encoding :
    (encodeBlock { fmt := .mxfp8e4m3, noblk := false, scale := 127, rnd := 0, sat := true, seed := 0 } [(0, 0x3D17F62B#32)]).1 = [0x79] ∧
    (encodeBlock { fmt := .mxfp8e4m3, noblk := false, scale := 127, rnd := 0, sat := true, seed := 0 } [(0, 0x3D17F62B#32)]).2.1 = 0x72 := by decide +kernel
/-- SF16 0x3C00 with scale byte 0x70 under SCALE_BASE 0x7D is 2^-17 (example under R58). -/
theorem test_sf16_value :
    (decodeElem (fun i => if i = 1 then 0x3C#8 else if i = 512 then 0x70#8 else 0#8)
      { fmt := .sf16, noblk := false, scale := 0x7D, layer := 0, epoch := 0, ctx := 0, count := 1, plen := 33 } 0).1 = 0x37000000#32 := by decide +kernel
/-- The GELU image of the example under R134: 0.5 gives 0.3458 (0x3EB1096B), 9 takes the right tail and gives 9. -/
def gelu : List Byte := leBytes 4 0xC1000000 ++ leBytes 4 0x41000000 ++ leBytes 4 0x427FC000 ++ zeros 8 ++ leBytes 4 0x3F800000 ++ zeros 8
  ++ zeros 2172 ++ leBytes 4 0x3EADC5D6 ++ leBytes 4 0x3EB4BC6A ++ zeros 1916
theorem test_table_lookup : (tableLookup gelu 0x3F000000#32).1 = 0x3EB1096B#32 ∧ (tableLookup gelu 0x41100000#32).1 = 0x41100000#32 := by
  decide +kernel
/-- DPA 0x0150_0000_5040 in the DRAM and under each policy (examples under R258, R259). -/
theorem test_dram_place : dramBank (stackKey 21 0x5040) = (21, 10, 0, 0) ∧ dramRow (stackKey 21 0x5040) = 0 := by decide +kernel
theorem test_policies : placeDpa 0 0x015000005040 = (21, 0x5040) ∧ placeDpa 1 0x015000005040 = (16, 0xA00000040) ∧
    placeDpa 2 0x015000005040 = (16, 0xA80000040) := by decide +kernel
/-- Layouts of the example under R452. -/
theorem test_layouts : legalStart 0xD1 = true ∧ (partsOf 0xD1).map (partSize 0xD1) = [4, 2, 1, 1] ∧ legalStart 0x05 = false ∧
    legalStart 0x13 = false := by decide +kernel
/-- The job of the example under R411: fold 3 holds slots 0, 1, 2, 3, 5, fold 9 all eight; devices in table order; tile 6. -/
def foldRow (d f sl : Nat) : List Byte := leBytes 2 d ++ leBytes 1 0 ++ leBytes 1 sl ++ leBytes 4 f
def folds : List Byte :=
  foldRow 0 3 0 ++ foldRow 1 3 1 ++ foldRow 2 3 2 ++ foldRow 3 3 3 ++ foldRow 4 3 5 ++ (List.range 8).flatMap fun i => foldRow (5 + i) 9 i
theorem test_reduction_order :
    ({ part := 0, job := 1, midx := 2, nmem := 13, table := folds } : Member).plan 6 = [.add 1 0, .add 2 0, .send 4 0 3] ∧
    ({ part := 0, job := 1, midx := 4, nmem := 13, table := folds } : Member).plan 6 = [.add 3 0, .send 11 0 4] ∧
    ({ part := 0, job := 1, midx := 11, nmem := 13, table := folds } : Member).plan 6 = [.add 1 0, .add 2 0, .add 3 0, .add 4 0, .deliver] := by
  decide +kernel
/-- Layer 37 of the example under R338: E5M2 with SCALE_BASE 0x6E and HBASE 0x4A. -/
def entry37 : Nat := 3 + 64 + 128 + 127 * 256 + 0x5A * 65536 + 16 * 2 ^ 24 + 0b1011 * 2 ^ 32 + 2 ^ 36
def counts37 (i : Nat) : Nat := if i = 1 then 10 else if i = 2 then 30 else if i = 6 then 2060 else if i = 36 then 1 else if i = 30 then 1046475 else 0
theorem test_format_refresh : feFmt (fmtRefresh entry37 counts37) = 5 ∧ feScale (fmtRefresh entry37 counts37) = 0x6E ∧
    feHbase (fmtRefresh entry37 counts37) = 0x4A := by decide +kernel
/-- The header of a packet and the body of a job-control message read back as they were written (R394, R438). -/
def red0 : List Byte := mkPacket (packetHead 6 3 7 5 32767 4095 16 65535 575 63 1023 (5 * 2 ^ 24 + 9) 200 0xE0 777 5 4095) (zeros 16)
theorem test_packet_fields : pkDpart red0 = 3 ∧ pkHops red0 = 7 ∧ pkSrc red0 = 32767 ∧ pkScore red0 = 575 ∧ pkTag red0 = 63 ∧ pkGen red0 = 1023 ∧
    pkTile red0 = 5 ∧ pkChunk red0 = 9 ∧ pkRwin red0 = 200 ∧ pkFlags red0 = 7 ∧ pkColl red0 = 777 ∧ pkStage red0 = 5 ∧ pkDdig red0 = 4095 ∧
    slice red0 24 4 = leBytes 4 (777 * 65536 + 5 * 4096 + 4095) := by decide +kernel
theorem test_message_body : JobMsg.parse (({ epoch := 1, lsdig := 2, ncount := 3, nlow := 4, nstg := 5, flags := 6, code := 7, ephi := 8
                                             origin := 9 } : JobMsg).body 10 11) =
    { epoch := 1, lsdig := 2, ncount := 3, nlow := 4, nstg := 5, flags := 6, code := 7, ephi := 8, origin := 9 } := by decide +kernel


end Sys2Proof.Tests
end

section
/-! Partition layouts (R452, R453): what `partSize` means, that a mask with bit 0 set covers every eighth exactly once,
and the statement about the legal masks (O6). -/

namespace Sys2Proof.Machine

open Sys2Proof

theorem mem_partsOf {start h : Nat} : h ∈ partsOf start ↔ h < 8 ∧ start.testBit h = true := by
  simp [partsOf, setBits]

/-- R453, the size of a partition: it ends at the next start above `h`, or at eighth 8. -/
theorem partSize_end {start h : Nat} (hh : h < 8) :
    h < h + partSize start h ∧ h + partSize start h ≤ 8 ∧
    (∀ e, h < e → e < h + partSize start h → start.testBit e = false) ∧
    (h + partSize start h < 8 → start.testBit (h + partSize start h) = true) := by
  unfold partSize
  split
  case h_1 next hfind =>
    obtain ⟨hnext, hmem, hbelow⟩ := List.find?_range_eq_some.mp hfind
    simp only [Bool.and_eq_true, decide_eq_true_eq, List.mem_range] at hnext hmem
    rw [Nat.add_sub_cancel' hnext.1.le]
    exact ⟨hnext.1, hmem.le, fun e hlo hhi => by simpa [hlo] using hbelow e hhi, fun _ => hnext.2⟩
  case h_2 hfind =>
    have hnone := List.find?_range_eq_none.mp hfind
    rw [Nat.add_sub_cancel' hh.le]
    exact ⟨hh, le_rfl, fun e hlo hhi => by simpa [hlo] using hnone e hhi, fun hlt => absurd hlt (lt_irrefl 8)⟩

/-- A partition holds eighth `e` exactly when its start is the highest one not above `e`. -/
theorem start_covers_iff {start h e : Nat} (he : e < 8) (hstart : start.testBit h = true) :
    (h ≤ e ∧ e < h + partSize start h) ↔ h = Nat.findGreatest (start.testBit ·) e := by
  constructor
  · rintro ⟨hle, hlt⟩
    obtain ⟨-, -, hinside, -⟩ := partSize_end (start := start) (hle.trans_lt he)
    refine (Nat.findGreatest_eq_iff.mpr ⟨hle, fun _ => hstart, fun e' hlo hhi => ?_⟩).symm
    simp [hinside e' hlo (hhi.trans_lt hlt)]
  · intro hgreatest
    have hle : h ≤ e := hgreatest ▸ Nat.findGreatest_le e
    obtain ⟨hpos, -, -, hnext⟩ := partSize_end (start := start) (hle.trans_lt he)
    refine ⟨hle, lt_of_not_ge fun hend => ?_⟩
    exact Nat.findGreatest_is_greatest (hgreatest.symm.trans_lt hpos) hend (hnext (hend.trans_lt he))

/-- When eighth 0 starts a partition, one start and no other is that of the partition which holds eighth `e`. -/
theorem exists_start_covers_iff_eq {start e : Nat} (h0 : start.testBit 0 = true) (he : e < 8) :
    ∃ g ∈ partsOf start, ∀ h ∈ partsOf start, (h ≤ e ∧ e < h + partSize start h) ↔ h = g :=
  ⟨Nat.findGreatest (start.testBit ·) e,
    mem_partsOf.mpr ⟨(Nat.findGreatest_le e).trans_lt he, Nat.findGreatest_spec (P := (start.testBit ·)) (Nat.zero_le e) h0⟩,
    fun _ hh => start_covers_iff he (mem_partsOf.mp hh).2⟩

theorem partsOf_nodup (start : Nat) : (partsOf start).Nodup := List.nodup_range.filter _

/-- The same, counted: the list of the partitions that hold eighth `e` has one entry. -/
theorem partsOf_cover_once {start e : Nat} (h0 : start.testBit 0 = true) (he : e < 8) :
    ((partsOf start).filter fun h => decide (h ≤ e) && decide (e < h + partSize start h)).length = 1 := by
  obtain ⟨g, hmem, hcovers⟩ := exists_start_covers_iff_eq h0 he
  have htest : ∀ h ∈ partsOf start, (decide (h ≤ e) && decide (e < h + partSize start h)) = (h == g) := fun h hh => by
    rw [← Bool.decide_and, beq_eq_decide, decide_eq_decide]
    exact hcovers h hh
  rw [List.filter_congr htest, ← List.countP_eq_length_filter]
  exact List.count_eq_one_of_mem (partsOf_nodup start) hmem

/-- The sizes of R452, listed as `legalStart` tests them. -/
theorem exists_pow_two_iff (n : Nat) : (∃ k, k ≤ 3 ∧ n = 2 ^ k) ↔ n = 1 ∨ n = 2 ∨ n = 4 ∨ n = 8 := by
  constructor
  · rintro ⟨k, hk, rfl⟩
    interval_cases k <;> decide
  · rintro (rfl | rfl | rfl | rfl)
    exacts [⟨0, by decide⟩, ⟨1, by decide⟩, ⟨2, by decide⟩, ⟨3, by decide⟩]

/-- R453 read as R452: a legal mask is one of eight bits with eighth 0 a start, whose partitions have 1, 2, 4 or 8 eighths and start
at a multiple of their size. -/
theorem legalStart_iff {start : Nat} :
    legalStart start = true ↔ start < 256 ∧ start.testBit 0 = true ∧
      ∀ h ∈ partsOf start, (∃ k, k ≤ 3 ∧ partSize start h = 2 ^ k) ∧ h % partSize start h = 0 := by
  simp [legalStart, exists_pow_two_iff, and_assoc, or_assoc]

/-- The masks of eight bits that R453 calls legal, counted. -/
theorem count_legalStart : ((List.range 256).filter legalStart).length = 26 := by
  decide +kernel

/-- Settles O6: `legalStart_iff` gives the shape of each partition, `partsOf_cover_once` the cover, and the count is over the 256 masks. -/
theorem legalLayouts : Obligations.LegalLayouts := by
  unfold Obligations.LegalLayouts
  refine ⟨fun start hlegal => ?_, count_legalStart, fun start hlegal => (legalStart_iff.mp hlegal).1⟩
  obtain ⟨-, h0, hparts⟩ := legalStart_iff.mp hlegal
  refine ⟨fun h hh => ?_, fun e he => partsOf_cover_once h0 he⟩
  obtain ⟨hpow, hmultiple⟩ := hparts h hh
  exact ⟨hpow, hmultiple, (partSize_end (mem_partsOf.mp hh).1).2.1⟩

end Sys2Proof.Machine
end

section
/-! The identification registers of the host BAR (R482, R483, R485): which value stands at offsets 0 and 8, what the heartbeat
counts in each state of READY and FATAL, and the statement about both registers (O7). -/

namespace Sys2Proof.Machine

open Sys2Proof

/-- R482, offset 0: HIF_ID packs STEP, IFVER and DEVID. -/
@[simp] theorem barReg_hifId (s : State) (fn : Nat) :
    s.barReg fn 0 = some (s.step_ * 2 ^ 24 + 0x01 * 2 ^ 16 + if fn = 0 then 0x2304 else 0x2305) := rfl

/-- R482, offset 8: every function reads the one heartbeat of the module. -/
@[simp] theorem barReg_hifHbeat (s : State) (fn : Nat) : s.barReg fn 8 = some s.hbeat := rfl

theorem hbeat_of_not_ready {s : State} (hready : s.chip.hif.ready = false) : s.hbeat = 0 := by
  simp [State.hbeat, hready]

theorem hbeat_of_serving {s : State} (hready : s.chip.hif.ready = true) (hfatal : s.chip.hif.fatal = false) :
    s.hbeat = (s.aon.time - s.chip.hif.readyAt) / 1000 % 2 ^ 32 := by
  simp [State.hbeat, hready, hfatal]

/-- The count stands at the moment FATAL rose: the always-on time is no longer in it. -/
theorem hbeat_of_fatal {s : State} (hready : s.chip.hif.ready = true) (hfatal : s.chip.hif.fatal = true) :
    s.hbeat = (s.chip.hif.fatalAt - s.chip.hif.readyAt) / 1000 % 2 ^ 32 := by
  simp [State.hbeat, hready, hfatal]

/-- Settles O7: each register's content by its offset, then the heartbeat by READY and FATAL; under FATAL both sides are the count
that `hbeat_of_fatal` gives. -/
theorem hostIdentification : Obligations.HostIdentification := by
  unfold Obligations.HostIdentification
  intro s fn
  refine ⟨barReg_hifId s fn, fun hready => ?_, fun hready hfatal => ?_, fun hready hfatal t => ?_⟩
  · rw [barReg_hifHbeat, hbeat_of_not_ready hready]
  · rw [barReg_hifHbeat, hbeat_of_serving hready hfatal]
  · have hlater : ({ s with aon.time := t } : State).hbeat = s.hbeat :=
      (hbeat_of_fatal (s := { s with aon.time := t }) hready hfatal).trans (hbeat_of_fatal hready hfatal).symm
    rw [barReg_hifHbeat, barReg_hifHbeat, hlater]

end Sys2Proof.Machine
end

section
/-! The store of fault records (R550): what `FaultCollector.put` does while there is room, when it replaces, and when it drops, and
the statement about the full store (O9). -/

namespace Sys2Proof.Machine

open Sys2Proof

/-- A record that coalesces with none held takes the next number and is put into the store. -/
theorem record_fc_of_new {s : State} {r : FaultRec} (hnew : s.chip.fc.recs.find? (coalesces r) = none) :
    (s.record r).1.chip.fc = ({ s.chip.fc with seq := (s.chip.fc.seq + 1) % 2 ^ 32 } : FaultCollector).put r := by
  simp only [State.record, hnew]

@[simp] theorem lose_recs (fc : FaultCollector) (r : FaultRec) : (fc.lose r).recs = fc.recs := rfl

@[simp] theorem lose_lost (fc : FaultCollector) (r : FaultRec) : (fc.lose r).lost = satAdd 32 fc.lost 1 := rfl

theorem put_of_room {fc : FaultCollector} (r : FaultRec) (hroom : fc.recs.length < 4096) :
    fc.put r = { fc with recs := fc.recs ++ [r] } := if_pos hroom

/-- The lowest severity that `FaultCollector.put` computes is a greatest lower bound of those present and the value it starts from. -/
theorem le_lowestSev_iff {m n : Nat} {recs : List FaultRec} :
    m ≤ recs.foldl (fun a x => min a x.sev) n ↔ m ≤ n ∧ ∀ x ∈ recs, m ≤ x.sev := by
  induction recs generalizing n with
  | nil => simp
  | cons y ys ih => simp [ih, and_assoc]

theorem lowestSev_eq_of_least {recs : List FaultRec} {old : FaultRec} {n : Nat} (hmem : old ∈ recs)
    (hleast : ∀ x ∈ recs, old.sev ≤ x.sev) (hn : old.sev ≤ n) : recs.foldl (fun a x => min a x.sev) n = old.sev :=
  eq_of_forall_le_iff fun _ => le_lowestSev_iff.trans
    ⟨fun ⟨_, hall⟩ => hall old hmem, fun hm => ⟨hm.trans hn, fun x hx => hm.trans (hleast x hx)⟩⟩

/-- In a full store the first record of the lowest severity, the oldest one, gives way to a record of no lower severity. -/
theorem put_of_full_replaces {fc : FaultCollector} {r old : FaultRec} (hfull : 4096 ≤ fc.recs.length)
    (hlow : fc.recs.foldl (fun a x => min a x.sev) 3 = old.sev) (hle : old.sev ≤ r.sev)
    (hfind : (fc.recs.find? fun x => x.sev == old.sev) = some old) :
    fc.put r = { fc.lose old with recs := fc.recs.erase old ++ [r] } := by
  simp only [FaultCollector.put, if_neg hfull.not_gt, hlow, if_pos hle, hfind]

/-- A full store of higher severities drops the record: were the computed lowest severity no higher than the record's, no record
held could have it. -/
theorem put_of_full_drops {fc : FaultCollector} {r : FaultRec} (hfull : 4096 ≤ fc.recs.length)
    (habove : ∀ x ∈ fc.recs, r.sev < x.sev) : fc.put r = fc.lose r := by
  unfold FaultCollector.put
  rw [if_neg hfull.not_gt]
  by_cases hle : fc.recs.foldl (fun a x => min a x.sev) 3 ≤ r.sev
  · have hnone : (fc.recs.find? fun x => x.sev == fc.recs.foldl (fun a x => min a x.sev) 3) = none :=
      List.find?_eq_none.mpr fun x hx heq => (habove x hx).not_ge ((beq_iff_eq.mp heq).trans_le hle)
    simp only [if_pos hle, hnone]
  · exact if_neg hle

/-- Settles O9, by the four cases of the store. The record that gives way heads what `find?` and `erase` leave of the list after its
prefix, for no record of the prefix has its severity. -/
theorem recordStoreReplaces : Obligations.RecordStoreReplaces := by
  unfold Obligations.RecordStoreReplaces
  refine ⟨fun s r hnew => record_fc_of_new hnew, fun fc r hroom => put_of_room r hroom, ?_, ?_⟩
  · intro fc r old pre post hfull hsev hrecs hleast hpre hle
    have hmem : old ∈ fc.recs := by simp [hrecs]
    have hlow := lowestSev_eq_of_least hmem hleast (n := 3) (by omega)
    have hfind : (fc.recs.find? fun x => x.sev == old.sev) = some old :=
      List.find?_eq_some_iff_append.mpr ⟨beq_self_eq_true _, pre, post, hrecs, fun x hx => by simpa using hpre x hx⟩
    have herase : fc.recs.erase old = pre ++ post := by
      rw [hrecs, List.erase_append_right _ fun hin => hpre old hin rfl, List.erase_cons_head]
    rw [put_of_full_replaces hfull hlow hle hfind, herase]
    exact ⟨rfl, lose_lost fc old⟩
  · intro fc r hfull _ habove
    rw [put_of_full_drops hfull habove]
    exact ⟨lose_recs fc r, lose_lost fc r⟩

end Sys2Proof.Machine
end

section
/-! The power cap (R578, R579): what the checks of POWER_CAP answer, what a window of 1 ms leaves of the cap and of its divider,
and the statement about both (O8). -/

namespace Sys2Proof.Machine

open Sys2Proof

/-- POWER_CAP is a mailbox command with two checks: the caller is the physical function, the cap is in range. -/
theorem exec_powerCap (c : Caller) (v : Nat) (s : State) :
    exec (.powerCap c v) s = .next (s.mbox c 0x0802 [] 0 [chkPF c, (decide (v < 1000 ∨ 6500 < v), .argRange, 0)]
      fun m a => ({ a with chip.pwr.capNew := v } : State).respond m .ok).settle := rfl

theorem chkPF_of_pf {c : Caller} (hpf : c.fn = 0) : chkPF c = (false, .denied, 3) := by
  simp [chkPF, hpf]

theorem chkPF_of_not_pf {c : Caller} (hfn : c.fn ≠ 0) : chkPF c = (true, .denied, 3) := by
  simp [chkPF, hfn]

theorem exec_powerCap_of_not_pf {s : State} {c : Caller} (v : Nat) (hstart : s.mayStart c 0x0802 [] = true) (hfn : c.fn ≠ 0) :
    exec (.powerCap c v) s = .next (s.refusedWith c 0x0802 .denied 3) := by
  rw [exec_powerCap, mbox_refused hstart (by rw [chkPF_of_not_pf hfn, firstFail_hit])]
  rfl

theorem exec_powerCap_of_out_of_range {s : State} {c : Caller} {v : Nat} (hstart : s.mayStart c 0x0802 [] = true) (hpf : c.fn = 0)
    (hout : v < 1000 ∨ 6500 < v) : exec (.powerCap c v) s = .next (s.refusedWith c 0x0802 .argRange 0) := by
  rw [exec_powerCap, mbox_refused hstart (by rw [chkPF_of_pf hpf, firstFail_ok, decide_eq_true hout, firstFail_hit])]
  rfl

/-- In range the cap is stored as the one of the next window; the cap in force stays. -/
theorem exec_powerCap_of_in_range {s : State} {c : Caller} {v : Nat} (hstart : s.mayStart c 0x0802 [] = true) (hpf : c.fn = 0)
    (hlo : 1000 ≤ v) (hhi : v ≤ 6500) :
    exec (.powerCap c v) s = .next (s.answered c 0x0802 { s.taken c 0x0802 with chip.pwr.capNew := v }) := by
  have hin : ¬ (v < 1000 ∨ 6500 < v) := by omega
  rw [exec_powerCap, mbox_ok hstart (by rw [chkPF_of_pf hpf, firstFail_ok, decide_eq_false hin, firstFail_ok, firstFail_nil])]
  rfl

theorem exec_powerCapWindow_of_on {s : State} (avg : Nat) (hon : s.aon.mainOn = true) :
    exec (.powerCapWindow avg) s = .next (s.capWindow avg).settle :=
  congrArg done (if_pos hon)

/-- A window ends with the cap that the next one is judged by; fault 0x77 leaves it alone. -/
theorem capWindow_cap (s : State) (avg : Nat) : (s.capWindow avg).chip.pwr.cap = s.chip.pwr.capNew := by
  unfold State.capWindow
  dsimp only
  split <;> simp only [raise_pwr]

/-- The cap divider after a window (R579): the average is compared with the cap that was in force, `below` counts the windows
before this one. -/
theorem capWindow_capDiv (s : State) (avg : Nat) : (s.capWindow avg).chip.pwr.capDiv =
    if 1000 * s.chip.pwr.cap < avg then min 16 (s.chip.pwr.capDiv + 1)
    else if 100 * avg < 95 * (1000 * s.chip.pwr.cap) ∧ 9 ≤ s.chip.pwr.below then max 6 (s.chip.pwr.capDiv - 1)
    else s.chip.pwr.capDiv := by
  unfold State.capWindow
  dsimp only
  split <;> simp only [raise_pwr, decide_eq_true_eq, Bool.and_eq_true, Nat.reduceLeDiff]

/-- Settles O8: POWER_CAP by its two checks in their order, the caps of reset, and the window by the cap and the divider it leaves. -/
theorem powerCapCommand : Obligations.PowerCapCommand := by
  unfold Obligations.PowerCapCommand
  refine ⟨?_, rfl, rfl, fun s avg hon =>
    ⟨s.capWindow avg, exec_powerCapWindow_of_on avg hon, capWindow_cap s avg, capWindow_capDiv s avg⟩⟩
  rintro s t c v hstart rfl
  exact ⟨fun hfn => ⟨3, exec_powerCap_of_not_pf v hstart hfn⟩,
    fun hpf hlo hhi => exec_powerCap_of_in_range hstart hpf hlo hhi,
    fun hpf hout => ⟨0, exec_powerCap_of_out_of_range hstart hpf hout⟩⟩

end Sys2Proof.Machine
end

section
/-! What every step keeps: the queue, the fuses and the canonical form of memory, from the laws about each command, and the three
statements about every step (O3, O4, O5). -/

namespace Sys2Proof.Machine

open Sys2Proof

/-- Every command but READY answers a next state with the same waiting commands and the same fuses. -/
theorem exec_kept (i : Instr) (s : State) (hready : i ≠ .ready) : ∃ q, exec i s = .next q ∧ q.kept = s.kept := by
  cases i with
  | ready => exact absurd rfl hready
  | registerWrite => exact execRegisterWrite_kept ..
  | unmappedRegisterAccess => exact execUnmappedRegisterAccess_kept ..
  | mailboxEnable => exact execMailboxEnable_kept ..
  | mailboxDisable => exact execMailboxDisable_kept ..
  | mailboxDoorbell => exact execMailboxDoorbell_kept ..
  | mailboxResponseDoorbell => exact execMailboxResponseDoorbell_kept ..
  | submissionDoorbell => exact execSubmissionDoorbell_kept ..
  | completionDoorbell => exact execCompletionDoorbell_kept ..
  | completionInterruptTimer => exact execCompletionInterruptTimer_kept ..
  | msixVectorUnmask => exact execMsixVectorUnmask_kept ..
  | configRequest => exact execConfigRequest_kept ..
  | configImageLoaded => exact execConfigImageLoaded_kept ..
  | vfEnableSet => exact execVfEnableSet_kept ..
  | vfEnableClear => exact execVfEnableClear_kept ..
  | vfFlr => exact execVfFlr_kept ..
  | pfFlr => exact execPfFlr_kept ..
  | pcieHotReset => exact execPcieHotReset_kept ..
  | pcieLinkDown => exact execPcieLinkDown_kept ..
  | busMasterEnableClear => exact execBusMasterEnableClear_kept ..
  | busMasterEnableSet => exact execBusMasterEnableSet_kept ..
  | hostCopyBmeTimeout => exact execHostCopyBmeTimeout_kept ..
  | hostReadError => exact execHostReadError_kept ..
  | nop => exact execNop_kept ..
  | deviceInfo => exact execDeviceInfo_kept ..
  | partLayout => exact execPartLayout_kept ..
  | partConfig => exact execPartConfig_kept ..
  | ctxCreate => exact execCtxCreate_kept ..
  | ctxDestroy => exact execCtxDestroy_kept ..
  | ctxStop => exact execCtxStop_kept ..
  | ctxResume => exact execCtxResume_kept ..
  | ctxReset => exact execCtxReset_kept ..
  | ctxEvict => exact execCtxEvict_kept ..
  | ctxRestore => exact execCtxRestore_kept ..
  | ctxStatus => exact execCtxStatus_kept ..
  | clientQuery => exact execClientQuery_kept ..
  | clientSetQuota => exact execClientSetQuota_kept ..
  | clientClear => exact execClientClear_kept ..
  | segCreate => exact execSegCreate_kept ..
  | segQuery => exact execSegQuery_kept ..
  | segProtect => exact execSegProtect_kept ..
  | segMigrate => exact execSegMigrate_kept ..
  | segDelete => exact execSegDelete_kept ..
  | pgroupCreate => exact execPgroupCreate_kept ..
  | pgroupDelete => exact execPgroupDelete_kept ..
  | nmuProgramLoad => exact execNmuProgramLoad_kept ..
  | nmuProgramDelete => exact execNmuProgramDelete_kept ..
  | stateLoad => exact execStateLoad_kept ..
  | stateExport => exact execStateExport_kept ..
  | weightImport => exact execWeightImport_kept ..
  | hostCopy => exact execHostCopy_kept ..
  | ringCreateSubmission => exact execRingCreateSubmission_kept ..
  | ringCreateCompletion => exact execRingCreateCompletion_kept ..
  | ringDestroy => exact execRingDestroy_kept ..
  | ringReset => exact execRingReset_kept ..
  | ringBindNotice => exact execRingBindNotice_kept ..
  | counter => exact execCounter_kept ..
  | streamSlotAllocate => exact execStreamSlotAllocate_kept ..
  | streamSlotFree => exact execStreamSlotFree_kept ..
  | streamArm => exact execStreamArm_kept ..
  | streamCancel => exact execStreamCancel_kept ..
  | streamStatus => exact execStreamStatus_kept ..
  | bankCap => exact execBankCap_kept ..
  | tagtmo => exact execTagtmo_kept ..
  | mcastGroupCreate => exact execMcastGroupCreate_kept ..
  | mcastGroupDelete => exact execMcastGroupDelete_kept ..
  | layoutCreate => exact execLayoutCreate_kept ..
  | layoutDelete => exact execLayoutDelete_kept ..
  | histogramRead => exact execHistogramRead_kept ..
  | histogramClear => exact execHistogramClear_kept ..
  | formatTableWrite => exact execFormatTableWrite_kept ..
  | formatTableRead => exact execFormatTableRead_kept ..
  | q1Tblload => exact execQ1Tblload_kept ..
  | deviceId => exact execDeviceId_kept ..
  | jobJoin => exact execJobJoin_kept ..
  | jobLeave => exact execJobLeave_kept ..
  | route => exact execRoute_kept ..
  | windowOpen => exact execWindowOpen_kept ..
  | windowClose => exact execWindowClose_kept ..
  | collective => exact execCollective_kept ..
  | collCancel => exact execCollCancel_kept ..
  | portEnable => exact execPortEnable_kept ..
  | portDisable => exact execPortDisable_kept ..
  | portLaneRestore => exact execPortLaneRestore_kept ..
  | portCreditAllocation => exact execPortCreditAllocation_kept ..
  | role => exact execRole_kept ..
  | optSetCreate => exact execOptSetCreate_kept ..
  | optSetDelete => exact execOptSetDelete_kept ..
  | optSetQuery => exact execOptSetQuery_kept ..
  | updateStage => exact execUpdateStage_kept ..
  | setResolveCommit => exact execSetResolveCommit_kept ..
  | setResolveAbort => exact execSetResolveAbort_kept ..
  | stepBind => exact execStepBind_kept ..
  | lossScaleSet => exact execLossScaleSet_kept ..
  | lossScaleQuery => exact execLossScaleQuery_kept ..
  | commitGroupStage => exact execCommitGroupStage_kept ..
  | commitGroupApply => exact execCommitGroupApply_kept ..
  | commitGroupBind => exact execCommitGroupBind_kept ..
  | commitGroupDiscard => exact execCommitGroupDiscard_kept ..
  | commitGroupQuery => exact execCommitGroupQuery_kept ..
  | jobStepBind => exact execJobStepBind_kept ..
  | jobStepUnbind => exact execJobStepUnbind_kept ..
  | treeForm => exact execTreeForm_kept ..
  | jobFault => exact execJobFault_kept ..
  | spdm => exact execSpdm_kept ..
  | keyDeliver => exact execKeyDeliver_kept ..
  | keyErase => exact execKeyErase_kept ..
  | keyQuery => exact execKeyQuery_kept ..
  | spdmSessionTimeout => exact execSpdmSessionTimeout_kept ..
  | confModeEnter => exact execConfModeEnter_kept ..
  | confModeLeave => exact execConfModeLeave_kept ..
  | confModeKeyUpdate => exact execConfModeKeyUpdate_kept ..
  | keyRelease => exact execKeyRelease_kept ..
  | keyReleaseErase => exact execKeyReleaseErase_kept ..
  | keyReleaseQuery => exact execKeyReleaseQuery_kept ..
  | debugUnlockChallenge => exact execDebugUnlockChallenge_kept ..
  | debugUnlock => exact execDebugUnlock_kept ..
  | debugZeroiseTimeout => exact execDebugZeroiseTimeout_kept ..
  | powerStateForce => exact execPowerStateForce_kept ..
  | powerStateRelease => exact execPowerStateRelease_kept ..
  | powerStateSetDivider => exact execPowerStateSetDivider_kept ..
  | ltol => exact execLtol_kept ..
  | powerCap => exact execPowerCap_kept ..
  | powerStatus => exact execPowerStatus_kept ..
  | faultConfigWrite => exact execFaultConfigWrite_kept ..
  | faultConfigRead => exact execFaultConfigRead_kept ..
  | faultConfigFaultN => exact execFaultConfigFaultN_kept ..
  | faultConfigRelease => exact execFaultConfigRelease_kept ..
  | faultConfigPatrol => exact execFaultConfigPatrol_kept ..
  | faultConfigInject => exact execFaultConfigInject_kept ..
  | faultConfigWatchdog => exact execFaultConfigWatchdog_kept ..
  | faultRecordsRead => exact execFaultRecordsRead_kept ..
  | faultRecordsPersistent => exact execFaultRecordsPersistent_kept ..
  | memStatus => exact execMemStatus_kept ..
  | corrLog => exact execCorrLog_kept ..
  | portStatus => exact execPortStatus_kept ..
  | fabricStatus => exact execFabricStatus_kept ..
  | fwUpdateWrite => exact execFwUpdateWrite_kept ..
  | fwUpdateQuery => exact execFwUpdateQuery_kept ..
  | logRead => exact execLogRead_kept ..
  | crashDumpRead => exact execCrashDumpRead_kept ..
  | crashDumpClear => exact execCrashDumpClear_kept ..
  | submissionTaskEntry => exact execSubmissionTaskEntry_kept ..
  | q1SubmissionEntry => exact execQ1SubmissionEntry_kept ..
  | submissionArmEntry => exact execSubmissionArmEntry_kept ..
  | queueEntryPlaced => exact execQueueEntryPlaced_kept ..
  | taskDispatch => exact execTaskDispatch_kept ..
  | dispatchAgeing => exact execDispatchAgeing_kept ..
  | passEnd => exact execPassEnd_kept ..
  | chunkDrainEnd => exact execChunkDrainEnd_kept ..
  | copyBlockEnd => exact execCopyBlockEnd_kept ..
  | taskEnd => exact execTaskEnd_kept ..
  | signalArrival => exact execSignalArrival_kept ..
  | tableSetSwap => exact execTableSetSwap_kept ..
  | stateSaveComplete => exact execStateSaveComplete_kept ..
  | stateRestoreComplete => exact execStateRestoreComplete_kept ..
  | isleAccess => exact execIsleAccess_kept ..
  | isleScrubWrite => exact execIsleScrubWrite_kept ..
  | scrubAbandon => exact execScrubAbandon_kept ..
  | dependencyTimeout => exact execDependencyTimeout_kept ..
  | preemptionDeadline => exact execPreemptionDeadline_kept ..
  | contextStopped => exact execContextStopped_kept ..
  | stopTimeout => exact execStopTimeout_kept ..
  | teardownComplete => exact execTeardownComplete_kept ..
  | streamIssue => exact execStreamIssue_kept ..
  | backgroundAgeing => exact execBackgroundAgeing_kept ..
  | streamResponse => exact execStreamResponse_kept ..
  | mcastCredit => exact execMcastCredit_kept ..
  | mcastTileArrival => exact execMcastTileArrival_kept ..
  | versionResolution => exact execVersionResolution_kept ..
  | tagTimeout => exact execTagTimeout_kept ..
  | tagQuarantineEnd => exact execTagQuarantineEnd_kept ..
  | nmuRequestArrival => exact execNmuRequestArrival_kept ..
  | sorterAdmit => exact execSorterAdmit_kept ..
  | bankService => exact execBankService_kept ..
  | dramRefresh => exact execDramRefresh_kept ..
  | stageClaimsGranted => exact execStageClaimsGranted_kept ..
  | stageTimeout => exact execStageTimeout_kept ..
  | stageKernelsEnd => exact execStageKernelsEnd_kept ..
  | formatRefresh => exact execFormatRefresh_kept ..
  | migrationHoldersEnded => exact execMigrationHoldersEnded_kept ..
  | migrationTimeout => exact execMigrationTimeout_kept ..
  | migrationCopyComplete => exact execMigrationCopyComplete_kept ..
  | hello => exact execHello_kept ..
  | treeOk => exact execTreeOk_kept ..
  | treeFormTimeout => exact execTreeFormTimeout_kept ..
  | vote => exact execVote_kept ..
  | voteTimeout => exact execVoteTimeout_kept ..
  | decide => exact execDecide_kept ..
  | decisionTimeout => exact execDecisionTimeout_kept ..
  | fault => exact execFault_kept ..
  | restart => exact execRestart_kept ..
  | restartStopComplete => exact execRestartStopComplete_kept ..
  | stateRpt => exact execStateRpt_kept ..
  | restartHoldEnd => exact execRestartHoldEnd_kept ..
  | resume => exact execResume_kept ..
  | restartTimeout => exact execRestartTimeout_kept ..
  | trainingFrame => exact execTrainingFrame_kept ..
  | trainingTimeout => exact execTrainingTimeout_kept ..
  | trainingWaitEnd => exact execTrainingWaitEnd_kept ..
  | fastRetrainTimeout => exact execFastRetrainTimeout_kept ..
  | codeword => exact execCodeword_kept ..
  | flitReceive => exact execFlitReceive_kept ..
  | flitTransmit => exact execFlitTransmit_kept ..
  | replayTimeout => exact execReplayTimeout_kept ..
  | recoveryTimeout => exact execRecoveryTimeout_kept ..
  | idleFlitTimer => exact execIdleFlitTimer_kept ..
  | creditRelease => exact execCreditRelease_kept ..
  | lsymWindowEnd => exact execLsymWindowEnd_kept ..
  | laneLockLoss => exact execLaneLockLoss_kept ..
  | disableDrainTimeout => exact execDisableDrainTimeout_kept ..
  | config => exact execConfig_kept ..
  | retrain => exact execRetrain_kept ..
  | down => exact execDown_kept ..
  | echoReq => exact execEchoReq_kept ..
  | echoRsp => exact execEchoRsp_kept ..
  | put => exact execPut_kept ..
  | getReq => exact execGetReq_kept ..
  | putAck => exact execPutAck_kept ..
  | getRsp => exact execGetRsp_kept ..
  | nack => exact execNack_kept ..
  | red => exact execRed_kept ..
  | dlv => exact execDlv_kept ..
  | rep => exact execRep_kept ..
  | bar => exact execBar_kept ..
  | barRel => exact execBarRel_kept ..
  | packetForward => exact execPacketForward_kept ..
  | packetQueueTimeout => exact execPacketQueueTimeout_kept ..
  | collectiveTimeout => exact execCollectiveTimeout_kept ..
  | faultSweep => exact execFaultSweep_kept ..
  | blockResetComplete => exact execBlockResetComplete_kept ..
  | faultNPulseEnd => exact execFaultNPulseEnd_kept ..
  | faultNGapEnd => exact execFaultNGapEnd_kept ..
  | faultNHoldRelease => exact execFaultNHoldRelease_kept ..
  | islePatrolRead => exact execIslePatrolRead_kept ..
  | stackPatrolRead => exact execStackPatrolRead_kept ..
  | controlSramPatrol => exact execControlSramPatrol_kept ..
  | watchdogKick => exact execWatchdogKick_kept ..
  | watchdogFirstExpiry => exact execWatchdogFirstExpiry_kept ..
  | watchdogSecondExpiry => exact execWatchdogSecondExpiry_kept ..
  | enclaveWatchdogExpiry => exact execEnclaveWatchdogExpiry_kept ..
  | powerSample => exact execPowerSample_kept ..
  | inputVoltageLow => exact execInputVoltageLow_kept ..
  | inputVoltageOutOfRange => exact execInputVoltageOutOfRange_kept ..
  | fastLimit => exact execFastLimit_kept ..
  | fastLimitEnd => exact execFastLimitEnd_kept ..
  | inputOvercurrent => exact execInputOvercurrent_kept ..
  | powerCapWindow => exact execPowerCapWindow_kept ..
  | thermalSample => exact execThermalSample_kept ..
  | thermalWindow => exact execThermalWindow_kept ..
  | thermalTrip => exact execThermalTrip_kept ..
  | dividerChange => exact execDividerChange_kept ..
  | domainIdleDescent => exact execDomainIdleDescent_kept ..
  | domainWake => exact execDomainWake_kept ..
  | railPowerGoodLost => exact execRailPowerGoodLost_kept ..
  | pllLock => exact execPllLock_kept ..
  | pllLockTimeout => exact execPllLockTimeout_kept ..
  | pllLockLoss => exact execPllLockLoss_kept ..
  | alwaysOnPowerUp => exact execAlwaysOnPowerUp_kept ..
  | alwaysOnPowerLoss => exact execAlwaysOnPowerLoss_kept ..
  | pwrEnAssert => exact execPwrEnAssert_kept ..
  | railsInRegulation => exact execRailsInRegulation_kept ..
  | railRegulationTimeout => exact execRailRegulationTimeout_kept ..
  | pwrEnDeassert => exact execPwrEnDeassert_kept ..
  | resetNAssert => exact execResetNAssert_kept ..
  | resetNDeassert => exact execResetNDeassert_kept ..
  | chipResetHoldEnd => exact execChipResetHoldEnd_kept ..
  | perstNAssert => exact execPerstNAssert_kept ..
  | perstNDeassert => exact execPerstNDeassert_kept ..
  | eoffNAssert => exact execEoffNAssert_kept ..
  | eoffNDeassert => exact execEoffNDeassert_kept ..
  | strapChange => exact execStrapChange_kept ..
  | enclaveBootComplete => exact execEnclaveBootComplete_kept ..
  | stackTrainingTimeout => exact execStackTrainingTimeout_kept ..
  | arraySelfTestComplete => exact execArraySelfTestComplete_kept ..
  | droverInitTimeout => exact execDroverInitTimeout_kept ..
  | sbSetReadPointer => exact execSbSetReadPointer_kept ..
  | sbRegisterRead => exact execSbRegisterRead_kept ..
  | sbMbDataWrite => exact execSbMbDataWrite_kept ..
  | sbMbDataRead => exact execSbMbDataRead_kept ..
  | sbMbLenWrite => exact execSbMbLenWrite_kept ..
  | sbEvtClear => exact execSbEvtClear_kept ..
  | smbusAlertResponse => exact execSmbusAlertResponse_kept ..
  | sbMbAbort => exact execSbMbAbort_kept ..
  | fwWrite => exact execFwWrite_kept ..
  | sbLogRead => exact execSbLogRead_kept ..
  | dumpRead => exact execDumpRead_kept ..
  | dumpClear => exact execDumpClear_kept ..
  | fstoreRead => exact execFstoreRead_kept ..
  | chipReset => exact execChipReset_kept ..
  | sbMbWordTimeout => exact execSbMbWordTimeout_kept ..
  | mctpPacket => exact execMctpPacket_kept ..
  | mctpReassemblyTimeout => exact execMctpReassemblyTimeout_kept ..
  | setEndpointId => exact execSetEndpointId_kept ..
  | getEndpointId => exact execGetEndpointId_kept ..
  | getEndpointUuid => exact execGetEndpointUuid_kept ..
  | getMctpVersionSupport => exact execGetMctpVersionSupport_kept ..
  | getMessageTypeSupport => exact execGetMessageTypeSupport_kept ..
  | samplePreload => exact execSamplePreload_kept ..
  | extest => exact execExtest_kept ..
  | clamp => exact execClamp_kept ..
  | highz => exact execHighz_kept ..
  | extestPulse => exact execExtestPulse_kept ..
  | extestTrain => exact execExtestTrain_kept ..
  | bypass => exact execBypass_kept ..
  | tapPrivateInstruction => exact execTapPrivateInstruction_kept ..
  | tapReset => exact execTapReset_kept ..
  | hostReadCompletion => exact execHostReadCompletion_kept ..
  | zeroingComplete => exact execZeroingComplete_kept ..
  | regenerationComplete => exact execRegenerationComplete_kept ..
  | regenerationTimeout => exact execRegenerationTimeout_kept ..
  | flashProgrammingComplete => exact execFlashProgrammingComplete_kept ..
  | crashCaptureComplete => exact execCrashCaptureComplete_kept ..
  | restartStopTimeout => exact execRestartStopTimeout_kept ..
  | stateReportTimeout => exact execStateReportTimeout_kept ..
  | forcedStateReached => exact execForcedStateReached_kept ..

/-- Every command answers a next state whose memory has its canonical form. -/
theorem exec_mo (i : Instr) {s : State} (hs : s.mo) : ∃ q, exec i s = .next q ∧ q.mo := by
  cases i with
  | registerWrite => exact execRegisterWrite_mo (hs := hs) ..
  | unmappedRegisterAccess => exact execUnmappedRegisterAccess_mo (hs := hs) ..
  | mailboxEnable => exact execMailboxEnable_mo (hs := hs) ..
  | mailboxDisable => exact execMailboxDisable_mo (hs := hs) ..
  | mailboxDoorbell => exact execMailboxDoorbell_mo (hs := hs) ..
  | mailboxResponseDoorbell => exact execMailboxResponseDoorbell_mo (hs := hs) ..
  | submissionDoorbell => exact execSubmissionDoorbell_mo (hs := hs) ..
  | completionDoorbell => exact execCompletionDoorbell_mo (hs := hs) ..
  | completionInterruptTimer => exact execCompletionInterruptTimer_mo (hs := hs) ..
  | msixVectorUnmask => exact execMsixVectorUnmask_mo (hs := hs) ..
  | configRequest => exact execConfigRequest_mo (hs := hs) ..
  | configImageLoaded => exact execConfigImageLoaded_mo (hs := hs) ..
  | vfEnableSet => exact execVfEnableSet_mo (hs := hs) ..
  | vfEnableClear => exact execVfEnableClear_mo (hs := hs) ..
  | vfFlr => exact execVfFlr_mo (hs := hs) ..
  | pfFlr => exact execPfFlr_mo (hs := hs) ..
  | pcieHotReset => exact execPcieHotReset_mo (hs := hs) ..
  | pcieLinkDown => exact execPcieLinkDown_mo (hs := hs) ..
  | busMasterEnableClear => exact execBusMasterEnableClear_mo (hs := hs) ..
  | busMasterEnableSet => exact execBusMasterEnableSet_mo (hs := hs) ..
  | hostCopyBmeTimeout => exact execHostCopyBmeTimeout_mo (hs := hs) ..
  | hostReadError => exact execHostReadError_mo (hs := hs) ..
  | nop => exact execNop_mo (hs := hs) ..
  | deviceInfo => exact execDeviceInfo_mo (hs := hs) ..
  | partLayout => exact execPartLayout_mo (hs := hs) ..
  | partConfig => exact execPartConfig_mo (hs := hs) ..
  | ctxCreate => exact execCtxCreate_mo (hs := hs) ..
  | ctxDestroy => exact execCtxDestroy_mo (hs := hs) ..
  | ctxStop => exact execCtxStop_mo (hs := hs) ..
  | ctxResume => exact execCtxResume_mo (hs := hs) ..
  | ctxReset => exact execCtxReset_mo (hs := hs) ..
  | ctxEvict => exact execCtxEvict_mo (hs := hs) ..
  | ctxRestore => exact execCtxRestore_mo (hs := hs) ..
  | ctxStatus => exact execCtxStatus_mo (hs := hs) ..
  | clientQuery => exact execClientQuery_mo (hs := hs) ..
  | clientSetQuota => exact execClientSetQuota_mo (hs := hs) ..
  | clientClear => exact execClientClear_mo (hs := hs) ..
  | segCreate => exact execSegCreate_mo (hs := hs) ..
  | segQuery => exact execSegQuery_mo (hs := hs) ..
  | segProtect => exact execSegProtect_mo (hs := hs) ..
  | segMigrate => exact execSegMigrate_mo (hs := hs) ..
  | segDelete => exact execSegDelete_mo (hs := hs) ..
  | pgroupCreate => exact execPgroupCreate_mo (hs := hs) ..
  | pgroupDelete => exact execPgroupDelete_mo (hs := hs) ..
  | nmuProgramLoad => exact execNmuProgramLoad_mo (hs := hs) ..
  | nmuProgramDelete => exact execNmuProgramDelete_mo (hs := hs) ..
  | stateLoad => exact execStateLoad_mo (hs := hs) ..
  | stateExport => exact execStateExport_mo (hs := hs) ..
  | weightImport => exact execWeightImport_mo (hs := hs) ..
  | hostCopy => exact execHostCopy_mo (hs := hs) ..
  | ringCreateSubmission => exact execRingCreateSubmission_mo (hs := hs) ..
  | ringCreateCompletion => exact execRingCreateCompletion_mo (hs := hs) ..
  | ringDestroy => exact execRingDestroy_mo (hs := hs) ..
  | ringReset => exact execRingReset_mo (hs := hs) ..
  | ringBindNotice => exact execRingBindNotice_mo (hs := hs) ..
  | counter => exact execCounter_mo (hs := hs) ..
  | streamSlotAllocate => exact execStreamSlotAllocate_mo (hs := hs) ..
  | streamSlotFree => exact execStreamSlotFree_mo (hs := hs) ..
  | streamArm => exact execStreamArm_mo (hs := hs) ..
  | streamCancel => exact execStreamCancel_mo (hs := hs) ..
  | streamStatus => exact execStreamStatus_mo (hs := hs) ..
  | bankCap => exact execBankCap_mo (hs := hs) ..
  | tagtmo => exact execTagtmo_mo (hs := hs) ..
  | mcastGroupCreate => exact execMcastGroupCreate_mo (hs := hs) ..
  | mcastGroupDelete => exact execMcastGroupDelete_mo (hs := hs) ..
  | layoutCreate => exact execLayoutCreate_mo (hs := hs) ..
  | layoutDelete => exact execLayoutDelete_mo (hs := hs) ..
  | histogramRead => exact execHistogramRead_mo (hs := hs) ..
  | histogramClear => exact execHistogramClear_mo (hs := hs) ..
  | formatTableWrite => exact execFormatTableWrite_mo (hs := hs) ..
  | formatTableRead => exact execFormatTableRead_mo (hs := hs) ..
  | q1Tblload => exact execQ1Tblload_mo (hs := hs) ..
  | deviceId => exact execDeviceId_mo (hs := hs) ..
  | jobJoin => exact execJobJoin_mo (hs := hs) ..
  | jobLeave => exact execJobLeave_mo (hs := hs) ..
  | route => exact execRoute_mo (hs := hs) ..
  | windowOpen => exact execWindowOpen_mo (hs := hs) ..
  | windowClose => exact execWindowClose_mo (hs := hs) ..
  | collective => exact execCollective_mo (hs := hs) ..
  | collCancel => exact execCollCancel_mo (hs := hs) ..
  | portEnable => exact execPortEnable_mo (hs := hs) ..
  | portDisable => exact execPortDisable_mo (hs := hs) ..
  | portLaneRestore => exact execPortLaneRestore_mo (hs := hs) ..
  | portCreditAllocation => exact execPortCreditAllocation_mo (hs := hs) ..
  | role => exact execRole_mo (hs := hs) ..
  | optSetCreate => exact execOptSetCreate_mo (hs := hs) ..
  | optSetDelete => exact execOptSetDelete_mo (hs := hs) ..
  | optSetQuery => exact execOptSetQuery_mo (hs := hs) ..
  | updateStage => exact execUpdateStage_mo (hs := hs) ..
  | setResolveCommit => exact execSetResolveCommit_mo (hs := hs) ..
  | setResolveAbort => exact execSetResolveAbort_mo (hs := hs) ..
  | stepBind => exact execStepBind_mo (hs := hs) ..
  | lossScaleSet => exact execLossScaleSet_mo (hs := hs) ..
  | lossScaleQuery => exact execLossScaleQuery_mo (hs := hs) ..
  | commitGroupStage => exact execCommitGroupStage_mo (hs := hs) ..
  | commitGroupApply => exact execCommitGroupApply_mo (hs := hs) ..
  | commitGroupBind => exact execCommitGroupBind_mo (hs := hs) ..
  | commitGroupDiscard => exact execCommitGroupDiscard_mo (hs := hs) ..
  | commitGroupQuery => exact execCommitGroupQuery_mo (hs := hs) ..
  | jobStepBind => exact execJobStepBind_mo (hs := hs) ..
  | jobStepUnbind => exact execJobStepUnbind_mo (hs := hs) ..
  | treeForm => exact execTreeForm_mo (hs := hs) ..
  | jobFault => exact execJobFault_mo (hs := hs) ..
  | spdm => exact execSpdm_mo (hs := hs) ..
  | keyDeliver => exact execKeyDeliver_mo (hs := hs) ..
  | keyErase => exact execKeyErase_mo (hs := hs) ..
  | keyQuery => exact execKeyQuery_mo (hs := hs) ..
  | spdmSessionTimeout => exact execSpdmSessionTimeout_mo (hs := hs) ..
  | confModeEnter => exact execConfModeEnter_mo (hs := hs) ..
  | confModeLeave => exact execConfModeLeave_mo (hs := hs) ..
  | confModeKeyUpdate => exact execConfModeKeyUpdate_mo (hs := hs) ..
  | keyRelease => exact execKeyRelease_mo (hs := hs) ..
  | keyReleaseErase => exact execKeyReleaseErase_mo (hs := hs) ..
  | keyReleaseQuery => exact execKeyReleaseQuery_mo (hs := hs) ..
  | debugUnlockChallenge => exact execDebugUnlockChallenge_mo (hs := hs) ..
  | debugUnlock => exact execDebugUnlock_mo (hs := hs) ..
  | debugZeroiseTimeout => exact execDebugZeroiseTimeout_mo (hs := hs) ..
  | powerStateForce => exact execPowerStateForce_mo (hs := hs) ..
  | powerStateRelease => exact execPowerStateRelease_mo (hs := hs) ..
  | powerStateSetDivider => exact execPowerStateSetDivider_mo (hs := hs) ..
  | ltol => exact execLtol_mo (hs := hs) ..
  | powerCap => exact execPowerCap_mo (hs := hs) ..
  | powerStatus => exact execPowerStatus_mo (hs := hs) ..
  | faultConfigWrite => exact execFaultConfigWrite_mo (hs := hs) ..
  | faultConfigRead => exact execFaultConfigRead_mo (hs := hs) ..
  | faultConfigFaultN => exact execFaultConfigFaultN_mo (hs := hs) ..
  | faultConfigRelease => exact execFaultConfigRelease_mo (hs := hs) ..
  | faultConfigPatrol => exact execFaultConfigPatrol_mo (hs := hs) ..
  | faultConfigInject => exact execFaultConfigInject_mo (hs := hs) ..
  | faultConfigWatchdog => exact execFaultConfigWatchdog_mo (hs := hs) ..
  | faultRecordsRead => exact execFaultRecordsRead_mo (hs := hs) ..
  | faultRecordsPersistent => exact execFaultRecordsPersistent_mo (hs := hs) ..
  | memStatus => exact execMemStatus_mo (hs := hs) ..
  | corrLog => exact execCorrLog_mo (hs := hs) ..
  | portStatus => exact execPortStatus_mo (hs := hs) ..
  | fabricStatus => exact execFabricStatus_mo (hs := hs) ..
  | fwUpdateWrite => exact execFwUpdateWrite_mo (hs := hs) ..
  | fwUpdateQuery => exact execFwUpdateQuery_mo (hs := hs) ..
  | logRead => exact execLogRead_mo (hs := hs) ..
  | crashDumpRead => exact execCrashDumpRead_mo (hs := hs) ..
  | crashDumpClear => exact execCrashDumpClear_mo (hs := hs) ..
  | submissionTaskEntry => exact execSubmissionTaskEntry_mo (hs := hs) ..
  | q1SubmissionEntry => exact execQ1SubmissionEntry_mo (hs := hs) ..
  | submissionArmEntry => exact execSubmissionArmEntry_mo (hs := hs) ..
  | queueEntryPlaced => exact execQueueEntryPlaced_mo (hs := hs) ..
  | taskDispatch => exact execTaskDispatch_mo (hs := hs) ..
  | dispatchAgeing => exact execDispatchAgeing_mo (hs := hs) ..
  | passEnd => exact execPassEnd_mo (hs := hs) ..
  | chunkDrainEnd => exact execChunkDrainEnd_mo (hs := hs) ..
  | copyBlockEnd => exact execCopyBlockEnd_mo (hs := hs) ..
  | taskEnd => exact execTaskEnd_mo (hs := hs) ..
  | signalArrival => exact execSignalArrival_mo (hs := hs) ..
  | tableSetSwap => exact execTableSetSwap_mo (hs := hs) ..
  | stateSaveComplete => exact execStateSaveComplete_mo (hs := hs) ..
  | stateRestoreComplete => exact execStateRestoreComplete_mo (hs := hs) ..
  | isleAccess => exact execIsleAccess_mo (hs := hs) ..
  | isleScrubWrite => exact execIsleScrubWrite_mo (hs := hs) ..
  | scrubAbandon => exact execScrubAbandon_mo (hs := hs) ..
  | dependencyTimeout => exact execDependencyTimeout_mo (hs := hs) ..
  | preemptionDeadline => exact execPreemptionDeadline_mo (hs := hs) ..
  | contextStopped => exact execContextStopped_mo (hs := hs) ..
  | stopTimeout => exact execStopTimeout_mo (hs := hs) ..
  | teardownComplete => exact execTeardownComplete_mo (hs := hs) ..
  | streamIssue => exact execStreamIssue_mo (hs := hs) ..
  | backgroundAgeing => exact execBackgroundAgeing_mo (hs := hs) ..
  | streamResponse => exact execStreamResponse_mo (hs := hs) ..
  | mcastCredit => exact execMcastCredit_mo (hs := hs) ..
  | mcastTileArrival => exact execMcastTileArrival_mo (hs := hs) ..
  | versionResolution => exact execVersionResolution_mo (hs := hs) ..
  | tagTimeout => exact execTagTimeout_mo (hs := hs) ..
  | tagQuarantineEnd => exact execTagQuarantineEnd_mo (hs := hs) ..
  | nmuRequestArrival => exact execNmuRequestArrival_mo (hs := hs) ..
  | sorterAdmit => exact execSorterAdmit_mo (hs := hs) ..
  | bankService => exact execBankService_mo (hs := hs) ..
  | dramRefresh => exact execDramRefresh_mo (hs := hs) ..
  | stageClaimsGranted => exact execStageClaimsGranted_mo (hs := hs) ..
  | stageTimeout => exact execStageTimeout_mo (hs := hs) ..
  | stageKernelsEnd => exact execStageKernelsEnd_mo (hs := hs) ..
  | formatRefresh => exact execFormatRefresh_mo (hs := hs) ..
  | migrationHoldersEnded => exact execMigrationHoldersEnded_mo (hs := hs) ..
  | migrationTimeout => exact execMigrationTimeout_mo (hs := hs) ..
  | migrationCopyComplete => exact execMigrationCopyComplete_mo (hs := hs) ..
  | hello => exact execHello_mo (hs := hs) ..
  | treeOk => exact execTreeOk_mo (hs := hs) ..
  | treeFormTimeout => exact execTreeFormTimeout_mo (hs := hs) ..
  | vote => exact execVote_mo (hs := hs) ..
  | voteTimeout => exact execVoteTimeout_mo (hs := hs) ..
  | decide => exact execDecide_mo (hs := hs) ..
  | decisionTimeout => exact execDecisionTimeout_mo (hs := hs) ..
  | fault => exact execFault_mo (hs := hs) ..
  | restart => exact execRestart_mo (hs := hs) ..
  | restartStopComplete => exact execRestartStopComplete_mo (hs := hs) ..
  | stateRpt => exact execStateRpt_mo (hs := hs) ..
  | restartHoldEnd => exact execRestartHoldEnd_mo (hs := hs) ..
  | resume => exact execResume_mo (hs := hs) ..
  | restartTimeout => exact execRestartTimeout_mo (hs := hs) ..
  | trainingFrame => exact execTrainingFrame_mo (hs := hs) ..
  | trainingTimeout => exact execTrainingTimeout_mo (hs := hs) ..
  | trainingWaitEnd => exact execTrainingWaitEnd_mo (hs := hs) ..
  | fastRetrainTimeout => exact execFastRetrainTimeout_mo (hs := hs) ..
  | codeword => exact execCodeword_mo (hs := hs) ..
  | flitReceive => exact execFlitReceive_mo (hs := hs) ..
  | flitTransmit => exact execFlitTransmit_mo (hs := hs) ..
  | replayTimeout => exact execReplayTimeout_mo (hs := hs) ..
  | recoveryTimeout => exact execRecoveryTimeout_mo (hs := hs) ..
  | idleFlitTimer => exact execIdleFlitTimer_mo (hs := hs) ..
  | creditRelease => exact execCreditRelease_mo (hs := hs) ..
  | lsymWindowEnd => exact execLsymWindowEnd_mo (hs := hs) ..
  | laneLockLoss => exact execLaneLockLoss_mo (hs := hs) ..
  | disableDrainTimeout => exact execDisableDrainTimeout_mo (hs := hs) ..
  | config => exact execConfig_mo (hs := hs) ..
  | retrain => exact execRetrain_mo (hs := hs) ..
  | down => exact execDown_mo (hs := hs) ..
  | echoReq => exact execEchoReq_mo (hs := hs) ..
  | echoRsp => exact execEchoRsp_mo (hs := hs) ..
  | put => exact execPut_mo (hs := hs) ..
  | getReq => exact execGetReq_mo (hs := hs) ..
  | putAck => exact execPutAck_mo (hs := hs) ..
  | getRsp => exact execGetRsp_mo (hs := hs) ..
  | nack => exact execNack_mo (hs := hs) ..
  | red => exact execRed_mo (hs := hs) ..
  | dlv => exact execDlv_mo (hs := hs) ..
  | rep => exact execRep_mo (hs := hs) ..
  | bar => exact execBar_mo (hs := hs) ..
  | barRel => exact execBarRel_mo (hs := hs) ..
  | packetForward => exact execPacketForward_mo (hs := hs) ..
  | packetQueueTimeout => exact execPacketQueueTimeout_mo (hs := hs) ..
  | collectiveTimeout => exact execCollectiveTimeout_mo (hs := hs) ..
  | faultSweep => exact execFaultSweep_mo (hs := hs) ..
  | blockResetComplete => exact execBlockResetComplete_mo (hs := hs) ..
  | faultNPulseEnd => exact execFaultNPulseEnd_mo (hs := hs) ..
  | faultNGapEnd => exact execFaultNGapEnd_mo (hs := hs) ..
  | faultNHoldRelease => exact execFaultNHoldRelease_mo (hs := hs) ..
  | islePatrolRead => exact execIslePatrolRead_mo (hs := hs) ..
  | stackPatrolRead => exact execStackPatrolRead_mo (hs := hs) ..
  | controlSramPatrol => exact execControlSramPatrol_mo (hs := hs) ..
  | watchdogKick => exact execWatchdogKick_mo (hs := hs) ..
  | watchdogFirstExpiry => exact execWatchdogFirstExpiry_mo (hs := hs) ..
  | watchdogSecondExpiry => exact execWatchdogSecondExpiry_mo (hs := hs) ..
  | enclaveWatchdogExpiry => exact execEnclaveWatchdogExpiry_mo (hs := hs) ..
  | powerSample => exact execPowerSample_mo (hs := hs) ..
  | inputVoltageLow => exact execInputVoltageLow_mo (hs := hs) ..
  | inputVoltageOutOfRange => exact execInputVoltageOutOfRange_mo (hs := hs) ..
  | fastLimit => exact execFastLimit_mo (hs := hs) ..
  | fastLimitEnd => exact execFastLimitEnd_mo (hs := hs) ..
  | inputOvercurrent => exact execInputOvercurrent_mo (hs := hs) ..
  | powerCapWindow => exact execPowerCapWindow_mo (hs := hs) ..
  | thermalSample => exact execThermalSample_mo (hs := hs) ..
  | thermalWindow => exact execThermalWindow_mo (hs := hs) ..
  | thermalTrip => exact execThermalTrip_mo (hs := hs) ..
  | dividerChange => exact execDividerChange_mo (hs := hs) ..
  | domainIdleDescent => exact execDomainIdleDescent_mo (hs := hs) ..
  | domainWake => exact execDomainWake_mo (hs := hs) ..
  | railPowerGoodLost => exact execRailPowerGoodLost_mo (hs := hs) ..
  | pllLock => exact execPllLock_mo (hs := hs) ..
  | pllLockTimeout => exact execPllLockTimeout_mo (hs := hs) ..
  | pllLockLoss => exact execPllLockLoss_mo (hs := hs) ..
  | alwaysOnPowerUp => exact execAlwaysOnPowerUp_mo (hs := hs) ..
  | alwaysOnPowerLoss => exact execAlwaysOnPowerLoss_mo s
  | pwrEnAssert => exact execPwrEnAssert_mo (hs := hs) ..
  | railsInRegulation => exact execRailsInRegulation_mo (hs := hs) ..
  | railRegulationTimeout => exact execRailRegulationTimeout_mo (hs := hs) ..
  | pwrEnDeassert => exact execPwrEnDeassert_mo (hs := hs) ..
  | resetNAssert => exact execResetNAssert_mo (hs := hs) ..
  | resetNDeassert => exact execResetNDeassert_mo (hs := hs) ..
  | chipResetHoldEnd => exact execChipResetHoldEnd_mo (hs := hs) ..
  | perstNAssert => exact execPerstNAssert_mo (hs := hs) ..
  | perstNDeassert => exact execPerstNDeassert_mo (hs := hs) ..
  | eoffNAssert => exact execEoffNAssert_mo (hs := hs) ..
  | eoffNDeassert => exact execEoffNDeassert_mo (hs := hs) ..
  | strapChange => exact execStrapChange_mo (hs := hs) ..
  | enclaveBootComplete => exact execEnclaveBootComplete_mo (hs := hs) ..
  | stackTrainingTimeout => exact execStackTrainingTimeout_mo (hs := hs) ..
  | arraySelfTestComplete => exact execArraySelfTestComplete_mo (hs := hs) ..
  | droverInitTimeout => exact execDroverInitTimeout_mo (hs := hs) ..
  | ready => exact execReady_mo (hs := hs) ..
  | sbSetReadPointer => exact execSbSetReadPointer_mo (hs := hs) ..
  | sbRegisterRead => exact execSbRegisterRead_mo (hs := hs) ..
  | sbMbDataWrite => exact execSbMbDataWrite_mo (hs := hs) ..
  | sbMbDataRead => exact execSbMbDataRead_mo (hs := hs) ..
  | sbMbLenWrite => exact execSbMbLenWrite_mo (hs := hs) ..
  | sbEvtClear => exact execSbEvtClear_mo (hs := hs) ..
  | smbusAlertResponse => exact execSmbusAlertResponse_mo (hs := hs) ..
  | sbMbAbort => exact execSbMbAbort_mo (hs := hs) ..
  | fwWrite => exact execFwWrite_mo (hs := hs) ..
  | sbLogRead => exact execSbLogRead_mo (hs := hs) ..
  | dumpRead => exact execDumpRead_mo (hs := hs) ..
  | dumpClear => exact execDumpClear_mo (hs := hs) ..
  | fstoreRead => exact execFstoreRead_mo (hs := hs) ..
  | chipReset => exact execChipReset_mo (hs := hs) ..
  | sbMbWordTimeout => exact execSbMbWordTimeout_mo (hs := hs) ..
  | mctpPacket => exact execMctpPacket_mo (hs := hs) ..
  | mctpReassemblyTimeout => exact execMctpReassemblyTimeout_mo (hs := hs) ..
  | setEndpointId => exact execSetEndpointId_mo (hs := hs) ..
  | getEndpointId => exact execGetEndpointId_mo (hs := hs) ..
  | getEndpointUuid => exact execGetEndpointUuid_mo (hs := hs) ..
  | getMctpVersionSupport => exact execGetMctpVersionSupport_mo (hs := hs) ..
  | getMessageTypeSupport => exact execGetMessageTypeSupport_mo (hs := hs) ..
  | samplePreload => exact execSamplePreload_mo (hs := hs) ..
  | extest => exact execExtest_mo (hs := hs) ..
  | clamp => exact execClamp_mo (hs := hs) ..
  | highz => exact execHighz_mo (hs := hs) ..
  | extestPulse => exact execExtestPulse_mo (hs := hs) ..
  | extestTrain => exact execExtestTrain_mo (hs := hs) ..
  | bypass => exact execBypass_mo (hs := hs) ..
  | tapPrivateInstruction => exact execTapPrivateInstruction_mo (hs := hs) ..
  | tapReset => exact execTapReset_mo (hs := hs) ..
  | hostReadCompletion => exact execHostReadCompletion_mo (hs := hs) ..
  | zeroingComplete => exact execZeroingComplete_mo (hs := hs) ..
  | regenerationComplete => exact execRegenerationComplete_mo (hs := hs) ..
  | regenerationTimeout => exact execRegenerationTimeout_mo (hs := hs) ..
  | flashProgrammingComplete => exact execFlashProgrammingComplete_mo (hs := hs) ..
  | crashCaptureComplete => exact execCrashCaptureComplete_mo (hs := hs) ..
  | restartStopTimeout => exact execRestartStopTimeout_mo (hs := hs) ..
  | stateReportTimeout => exact execStateReportTimeout_mo (hs := hs) ..
  | forcedStateReached => exact execForcedStateReached_mo (hs := hs) ..

theorem pending_of_kept {s t : State} (h : t.kept = s.kept) : t.pending = s.pending := congrArg (·.1) h

theorem fixedFuses_of_kept {s t : State} (h : t.kept = s.kept) : t.fixedFuses = s.fixedFuses :=
  congrArg (fun k => (k.2.1, k.2.2.1, k.2.2.2.2.1, k.2.2.2.2.2)) h

theorem fusedSvn_of_kept {s t : State} (h : t.kept = s.kept) (k : Nat) : t.fusedSvn k = s.fusedSvn k :=
  congrArg (fun x => x.2.2.2.1.getD k 0) h

/-- Every command answers a next state; the queue and the fuses of R518 stay, and no security version falls. READY alone is the
command that may raise one (R523). -/
theorem exec_fuses (i : Instr) (s : State) : ∃ q, exec i s = .next q ∧ q.pending = s.pending ∧ q.fixedFuses = s.fixedFuses ∧
    ∀ k < 3, s.fusedSvn k ≤ q.fusedSvn k := by
  by_cases hready : i = .ready
  · subst hready
    exact execReady_kept s
  · obtain ⟨q, hq, hkept⟩ := exec_kept i s hready
    exact ⟨q, hq, pending_of_kept hkept, fixedFuses_of_kept hkept, fun k _ => (fusedSvn_of_kept hkept k).ge⟩

theorem step_of_idle {s : State} (h : s.pending = []) : step s = .next s.tick := by
  simp only [step, h]

theorem step_of_cons {s : State} {i : Instr} {rest : List Instr} (h : s.pending = i :: rest) :
    step s = exec i { s with pending := rest } := by
  simp only [step, h]

theorem tick_kept (s : State) : s.tick.kept = s.kept := by
  unfold State.tick
  split <;> rfl

theorem tick_mem (s : State) : s.tick.mem = s.mem := by
  unfold State.tick
  split <;> rfl

/-- Settles O4, by `exec_fuses` for a step with a command and by the tick, which is no fuse's, for one without. -/
theorem fusesHeld : Obligations.FusesHeld := by
  unfold Obligations.FusesHeld
  intro s t hstep
  cases hpending : s.pending with
  | nil =>
    obtain rfl : s.tick = t := by simpa only [step_of_idle hpending, Host.Outcome.next.injEq] using hstep
    exact ⟨fixedFuses_of_kept (tick_kept s), fun k _ => (fusedSvn_of_kept (tick_kept s) k).ge⟩
  | cons i rest =>
    obtain ⟨q, hq, -, hfixed, hsvn⟩ := exec_fuses i { s with pending := rest }
    obtain rfl : q = t := by simpa only [step_of_cons hpending, hq, Host.Outcome.next.injEq] using hstep
    exact ⟨hfixed, hsvn⟩

/-- Settles O5, by `exec_mo`; the queue and the time that a step changes by itself are no memory. -/
theorem memoryStaysCanonical : Obligations.MemoryStaysCanonical := by
  unfold Obligations.MemoryStaysCanonical
  intro s t hwf hstep
  cases hpending : s.pending with
  | nil =>
    obtain rfl : s.tick = t := by simpa only [step_of_idle hpending, Host.Outcome.next.injEq] using hstep
    rwa [tick_mem]
  | cons i rest =>
    obtain ⟨q, hq, hmo⟩ := exec_mo i (s := { s with pending := rest }) hwf
    obtain rfl : q = t := by simpa only [step_of_cons hpending, hq, Host.Outcome.next.injEq] using hstep
    exact hmo

/-- Settles O3, by `exec_fuses`; the queue of a step is the one its command leaves, and the tick leaves an empty one. -/
theorem everyCommandAnswers : Obligations.EveryCommandAnswers := by
  unfold Obligations.EveryCommandAnswers
  have hexec : ∀ (i : Instr) (s : State), ∃ t, exec i s = .next t ∧ t.pending = s.pending := fun i s => by
    obtain ⟨q, hq, hpending, -, -⟩ := exec_fuses i s
    exact ⟨q, hq, hpending⟩
  refine ⟨hexec, fun s => ?_⟩
  cases hpending : s.pending with
  | nil => exact ⟨s.tick, step_of_idle hpending, (pending_of_kept (tick_kept s)).trans hpending⟩
  | cons i rest => exact step_of_cons hpending ▸ hexec i { s with pending := rest }

end Sys2Proof.Machine
end

section
/-! Mailbox commands (R494, R496): the shape in which a command is accepted, refused or held back, the checks that the families share
as facts about the caller and what it names, and the statement about commands of the physical function alone (O10). -/

namespace Sys2Proof.Machine

open Sys2Proof

/-! ### What a mailbox command answers -/

/-- A command that may start and passes its checks is carried out; its last word follows. -/
theorem done_mbox {s : State} {c : Caller} {opc : Nat} {objs : List Obj} {need : Nat} {checks : List (Bool × Status × Nat)}
    {body : Cmd → State → State} (hstart : s.mayStart c opc objs = true) (hpass : firstFail checks = none) :
    done (s.mbox c opc objs need checks body) = .next (body (s.cmdOf c opc) (s.taken c opc)).settle := by
  rw [mbox_ok hstart hpass]
  rfl

/-- A command that may start and fails a check is refused with it. -/
theorem done_mbox_refused {s : State} {c : Caller} {opc : Nat} {objs : List Obj} {need : Nat} {checks : List (Bool × Status × Nat)}
    {body : Cmd → State → State} {st : Status} {d : Nat} (hstart : s.mayStart c opc objs = true)
    (hfail : firstFail checks = some (st, d)) :
    done (s.mbox c opc objs need checks body) = .next (s.refusedWith c opc st d need) := by
  rw [mbox_refused hstart hfail]
  rfl

/-- The same for a command that need not wait for those that meet `past`. -/
theorem done_mboxPast {s : State} {past : Running → Bool} {c : Caller} {opc : Nat} {objs : List Obj}
    {checks : List (Bool × Status × Nat)} {body : Cmd → State → State} (hstart : s.mayStartPast past c opc objs = true)
    (hpass : firstFail checks = none) :
    done (s.mboxPast past c opc objs checks body) = .next (body (s.cmdOf c opc) (s.taken c opc)).settle := by
  rw [mboxPast_ok hstart hpass]
  rfl

/-- At a module at rest that does not serve, a command leaves everything as it was. -/
theorem done_mbox_unserved {s : State} (hserving : s.serving = false) (hrest : s.atRest = true) (c : Caller) (opc : Nat)
    (objs : List Obj) (need : Nat) (checks : List (Bool × Status × Nat)) (body : Cmd → State → State) :
    done (s.mbox c opc objs need checks body) = .next s := by
  rw [mbox_waits (mayStart_unserved hserving c opc objs), done, settle_rest hrest]

theorem mboxPast_unserved {s : State} (hserving : s.serving = false) (past : Running → Bool) (c : Caller) (opc : Nat)
    (objs : List Obj) (checks : List (Bool × Status × Nat)) (body : Cmd → State → State) :
    s.mboxPast past c opc objs checks body = s := by
  unfold State.mboxPast State.mayStartPast
  simp [mayStart_unserved hserving]

theorem done_mboxPast_unserved {s : State} (hserving : s.serving = false) (hrest : s.atRest = true) (past : Running → Bool)
    (c : Caller) (opc : Nat) (objs : List Obj) (checks : List (Bool × Status × Nat)) (body : Cmd → State → State) :
    done (s.mboxPast past c opc objs checks body) = .next s := by
  rw [mboxPast_unserved hserving, done, settle_rest hrest]

/-! ### Check lists -/

/-- A list of checks is passed check by check. -/
@[simp] theorem firstFail_cons_eq_none {x : Bool × Status × Nat} {t : List (Bool × Status × Nat)} :
    firstFail (x :: t) = none ↔ x.1 = false ∧ firstFail t = none := by
  obtain ⟨b, st, d⟩ := x
  cases b <;> simp [firstFail]

@[simp] theorem firstFail_append_eq_none {a b : List (Bool × Status × Nat)} :
    firstFail (a ++ b) = none ↔ firstFail a = none ∧ firstFail b = none := by
  induction a with
  | nil => simp [firstFail]
  | cons x t ih => simp [ih, and_assoc]

@[simp] theorem firstFail_nil_eq_none : firstFail [] = none := rfl

theorem firstFail_chkPF {c : Caller} (hfn : c.fn ≠ 0) (t : List (Bool × Status × Nat)) :
    firstFail (chkPF c :: t) = some (.denied, 3) := by
  simp [firstFail, chkPF, hfn]

theorem chkPF_passes {c : Caller} (hfn : c.fn = 0) : (chkPF c).1 = false := by
  simp [chkPF, hfn]

theorem chkBound_passes {s : State} {c : Caller} (hbound : s.bound c) : (s.chkBound c).1 = false := bound_chk hbound

theorem chkBound_passes_of_mayAct {s : State} {c : Caller} {h : Nat} (hmay : s.mayAct c.fn h = true) : (s.chkBound c).1 = false :=
  mayAct_bound hmay

theorem chkPart_passes {s : State} {c : Caller} {h : Nat} (hmay : s.mayAct c.fn h = true) : (s.chkPart c h).1 = false := by
  simp [State.chkPart, hmay]

theorem chkResp_passes {s : State} {c : Caller} {n : Nat} (hholds : s.bufferHolds c n) : (s.chkResp c n).1 = false := by
  simpa [State.chkResp, State.bufferHolds] using hholds

theorem chkStart_passes {s : State} {h : Nat} (hstart : startsPart s.chip.start h = true) : (s.chkStart h).1 = false := by
  simp [State.chkStart, hstart]

theorem chkCtx_passes {s : State} {n : Nat} (hlive : s.liveCtx n = true) : firstFail (s.chkCtx n) = none := by
  simp [State.chkCtx, live_ctx hlive, hlive]

theorem chkCtxPart_passes {s : State} {c : Caller} {n : Nat} (hctx : s.mayOnCtx c n) : (s.chkCtxPart c n).1 = false :=
  chkPart_passes hctx.1

/-- Settles O10: each command of the physical function alone lists that check first; a module that does not serve starts none. -/
theorem physicalFunctionCommandsGuarded : Obligations.PhysicalFunctionCommandsGuarded := by
  unfold Obligations.PhysicalFunctionCommandsGuarded
  refine ⟨fun s c hfn => ?_, fun s c hserving hrest => ?_⟩
  · have denied : ∀ {opc need : Nat} {objs : List Obj} {t : List (Bool × Status × Nat)} {body : Cmd → State → State},
        s.mayStart c opc objs = true →
        done (s.mbox c opc objs need (chkPF c :: t) body) = .next (s.refusedWith c opc .denied 3 need) :=
      fun hstart => done_mbox_refused hstart (firstFail_chkPF hfn _)
    exact ⟨fun h _ => denied h, fun h _ _ _ _ _ => denied h, fun _ h => ⟨fun _ => denied h, denied h⟩, fun h _ => denied h,
      fun h _ => denied h, fun h => denied h, fun h _ => denied h,
      fun h => ⟨fun _ _ => denied h, denied h, fun _ _ => denied h, denied h, fun _ _ => denied h, fun _ _ _ _ => denied h,
        fun _ => denied h⟩,
      fun h => denied h, fun h => ⟨fun _ _ => denied h, denied h⟩, fun h _ _ => denied h, fun h => ⟨denied h, denied h⟩⟩
  · have waits := done_mbox_unserved hserving hrest
    have waitsPast := done_mboxPast_unserved hserving hrest
    exact ⟨waits .., fun _ => waits .., fun _ => waits .., fun _ => ⟨waitsPast .., waitsPast .., waits ..⟩, fun _ _ => waits ..,
      fun _ _ _ _ _ => waitsPast .., fun _ _ => waits .., fun _ => waits .., fun _ _ _ => waits .., fun _ => waits ..⟩

end Sys2Proof.Machine
end

section
/-! Commands of the device, of partitions and of clients (R499, R455, R456, R473, R474), and the statement about them (O13). -/

namespace Sys2Proof.Machine

open Sys2Proof

/-- Settles O13: every command may start and passes its checks, one by one. -/
theorem deviceAndClientCommands : Obligations.DeviceAndClientCommands := by
  unfold Obligations.DeviceAndClientCommands
  refine ⟨fun s c v hstart => done_mbox hstart rfl, fun s c hstart hholds => done_mbox hstart (by simp [chkResp_passes hholds]), ?_, ?_, ?_⟩
  · rintro s c start old hstart hfn hlegal rfl hfree hbell
    exact done_mbox hstart (by simp only [firstFail_cons_eq_none, chkPF_passes hfn, hlegal, hfree, hbell, firstFail_nil]; decide)
  · rintro s t c part pdl age lo hi hstart hfn hpart hpdl hpdl' hage hage' hlo rfl
    exact done_mbox hstart (by simp [chkPF_passes hfn, chkStart_passes hpart]; omega)
  · rintro s t c client k hstart rfl rfl
    refine ⟨fun hask hholds => done_mbox hstart ?_, fun hfn quota hquota hroom => done_mbox hstart ?_, fun hfn hrun => done_mbox hstart ?_⟩
    · simp [hask, chkResp_passes hholds]
    · rcases hroom with hknown | hroom
      · simp [chkPF_passes hfn, hquota, Option.isSome_iff_ne_none.mp hknown]
      · simp [chkPF_passes hfn, hquota, hroom]
    · simp [chkPF_passes hfn, hrun]

end Sys2Proof.Machine
end

section
/-! Commands of contexts (R459 to R471, R500): which state of a context lets a command begin, and the statement about them (O14). -/

namespace Sys2Proof.Machine

open Sys2Proof

theorem taken_clients (s : State) (c : Caller) (o : Nat) : (s.taken c o).chip.clients = s.chip.clients := by
  rw [taken_chip]

theorem taken_freeCtx (s : State) (c : Caller) (o part : Nat) : (s.taken c o).freeCtx part = s.freeCtx part := by
  simp only [State.freeCtx, taken_ctx]

theorem taken_ctxIs (s : State) (c : Caller) (o n : Nat) (st : CtxState) : (s.taken c o).ctxIs n st = s.ctxIs n st := by
  simp only [State.ctxIs, taken_ctx]

/-- A context that is found is in the state it is in, and in no other. -/
theorem ctxIs_of_found {s : State} {n : Nat} {x : Context} (hx : s.ctx? n = some x) (st : CtxState) :
    s.ctxIs n st = decide (x.st = st) := by
  simp [State.ctxIs, hx]
  rfl

/-- The checks that every command about one context starts with. -/
theorem ctxCmd_checks_pass {s : State} {c : Caller} {n : Nat} {checks : List (Bool × Status × Nat)} (hctx : s.mayOnCtx c n)
    (hpass : firstFail checks = none) : firstFail ([s.chkBound c, s.chkCtxPart c n] ++ s.chkCtx n ++ checks) = none := by
  simp [chkBound_passes_of_mayAct hctx.1, chkCtxPart_passes hctx, chkCtx_passes hctx.2, hpass]

/-- Settles O14. -/
theorem contextCommands : Obligations.ContextCommands := by
  unfold Obligations.ContextCommands
  refine ⟨?_, ?_, ?_⟩
  · rintro s t c d part client n resv k rfl rfl hstart hzero hpart hdtmo hqmax hqle hq64 hclient hquota hroom hresv hforced hfree rfl rfl
    refine (done_mbox hstart ?_).trans ?_
    · simp [hzero, chkBound_passes_of_mayAct hpart.1, hpart.1, hpart.2, hquota, hroom, hresv, hforced]
      omega
    · simp only [taken_freeCtx, hfree, hresv, taken_clients, Option.getD_some]
      rfl
  · intro s c n hstart hctx
    exact done_mboxPast hstart (by simpa using ctxCmd_checks_pass hctx firstFail_nil)
  · intro s c n x hctx hx
    have pass := fun {checks} (h : firstFail checks = none) => ctxCmd_checks_pass (n := n) hctx h
    have is := ctxIs_of_found hx
    refine ⟨fun hstart => ?_, fun hstart hst => done_mbox hstart (pass (by simp [is, hst])),
      fun hstart hst => done_mbox hstart (pass (by simp [is, hst])), fun hstart hev => ⟨fun hp => ?_, fun id g l hp => ?_⟩,
      fun hstart hst => ⟨fun hp => ?_, fun id g l hp => ?_⟩, fun hstart hholds => ?_⟩
    · have pass0 : firstFail ([s.chkBound c, s.chkCtxPart c n] ++ s.chkCtx n) = none := by
        simpa using ctxCmd_checks_pass hctx firstFail_nil
      exact ⟨fun hst => (done_mboxPast hstart pass0).trans (by simp [taken_ctxIs, is, hst]; rfl),
        fun hst => (done_mboxPast hstart pass0).trans (by simp [taken_ctxIs, is, hst]; rfl),
        fun hst => (done_mboxPast hstart pass0).trans (by simp [taken_ctxIs, is, hst]; rfl)⟩
    · exact (done_mbox hstart (pass (by simp [hev, hp]))).trans (by simp only [hp]; rfl)
    · exact (done_mbox hstart (pass (by simp [hev, hp]))).trans (by simp only [hp]; rfl)
    · exact (done_mbox hstart (pass (by simp [is, hst, hp]))).trans (by simp only [hp]; rfl)
    · exact (done_mbox hstart (pass (by simp [is, hst, hp]))).trans (by simp only [hp]; rfl)
    · refine (done_mbox hstart ?_).trans (by simp only [taken_ctx, hx]; rfl)
      simp [chkBound_passes_of_mayAct hctx.1, chkCtxPart_passes hctx, chkResp_passes hholds, chkCtx_passes hctx.2]

end Sys2Proof.Machine
end

section
/-! Commands of segments (R262 to R268), and the statement about them (O15). -/

namespace Sys2Proof.Machine

open Sys2Proof

/-- The checks that every command about one segment starts with. -/
theorem segChecks_pass {s : State} {c : Caller} {ctx seg : Nat} {g : Segment} (hctx : s.mayOnCtx c ctx) (hg : s.seg? ctx seg = some g) :
    firstFail (s.segChecks c ctx seg) = none := by
  simp [State.segChecks, chkCtxPart_passes hctx, chkCtx_passes hctx.2, hg]

/-- Settles O15. -/
theorem segmentCommands : Obligations.SegmentCommands := by
  unfold Obligations.SegmentCommands
  refine ⟨?_, ?_⟩
  · rintro s c d ctx id g segs hstart hctx hholds rfl rfl hzero hresv hshape hover hlen hfree hpol
    refine ⟨fun hfix hfn htouch htier hgrant => ?_, fun hfix n hplace => ?_⟩
    · refine (done_mbox hstart ?_).trans ?_
      · simp [hzero, hresv, hshape, hover, hlen, hpol, hfix, hfn, htouch, htier, hgrant, chkCtxPart_passes hctx, chkCtx_passes hctx.2, chkResp_passes hholds]
      · simp only [hfix, hfree, if_true]; rfl
    · refine (done_mbox hstart ?_).trans ?_
      · simp [hzero, hresv, hshape, hover, hlen, hpol, hfix, hplace, chkCtxPart_passes hctx, chkCtx_passes hctx.2, chkResp_passes hholds]
      · simp only [hfix, hfree, hplace]; rfl
  · intro s c ctx seg g hctx hg
    have hseg := segChecks_pass hctx hg
    refine ⟨fun hstart hholds => (done_mbox hstart ?_).trans ?_, fun hstart hvers perm hperm => done_mbox hstart ?_,
      fun hstart hvers hmig hwin attr pref tmo n hattr htmo hshape hpol hplace => (done_mboxPast hstart ?_).trans ?_,
      fun hstart hvers hmig hwin tmo htmo => done_mboxPast hstart ?_⟩
    · simp [hseg, chkCtxPart_passes hctx, chkResp_passes hholds]
    · simp only [taken_seg, hg]; rfl
    · simp [hseg, hg, hvers]; omega
    · simp [hseg, hg, hvers, hmig, hwin, hattr, htmo, hshape, hpol, hplace]
    · simp only [hg, hplace, Option.getD_some]; rfl
    · simp [hseg, hg, hvers, hmig, hwin, htmo]

end Sys2Proof.Machine
end

section
/-! Commands of parameter groups, NMU programs and host copies (R284 to R286, R306, R307, R316, R317, R508), and the statement about
them (O16). -/

namespace Sys2Proof.Machine

open Sys2Proof

theorem chkStack_passes {s : State} {c : Caller} {st : Nat} (hst : s.mayOnStack c st) : firstFail (s.chkStack c st) = none := by
  simp [State.chkStack, hst.1, hst.2]

theorem groupChecks_pass {s : State} {c : Caller} {st gid : Nat} {g : Group} (hst : s.mayOnStack c st) (hg : s.group? st gid = some g) :
    firstFail (s.groupChecks c st gid) = none := by
  simp [State.groupChecks, chkStack_passes hst, hg]

theorem progChecks_pass {s : State} {c : Caller} {part st prog : Nat} (hpart : s.mayOnPart c part) (hst : s.stackInPart part st = true)
    (hprog : prog ≤ 15) : firstFail (s.progChecks c part st prog) = none := by
  simp [State.progChecks, chkPart_passes hpart.1, chkStart_passes hpart.2, hst, hprog]

/-- Settles O16. -/
theorem groupProgramAndCopyCommands : Obligations.GroupProgramAndCopyCommands := by
  unfold Obligations.GroupProgramAndCopyCommands
  refine ⟨?_, ?_, ?_, ?_⟩
  · rintro s b c d g gid sid wid i j x segs a1 a2 p q rfl rfl hstart hctx hholds hzero hfields hformat hkernel hset hidle hin havail
      hgid hpair hfail hsid hwid hplace hgrad rfl
    refine (done_mbox hstart ?_).trans (by simp only [hgid, Option.getD_some, hpair, hsid, hwid, hplace]; rfl)
    simp [hzero, chkBound_passes_of_mayAct hctx.1, chkResp_passes hholds, hfields, hformat, hctx.1, hctx.2, hset, hidle, hin, havail,
      hgid, hpair, hfail, hsid, hwid, hplace, hgrad]
    exact fun hk => hkernel.resolve_left hk.not_gt
  · intro s c st gid g hst hg hidle
    have hgroup := groupChecks_pass hst hg
    refine ⟨fun hstart => (done_mbox hstart ?_).trans ?_, fun hstart epoch cva k hsrc => (done_mbox hstart ?_).trans ?_,
      fun hstart haddr b x hb hx => (done_mbox hstart ?_).trans ?_, fun hstart key cva bytes k hkey hheld hsrc => (done_mbox hstart ?_).trans ?_⟩
    · simp [hgroup, hidle]
    · simp only [taken_group, hg]; rfl
    · simp [hgroup, hidle, hg, hsrc, srcFail]
    · simp only [hg, Option.elim_some, hsrc]
    · simp [hgroup, hidle]
    · subst hb
      simp only [taken_group, hg, hx]; rfl
    · simp [hgroup, hidle, hg, hkey, hsrc, srcFail, List.contains_iff_mem.mp hheld]
    · simp only [hg, Option.elim_some, hsrc]
  · intro s c part st prog hstart hpart hst hprog hfree
    have hchecks := progChecks_pass hpart hst hprog
    refine ⟨fun bs hlen hok => done_mbox hstart ?_, fun hthere => done_mbox hstart ?_⟩
    · simp [hchecks, hlen, hfree, hok]
    · simp [hchecks, hfree, hthere]
  · rintro s c d ext ctx seg g w rfl hstart hctx hzero hcore hseg hlen hlen16 hlist hvers hperm hmig rfl
    change execHostCopy c d ext s = _
    simp only [execHostCopy, hseg, Option.map_some, Option.getD_some, Option.elim_some]
    refine (done_mbox hstart ?_).trans (by simp only [cmdOf_caller, cmdOf_opc])
    simp [hzero.1, hzero.2, chkCtxPart_passes hctx, chkCtx_passes hctx.2, hlen, hlen16, hlist, hvers, hmig]
    have hsource : hcSen d = true → s.coreInPart (ctxPart (fld d 0 0 9)) (hcScore d) = true := fun h => by simpa [h] using hcore
    exact ⟨fun _ => hsource, hsource, by simpa using hperm⟩

end Sys2Proof.Machine
end

section
/-! Commands of rings (R502, R506), and the statement about them (O17). -/

namespace Sys2Proof.Machine

open Sys2Proof

/-- Settles O17. -/
theorem ringCommands : Obligations.RingCommands := by
  unfold Obligations.RingCommands
  refine ⟨?_, ?_, ?_, ?_⟩
  · intro s c ctx form logn base shadow n x hstart hctx hx hnotice hform hlo hhi halign hfree
    refine (done_mbox hstart ?_).trans (by simp only [hfree]; rfl)
    simp [chkCtxPart_passes hctx, chkCtx_passes hctx.2, hx, hnotice, hform, hlo, hhi, halign, hfree]
  · rintro s c logn vector icnt itime base shadow n r hstart hbound hlo hhi hicnt hicnt' hitime hvector hvector' halign hfree rfl
    refine (done_mbox hstart ?_).trans (by simp only [hfree]; rfl)
    simp [chkBound_passes hbound, hlo, hhi, hicnt', hitime, hvector', halign, hfree]
    omega
  · intro s c ring hbound
    have hcaller := chkBound_passes hbound
    refine ⟨fun hstart => ⟨fun hthere => done_mbox hstart ?_, done_mbox hstart ?_⟩,
      fun hstart => ⟨fun r hthere hr hnotice => (done_mbox hstart ?_).trans ?_, done_mbox hstart ?_⟩⟩
    · simp [hcaller, hthere]
    · simp [hcaller]
    · simp [hcaller, hthere, hnotice]
    · simp only [hr]; rfl
    · simp [hcaller]
  · intro s c ctx ring hstart hctx hthere
    exact done_mbox hstart (by simp [chkCtxPart_passes hctx, chkCtx_passes hctx.2, hthere])

end Sys2Proof.Machine
end

section
/-! Commands of stream slots, arms, leaders, members, tables and histograms (R117, R149, R177, R183, R188, R202, R204, R212, R228,
R333, R335, R501), and the statement about them (O18). -/

namespace Sys2Proof.Machine

open Sys2Proof

theorem ctxCoreChecks_pass {s : State} {c : Caller} {ctx core : Nat} (h : s.mayOnCore c ctx core) :
    firstFail (s.ctxCoreChecks c ctx core) = none := by
  simp [State.ctxCoreChecks, State.chkCore, State.chkCoreIn, chkCtxPart_passes h.1, chkCtx_passes h.1.2, h.2]

theorem slotChecks_pass {s : State} {ctx core sid : Nat} {x : Slot} (hsid : sid < 32) (hx : s.slot? core sid = some x)
    (hctx : x.ctx = ctx) : firstFail (s.slotChecks ctx core sid) = none := by
  simp [State.slotChecks, hsid, hx, hctx]

theorem partChecks_pass {s : State} {c : Caller} {part : Nat} (h : s.mayOnPart c part) : firstFail (s.partChecks c part) = none := by
  simp [State.partChecks, chkPart_passes h.1, chkStart_passes h.2]

theorem layersBad_passes {first n : Nat} (hn : 1 ≤ n) (hlast : first + n ≤ 4096) : (layersBad first n).1 = false := by
  simp [layersBad]
  omega

/-- Settles O18. -/
theorem streamCommands : Obligations.StreamCommands := by
  unfold Obligations.StreamCommands
  refine ⟨?_, ?_, ?_⟩
  · intro s c ctx core hcore
    have hchecks := ctxCoreChecks_pass hcore
    refine ⟨fun hstart hbusy idx v hidx => done_mbox hstart (by simp [hchecks, hbusy, hidx]), fun hstart => ⟨?_, ?_, ?_⟩,
      fun hstart d x hx harm => done_mbox hstart (by simp [hchecks, hx, harm]), fun n x hn hx hctx => ⟨fun hstart => ?_, fun hstart hholds => ?_⟩⟩
    · intro n hn
      refine (done_mbox hstart ?_).trans (by simp only [State.slotNamed, hn, if_true]; rfl)
      simp [hchecks, State.slotNamed, hn]
    · intro n hn hfree
      have hne : n ≠ 0xFF := by omega
      refine (done_mbox hstart ?_).trans (by simp only [State.slotNamed, if_neg hne]; rfl)
      simp [hchecks, State.slotNamed, hn, hne, hfree]
    · intro n x hn hx hctx hcur hshadow
      exact done_mbox hstart (by simp [hchecks, slotChecks_pass hn hx hctx, hx, hcur, hshadow])
    · exact done_mbox hstart (by simp [hchecks, slotChecks_pass hn hx hctx])
    · refine (done_mbox hstart ?_).trans (by simp only [taken_slot, hx]; rfl)
      simp [State.chkCore, State.chkCoreIn, chkCtxPart_passes hcore.1, chkCtx_passes hcore.1.2, hcore.2, chkResp_passes hholds,
        slotChecks_pass hn hx hctx]
  · intro s t c part v hpart
    have hchecks := partChecks_pass hpart
    refine ⟨?_, ?_⟩
    · rintro hstart hlo hhi rfl
      exact done_mbox hstart (by simp [hchecks, hhi]; omega)
    · rintro hstart hlo hhi rfl
      exact done_mbox hstart (by simp [hchecks, hhi]; omega)
  · intro s t c ctx x hctx hx
    have hcaller := chkCtxPart_passes hctx
    have hlive := chkCtx_passes hctx.2
    refine ⟨?_, ?_, ?_, ?_⟩
    · rintro hstart rfl
      refine ⟨fun leader bits n hlen hall hleader hroom hfree => ?_, fun group g hg hgctx harm => ?_⟩
      · refine (done_mbox hstart ?_).trans (by simp only [hfree]; rfl)
        simp only [firstFail_append_eq_none, firstFail_cons_eq_none, hlen, hcaller, hlive, hall, hleader, hfree, firstFail_nil]
        simpa using hroom
      · change execMcastGroupDelete c group s = _
        simp only [execMcastGroupDelete, hg, Option.elim_some, hgctx]
        exact done_mbox hstart (by simp [hctx.1, harm])
    · intro hstart
      refine ⟨fun d i hok hroom hfree => ?_, fun h hthere hunused => done_mbox hstart (by simp [hcaller, hlive, hx, hthere, hunused])⟩
      refine (done_mbox hstart ?_).trans (by simp only [hx, Option.map_some, Option.getD_some, hfree]; rfl)
      have hreserved : layoutReservedOk d = true := (Bool.and_eq_true_iff.mp hok).1
      simp [hcaller, hlive, hx, hreserved, hok, hroom]
    · intro first n hn hlast
      have hlayers := layersBad_passes hn hlast
      refine ⟨fun hstart => ⟨fun hholds => ?_, done_mbox hstart (by simp [hcaller, hlive, hlayers])⟩,
        fun hstart => ⟨fun hholds => ?_, fun es hlen hok href => done_mbox hstart ?_⟩⟩
      · refine (done_mbox hstart ?_).trans (by simp only [taken_ctx, hx]; rfl)
        simp [hcaller, hlive, hlayers, chkResp_passes hholds]
      · refine (done_mbox hstart ?_).trans (by simp only [taken_ctx, hx]; rfl)
        simp [hcaller, hlive, hlayers, chkResp_passes hholds]
      · simp only [firstFail_append_eq_none, firstFail_cons_eq_none, hlen, hcaller, hlive, hok, href, hlayers, firstFail_nil]
        simp
    · rintro hstart pair fcva dcva f g xf xg hpair hf hd hhold hxf rfl hxg rfl
      refine (done_mbox hstart ?_).trans ?_
      · simp only [firstFail_append_eq_none, firstFail_cons_eq_none, hcaller, hlive, hf, hd, hhold, firstFail_nil]
        simpa using hpair
      · simp only [hxf, hxg, Option.elim_some]; rfl

end Sys2Proof.Machine
end

section
/-! Commands of jobs, routes, windows, collectives and ports (R386, R392, R393, R398, R403, R405, R408, R409), and the statement about
them (O19). -/

namespace Sys2Proof.Machine

open Sys2Proof

theorem portChecks_pass {s : State} {c : Caller} {p : Nat} (h : s.mayOnPort c p) : firstFail (s.portChecks c p) = none := by
  obtain ⟨hp, hfn | ⟨part, hpart, hin⟩⟩ := h
  · simp [State.portChecks, State.chkBound, hp, hfn]
  · simp [State.portChecks, State.chkBound, hp, hpart, hin]

/-- Settles O19. -/
theorem jobCommands : Obligations.JobCommands := by
  unfold Obligations.JobCommands
  refine ⟨?_, ?_, ?_, ?_, ?_, ?_, ?_⟩
  · intro s t c hfn
    refine ⟨?_, ?_⟩
    · rintro hstart hmembers hwins rfl id hid
      exact done_mbox hstart (by simp [chkPF_passes hfn, hid, hmembers, hwins])
    · rintro hstart rfl first n es hlen hzero hn hlast
      refine done_mbox hstart ?_
      simp only [firstFail_cons_eq_none, hlen, hzero, chkPF_passes hfn, firstFail_nil]
      simp
      omega
  · rintro s t c part job midx nmem tb own r1 r2 hstart hpart hlen hjob hjob' hnmem hnmem' hmidx hzero rfl hown hapart hnew hroom hresv rfl
    refine (done_mbox hstart ?_).trans (by simp only [hresv, Option.getD_some]; rfl)
    simp only [firstFail_append_eq_none, firstFail_cons_eq_none, partChecks_pass hpart, hlen, hzero, hown, hapart, hnew, hresv, firstFail_nil]
    simp [hroom]
    omega
  · intro s c part job hpart hmember
    have hchecks := partChecks_pass hpart
    refine ⟨fun hstart hcolls hwins => done_mbox hstart ?_, fun hstart coll k hk => (done_mbox hstart ?_).trans (by simp only [hk]; rfl)⟩
    · simp only [firstFail_append_eq_none, firstFail_cons_eq_none, hchecks, hcolls, hwins, firstFail_nil]
      simpa using hmember
    · simp [hchecks, hmember, hk]
  · rintro s t c d ctx rwin job w n g rfl rfl rfl hstart rfl hzero hctx hlen hpage hjob hmay hmember hseg hvers hget hput hfree rfl
    dsimp only at hlen hpage hmay hseg hget hput
    refine done_mbox hstart ?_
    simp only [firstFail_append_eq_none, firstFail_cons_eq_none, chkCtxPart_passes hctx, chkCtx_passes hctx.2, hzero, hmay, hseg,
      Option.map_some, Option.elim_some, firstFail_nil]
    simp [hlen, hpage, hjob, hmember, hvers, hfree]
    exact ⟨hget, hput⟩
  · rintro s t c rwin w hstart hw hmay rfl
    exact done_mbox hstart (by simp [chkBound_passes_of_mayAct hmay, hw, hmay])
  · rintro s a b c d part job x rfl rfl hstart hctx hx hshape hcore hnext hrecent hsource htarget hpru rfl rfl
    refine (done_mbox hstart ?_).trans ?_
    · simp only [firstFail_append_eq_none, firstFail_cons_eq_none, chkCtxPart_passes hctx, chkCtx_passes hctx.2, hx, Option.map_some,
        Option.getD_some, Option.elim_some, hshape, hcore, hrecent, hsource, htarget, hpru, firstFail_nil]
      simp [hnext]
    · simp only [taken_member, hx, taken_aon]; rfl
  · intro s c p hstart hport
    have hchecks := portChecks_pass hport
    refine ⟨done_mbox hstart hchecks, fun a ha => ?_, fun a ha => ?_, fun hactive => done_mbox hstart (by simp [hchecks, hactive]),
      fun init hok => done_mbox hstart (by simp [hchecks, hok])⟩
    · exact (done_mbox hstart hchecks).trans (by simp only [ha]; rfl)
    · exact (done_mbox hstart hchecks).trans (by simp only [ha]; rfl)

end Sys2Proof.Machine
end

section
/-! Commands of optimizer sets, updates, commit buffers, sets bound to a job and job trees (R283, R302, R305, R336, R343, R423 to R430,
R435 to R437, R442, R445), and the statement about them (O20). -/

namespace Sys2Proof.Machine

open Sys2Proof

theorem setChecks_pass {s : State} {c : Caller} {part set : Nat} {x : OptSet} (hpart : s.mayOnPart c part) (hset : set < 16)
    (hx : s.set? part set = some x) : firstFail (s.setChecks c part set) = none := by
  simp [State.setChecks, partChecks_pass hpart, hset, hx]

theorem bufChecks_pass {s : State} {c : Caller} {part buf : Nat} (hpart : s.mayOnPart c part) (hbuf : buf < 8) :
    firstFail (s.bufChecks c part buf) = none := by
  simp [State.bufChecks, partChecks_pass hpart, hbuf]

/-- Settles O20. -/
theorem commitCommands : Obligations.CommitCommands := by
  unfold Obligations.CommitCommands
  refine ⟨⟨?_, ?_, ?_, ?_⟩, ?_, ?_, ?_⟩
  · rintro s t c e hstart hfn he hbell rfl
    refine done_mbox hstart ?_
    have hkeeps : (s.chip.trees.any (fun x => x.2.bell) && s.chip.elig != (e == 1)) = false := by
      rcases hbell with hbell | helig
      · rw [hbell, Bool.false_and]
      · rw [helig, bne_self_eq_false, Bool.and_false]
    simp only [firstFail_cons_eq_none, chkPF_passes hfn, hkeeps, firstFail_nil]
    simpa using he
  · intro s c part stmo n hstart hpart hstmo hfree
    exact (done_mbox hstart (by simp [partChecks_pass hpart, hstmo, hfree])).trans (by simp only [hfree]; rfl)
  · intro s t c part set x hpart hset hx
    have hchecks := setChecks_pass hpart hset hx
    have hpf := chkPart_passes hpart.1
    refine ⟨?_, fun hstart b hstep hst hjob => ?_, fun hstart hjob => ⟨fun hst herr => ?_, fun hst => ?_⟩, fun hstart => ⟨?_, ?_⟩⟩
    · rintro hstart rfl
      refine ⟨fun hst hgroups hctxs hjob => ?_, fun hholds => ?_⟩
      · refine (done_mbox hstart ?_).trans (by simp only [taken_set, hx, Option.bind_some, hjob]; rfl)
        simp only [firstFail_append_eq_none, firstFail_cons_eq_none, hchecks, hx, hgroups, hctxs, firstFail_nil]
        simp [hst]
      · exact (done_mbox hstart (by simp [hchecks, hpf, chkResp_passes hholds])).trans (by simp only [taken_set, hx]; rfl)
    · exact done_mbox hstart (by simp [hchecks, hstep, hx, hst, hjob])
    · exact (done_mbox hstart (by simp [hchecks, hx, hst, herr, hjob])).trans (by simp only [hx]; rfl)
    · refine (done_mbox hstart ?_).trans (by simp only [hx]; rfl)
      rcases hst with hst | hst <;> simp [hchecks, hx, hst, hjob]
    · intro hst dyn l lo hi n hdyn hlo hhi hl hl' hn hn'
      exact done_mbox hstart (by simp [hchecks, hx, hst, hdyn, hlo, hhi, hl, hl', hn, hn'])
    · intro hholds
      exact (done_mbox hstart (by simp [hchecks, hpf, chkResp_passes hholds])).trans (by simp only [taken_set, hx]; rfl)
  · intro s c ctx set sig score rcva hstart hcore hset hsig hthere hrecord
    refine done_mbox hstart ?_
    simp [State.chkCore, chkCtxPart_passes hcore.1, chkCtx_passes hcore.1.2, hcore.2, hthere, hset, hsig]
    exact hrecord.resolve_left
  · rintro s c part buf b hpart hbuf rfl
    have hchecks := bufChecks_pass hpart hbuf
    have hpf := chkPart_passes hpart.1
    refine ⟨fun hstart => ⟨?_, ?_, ?_, ?_⟩, ?_⟩
    · rintro acts new rfl hlen hlen' hroom hok hbound
      refine done_mbox hstart ?_
      simp only [firstFail_append_eq_none, firstFail_cons_eq_none, hchecks, hlen, hok, hbound, firstFail_nil]
      simp
      omega
    · intro hacts hbound a ha
      exact (done_mbox hstart (by simp [hchecks, hacts, hbound])).trans (by simp only [ha]; rfl)
    · exact (done_mbox hstart hchecks).trans (by simp only [taken_buf]; rfl)
    · intro hholds
      exact (done_mbox hstart (by simp [hchecks, hpf, chkResp_passes hholds])).trans (by simp only [taken_buf]; rfl)
    · intro set hstart hset hthere hacts hbound
      exact done_mbox hstart (by simp [hchecks, hset, hthere, hacts, hbound])
  · rintro s c part job sets x ks hpart hx rfl
    have hchecks := partChecks_pass hpart
    refine ⟨?_, ?_, ?_⟩
    · intro nctx sig score hstart hsets hthere hother hpartn hlive hsig hcore hformed hepoch
      refine done_mbox hstart ?_
      simp only [firstFail_append_eq_none, firstFail_cons_eq_none, hchecks, hx, hthere, hother, hlive, hcore, hformed,
        firstFail_nil, Option.map_some, Option.getD_some, hepoch]
      simp [hsets, hsig, hpartn]
    · intro hstart hmine hfree
      refine done_mbox hstart ?_
      simp only [firstFail_append_eq_none, firstFail_cons_eq_none, hchecks, hx, Option.elim_some, hmine, firstFail_nil]
      simp
      intro hformed
      rcases hfree with hfree | hst | hst
      · simp [hfree] at hformed
      all_goals simp [Member.keepsTree, hst]
    · intro hstart
      exact done_mbox hstart (by simp [hchecks, hx])
  · rintro s c job fan skip vtmo dectmo rstmo elig m l t hmems hstart hbound hmay htree hfan hfan' hskip hvtmo hvtmo' hdectmo
      hdectmo' hrstmo hrstmo' hlen hbell hown hsets rfl hmany
    change execTreeForm c job fan skip vtmo dectmo rstmo elig s = _
    simp only [execTreeForm, hmems, List.head?_cons, Option.map_some, Option.getD_some, Option.elim_some]
    refine done_mbox hstart ?_
    have hcaller : (c.fn != 0 && !(m :: l).isEmpty && !(m :: l).any fun y => s.mayAct c.fn y.part) = false := by
      rcases hmay with h | h <;> simp [h]
    have hfree : ((s.tree? job).isSome && (m :: l).any Member.keepsTree) = false := by
      rcases htree with h | h <;> simp [h]
    have hroom : ((m.treeOf fan skip vtmo dectmo rstmo elig).bell &&
        decide (64 ≤ (s.chip.trees.filter fun p => p.1 != job && p.2.bell).length)) = false := by
      rcases hmany with h | h <;> simp [h]
    simp only [firstFail_cons_eq_none, chkBound_passes hbound, hcaller, hfree, hroom, hlen, hbell, hown, hsets, firstFail_nil]
    simp
    omega

end Sys2Proof.Machine
end

section
/-! Commands of the Security Enclave (R525, R529 to R542): the report that the responder signs, the key server's messages inside a
session, confidential mode, debug unlock, and the statement about them (O21). -/

namespace Sys2Proof.Machine

open Sys2Proof

theorem taken_enc (s : State) (c : Caller) (o : Nat) : (s.taken c o).chip.enc = s.chip.enc := by
  rw [taken_chip]

theorem keyChecks_pass {s : State} {c : Caller} {part h : Nat} (hpart : s.mayOnPart c part) (hh : h < 16) :
    firstFail (s.keyChecks c part h) = none := by
  simp [State.keyChecks, partChecks_pass hpart, hh]

/-- A key message that passes the checks acts, and its answer goes back inside the session. -/
theorem done_keyMessage {s : State} {tr se code : Nat} {d : List Byte} {shapeOk : Bool} {more : List (Bool × Status)}
    {act : State → State} {tail : State → List Byte} (hsession : s.chip.enc.sessions.contains (tr, se) = true)
    (hshape : shapeOk = true) (hcode : num d 0 1 = code) (hpart : startsPart s.chip.start (fld d 1 0 3) = true)
    (hown : (tr == 0 || tr == 9 || s.boundPart tr == some (fld d 1 0 3)) = true) (hmore : more.find? (·.1) = none) :
    done (s.keyMessage tr se code d shapeOk more act tail) = .next ((act s).send (.secured tr se
      (leBytes 1 code ++ leBytes 1 0 ++ leBytes 2 0 ++ tail (act s)))).settle := by
  simp only [State.keyMessage, List.find?_append, List.find?_cons, List.find?_nil, hsession, hshape, hcode, hpart, hown, hmore, Bool.not_true,
    Bool.false_or, bne_self_eq_false, Option.or_none]
  rfl

/-- A request of version 1.2 for measurements reaches the measurement responder. -/
theorem spdmAnswer_getMeasurements {s : State} {tr : Nat} {msg : List Byte} (hver : num msg 0 1 = 0x12) (hcode : num msg 1 1 = 0xE0)
    (hlen : 2 ≤ msg.length) : s.spdmAnswer tr msg = s.measurements tr msg := by
  unfold State.spdmAnswer
  simp only [hver, hcode]
  rw [if_neg (by omega), if_neg (by decide), if_neg (by decide), if_neg fun h => absurd h.1 (by decide), if_pos (by decide)]

/-- The report that answers a request of version 1.2 for all measurements, before its signature (R532). -/
def State.reportBody (s : State) (tr : Nat) (nonce : List Byte) : List Byte :=
  let blocks := (List.range 9).flatMap fun i => s.measurementBlock (viewOf tr) (i + 1)
  leBytes 1 0x12 ++ leBytes 1 0x60 ++ leBytes 1 0 ++ leBytes 1 0 ++ leBytes 1 9 ++ leBytes 3 blocks.length ++ blocks ++ nonce ++ leBytes 2 0

/-- A signed request for all measurements: the report with a fresh nonce, signed over the transcript. -/
theorem measurements_signed {s : State} {tr k0 : Nat} {msg : List Byte} (halias : s.chip.enc.aliasKey = some k0)
    (hver : num msg 0 1 = 0x12) (hsig : flg msg 2 0 = true) (hall : num msg 3 1 = 0xFF) :
    let report := s.reportBody tr (leBytes 32 (s.draw 21).2)
    let conn := Tab.get s.chip.enc.conns {} tr
    (s.measurements tr msg).2 = report ++ keyBytes (ecdsaSign
      (sha384 (spdmToSign 0x12 (conn.agreed ++ (conn.measured ++ msg ++ report)))) k0 ((s.draw 21).1.draw 20).2) := by
  intro report conn
  unfold State.measurements
  extract_lets ver i is sig rec_ d body c all g
  have hi : i = 0xFF := hall
  have his : is = (List.range 9).map (· + 1) := by simp [is, hi]
  have hbody : body = report := by simp [body, report, State.reportBody, rec_, his, hi, ver, hver, d, List.flatMap_map]
  have hkey : (s.draw 21).1.chip.enc.aliasKey = some k0 := halias
  rw [if_neg (by omega), if_neg (by simp [halias]), if_pos (show sig = true from hsig), ← hbody]
  simp only [g, State.spdmSign, all, c, d, ver, hver, hkey, Option.getD_some]
  rfl

/-- Settles O21. -/
theorem securityCommands : Obligations.SecurityCommands := by
  unfold Obligations.SecurityCommands
  refine ⟨?_, ?_, ?_, ?_, ?_, ?_, ?_, ?_, fun s => rfl⟩
  · intro s r c msg b o e hstart hlo hhi hholds hanswer
    refine (done_mbox hstart ?_).trans (by simp only [hanswer]; rfl)
    simp only [firstFail_cons_eq_none, chkResp_passes hholds, firstFail_nil, decide_eq_false_iff_not, and_self, and_true]
    omega
  · intro s tr k0 msg halias hver hcode hsig hall hlen
    refine ⟨leBytes 32 (s.draw 21).2, ((s.draw 21).1.draw 20).2, s.reportBody tr (leBytes 32 (s.draw 21).2), by simp [leBytes], rfl, ?_⟩
    rw [spdmAnswer_getMeasurements hver hcode hlen]
    exact measurements_signed halias hver hsig hall
  · intro s
    exact ⟨(s.draw 20).2, rfl, rfl⟩
  · intro s tr se
    rfl
  · rintro s t tr se part h d k hsession rfl rfl hpart hown
    refine ⟨?_, fun hshape hcode => done_keyMessage hsession hshape hcode hpart hown rfl,
      fun hshape hcode => done_keyMessage hsession hshape hcode hpart hown rfl⟩
    rintro hshape hcode hfree hpol rfl rfl
    refine done_keyMessage hsession hshape hcode hpart hown ?_
    rcases hfree with h | h <;> simp [h, hpol]
  · rintro s b c part h hstart hpart hh
    have hchecks := keyChecks_pass hpart hh
    refine ⟨?_, done_mbox hstart hchecks, fun hholds => done_mbox hstart ?_⟩
    · rintro k hk hpol rfl
      exact done_mbox hstart (by simp [hchecks, hk, hpol])
    · simp [hchecks, chkPart_passes hpart.1, chkResp_passes hholds]
  · intro s c hstart hbound
    have hcaller := chkBound_passes hbound
    refine ⟨fun hbusy => ⟨fun se hse => ?_, done_mbox hstart ?_⟩, ?_⟩
    · refine (done_mbox hstart ?_).trans (by simp only [taken_enc])
      simp [hcaller, hbusy, List.contains_iff_mem.mp hse]
    · simp [hcaller, hbusy]
    · rintro hholds hconf hsub hcopy b rfl
      refine done_mbox hstart ?_
      simp only [firstFail_cons_eq_none, hcaller, chkResp_passes hholds, hsub, hcopy, firstFail_nil]
      simpa using hconf
  · intro s r c n hstart hfn
    refine ⟨fun hholds hdraw => ?_, ?_⟩
    · exact (done_mbox hstart (by simp [chkPF_passes hfn, chkResp_passes hholds])).trans (by simp only [hdraw]; rfl)
    · rintro t hlen hdis hform hctxs hmembers hwins hconf htoken hlevel rfl
      change execDebugUnlock c t s = _
      simp only [execDebugUnlock]
      rw [if_pos hstart, mbox_ok hstart]
      · rfl
      simp only [firstFail_cons_eq_none, hlen, chkPF_passes hfn, hdis, hform, hctxs, hmembers, hwins, hconf, htoken, firstFail_nil]
      simpa using hlevel

end Sys2Proof.Machine
end

section
/-! Commands of power and of the fault configuration (R546, R554, R572 to R574, R577, R578, R582), and the statement about them (O22). -/

namespace Sys2Proof.Machine

open Sys2Proof

/-- Two commands that leave the module alike answer alike. -/
theorem next_settle {x y : State} (h : x = y) :
    (Host.Outcome.next x.settle : Host.Outcome State Fault Refusal) = .next y.settle := by
  rw [h]

theorem taken_port (s : State) (c : Caller) (o p : Nat) : (s.taken c o).port p = s.port p := by
  unfold State.taken State.accept; split <;> rfl

/-- The physical function may force or release every unit in range that no force holds, where the family's own checks pass. -/
theorem domainChecks_pass {s : State} {c : Caller} {kind unit : Nat} {own : List (Bool × Status × Nat)} (hfn : c.fn = 0)
    (hkind : kind ≤ 2) (hunit : unit < unitCount kind) (hforce : s.forcing kind unit = false) (hown : firstFail own = none) :
    firstFail (s.domainChecks c kind unit own true) = none := by
  simp [State.domainChecks, State.chkBound, hfn, hkind, hunit, hforce, hown]

/-- A force of a core or a stack is noted, and runs until the unit has reached its state. -/
theorem startForce_of_domain {s : State} {m : Cmd} {kind unit : Nat} {on : Bool} (hkind : kind ≠ 2) :
    s.startForce m kind unit on = (s.setForce kind unit (some on)).run m [] (.force kind unit on) := by
  simp [State.startForce, hkind]

theorem startForce_port_on (s : State) (m : Cmd) (u : Nat) :
    s.startForce m 2 u true = ((s.setForce 2 u (some true)).portOn u).respond m .ok := by
  simp [State.startForce]

theorem startForce_port_off {s a : State} {m : Cmd} {u : Nat} (ha : (s.setForce 2 u (some false)).portDisable u = (a, true)) :
    s.startForce m 2 u false = a.respond m .ok := by
  simp [State.startForce, ha]

theorem startForce_port_draining {s a : State} {m : Cmd} {u : Nat} (ha : (s.setForce 2 u (some false)).portDisable u = (a, false)) :
    s.startForce m 2 u false = a.run m [.port u] (.portDrain u) := by
  simp [State.startForce, ha]

/-- Settles O22. -/
theorem powerAndFaultConfigCommands : Obligations.PowerAndFaultConfigCommands := by
  unfold Obligations.PowerAndFaultConfigCommands
  refine ⟨?_, ?_, ?_, ?_, ?_, ?_⟩
  · intro s c k u hstart hfn hk hu hfree
    have hobjs : domainObjs k u = [] := if_neg (by omega)
    have hstart' : s.mayStartPast isForce c 0x0800 (domainObjs k u) = true := hobjs ▸ hstart
    have pass := fun {own} (h : firstFail own = none) => domainChecks_pass hfn (by omega) hu hfree h
    refine ⟨?_, fun hheld => ?_, done_mboxPast hstart' (pass rfl)⟩
    · refine (done_mboxPast hstart' ?_).trans ?_
      · exact pass (by simp)
      · exact next_settle (startForce_of_domain (by omega))
    · refine (done_mboxPast hstart' ?_).trans ?_
      · exact pass (by simp [hheld])
      · exact next_settle (startForce_of_domain (by omega))
  · intro s c u hstart hfn hu hfree
    have pass := fun {own} (h : firstFail own = none) => domainChecks_pass (kind := 2) hfn le_rfl hu hfree h
    refine ⟨?_, fun a ha => ?_, fun a ha => ?_, done_mboxPast hstart (pass rfl)⟩
    · refine (done_mboxPast hstart ?_).trans ?_
      · exact pass (by simp)
      · exact next_settle (startForce_port_on ..)
    · refine (done_mboxPast hstart ?_).trans ?_
      · exact pass (by simp [State.heldOn])
      · exact next_settle (startForce_port_off ha)
    · refine (done_mboxPast hstart ?_).trans ?_
      · exact pass (by simp [State.heldOn])
      · exact next_settle (startForce_port_draining ha)
  · intro s t b c part v hpart
    refine ⟨?_, ?_⟩
    · rintro hstart hlo hhi rfl rfl
      refine (done_mbox hstart ?_).trans ?_
      · simp [chkPart_passes hpart.1, chkStart_passes hpart.2, hhi]; omega
      · dsimp only
        split <;> rfl
    · rintro hstart hv rfl
      exact done_mbox hstart (by simp [chkPart_passes hpart.1, chkStart_passes hpart.2, hv])
  · rintro s t c hstart hholds rfl
    exact done_mbox hstart (by simp [chkResp_passes hholds])
  · rintro s t c v hstart hfn hlo hhi rfl
    exact exec_powerCap_of_in_range hstart hfn hlo hhi
  · rintro s t c hstart hfn rfl
    have hpf := chkPF_passes hfn
    refine ⟨fun src cfg hbad hlock => done_mbox hstart ?_, fun hholds => done_mbox hstart ?_, fun mode w hmode hlo hhi => done_mbox hstart ?_,
      done_mbox hstart ?_, fun i d hi hd => done_mbox hstart ?_, fun src u part ctx hsrc hu hpart hctx hfound => (done_mbox hstart ?_).trans ?_,
      fun w hlo hhi => done_mbox hstart ?_⟩
    · simp [hpf, hbad, hlock]
    · simp [hpf, chkResp_passes hholds]
    · simp [hpf]; omega
    · simp [hpf]
    · simp [hpf, hi, hd]
    · simp [hpf, hsrc, hu]
    · simp only [hpart, hctx, hfound]; simp; rfl
    · simp [hpf]; omega

end Sys2Proof.Machine
end

section
/-! Commands of fault records, telemetry, firmware, log and dump (R552, R164, R281, R387, R421, R601, R603, R604), and the statement
about them (O23). -/

namespace Sys2Proof.Machine

open Sys2Proof

theorem taken_logLen (s : State) (c : Caller) (o max : Nat) : (s.taken c o).logLen max = s.logLen max := by
  simp only [State.logLen, taken_free]

/-- Settles O23. -/
theorem telemetryAndFirmwareCommands : Obligations.TelemetryAndFirmwareCommands := by
  unfold Obligations.TelemetryAndFirmwareCommands
  refine ⟨?_, ?_, ?_, ?_⟩
  · rintro s t c hstart rfl
    refine ⟨fun hbound start max hholds => done_mbox hstart ?_, fun hfn hholds => done_mbox hstart ?_⟩
    · simp [chkBound_passes hbound, chkResp_passes hholds]
    · simp [chkPF_passes hfn, chkResp_passes hholds]
  · intro s c hbound
    have hcaller := chkBound_passes hbound
    exact ⟨fun hstart hholds => done_mbox hstart (by simp [hcaller, chkResp_passes hholds]),
      fun hstart hholds => done_mbox hstart (by simp [hcaller, chkResp_passes hholds]),
      fun hstart hholds => done_mbox hstart (by simp [hcaller, chkResp_passes hholds])⟩
  · intro s c st hstart hst hholds
    refine done_mbox hstart ?_
    simp [State.chkStack, chkBound_passes_of_mayAct hst.1, hst.1, hst.2, chkResp_passes hholds]
  · intro s c hfn
    have hpf := chkPF_passes hfn
    refine ⟨fun hstart => ⟨fun kind img hkind hlen hfree => done_mbox hstart ?_, fun hholds => done_mbox hstart ?_⟩, ?_, ?_, ?_⟩
    · simp [hpf, hkind, hlen, hfree]
    · simp [hpf, chkResp_passes hholds]
    · rintro hstart start max a r b hholds rfl hbytes
      refine (done_mbox hstart ?_).trans (by simp only [taken_logLen, hbytes]; rfl)
      simp [hpf, chkResp_passes hholds]
    · intro hstart hholds hdump r b hbytes
      refine (done_mbox hstart ?_).trans (by simp only [hbytes]; rfl)
      simp [hpf, chkResp_passes hholds, hdump]
    · rintro hstart t rfl
      exact done_mbox hstart (by simp [hpf])

end Sys2Proof.Machine
end

section
/-! Commands that only read: what a mailbox command leaves alone that answers and does nothing else, and the statement about the reads
of the mailbox (O11). -/

namespace Sys2Proof.Machine

open Sys2Proof

/-- Accepted, refused or not started: a command whose body leaves everything but the host interface alone does so too. -/
theorem mbox_inside {s : State} {c : Caller} {opc : Nat} {objs : List Obj} {need : Nat} {checks : List (Bool × Status × Nat)}
    {body : Cmd → State → State} (hbody : ∀ m a, (body m a).inside = a.inside) :
    (s.mbox c opc objs need checks body).inside = s.inside := by
  cases hstart : s.mayStart c opc objs with
  | false => rw [mbox_waits hstart]
  | true =>
    cases hchecks : firstFail checks with
    | none => rw [mbox_ok hstart hchecks, hbody, taken_inside]
    | some f => rw [mbox_refused (st := f.1) (d := f.2) hstart hchecks, respond_inside, taken_inside]

/-- In a module at rest the end of the step leaves such a command's effect as it is. -/
theorem done_mbox_inside {s t : State} {c : Caller} {opc : Nat} {objs : List Obj} {need : Nat} {checks : List (Bool × Status × Nat)}
    {body : Cmd → State → State} (hrest : s.atRest = true) (hbody : ∀ m a, (body m a).inside = a.inside)
    (hrun : done (s.mbox c opc objs need checks body) = .next t) : t.inside = s.inside := by
  have hinside := mbox_inside (s := s) (c := c) (opc := opc) (objs := objs) (need := need) (checks := checks) hbody
  have hsettle := settle_rest ((atRest_inside hinside).trans hrest)
  obtain rfl : (s.mbox c opc objs need checks body).settle = t := by simpa only [done, Host.Outcome.next.injEq] using hrun
  rw [hsettle, hinside]

/-- Settles O11: each of these commands responds, with bytes read from the state, and does nothing else. -/
theorem readsChangeNothingInside : Obligations.ReadsChangeNothingInside := by
  unfold Obligations.ReadsChangeNothingInside
  intro s t c hrest
  have answers : ∀ {opc need r : Nat} {objs : List Obj} {checks : List (Bool × Status × Nat)} {bytes : State → List Byte},
      done (s.mbox c opc objs need checks fun m a => a.respond m .ok 0 r (bytes a)) = .next t → t.inside = s.inside :=
    done_mbox_inside hrest fun _ _ => respond_inside ..
  refine ⟨fun _ => answers, answers, fun _ => answers, fun n g => done_mbox_inside hrest fun m a => ?_, fun _ _ _ => answers,
    fun _ _ _ => answers, fun _ _ _ => answers, fun _ _ => answers, fun _ _ => answers, fun _ _ => answers, fun _ _ => answers,
    answers, answers, fun _ _ => answers, answers, answers, fun _ => answers, answers, answers, answers⟩
  split
  · exact respond_inside ..
  · exact respond_inside ..

end Sys2Proof.Machine
end

section
/-! What the host writes at the PCIe endpoint: registers, mailbox enable, doorbells (R14, R15, R486 to R488, R507), and the statements
about them (O24, O25). -/

namespace Sys2Proof.Machine

open Sys2Proof

/-- What a function that the host can reach is told is done. -/
theorem atFn_live {s : State} {fn : Nat} (h : s.fnLive fn = true) (act : State) : s.atFn fn act = act := by
  simp [State.atFn, h]

/-- Two changes of a function's registers agree where they agree on what it holds. -/
theorem modFn_congr {s : State} {fn : Nat} {f g : Fn → Fn} (h : f (s.fn fn) = g (s.fn fn)) : s.modFn fn f = s.modFn fn g := by
  simp [State.modFn, h]

theorem exec_registerWrite_bar {s : State} {fn off v : Nat} {ok : Bool} (hlive : s.fnLive fn = true) (hfn : fn < 9) (hv : v < 2 ^ 32) :
    exec (.registerWrite fn off v ok) s = .next (s.barWrite fn off v).settle := by
  show done _ = _
  rw [if_neg (by omega), atFn_live hlive, Nat.mod_eq_of_lt hv]
  rfl

/-- A base address is stored where the mailbox is not enabled. -/
theorem modFn_while_disabled {s : State} {fn : Nat} (hoff : (s.fn fn).mb.en = false) (p : Mailbox → Mailbox) :
    s.modFn fn (fun f => if f.mb.en then f else { f with mb := p f.mb }) = s.modFn fn fun f => { f with mb := p f.mb } :=
  modFn_congr (by simp [hoff])

/-- An MSI-X word other than a vector's control is stored. -/
theorem barWrite_msix {s : State} {fn i : Nat} (v : Nat) (hi : i < 4 * msixEntries fn) (hword : i % 4 ≠ 3) :
    s.barWrite fn (0x8000 + 4 * i) v = s.modFn fn fun f => { f with msix := Tab.put f.msix i (BitVec.ofNat 32 v) } := by
  unfold State.barWrite
  have hidx : (0x8000 + 4 * i - 0x8000) / 4 = i := by omega
  simp only [hidx]
  rw [if_neg (by omega), if_neg (by omega), if_neg (by omega), if_neg (by omega), if_neg (by omega), if_pos (by omega), if_neg hword]

theorem exec_mailboxEnable {s : State} {fn logn : Nat} (hlive : s.fnLive fn = true) :
    exec (.mailboxEnable fn logn) s = .next (s.mailboxEnable fn logn).settle :=
  next_settle (atFn_live hlive _)

/-- A mailbox of a legal size begins with empty indexes. -/
theorem mailboxEnable_of_legal {s : State} {fn logn : Nat} (hoff : (s.fn fn).mb.en = false) (hlegal : 4 ≤ logn ∧ logn ≤ 12) :
    s.mailboxEnable fn logn = s.modFn fn fun f => { f with mb := { f.mb with
      en := true, err := false, logn := logn, cprod := 0, chead := 0, rtail := 0, rcons := 0, reading := false } } := by
  have hn : logn % 16 = logn := by omega
  have hrange : ¬ (logn < 4 ∨ 12 < logn) := by omega
  simp [State.mailboxEnable, hoff, hn, hrange]

/-- An illegal size is stored and sets DBERR. -/
theorem mailboxEnable_of_illegal {s : State} {fn logn : Nat} (hoff : (s.fn fn).mb.en = false) (hillegal : logn < 4 ∨ 12 < logn)
    (h16 : logn < 16) : s.mailboxEnable fn logn = (s.modFn fn fun f => { f with mb.logn := logn }).setIsr fn isrDberr := by
  have hn : logn % 16 = logn := by omega
  simp [State.mailboxEnable, State.dberr, hoff, hn, hillegal]

/-- Settles O24. -/
theorem hostRegisterWrites : Obligations.HostRegisterWrites := by
  unfold Obligations.HostRegisterWrites
  refine ⟨?_, ?_, ?_, ?_, ?_, ?_⟩
  · intro s fn v ok hlive hfn hv
    have write := fun off => exec_registerWrite_bar (off := off) (ok := ok) hlive hfn hv
    refine ⟨(write _).trans rfl, (write _).trans rfl, ?_, fun i hi hword => (write _).trans (next_settle (barWrite_msix v hi hword))⟩
    rintro hoff m rfl
    have base : ∀ {off} {q : Fn → Fn} (p : Mailbox → Mailbox),
        s.barWrite fn off v = s.modFn fn (fun f => if f.mb.en then f else { f with mb := p f.mb }) →
        { s.fn fn with mb := p (s.fn fn).mb } = q (s.fn fn) → exec (.registerWrite fn off v ok) s = .next (s.modFn fn q).settle :=
      fun p hwrite hq => (write _).trans (next_settle (hwrite.trans ((modFn_while_disabled hoff p).trans (modFn_congr hq))))
    refine ⟨base (fun m => { m with cbase := setHalfWord m.cbase false v }) rfl rfl,
      base (fun m => { m with cbase := setHalfWord m.cbase true v }) rfl rfl,
      base (fun m => { m with rbase := setHalfWord m.rbase false v }) rfl rfl,
      base (fun m => { m with rbase := setHalfWord m.rbase true v }) rfl rfl,
      base (fun m => { m with shad := setHalfWord m.shad false v }) rfl rfl,
      base (fun m => { m with shad := setHalfWord m.shad true v }) rfl rfl⟩
  · intro s off v r hans hreg
    show done _ = _
    simp only [State.sbWrite, hans, hreg]
    rfl
  · rintro s t fn v hlive hv rfl
    show done _ = _
    rw [atFn_live hlive, if_pos hv]
    simp only [State.vectorControl, Nat.zero_mod, true_and]
    rfl
  · intro s fn off n hlive hfn hreg
    have hmiss : ¬ ((s.barReg fn off).isSome = true ∧ n = 4) := by
      rintro ⟨hsome, hn⟩
      rcases hreg with h | h
      · simp [h] at hsome
      · exact h hn
    have hspace : fn ≠ 9 := by omega
    constructor <;>
    · show done _ = _
      simp only [State.unmapped, hspace, hmiss, if_false, atFn_live hlive]
      rfl
  · intro s fn logn hlive hoff
    refine ⟨fun hrange => ?_, fun hrange h16 => ?_⟩
    · exact (exec_mailboxEnable hlive).trans (next_settle (mailboxEnable_of_legal hoff hrange))
    · exact (exec_mailboxEnable hlive).trans (next_settle (mailboxEnable_of_illegal hoff hrange h16))
  · intro s fn logn hlive
    show done _ = _
    rw [atFn_live hlive]
    rfl

/-- Settles O25: each doorbell looks at its mailbox or ring first, then at the distance of the index. -/
theorem doorbellsRing : Obligations.DoorbellsRing := by
  unfold Obligations.DoorbellsRing
  refine ⟨?_, ?_, ?_, ?_, ?_⟩
  · rintro s fn index m hlive rfl hen
    refine ⟨fun hin => ?_, fun hout => ?_, fun hin => ?_⟩
    · refine next_settle ((atFn_live hlive _).trans ?_)
      simp [State.mailboxDoorbell, hen, Nat.not_lt.mpr hin]
    · refine next_settle ((atFn_live hlive _).trans ?_)
      simp [State.mailboxDoorbell, State.badBell, State.dberr, hen, hout]
    · refine next_settle ((atFn_live hlive _).trans ?_)
      simp [State.responseDoorbell, hen, Nat.not_lt.mpr hin]
  · intro s fn index hlive hoff
    constructor
    · refine next_settle ((atFn_live hlive _).trans ?_)
      simp [State.mailboxDoorbell, State.dberr, hoff]
    · refine next_settle ((atFn_live hlive _).trans ?_)
      simp [State.responseDoorbell, State.dberr, hoff]
  · intro s fn ring index r hlive hring
    refine ⟨fun hin => ?_, fun hout => ?_⟩
    · refine next_settle ((atFn_live hlive _).trans ?_)
      simp only [State.submissionDoorbell, hring, if_neg (Nat.not_lt.mpr hin)]
    · refine next_settle ((atFn_live hlive _).trans ?_)
      simp only [State.submissionDoorbell, State.badBell, State.dberr, hring, if_pos hout]
  · intro s fn ring index r hlive hring
    refine ⟨fun hin => ?_, fun hsince => ?_⟩
    · refine next_settle ((atFn_live hlive _).trans ?_)
      simp only [State.completionDoorbell, hring, if_neg (Nat.not_lt.mpr hin)]
    · refine next_settle ((atFn_live hlive _).trans ?_)
      simp only [State.interruptTimer, hring, if_neg hsince]
  · intro s fn ring index hlive
    refine ⟨fun hring => ?_, fun hring => ?_⟩
    · refine next_settle ((atFn_live hlive _).trans ?_)
      simp only [State.submissionDoorbell, State.dberr, hring]
    · refine next_settle ((atFn_live hlive _).trans ?_)
      simp only [State.completionDoorbell, State.dberr, hring]

end Sys2Proof.Machine
end

section
/-! Configuration space, virtual functions and resets of functions (R478 to R480, R512), Bus Master Enable and the completions of the
device's reads (R489, R494, R509 to R511, R516), and the statements about them (O26, O27). -/

namespace Sys2Proof.Machine

open Sys2Proof

/-! ### Configuration -/

/-- The functions that answer a configuration request, once the module answers at all: whoever runs the endpoint is up, and the
function is there. -/
structure State.configurable (s : State) (fn : Nat) : Prop where
  held : s.chip.boot ≠ .held
  encHalt : s.chip.boot ≠ .encHalt
  recovery : s.chip.boot ≠ .recovery
  inRange : fn ≤ 8
  ready : s.chip.hif.configReady = true
  live : fn = 0 ∨ s.fnLive fn = true

theorem State.configurable.up {s : State} {fn : Nat} (h : s.configurable fn) :
    ¬ (s.chip.boot = .held ∨ s.chip.boot = .encHalt ∨ 8 < fn) := by
  simp [h.held, h.encHalt, h.inRange]

theorem State.configurable.there {s : State} {fn : Nat} (h : s.configurable fn) : ¬ (fn ≠ 0 ∧ (!s.fnLive fn) = true) := by
  rcases h.live with hpf | hvf
  · simp [hpf]
  · simp [hvf]

/-- After the readiness message a read answers the register's value. -/
theorem exec_configRequest_read {s : State} {fn off v : Nat} (h : s.configurable fn) (hdrs : s.chip.hif.drs = true)
    (hreg : s.configReg fn off = some v) : exec (.configRequest fn off false) s = .next (s.send (.config fn off v)) := by
  show Host.Outcome.next (s.configRequest fn off false) = _
  unfold State.configRequest
  rw [if_neg h.up, if_neg (by simp [h.ready]), if_neg h.there]
  simp [hdrs, hreg]

/-- The first request is answered with the readiness message before it. -/
theorem exec_configRequest_first {s : State} {fn : Nat} (h : s.configurable fn) (hdrs : s.chip.hif.drs = false) (off : Nat) :
    exec (.configRequest fn off true) s = .next (({ s with chip.hif.drs := true } : State).send (.drs fn)) := by
  show Host.Outcome.next (s.configRequest fn off true) = _
  unfold State.configRequest
  rw [if_neg h.up, if_neg (by simp [h.ready]), if_neg h.there]
  simp [hdrs]

/-- Settles O26. -/
theorem configurationAndResets : Obligations.ConfigurationAndResets := by
  unfold Obligations.ConfigurationAndResets
  refine ⟨fun s hinit => ?_, ?_, fun s n hlive hoff hlo hhi => ?_, fun s hlive hon => ?_, fun s fn hlive hlo hhi => ?_, fun s hlive => ?_⟩
  · show Host.Outcome.next _ = _
    rw [if_pos hinit]
  · intro s fn off w hheld hhalt hrec hfn
    refine ⟨fun hready => ?_, fun hready hdrs => ⟨?_, fun hvf => ?_, fun hlive => ⟨?_, ?_, ?_⟩⟩, fun hready hlive hdrs => ?_⟩
    · show Host.Outcome.next (s.configRequest fn off w) = _
      simp [State.configRequest, hheld, hhalt, hrec, hready, Nat.not_lt.mpr hfn]
    · exact exec_configRequest_read ⟨hheld, hhalt, hrec, by omega, hready, .inl rfl⟩ hdrs rfl
    · exact exec_configRequest_read ⟨hheld, hhalt, hrec, by omega, hready, .inr hvf⟩ hdrs rfl
    · exact exec_configRequest_read ⟨hheld, hhalt, hrec, hfn, hready, hlive⟩ hdrs rfl
    · exact exec_configRequest_read ⟨hheld, hhalt, hrec, hfn, hready, hlive⟩ hdrs rfl
    · exact exec_configRequest_read ⟨hheld, hhalt, hrec, hfn, hready, hlive⟩ hdrs rfl
    · exact exec_configRequest_first ⟨hheld, hhalt, hrec, hfn, hready, hlive⟩ hdrs off
  · refine next_settle ((atFn_live hlive _).trans (if_neg ?_))
    simp [hoff]; omega
  · refine next_settle ((atFn_live hlive _).trans (if_neg ?_))
    simp [hon]
  · exact next_settle ((if_neg (by omega)).trans (atFn_live hlive _))
  · exact ⟨next_settle (atFn_live hlive _), next_settle (atFn_live hlive _), next_settle (atFn_live hlive _)⟩

/-! ### Completions of reads -/

/-- A part of a copy's data is written behind what is there, and the rest stays awaited, unless a word drops bytes. -/
theorem copyIn_part {s x : State} {r : Running} {c : Context} {ctx seg left : Nat} {arg bs : List Byte} {dropped : Bool}
    (hctx : s.ctx? ctx = some c) (hlen : bs.length < left) (hspent : s.sealSpent r.caller.fn 5 0 = false)
    (hrecord : (s.fn r.caller.fn).conf.isSome = true → bs ≠ [] ∧ bs.length % 16 = 0 ∧ bs.length ≤ 65536)
    (hwrite : (s.countSeal r.caller.fn 5 0).writeCva c (hcCva arg + (hcLen arg - left)) bs = (x, dropped)) :
    s.copyIn r ctx seg left arg bs true = if dropped then x.answerRun (· == r) .integrity
      else { x with chip.hif.running := x.chip.hif.running.map fun q =>
        if q = r then { q with await := .hostCopy ctx seg 0 (left - bs.length) arg } else q } := by
  have hmin : min bs.length left = bs.length := min_eq_left hlen.le
  have hgood : ¬ ((!true) = true ∨ (s.fn r.caller.fn).conf.isSome = true ∧
      (bs.length ≠ bs.length ∨ bs.length = 0 ∨ bs.length % 16 ≠ 0 ∨ 65536 < bs.length)) := by
    rintro (h | ⟨hconf, h⟩)
    · exact absurd h (by decide)
    · obtain ⟨hne, hunits, hmax⟩ := hrecord hconf
      have := List.length_pos_iff.mpr hne
      omega
  simp only [State.copyIn, hctx, hspent, hmin, List.take_length, hwrite]
  rw [if_neg Bool.false_ne_true, if_neg hgood, if_neg (Nat.ne_of_lt hlen)]

/-- Settles O27: each completion names what is read, and is looked up among what the function waits for. -/
theorem readsComplete : Obligations.ReadsComplete := by
  unfold Obligations.ReadsComplete
  refine ⟨?_, ?_, ?_, ?_, ?_⟩
  · intro s fn hlive
    refine ⟨next_settle (atFn_live hlive _), fun hidle => next_settle ((atFn_live hlive _).trans ?_)⟩
    have hnone : ∀ g, (s.modFn fn g).chip.hif.running = [] := fun _ => hidle
    simp only [State.setBme, hnone, List.filter_nil, List.foldl_nil]
  · intro s fn seq hoff
    exact next_settle (if_neg (by simp [hoff]))
  · intro s fn which bs ok hlive hok
    have hgood : (ok || (s.fn fn).conf.isNone) = true := by rcases hok with h | h <;> simp [h]
    have complete : ∀ kind, exec (.hostReadCompletion fn kind which bs ok) s = .next (s.readDone fn kind which bs ok).settle :=
      fun _ => next_settle (atFn_live hlive _)
    refine ⟨fun hreading hspent => ?_, fun f hf => ?_, fun r hr hreading hspent => ?_, ?_⟩
    · refine (complete 0).trans (next_settle ?_)
      simp [State.readDone, hreading, hspent, hgood]
    · refine (complete 2).trans (next_settle ?_)
      simp only [State.readDone, hf, hgood, if_true]
    · refine (complete 1).trans (next_settle ?_)
      simp [State.readDone, hr, hreading, hspent, hgood]
    · intro r c ctx seg left arg x dropped hr hawait hfn hctx hlen hspent hrec hwrite
      refine (complete 3).trans (next_settle ?_)
      simp only [State.readDone, hr, hawait, hgood]
      exact copyIn_part hctx hlen (hfn ▸ hspent) (hfn ▸ hrec) (hfn ▸ hwrite)
  · intro s fn which bs hlive hconf
    have hbad : (false || (s.fn fn).conf.isNone) = false := by
      simpa [Option.isSome_iff_ne_none] using hconf
    have complete : ∀ kind, exec (.hostReadCompletion fn kind which bs false) s = .next (s.readDone fn kind which bs false).settle :=
      fun _ => next_settle (atFn_live hlive _)
    refine ⟨fun hreading hspent => ?_, fun f hf => ?_, fun r hr hreading hspent => ?_, ?_⟩
    · refine (complete 0).trans (next_settle ?_)
      simp only [State.readDone, hreading, hspent, hbad, Bool.not_true, Bool.false_eq_true, if_false]
    · refine (complete 2).trans (next_settle ?_)
      simp only [State.readDone, hf, hbad, Bool.false_eq_true, if_false]
    · refine (complete 1).trans (next_settle ?_)
      simp [State.readDone, hr, hreading, hspent, hbad]
    · intro r c ctx seg left arg hr hawait hfn hctx hspent
      refine (complete 3).trans (next_settle ?_)
      simp only [State.readDone, hr, hawait, hbad, State.copyIn, hctx, hfn, hspent]
      simp
  · intro s fn which late hlive
    have fails : ∀ kind, exec (.hostReadError fn kind which late) s = .next (s.readFailed fn kind which late).settle :=
      fun _ => next_settle (atFn_live hlive _)
    refine ⟨fun f hf => ?_, fun hreading => ?_, fun r hr hreading => ?_, ?_⟩
    · refine (fails 2).trans (next_settle ?_)
      simp only [State.readFailed, hf]
    · refine (fails 0).trans (next_settle ?_)
      simp only [State.readFailed, hreading, if_true, State.mailboxError]
    · refine (fails 1).trans (next_settle ?_)
      simp only [State.readFailed, hr, hreading, if_true, State.ringError]
    · exact fails 3

end Sys2Proof.Machine
end

section
/-! Timers of contexts and the events that answer waiting commands (R222, R223, R263, R316, R466, R467, R471), and the statement about
them (O28). -/

namespace Sys2Proof.Machine

open Sys2Proof

/-- Settles O28. -/
theorem contextTimersAndCompletions : Obligations.ContextTimersAndCompletions := by
  unfold Obligations.ContextTimersAndCompletions
  refine ⟨⟨?_, ?_, ?_⟩, ?_, ?_⟩
  · intro s core ctx kind which i t c hctx hwait hactive hestop hcore
    refine next_settle ?_
    simp only [hctx, hwait]
    rw [if_neg (by simp [hactive, hestop, hcore])]
    split <;> rfl
  · intro s ctx hstopping
    refine ⟨next_settle (if_pos hstopping), fun hquiet => next_settle ((if_pos (by simp [hstopping, hquiet])).trans rfl), fun k tid hstuck =>
      next_settle ?_⟩
    simp only [hstopping, hstuck]
  · intro s ctx c hctx hdead
    refine next_settle ?_
    simp [State.teardownDone, hctx, hdead]
  · intro s seq r hr
    refine ⟨fun ctx id g hawait => next_settle ?_, fun e hawait => next_settle ?_, fun level hawait => next_settle ?_⟩
    · simp only [State.zeroingComplete, hr, hawait]
    · simp only [State.zeroingComplete, hr, hawait]
    · simp only [State.zeroingComplete, hr, hawait]
  · intro s st gid g hgroup hload
    refine ⟨fun hnone => next_settle ?_, fun hout => next_settle ?_⟩
    · simp [State.regenerationComplete, hgroup, hnone, hload]
    · simp only [State.regenerationTimeout, hgroup]
      exact if_neg (by simp [hout, hload])

end Sys2Proof.Machine
end

section
/-! Submission entries and tasks (R116, R117, R120, R142, R143, R148, R162, R463, R464, R503), and the statements about them
(O29, O30). -/

namespace Sys2Proof.Machine

open Sys2Proof

/-- A context that exists is changed in its place. -/
theorem modCtx_of_found {s : State} {n : Nat} {c : Context} (h : s.ctx? n = some c) (f : Context → Context) :
    s.modCtx n f = s.setCtx n (f c) := by
  unfold State.ctx? at h
  simp only [State.modCtx, State.setCtx, Tab.adjust, h]

/-! ### Submission entries -/

/-- A descriptor whose context may hold an entry is placed. -/
theorem placeOrWait_places {s : State} {core : Nat} {r : SubRing} (hroom : s.mayHold core r.ctx = true) (fn ring : Nat) (d : List Byte) :
    s.placeOrWait fn ring r core d =
      (s.enqueue core { ctx := r.ctx, desc := d, origin := some (ring, r.cons % 2 ^ 16) }).takeEntry fn ring r :=
  if_pos hroom

/-- Settles O29: every check on the way to the queue is passed. -/
theorem submissionEntriesPlaced : Obligations.SubmissionEntriesPlaced := by
  unfold Obligations.SubmissionEntriesPlaced
  refine ⟨?_, ?_, ?_⟩
  · intro s fn ring r e c hring hq1 herr hchecked hserving hhead hctx hkind hheader haccept hroom
    show Host.Outcome.next (s.taskEntry fn ring) = _
    have hopen : (!s.serving || r.q1 || r.err || r.checked.isSome || num e 0 1 == 2) = false := by
      simp [hserving, hq1, herr, hchecked, hkind]
    simp only [State.taskEntry, hring, hhead, hctx, hopen, hheader, haccept, placeOrWait_places hroom]
    rfl
  · intro s fn ring r e c hring hq1 herr hchecked hserving hhead hctx hkind hheader hq1Ok hcore haccept hroom
    show Host.Outcome.next (s.q1Entry fn ring) = _
    have hopen : (!s.serving || !r.q1 || r.err || r.checked.isSome) = false := by simp [hserving, hq1, herr, hchecked]
    have hslot : ¬ ((decide (num e 0 1 ≠ 1) || !s.entryHeaderOk r.ctx e) = true) := by simp [hkind, hheader]
    simp only [State.q1Entry, hring, hhead, hctx, hopen, hq1Ok, hcore, haccept, if_neg hslot, placeOrWait_places hroom]
    rfl
  · intro s fn ring r core d c hring hserving hchecked hctx hroom
    show Host.Outcome.next _ = _
    simp only [hserving, hring, hchecked, hctx, hroom, placeOrWait_places hroom]
    rfl

/-! ### Dispatch and the end of tasks -/

/-- The two ends of a dispatch that a poisoned or failing task has, and the run of one whose checks pass. -/
theorem exec_taskDispatch {s : State} {core ctx i : Nat} {t : Task} {c : Context} (hchoose : s.chooseTask core = some (ctx, i, t))
    (hctx : s.ctx? ctx = some c) : exec (.taskDispatch core) s = .next (s.dispatch core i t c).settle := by
  refine next_settle ?_
  simp only [hchoose, hctx]

/-- Settles O30. -/
theorem tasksRunAndEnd : Obligations.TasksRunAndEnd := by
  unfold Obligations.TasksRunAndEnd
  refine ⟨?_, ?_, ?_, ?_, ?_⟩
  · intro s core ctx i t c x hchoose hctx
    refine ⟨fun h hhead => ?_, fun h hhead => ⟨fun hchecks m bad hmask => ?_, fun f hchecks => ?_⟩⟩
    · refine (exec_taskDispatch hchoose hctx).trans (next_settle ?_)
      simp only [State.dispatch, hhead, if_true]
    · refine (exec_taskDispatch hchoose hctx).trans (next_settle ?_)
      simp only [State.dispatch, hhead, hchecks, hmask, Bool.false_eq_true, if_false]
    · refine (exec_taskDispatch hchoose hctx).trans (next_settle ?_)
      simp only [State.dispatch, hhead, hchecks, Bool.false_eq_true, if_false]
      cases f.fault <;> rfl
  · intro s core ctx i t hfound
    show Host.Outcome.next _ = _
    simp only [hfound]
  · intro s core i cycles t r c htask hrun hctx hstage hfail hdone a r1 hlast
    have hruns : (t.stage != .running && t.stage != .stopping) = false := by rcases hstage with h | h <;> simp [h]
    have close : ∀ {x : State}, s.taskEnd core i cycles = x → exec (.taskEnd core i cycles) s = .next x.settle := next_settle
    refine ⟨fun st d hfail1 => close ?_, fun hfail1 b r2 hclose => ⟨fun st d hfail2 => close ?_, fun hfail2 => close ?_⟩⟩
    · simp only [State.taskEnd, htask, hrun, hctx, hruns, hfail, hdone, hlast, hfail1]
      rfl
    · simp only [State.taskEnd, htask, hrun, hctx, hruns, hfail, hdone, hlast, hfail1, hclose, hfail2]
      rfl
    · simp only [State.taskEnd, htask, hrun, hctx, hruns, hfail, hdone, hlast, hfail1, hclose, hfail2]
      rfl
  · intro s core i cycles t r c st d htask hrun hctx hstage hfail
    have hruns : (t.stage != .running && t.stage != .stopping) = false := by rcases hstage with h | h <;> simp [h]
    refine next_settle ?_
    simp only [State.taskEnd, htask, hrun, hctx, hruns, hfail]
    rfl
  · intro s n g c hsig hctx
    show Host.Outcome.next _ = _
    simp only [hsig]
    exact congrArg Host.Outcome.next (modCtx_of_found (s := { s with chip.sigs := s.chip.sigs.eraseIdx n }) hctx _)

end Sys2Proof.Machine
end

section
/-! Running tasks and the state mover (R75, R79, R80, R82, R87, R92, R161, R165 to R167, R174 to R176, R252, R253), and the statements
about them (O31, O32). -/

namespace Sys2Proof.Machine

open Sys2Proof

/-! ### Passes, drains, copies -/

/-- A COPY that runs and whose requests of the phase have all been answered goes on. -/
theorem copyPhase_ends {s : State} {t : Task} {r : Run} {c : Context} {o : OutTile} (hstage : t.stage = .running)
    (hcopy : isCopy t.desc = true) (hfail : r.fail = none) (hat : r.copyAt < o.hdr.count)
    (hacks : (s.copyNeeds c t.desc r).length ≤ r.acks) :
    ¬ ((t.stage != .running || !isCopy t.desc || r.fail.isSome || decide (o.hdr.count ≤ r.copyAt)) = true) ∧
      ¬ (r.acks < (s.copyNeeds c t.desc r).length) := by
  simp [hstage, hcopy, hfail, hat, hacks]

/-- Settles O31. -/
theorem runningTasksAdvance : Obligations.RunningTasksAdvance := by
  unfold Obligations.RunningTasksAdvance
  refine ⟨?_, ?_, ?_⟩
  · intro s core e par ups i t r p c a b htask hctx ha hb hhalt hfail hchunk hfree
    refine next_settle ?_
    have hgoes : ¬ ((p.halted || r.fail.isSome || decide ((blocksFor t.desc r e).length * chunksPer t.desc ≤ p.chunk)
        || !passFree t.desc p) = true) := by
      simp [hhalt, hfail, hchunk, hfree]
    simp only [State.passEnd, htask, hctx, ha, hb, if_neg hgoes]
  · intro s core e i t r p c o rest htask hctx hdrains hfail
    refine next_settle ?_
    simp only [State.chunkDrainEnd, htask, hctx, hdrains, hfail]
    rfl
  · intro s core i w fl t r c a o htask hrun hctx ha hout hstage hcopy hfail hat hacks
    obtain ⟨hgoes, hanswered⟩ := copyPhase_ends hstage hcopy hfail hat hacks
    refine ⟨fun hstaged hfree => next_settle ?_, fun stop vs hstaged => ⟨fun hfl => next_settle ?_, fun hfl hone => next_settle ?_,
      fun hfl hmany => next_settle ?_⟩⟩
    · simp only [State.copyBlockEnd, htask, hrun, hctx, ha, hout, if_neg hgoes, if_neg hanswered, hstaged, hfree]
      rfl
    · simp only [State.copyBlockEnd, htask, hrun, hctx, ha, hout, if_neg hgoes, if_neg hanswered, hstaged, if_pos hfl]
    · simp only [State.copyBlockEnd, htask, hrun, hctx, ha, hout, if_neg hgoes, if_neg hanswered, hstaged, if_neg hfl, if_pos hone]
    · simp only [State.copyBlockEnd, htask, hrun, hctx, ha, hout, if_neg hgoes, if_neg hanswered, hstaged, if_neg hfl, if_neg hmany]

/-! ### The state mover and the scrubs -/

/-- Settles O32. -/
theorem stateMoverAndScrubs : Obligations.StateMoverAndScrubs := by
  unfold Obligations.StateMoverAndScrubs
  refine ⟨?_, ?_, ?_, ?_, ?_⟩
  · intro s s2 core ctx c v errs crc hres hneeds hctx hplace hs2
    have hnew : ¬ (((s.core core).resident.any (·.ctx == ctx) || !(s.core core).needsSet ctx || (s.ctx? ctx).isNone) = true) := by
      simp [hres, hneeds, hctx]
    have hout : (if (s.core core).resident.length < 4 then some none else (s.core core).victim.map some) = some v := by
      rcases hplace with ⟨hroom, rfl⟩ | ⟨hfull, hv, hne⟩
      · exact if_pos hroom
      · obtain ⟨x, rfl⟩ := Option.ne_none_iff_exists'.mp hne
        rw [if_neg (by omega), hv]; rfl
    refine ⟨fun k hk htset => next_settle ?_, fun k x f hk htset hread => next_settle ?_⟩
    · simp only [State.tableSetSwap, if_neg hnew, hout, ← hs2, hk, htset]
      rfl
    · simp only [State.tableSetSwap, if_neg hnew, hout, ← hs2, hk, htset, hread]
      cases f <;> rfl
  · intro s s0 x core ctx i k t r ups bad hrun hfound hk hs0 hread
    refine ⟨fun hbad => next_settle ?_, fun hgood y hy => next_settle ?_⟩
    · simp only [State.stateSave, hfound, hrun, hk, ← hs0, hread, hbad, if_true]
    · subst hy hgood
      simp only [State.stateSave, hfound, hrun, hk, ← hs0, hread]
      rfl
  · intro s x core ctx i k t r c errs crc f hrun hctx hactive hfound hk hidle hread
    have hgo : ¬ ((c.st != .active || r.pos.any (fun p => (s.core core).engineBusy p.eng)) = true) := by simp [hactive, hidle]
    refine ⟨fun hf => next_settle ?_, fun cause hf => next_settle ?_⟩
    · simp only [State.stateRestore, hfound, hctx, hrun, hk, if_neg hgo, hread]
      subst hf
      rfl
    · simp only [State.stateRestore, hfound, hctx, hrun, hk, if_neg hgo, hread]
      subst hf
      rfl
  · intro s core word n hscrub
    show Host.Outcome.next _ = _
    simp only [hscrub]
    rfl
  · intro s core word
    rfl

end Sys2Proof.Machine
end

section
/-! Arms, requests, responses and tags of a stream engine (R183, R184, R198 to R210, R504), multicast and versions (R214 to R216, R226,
R290), accesses to an Isle (R152 to R163), and the statements about them (O33 to O36). -/

namespace Sys2Proof.Machine

open Sys2Proof

/-! ### Arm entries, issue -/

/-- Settles O33. -/
theorem armsAcceptedAndIssued : Obligations.ArmsAcceptedAndIssued := by
  unfold Obligations.ArmsAcceptedAndIssued
  refine ⟨?_, ?_, ?_, ?_, ?_⟩
  · intro s fn ring r e c hring hq1 herr hchecked hserving hhead hctx hkind hheader hzero haccept
    refine next_settle ?_
    have hopen : ¬ ((!s.serving || r.q1 || r.err || r.checked.isSome || num e 0 1 == 1) = true) := by
      simp [hserving, hq1, herr, hchecked, hkind]
    have hslot : ¬ ((!s.entryHeaderOk r.ctx e || !zeroRange e 80 192) = true) := by simp [hheader, hzero]
    simp only [State.armEntry, hring, hhead, hctx, if_neg hopen, if_neg hslot, haccept]
  · intro s fn ring r e c n st hring hq1 herr hchecked hserving hhead hctx hkind hheader hzero hrefuse
    refine next_settle ?_
    have hopen : ¬ ((!s.serving || r.q1 || r.err || r.checked.isSome || num e 0 1 == 1) = true) := by
      simp [hserving, hq1, herr, hchecked, hkind]
    have hslot : ¬ ((!s.entryHeaderOk r.ctx e || !zeroRange e 80 192) = true) := by simp [hheader, hzero]
    simp only [State.armEntry, hring, hhead, hctx, if_neg hopen, if_neg hslot, hrefuse]
  · intro s core ctx k tag x a pr r ts hsame hmove hchoose hact hreq ha hfree
    refine next_settle ?_
    simp only [State.streamIssue, hsame, hmove, hchoose, hact, hreq, ha, hfree, List.head?_cons]
  · intro s core i b tag x ts hsame hmove hchoose hact hfree
    refine next_settle ?_
    simp only [State.streamIssue, hsame, hmove, hchoose, hact, hfree, List.head?_cons, Option.elim_some]
  · intro s core sid x hfound
    refine ⟨fun ctx pr a hact ha => ?_, fun i b hact => ?_⟩
    · show Host.Outcome.next _ = _
      simp only [hfound, hact, ha]
    · show Host.Outcome.next _ = _
      simp only [hfound, hact]

/-! ### Responses and tags -/

/-- The response under a tag and generation is taken in. -/
theorem exec_streamResponse {s : State} {core tag gen : Nat} {p : Resp}
    (hfound : s.chip.resps.find? (fun p => p.core == core && p.tag == tag && p.gen == gen) = some p) :
    exec (.streamResponse core tag gen) s = .next (({ s with chip.resps := s.chip.resps.erase p } : State).takeResp p).settle := by
  refine next_settle ?_
  simp only [State.streamResponse, hfound]

/-- A response to a tag that is free, or in another generation, is stale. -/
theorem takeResp_stale {g : State} {p : Resp}
    (hstale : ((g.core p.core).tag p.tag).req = none ∨ ((g.core p.core).tag p.tag).gen ≠ p.gen) :
    g.takeResp p = g.staleResp p.core p.sid := by
  unfold State.takeResp
  cases hreq : ((g.core p.core).tag p.tag).req with
  | none => simp only [hreq]
  | some o =>
    simp only [hreq]
    exact if_pos (hstale.resolve_left (by simp [hreq]))

/-- The slot still holds the arm that made a request. -/
theorem slot_holds {sl : Slot} {a : Arm} {o : Outst} (hctx : sl.ctx = o.ctx) (hseq : a.seq = o.seq) :
    ¬ ((decide (a.seq ≠ o.seq) || (some sl).elim true fun x => x.ctx != o.ctx) = true) := by
  simp [hseq, hctx]

section

variable {g f : State} {p : Resp} {o : Outst} {sl : Slot} {a : Arm} (hreq : ((g.core p.core).tag p.tag).req = some o)
  (hgen : ((g.core p.core).tag p.tag).gen = p.gen)
  (hf : f = g.modCore p.core (fun q => { q with tags := Tab.set q.tags {} p.tag { gen := p.gen, req := none } }))
include hreq hgen hf

/-- An answer to the COPY channel frees its tag and is counted. -/
theorem takeResp_copy (hsid : o.sid = copySid) : g.takeResp p = f.copyResp p.core o.ctx := by
  unfold State.takeResp
  simp only [hreq, hgen, ← hf, if_pos hsid]
  simp only [ne_eq, not_true_eq_false, if_false]

variable (hsid : o.sid ≠ copySid) (hslot : f.slot? p.core o.sid = some sl) (hcur : sl.cur = some a) (hctx : sl.ctx = o.ctx)
  (hseq : a.seq = o.seq)
include hsid hslot hcur hctx hseq

/-- A failed request ends the arm that made it. -/
theorem takeResp_failed (hfailed : p.status ≠ .ok) : g.takeResp p = f.failArm p.core o.sid p.status p.detail := by
  unfold State.takeResp
  have hlive := slot_holds hctx hseq
  simp only [hreq, hgen, ← hf, if_neg hsid, hslot, Option.bind_some, hcur, if_neg hlive, if_pos hfailed]
  simp only [ne_eq, not_true_eq_false, if_false]

theorem takeResp_index (hok : p.status = .ok) (hkind : o.req.kind = .index) : g.takeResp p = f.setArm p.core o.sid (a.indexResp p.data) := by
  unfold State.takeResp
  have hlive := slot_holds hctx hseq
  simp only [hreq, hgen, ← hf, if_neg hsid, hslot, Option.bind_some, hcur, if_neg hlive, hok, if_pos hkind]
  simp only [ne_eq, not_true_eq_false, if_false]

theorem takeResp_data {x : TileX} (hok : p.status = .ok) (hkind : o.req.kind = .data) (hx : Tab.look a.tiles o.tile = some x)
    (hin : adOut a.desc = false) :
    g.takeResp p = f.dataResp p.core o.sid o.ctx a o.tile { x with live := x.live - 1 } o.req p.data := by
  unfold State.takeResp
  have hlive := slot_holds hctx hseq
  simp only [hreq, hgen, ← hf, if_neg hsid, hslot, Option.bind_some, hcur, if_neg hlive, hok, hkind, hx, hin]
  simp only [ne_eq, not_true_eq_false, if_false]
  rfl

theorem takeResp_head {x : TileX} (hok : p.status = .ok) (hkind : o.req.kind = .head) (hx : Tab.look a.tiles o.tile = some x) :
    g.takeResp p = f.headResp p.core o.sid o.ctx a o.tile { x with live := x.live - 1 } p.data := by
  unfold State.takeResp
  have hlive := slot_holds hctx hseq
  simp only [hreq, hgen, ← hf, if_neg hsid, hslot, Option.bind_some, hcur, if_neg hlive, hok, hkind, hx]
  simp only [ne_eq, not_true_eq_false, if_false]
  rfl

end

/-- Settles O34. -/
theorem responsesAndTags : Obligations.ResponsesAndTags := by
  unfold Obligations.ResponsesAndTags
  refine ⟨?_, ?_, ?_, ?_, ?_, fun _ _ _ => rfl⟩
  · intro s core tag gen p hfound hstale
    exact (exec_streamResponse hfound).trans (next_settle (takeResp_stale hstale))
  · intro s core tag gen p o a sl f hfound hreq hgen hf hsid hslot hcur hctx hseq
    have take := exec_streamResponse hfound
    let g : State := { s with chip.resps := s.chip.resps.erase p }
    exact ⟨fun hfailed => take.trans (next_settle (takeResp_failed (g := g) hreq hgen hf hsid hslot hcur hctx hseq hfailed)),
      fun hok hkind => take.trans (next_settle (takeResp_index (g := g) hreq hgen hf hsid hslot hcur hctx hseq hok hkind)),
      fun x hok hkind hx hin => take.trans (next_settle (takeResp_data (g := g) hreq hgen hf hsid hslot hcur hctx hseq hok hkind hx hin)),
      fun x hok hkind hx => take.trans (next_settle (takeResp_head (g := g) hreq hgen hf hsid hslot hcur hctx hseq hok hkind hx))⟩
  · intro s core tag gen p o hfound hreq hgen hsid
    exact (exec_streamResponse hfound).trans (next_settle (takeResp_copy (g := { s with chip.resps := s.chip.resps.erase p }) hreq hgen rfl hsid))
  · intro s core tag i o t r hreq hsid hcopy hctx
    refine next_settle ?_
    simp only [State.tagTimeout, hreq, if_pos hsid, hcopy, if_pos hctx]
  · intro s core tag o sl a hreq hsid hslot hcur hseq hctx
    refine next_settle ?_
    simp only [State.tagTimeout, hreq, if_neg hsid, hslot, hcur]
    exact if_neg (by simp [hseq, hctx])

/-! ### Multicast and versions -/

/-- Settles O35. -/
theorem multicastAndVersions : Obligations.MulticastAndVersions := by
  unfold Obligations.MulticastAndVersions
  refine ⟨?_, ?_, ?_⟩
  · intro s group member sid g fl a hgroup hcredit hslot heffect hkind
    show Host.Outcome.next (s.mcastCredit group member) = _
    simp only [State.mcastCredit, hgroup, hcredit, hslot]
    rw [if_neg (by simp [heffect, hkind])]
  · intro s f group member sid g t a hgroup htile hf hslot
    refine ⟨fun hdone => next_settle ?_, fun hnew => ⟨fun e hcheck => next_settle ?_,
      fun h w v hh hcheck hfits hw hwok hv => ⟨fun hhead => next_settle ?_, fun hhead hvok => next_settle ?_⟩⟩⟩
    · have hdone' : (decide (t.tile < a.sig) || a.done.contains t.tile) = true := by simpa using hdone
      simp only [State.mcastArrival, hgroup, htile, ← hf, hslot, if_pos hdone']
    all_goals have hnew' : ¬ ((decide (t.tile < a.sig) || a.done.contains t.tile) = true) := by simpa using hnew
    · simp only [State.mcastArrival, hgroup, htile, ← hf, hslot, if_neg hnew', hcheck]
    · simp only [State.mcastArrival, hgroup, htile, ← hf, hslot, if_neg hnew', hcheck, ← hh, if_neg (Nat.not_lt.mpr hfits), ← hw, hwok]
      exact if_pos hhead
    · simp only [State.mcastArrival, hgroup, htile, ← hf, hslot, if_neg hnew', hcheck, ← hh, if_neg (Nat.not_lt.mpr hfits), ← hw, hwok, ← hv,
        hvok]
      exact if_neg (Bool.eq_false_iff.mp hhead)
  · intro s core sid st gid sl a g hslot hcur hres hvgrp hgroup
    refine ⟨fun v hv => next_settle ?_, fun hv => next_settle ?_⟩
    · simp only [State.versionResolution, hslot, Option.bind_some, hcur, hres, hvgrp, hgroup, hv, Option.map_some]
      rfl
    · simp only [State.versionResolution, hslot, Option.bind_some, hcur, hres, hvgrp, hgroup, hv, Option.map_none]
      rfl

/-! ### Accesses to an Isle -/

/-- No flips leave the stored words as they are. -/
theorem flipWords_nil (s : State) : s.flipWords [] = s := rfl

section

variable {s f : State} {core : Nat} {m : MReq} (hfound : s.chip.mesh.find? (fun m => !m.toStack && m.dst == core) = some m)
include hfound

/-- A request of another partition's context only raises a fault. -/
theorem isleAccess_foreign (hpart : ctxPart m.req.ctx ≠ partOf s.chip.start (eighthOfCore core)) :
    s.isleAccess core [] = ({ s with chip.mesh := s.chip.mesh.erase m } : State).raise
      { src := 0x22, unit := core, info := ctxPart m.req.ctx } := by
  simp only [State.isleAccess, List.filter_nil, flipWords_nil, hfound]
  exact if_pos hpart

variable (hf : f = { s with chip.mesh := s.chip.mesh.erase m }) (hpart : ctxPart m.req.ctx = partOf s.chip.start (eighthOfCore core))
include hf hpart

/-- A read is answered with the bytes, or as poisoned. -/
theorem isleAccess_read (hread : m.req.write = false) {x : State} {bad : Bool} (hx : f.isleRead core m.req.addr m.req.len = (x, bad)) :
    s.isleAccess core [] = { x with chip.resps := x.chip.resps ++ [if bad
      then { core := m.req.core, sid := m.req.sid, tag := m.req.tag, gen := m.req.gen, data := [], status := .integrity, detail := 17 }
      else { core := m.req.core, sid := m.req.sid, tag := m.req.tag, gen := m.req.gen, data := f.rdN m.req.addr m.req.len }] } := by
  subst hf
  simp only [State.isleAccess, List.filter_nil, flipWords_nil, hfound]
  refine (if_neg (not_not.mpr hpart)).trans ((if_neg (Bool.eq_false_iff.mp hread)).trans ?_)
  simp only [hx]

/-- A write is acknowledged, or answered as having dropped bytes. -/
theorem isleAccess_write (hwrite : m.req.write = true) {x : State} {bad : Bool} (hx : f.isleWrite core m.req.addr m.req.data = (x, bad)) :
    s.isleAccess core [] = { x with chip.resps := x.chip.resps ++ [if bad
      then { core := m.req.core, sid := m.req.sid, tag := m.req.tag, gen := m.req.gen, data := [], status := .integrity, detail := 17 }
      else { core := m.req.core, sid := m.req.sid, tag := m.req.tag, gen := m.req.gen, data := [] }] } := by
  subst hf
  simp only [State.isleAccess, List.filter_nil, flipWords_nil, hfound]
  refine (if_neg (not_not.mpr hpart)).trans ((if_pos hwrite).trans ?_)
  simp only [hx]

end

/-- Settles O36. -/
theorem isleAccesses : Obligations.IsleAccesses := by
  unfold Obligations.IsleAccesses
  refine ⟨fun s core fl => rfl, ?_, fun s core m hfound hpart => next_settle (isleAccess_foreign hfound hpart)⟩
  intro s f core m ks p answered hfound hf hpart hks hp
  have herrs : ∀ n, f.isleErrs m.req.addr n = s.isleErrs m.req.addr n := fun n => by rw [hf]; rfl
  have hrd : f.rdN m.req.addr m.req.len = s.rdN m.req.addr m.req.len := by rw [hf]; rfl
  subst hks hp
  refine ⟨fun hread hclean => next_settle ?_, fun hwrite hclean => next_settle ?_, fun e hread he hflips => next_settle ?_,
    fun hwrite hbad => next_settle ?_⟩
  · rw [isleAccess_read hfound hf hpart hread (isleRead_clean ((herrs _).trans hclean)), hrd]
    rfl
  · rw [isleAccess_write hfound hf hpart hwrite (isleWrite_clean ((herrs _).trans hclean))]
    rfl
  · have hbad : (f.isleRead core m.req.addr m.req.len).2 = true := by
      simp only [State.isleRead, herrs, List.any_eq_true]
      exact ⟨e, he, by simpa using hflips⟩
    rw [isleAccess_read (x := (f.isleRead core m.req.addr m.req.len).1) (bad := true) hfound hf hpart hread (Prod.ext rfl hbad)]
    rfl
  · rw [isleAccess_write (x := (f.isleWrite core m.req.addr m.req.data).1) (bad := true) hfound hf hpart hwrite (Prod.ext rfl hbad)]
    rfl

end Sys2Proof.Machine
end

section
/-! Requests at a stack (R255, R273 to R275, R278, R312, R571), staged updates (R302 to R305, R337), migrations and deletions (R267, R268),
and the statements about them (O37 to O39). -/

namespace Sys2Proof.Machine

open Sys2Proof

/-! ### Requests -/

/-- Sectors without errors, or brought by an earlier read, are read without effect. -/
theorem serveRead_clean {t : State} {r : NReq}
    (hclean : ∀ m ∈ r.sectors, t.stackRead (32 * m) 32 r.comp = (t, false) ∧ Tab.look r.met m ≠ some true) :
    t.serveRead r = (t, r.sectors.map fun m => (m, false)) := by
  have meet : ∀ (ms : List Nat) (got : List (Nat × Bool)),
      (∀ m ∈ ms, t.stackRead (32 * m) 32 r.comp = (t, false) ∧ Tab.look r.met m ≠ some true) →
      ms.foldl (fun (a : State × List (Nat × Bool)) m => match Tab.look r.met m with
        | some b => (a.1, a.2 ++ [(m, b)])
        | none => let x := a.1.stackRead (32 * m) 32 r.comp; (x.1, a.2 ++ [(m, x.2)])) (t, got) = (t, got ++ ms.map fun m => (m, false)) := by
    intro ms
    induction ms with
    | nil => simp
    | cons m ms ih =>
      intro got h
      obtain ⟨hread, hmet⟩ := h m (by simp)
      have step := ih (got ++ [(m, false)]) fun k hk => h k (by simp [hk])
      rcases hlook : Tab.look r.met m with _ | b
      · simpa [hlook, hread] using step
      · cases b with
        | false => simpa [hlook] using step
        | true => exact absurd hlook hmet
  exact meet r.sectors [] hclean

/-- A read of sectors none of which was uncorrectable answers the stored bytes. -/
theorem answerRead_clean {t : State} {r : NReq} (ms : List Nat) :
    t.answerRead r (ms.map fun m => (m, false)) = t.reply r .ok 0 (t.rdN r.addr r.len) := by
  simp [State.answerRead]

theorem stackRead_clean {t : State} {k n : Nat} (h : t.sectorErrs k n = []) : t.stackRead k n false = (t, false) := by
  simp [State.stackRead, State.meetSectors, h]

theorem stackWrite_clean {t : State} {k : Nat} {bs : List Byte} (h : t.sectorErrs k bs.length = []) :
    t.stackWrite k bs false = (t.wrN k bs, false) := by
  simp [State.stackWrite, h]

theorem flipSectors_nil (s : State) : s.flipSectors [] = s := rfl

/-- The entry that a bank chooses is served. -/
theorem exec_bankService {s : State} {st ch pc bank aged : Nat} {r : NReq} (hpick : (s.nmu st).pick (ch * 128 + pc * 64 + bank) aged = some r)
    (errs : List (Nat × Nat)) : exec (.bankService st ch pc bank aged errs) s =
      .next ((s.flipSectors (errs.filter fun e => s.reach r e.1)).serve st r).settle := by
  refine next_settle ?_
  simp only [State.bankService, hpick]

/-- Settles O37. -/
theorem stackRequestsServed : Obligations.StackRequestsServed := by
  unfold Obligations.StackRequestsServed
  refine ⟨?_, ?_, ?_, ?_, fun _ _ => rfl⟩
  · intro s st core m hfound
    show Host.Outcome.next _ = _
    simp only [hfound]
  · intro s st i r x hroom hfound hx
    refine ⟨fun hnone => next_settle ?_, fun r1 ack hsome hack => next_settle ?_⟩
    · simp only [State.sorterAdmit, if_neg (Nat.not_le.mpr hroom), hfound, ← hx, hnone]
    · simp only [State.sorterAdmit, if_neg (Nat.not_le.mpr hroom), hfound, ← hx, hsome, ← hack]
  · intro s st ch pc bank aged errs r hpick
    exact (exec_bankService hpick errs).trans (exec_bankService (s := s.flipSectors (errs.filter fun e => s.reach r e.1)) hpick []).symm
  · intro s t st ch pc bank aged r hpick ht
    have serves := exec_bankService hpick []
    rw [List.filter_nil, flipSectors_nil] at serves
    have herrs : ∀ k n, t.sectorErrs k n = s.sectorErrs k n := fun _ _ => by rw [ht]; rfl
    have hrd : ∀ k n, t.rdN k n = s.rdN k n := fun _ _ => by rw [ht]; rfl
    refine ⟨fun hacc hcomp hread hclean => serves.trans (next_settle ?_), fun hacc hcomp hwrite hclean => serves.trans (next_settle ?_),
      fun a hacc => serves.trans (next_settle ?_)⟩
    · have hgot : t.serveRead r = (t, r.sectors.map fun m => (m, false)) := serveRead_clean fun m hm =>
        ⟨hcomp ▸ stackRead_clean ((herrs _ _).trans (hclean m hm).1), (hclean m hm).2⟩
      simp only [State.serve, hacc, ← ht, hread, hgot, answerRead_clean, hrd]
      rfl
    · have hw : t.stackWrite r.addr r.data r.comp = (t.wrN r.addr r.data, false) := by rw [hcomp, stackWrite_clean ((herrs _ _).trans hclean)]
      simp only [State.serve, hacc, ← ht, hwrite, hw]
      rfl
    · simp only [State.serve, hacc, ← ht]

/-! ### Staged updates -/

/-- Settles O38. -/
theorem updatesStaged : Obligations.UpdatesStaged := by
  unfold Obligations.UpdatesStaged
  refine ⟨?_, ?_, ?_, fun _ _ _ => rfl⟩
  · intro s part set x hset hst hkernels hload hclaims hheld
    refine next_settle ?_
    simp only [State.claimsIn, hset]
    exact if_neg (by simp [hst, hkernels, hload, hclaims, hheld])
  · intro s part set x p ps hset hst hkernels hwait
    refine next_settle ?_
    simp only [State.stageTimeout, hset, hwait, List.cons_append, List.head?_cons]
    exact if_neg (by simp [hst, hkernels])
  · intro s part set x hset hst hkernels
    refine next_settle ?_
    simp only [State.kernelsEnd, hset]
    exact if_neg (by simp [hst, hkernels])

/-! ### Migrations and deletions -/

/-- Settles O39. -/
theorem migrationsRun : Obligations.MigrationsRun := by
  unfold Obligations.MigrationsRun
  refine ⟨?_, ?_, ?_⟩
  · intro s ctx seg w hmover hheld
    refine ⟨?_, ?_⟩
    · rintro rfl
      refine next_settle ?_
      simp only [State.holdersEnded, hmover, hheld]
      rfl
    · rintro n rfl
      refine next_settle ?_
      simp only [State.holdersEnded, hmover, hheld]
      rfl
  · intro s ctx seg n hmover
    refine next_settle ?_
    simp only [hmover]
    rfl
  · intro s ctx seg n g c hmover hctx hseg x
    refine ⟨fun hok => next_settle ?_, fun hbad => next_settle ?_⟩
    · simp only [State.copyComplete, hmover, Await.moving, hctx, Option.bind_some, hseg]
      exact if_neg (by simp [x] at hok; simp [hok])
    · simp only [State.copyComplete, hmover, Await.moving, hctx, Option.bind_some, hseg]
      exact if_pos hbad

end Sys2Proof.Machine
end

section
/-! A Nellon port's link: training (R362, R363, R382, R383), codewords (R358, R361, R387), and the statements about them (O40, O41). -/

namespace Sys2Proof.Machine

open Sys2Proof

/-- A port of the module acts. -/
theorem atPort_of_lt {s : State} {n : Nat} (h : n < 16) (act : Port → State) : s.atPort n act = act (s.port n) := if_pos h

/-! ### Training -/

/-- Settles O40. -/
theorem linksTrain : Obligations.LinksTrain := by
  unfold Obligations.LinksTrain
  refine ⟨?_, ?_, ?_, ?_⟩
  · rintro s n lane ctl rx rdy pre preset ask p q hn hlane rfl hst hok hbad
    refine next_settle ((atPort_of_lt hn _).trans ?_)
    have htrains : ¬ (8 ≤ lane ∨ (!((s.port n).st == .detect || (s.port n).st == .lock || (s.port n).st == .eq || (s.port n).st == .retrain)) = true) := by
      rcases hst with h | h | h | h <;> simp [h, hlane]
    have hq : (if frameOk ctl then (s.port n).setLane lane (((s.port n).lane lane).frame (s.port n).st ctl rx.flip rx.locked rdy pre)
        else s.port n) = q := by
      cases h : frameOk ctl
      · exact (hbad h).symm
      · exact (hok h).symm
    simp only [if_neg htrains, hq]
  · rintro s n p hn rfl hfull
    have hslow : ¬ ((s.port n).fast = true) := Bool.eq_false_iff.mp hfull
    refine ⟨fun hst => next_settle ?_, fun hst => next_settle ?_, fun hst => next_settle ?_, fun hst => next_settle ?_,
      fun hst => next_settle ?_⟩
    all_goals
      refine (atPort_of_lt hn _).trans ((if_neg hslow).trans ?_)
      simp only [hst]
  · intro s n hn hst
    show Host.Outcome.next _ = _
    rw [atPort_of_lt hn, if_pos hst]
  · intro s n hn hfast hst
    exact next_settle ((atPort_of_lt hn _).trans (if_pos ⟨hfast, hst⟩))

/-! ### Codewords -/

/-- A codeword's symbols change the lanes and the counts of codewords only. -/
theorem charge_eq (p : Port) (corrected : List Nat) (bad : Bool) : ∃ lanes cor unc,
    p.charge corrected bad = { p with lanes := lanes, feccor := cor, fecunc := unc } := by
  unfold Port.charge
  cases bad
  · have hlanes : ∀ (ls : List Nat) (a : Port), ∃ lanes, ls.foldl (fun a i =>
        let l := p.symbolLane p.cwNum i; a.setLane l { a.lane l with lsym := satAdd 32 (a.lane l).lsym 1 }) a = { a with lanes := lanes } := by
      intro ls
      induction ls with
      | nil => exact fun a => ⟨a.lanes, rfl⟩
      | cons i ls ih =>
        intro a
        obtain ⟨lanes, h⟩ := ih (a.setLane (p.symbolLane p.cwNum i)
          { a.lane (p.symbolLane p.cwNum i) with lsym := satAdd 32 (a.lane (p.symbolLane p.cwNum i)).lsym 1 })
        exact ⟨lanes, h⟩
    obtain ⟨lanes, h⟩ := hlanes corrected p
    simp only [Bool.false_eq_true, if_false, h]
    split
    · exact ⟨lanes, p.feccor, p.fecunc, rfl⟩
    · exact ⟨lanes, _, p.fecunc, rfl⟩
  · exact ⟨p.lanes, p.feccor, _, rfl⟩

@[simp] theorem charge_cwNum (p : Port) (corrected : List Nat) (bad : Bool) : (p.charge corrected bad).cwNum = p.cwNum := by
  obtain ⟨_, _, _, h⟩ := charge_eq p corrected bad
  rw [h]

@[simp] theorem charge_spoilt (p : Port) (corrected : List Nat) (bad : Bool) : (p.charge corrected bad).spoilt = p.spoilt := by
  obtain ⟨_, _, _, h⟩ := charge_eq p corrected bad
  rw [h]

@[simp] theorem charge_rxFlit (p : Port) (corrected : List Nat) (bad : Bool) : (p.charge corrected bad).rxFlit = p.rxFlit := by
  obtain ⟨_, _, _, h⟩ := charge_eq p corrected bad
  rw [h]

/-- Settles O41. -/
theorem codewordsCounted : Obligations.CodewordsCounted := by
  unfold Obligations.CodewordsCounted
  refine ⟨?_, ?_, ?_⟩
  · intro s n ctl cor bad hcor
    show done (s.atPort n fun p => _) = done (s.atPort n fun p => _)
    simp only [hcor, Bool.not_false, Bool.or_true, Bool.true_or]
    rfl
  · rintro s n ctl cor bad p hn rfl hst hcor
    have word : exec (.codeword n ctl cor bad) s = .next (let q := (s.port n).alignOn (ctl % 4096) cor bad
        if 64 ≤ q.cwGood then (s.setPort n { q with rxFlit := cwFirst q.cwNum, spoilt := [] }).enterConfig n else s.setPort n q : State).settle := by
      refine next_settle ((atPort_of_lt hn _).trans ?_)
      simp only [hcor, Bool.not_true, Bool.or_false, if_pos hst]
    refine ⟨?_, ?_, ?_⟩
    · rintro rfl
      refine word.trans (next_settle ?_)
      simp [Port.alignOn]
    · rintro rfl hgood hcount q
      refine word.trans (next_settle ?_)
      simp [Port.alignOn, hgood, hcount, q]
    · rintro rfl hfirst
      refine word.trans (next_settle ?_)
      have : ¬ (0 < (s.port n).cwGood ∧ ctl % 4096 = (s.port n).cwNum % 4096) := by omega
      simp [Port.alignOn, this]
  · rintro s n ctl cor bad p hist hn rfl hst hcor rfl t
    refine next_settle ((atPort_of_lt hn _).trans ?_)
    have halign : (s.port n).st ≠ .align := by rcases hst with h | h <;> simp [h]
    simp only [hcor, Bool.not_true, Bool.or_false, if_neg halign, if_pos hst]
    simp [Port.lockOn, Port.lockLost, t]

end Sys2Proof.Machine
end

section
/-! Flits of a port received and sent, link messages and lanes (R366 to R378, R384 to R386, R390), and the statements about them
(O42 to O45). -/

namespace Sys2Proof.Machine

open Sys2Proof

/-- A port that is not DISABLED is read back as it was stored, whatever the table of ports lists. -/
theorem port_setPort_live {s : State} {n : Nat} {p : Port} (h : p.st ≠ .disabled) : (s.setPort n p).port n = p := by
  have hne : p ≠ {} := by rintro rfl; exact h rfl
  simp only [State.port, State.setPort, Tab.get, Tab.set, if_neg hne, Tab.look_put_same, Option.getD_some]

/-- The first byte of a part of a structure. -/
theorem num_slice_zero_one (d : List Byte) (off n : Nat) : num (slice d off (n + 1)) 0 1 = num d off 1 := by
  unfold num slice
  cases h : d.drop off <;> simp [List.replicate_succ]

/-! ### Flits received -/

/-- A flit that reaches an ACTIVE port is the next of its stream. -/
theorem flitIn_active {s : State} {n : Nat} {p : Port} (hn : n < 16) (hp : p = s.port n) (hst : p.st = .active) (f : List Byte)
    (failed : Bool) : s.flitIn n f failed =
      let u := s.setPort n p.nextFlit.1
      let good := flitIntact f (failed || p.nextFlit.2) && decide (fld f 0 12 4 ≤ 2)
      let s2 := u.countBad n f (flitIntact f (failed || p.nextFlit.2))
      if !good then s2.modPort n Port.flitError else if fld f 0 12 4 == 2 && num f 8 1 == 1 then s2 else s2.activeFlit n f := by
  subst hp
  have hnext : (s.port n).nextFlit.1.st = .active := hst
  have hu : (s.setPort n (s.port n).nextFlit.1).port n = (s.port n).nextFlit.1 := port_setPort_live (by rw [hnext]; decide)
  unfold State.flitIn
  rw [atPort_of_lt hn, if_pos (Or.inl hst)]
  unfold State.flitBody
  rw [atPort_of_lt hn, hu]
  simp only [hnext]
  rfl

/-- An intact flit in sequence, on a port that is still ACTIVE once its fields are in, is delivered. -/
theorem flitIn_in_sequence {s t : State} {n : Nat} {p : Port} {f : List Byte} (hn : n < 16) (hp : p = s.port n) (hst : p.st = .active)
    (hcrc : num f 248 8 = crc64 (slice f 0 248)) (hclean : p.rxFlit ∉ p.spoilt)
    (htype : fld f 0 12 4 = 1 ∨ (fld f 0 12 4 = 2 ∧ num f 8 1 ≠ 1)) (ht : t = (s.setPort n p.nextFlit.1).fieldsIn n f)
    (hact : (t.port n).st = .active) (hseq : fld f 0 0 12 = (t.port n).rxX) : s.flitIn n f false = t.deliverFlit n f := by
  have hspoilt : p.nextFlit.2 = false := by simpa [Port.nextFlit] using hclean
  have hintact : flitIntact f (false || p.nextFlit.2) = true := by simp [flitIntact, hspoilt, hcrc]
  have hknown : fld f 0 12 4 ≤ 2 ∧ fld f 0 12 4 ≠ 0 := by omega
  have hconf : (fld f 0 12 4 == 2 && num f 8 1 == 1) = false := by
    rcases htype with h | ⟨h, h'⟩
    · simp [h]
    · simp [h']
  have hbehind : ((t.port n).rxX + 4096 - fld f 0 0 12) % 4096 = 0 := by rw [hseq]; omega
  rw [flitIn_active hn hp hst]
  simp only [hintact, State.countBad, hknown.1, decide_true, Bool.and_self, Bool.not_true, hconf, if_true, Bool.false_eq_true, if_false,
    State.activeFlit, ← ht, hbehind, if_neg hknown.2]
  exact if_neg (not_not.mpr hact)

/-- Settles O42. -/
theorem flitsReceived : Obligations.FlitsReceived := by
  unfold Obligations.FlitsReceived
  refine ⟨?_, ?_, ?_⟩
  · intro s u t n f p hn hp hst hcrc hdata hclean hu ht hact hseq q v
    refine next_settle ?_
    rw [flitIn_in_sequence hn hp hst hcrc hclean (.inl hdata) (hu ▸ ht) hact hseq]
    exact if_pos hdata
  · intro s u n f failed p hn hp hst hu hfailed
    refine next_settle ?_
    have hbad : flitIntact f (failed || p.nextFlit.2) = false := by
      rcases hfailed with h | h | h <;> simp [flitIntact, Port.nextFlit, h]
    rw [flitIn_active hn hp hst]
    simp only [hbad, State.countBad, ← hu, Bool.false_and, Bool.not_false, if_true, Bool.false_eq_true, if_false]
  · intro s n vc h hn hvc hheld hroom
    show Host.Outcome.next _ = _
    rw [atPort_of_lt hn]
    simp only [hheld, Nat.add_sub_cancel]
    rw [if_pos ⟨hvc, Nat.succ_pos h, hroom⟩]

/-! ### Messages -/

/-- A message of type `c` in sequence is acted on behind its flit. -/
theorem ctrlIn_in_sequence {s t u : State} {n c : Nat} {p : Port} {f : List Byte} (hn : n < 16) (hp : p = s.port n) (hst : p.st = .active)
    (hcrc : num f 248 8 = crc64 (slice f 0 248)) (hctrl : fld f 0 12 4 = 2) (hclean : p.rxFlit ∉ p.spoilt)
    (ht : t = (s.setPort n p.nextFlit.1).fieldsIn n f) (hact : (t.port n).st = .active) (hseq : fld f 0 0 12 = (t.port n).rxX)
    (hu : u = t.modPort n fun q => { q with rxX := (q.rxX + 1) % 4096, recovering := false }) (htype : num f 8 1 = c) (hc : c ≠ 1) :
    s.ctrlIn n c f false = u.messageIn n (slice f 8 240) := by
  unfold State.ctrlIn
  rw [if_pos ⟨hctrl, htype⟩, flitIn_in_sequence hn hp hst hcrc hclean (.inr ⟨hctrl, htype ▸ hc⟩) ht hact hseq]
  subst hu
  exact if_neg (by omega)

/-- Settles O43. -/
theorem messagesActedOn : Obligations.MessagesActedOn := by
  unfold Obligations.MessagesActedOn
  refine ⟨?_, ?_⟩
  · intro s t u n f p hn hp hst hcrc hctrl hclean ht hact hseq hu
    have act := fun {c} => ctrlIn_in_sequence (c := c) hn hp hst hcrc hctrl hclean ht hact hseq hu
    have hport : u.port n = { t.port n with rxX := ((t.port n).rxX + 1) % 4096, recovering := false } := by
      rw [hu]; exact port_setPort_live (by rw [hact]; decide)
    have htype : num (slice f 8 240) 0 1 = num f 8 1 := num_slice_zero_one f 8 239
    refine ⟨fun hc => next_settle ((act hc (by decide)).trans ?_), fun hc => next_settle ((act hc (by decide)).trans ?_),
      fun hc => next_settle ((act hc (by decide)).trans ?_), fun hc => next_settle ((act hc (by decide)).trans ?_)⟩
    · simp only [State.messageIn, htype, hc, State.modPort, hport]
    · simp only [State.messageIn, htype, hc, State.modPort]
    · simp only [State.messageIn, htype, hc, State.modPort]
    · simp only [State.messageIn, htype, hc]
  · intro s u n f p hn hp hst hcrc hctrl htype hclean hu
    have hspoilt : p.nextFlit.2 = false := by simpa [Port.nextFlit] using hclean
    have hintact : flitIntact f (false || p.nextFlit.2) = true := by simp [flitIntact, hspoilt, hcrc]
    have hnext : p.nextFlit.1.st = .config := hst
    have hport : u.port n = p.nextFlit.1 := by rw [hu]; exact port_setPort_live (by rw [hnext]; decide)
    have taken : s.ctrlIn n 1 f false = u.configIn n (slice f 8 240) := by
      unfold State.ctrlIn State.flitIn
      rw [if_pos ⟨hctrl, htype⟩, atPort_of_lt hn, ← hp, if_pos (Or.inr hst), ← hu]
      unfold State.flitBody
      rw [atPort_of_lt hn, hport]
      simp only [hnext, hintact, State.countBad, hctrl, htype]
      rfl
    refine ⟨fun hversion => next_settle (taken.trans ?_), fun _ => next_settle taken⟩
    unfold State.configIn
    rw [hport, if_neg (not_not.mpr hnext), if_pos hversion]
    rfl

/-! ### Flits sent, lanes -/

/-- Settles O44. -/
theorem flitsSent : Obligations.FlitsSent := by
  unfold Obligations.FlitsSent
  refine ⟨?_, ?_⟩
  · rintro s n p hn rfl hst
    have hconf : (s.port n).st ≠ .config := by rw [hst]; decide
    have sends : exec (.flitTransmit n) s = .next _ :=
      congrArg Host.Outcome.next ((atPort_of_lt hn _).trans ((if_neg hconf).trans (if_neg (not_not.mpr hst))))
    refine ⟨fun i f hat hf => sends.trans ?_, fun m ms hat hroom hctrl => sends.trans ?_, fun v hat hroom hctrl hdrain hv => sends.trans ?_, ?_,
      fun f fs hbuf => ?_, fun hrec => ?_⟩
    · simp only [hat, hf]
    · simp only [hat, hctrl, if_neg (show ¬ (replayMax ≤ (s.port n).buf.length) from Nat.not_le.mpr hroom)]
    · simp only [hat, hctrl, hv, hdrain, if_neg (show ¬ (replayMax ≤ (s.port n).buf.length) from Nat.not_le.mpr hroom)]
      rfl
    · exact congrArg Host.Outcome.next ((atPort_of_lt hn _).trans (if_pos hst))
    · refine next_settle ((atPort_of_lt hn _).trans ?_)
      simp only [hst, hbuf]
    · exact congrArg Host.Outcome.next ((atPort_of_lt hn _).trans (if_pos ⟨hst, hrec⟩))
  · intro s n hn hst
    exact congrArg Host.Outcome.next ((atPort_of_lt hn _).trans (if_pos hst))

/-- Settles O45. -/
theorem lanesWatched : Obligations.LanesWatched := by
  unfold Obligations.LanesWatched
  refine ⟨?_, ?_, ?_⟩
  · rintro s t n lane p hn hlane rfl rfl
    exact next_settle ((atPort_of_lt hn _).trans (if_neg (Nat.not_le.mpr hlane)))
  · rintro s n lane p hn hlane rfl hst hlocked
    exact next_settle ((atPort_of_lt hn _).trans (if_pos ⟨hst, hlane, hlocked⟩))
  · intro s n hn hdrain
    refine ⟨fun hempty => next_settle ((atPort_of_lt hn _).trans ?_), fun hfull => next_settle ((atPort_of_lt hn _).trans ?_)⟩
    · simp [hdrain, hempty]
    · simp [hdrain, hfull]

end Sys2Proof.Machine
end

section
/-! Packets that reach this module and packets on their way: remote memory (R403 to R405), collectives (R411 to R418), routing (R397,
R399, R421), and the statements about them (O46 to O48). -/

namespace Sys2Proof.Machine

open Sys2Proof

/-- A good packet of a type that the row takes is handed on. -/
theorem receive_delivered {s : State} {n vc : Nat} {p : List Byte} (hdel : s.delivers n vc p = true) {types : Nat → Bool}
    (htype : types (pkType p) = true) (act : List Byte → State → State) : s.receive n vc types act = act p (s.takePacket n vc p) := by
  unfold State.delivers at hdel
  simp only [Bool.and_eq_true, beq_iff_eq, bne_iff_ne, ne_eq] at hdel
  obtain ⟨⟨⟨⟨⟨hhead, hdst⟩, hecrc⟩, hshape⟩, hjob⟩, hmember⟩ := hdel
  have hmember' : (s.member? (pkDpart p) (pkJob p)).isNone = false := by rw [Option.isNone_eq_false_iff]; exact hmember
  simp [State.receive, hhead, hdst, hecrc, hshape, htype, hjob, hmember']

/-! ### Remote memory -/

/-- A PUT whose window check fails with a status that is no header's is answered with it. -/
theorem putIn_refused {f : State} {n k : Nat} {p : List Byte} (hk : k ≠ 5) (hcheck : f.windowCheck p (pkLen p) = some k) :
    f.putIn n p = f.nack p k := by
  unfold State.putIn
  rw [hcheck]
  split
  · next h _ => exact absurd h (by simp)
  · next h _ => exact absurd (Option.some.inj h) hk
  · next h _ => rw [Option.some.inj h]
  · next h _ => exact absurd h (by simp)

theorem getIn_refused {f : State} {k : Nat} {p : List Byte} (hcheck : f.windowCheck p (pkGlen p) = some k) : f.getIn p = f.nack p k := by
  simp only [State.getIn, hcheck]

/-- An answer for a core that exists is handed to its stream engine. -/
theorem answerIn_core {f : State} {p : List Byte} (hcore : pkScore p < 576) (data : List Byte) (st : Status) (d : Nat) :
    f.answerIn p data st d =
      f.takeResp { core := pkScore p, sid := pkFlow p % 32, tag := pkTag p, gen := pkGen p, data := data, status := st, detail := d } :=
  if_neg (Nat.not_le.mpr hcore)

/-- Settles O46. -/
theorem remoteMemoryAnswered : Obligations.RemoteMemoryAnswered := by
  unfold Obligations.RemoteMemoryAnswered
  refine ⟨?_, ?_⟩
  · rintro s f n vc p w c hdel rfl hwin
    have takes := fun {k : Nat} (h : pkType p = k) act => receive_delivered hdel (types := (· == k)) (beq_iff_eq.mpr h) act
    refine ⟨fun pay htype hcheck hpay => next_settle ((takes htype _).trans ?_), fun htype hcheck => next_settle ((takes htype _).trans ?_),
      fun k htype hk hcheck => next_settle ((takes htype _).trans (putIn_refused hk hcheck)),
      fun htype hcheck hgood => next_settle ((takes htype _).trans ?_), fun htype hcheck hbad => next_settle ((takes htype _).trans ?_),
      fun k htype hcheck => next_settle ((takes htype _).trans (getIn_refused hcheck))⟩
    · simp only [State.putIn, hcheck, hwin, ← hpay]
    · simp only [State.putIn, hcheck, hwin]
    · simp only [State.getIn, hcheck, hwin, hgood]
      rfl
    · simp only [State.getIn, hcheck, hwin, hbad, if_true]
  · rintro s f n vc p hdel rfl hcore r
    have takes := fun {k : Nat} (h : pkType p = k) act => receive_delivered hdel (types := (· == k)) (beq_iff_eq.mpr h) act
    refine ⟨fun htype => next_settle ((takes htype _).trans (answerIn_core hcore ..)),
      fun htype => next_settle ((takes htype _).trans (answerIn_core hcore ..)),
      fun htype hst => next_settle ((takes htype _).trans ((if_neg hst).trans (answerIn_core hcore ..))),
      fun htype hst => next_settle ((takes htype _).trans ((if_pos hst).trans (answerIn_core hcore ..)))⟩

/-! ### Collectives -/

section

variable {f : State} {n : Nat} {p : List Byte} {x : Coll} {m : Member} (hcoll : f.collOf p = some (x, m)) (hdig : pkDdig p = ddig x.desc)
include hcoll hdig

/-- A chunk of the collective, or a packet of a barrier, is acted on. -/
theorem collPacket_chunk (hchunk : 8 < pkType p ∨ chunkOk x.desc (pkTile p) (pkChunk p) (pkLen p) = true)
    (act : Coll → Member → State → State) : f.collPacket n p act = act x m f := by
  have hgood : ¬ (pkType p ≤ 8 ∧ (!chunkOk x.desc (pkTile p) (pkChunk p) (pkLen p)) = true) := by
    rintro ⟨hle, hbad⟩
    rcases hchunk with h | h
    · omega
    · simp [h] at hbad
  simp only [State.collPacket, hcoll, ne_eq, hdig, not_true_eq_false, if_false, if_neg hgood]

/-- What is no chunk of the collective is dropped and counted. -/
theorem collPacket_dropped (htype : pkType p ≤ 8) (hbad : chunkOk x.desc (pkTile p) (pkChunk p) (pkLen p) = false)
    (act : Coll → Member → State → State) :
    f.collPacket n p act = f.portCount n fun q => { q with badpkt := satAdd 32 q.badpkt 1 } := by
  simp [State.collPacket, hcoll, hdig, htype, hbad]

end

/-- Settles O47. -/
theorem collectivePackets : Obligations.CollectivePackets := by
  unfold Obligations.CollectivePackets
  refine ⟨?_, ?_⟩
  · rintro s f n vc p x m hdel rfl hcoll hdig
    have takes := fun {k : Nat} (h : pkType p = k) act => receive_delivered hdel (types := (· == k)) (beq_iff_eq.mpr h) act
    have chunk := fun h act => collPacket_chunk (n := n) hcoll hdig h act
    have drops := fun h h' act => collPacket_dropped (n := n) hcoll hdig h h' act
    refine ⟨fun htype hroom hok => next_settle ((if_pos hroom).trans ((takes htype _).trans (chunk (.inr hok) _))),
      fun htype hok => next_settle ((takes htype _).trans (chunk (.inr hok) _)),
      fun htype hok => next_settle ((takes htype _).trans (chunk (.inr hok) _)), fun hbad => ⟨?_, ?_, ?_⟩,
      fun htype => next_settle ((takes htype _).trans (chunk (.inl (by omega)) _)),
      fun htype => next_settle ((takes htype _).trans (chunk (.inl (by omega)) _))⟩
    · exact fun htype hroom => next_settle ((if_pos hroom).trans ((takes htype _).trans (drops (by omega) hbad _)))
    · exact fun htype => next_settle ((takes htype _).trans (drops (by omega) hbad _))
    · exact fun htype => next_settle ((takes htype _).trans (drops (by omega) hbad _))
  · intro s part job coll x hx
    refine next_settle ?_
    simp only [hx]

/-! ### Routing -/

/-- Settles O48. -/
theorem packetsRouted : Obligations.PacketsRouted := by
  unfold Obligations.PacketsRouted
  refine ⟨?_, ?_, ?_, ?_⟩
  · rintro s f n vc out cls p hn hhead hdst rfl hroute
    refine ⟨fun hhops => next_settle ((if_pos hn).trans ?_), fun hhops => next_settle ((if_pos hn).trans ?_)⟩
    · simp only [State.forwardTransit, hhead, if_neg hdst, hroute, if_neg hhops]
    · simp only [State.forwardTransit, hhead, if_neg hdst, hroute, if_pos hhops]
  · intro s f n vc out cls p hn hfound hf hroute
    refine next_settle ((if_neg (Nat.not_lt.mpr hn)).trans ?_)
    simp only [State.forwardOwn, hfound, ← hf, hroute]
  · intro s f n vc p
    refine ⟨?_, fun hn hfound hf hroute => next_settle ((if_neg (Nat.not_lt.mpr hn)).trans ?_)⟩
    · rintro hn hhead hdst rfl hroute
      refine next_settle ((if_pos hn).trans ?_)
      simp only [State.forwardTransit, hhead, if_neg hdst, hroute]
    · simp only [State.forwardOwn, hfound, ← hf, hroute]
  · intro s n vc from_ p t hn hqueue
    refine next_settle ?_
    simp only [State.dropQueued, if_neg (Nat.not_le.mpr hn), hqueue]

end Sys2Proof.Machine
end

section
/-! The messages and timers of a job's bellwether tree (R431 to R447), and the statements about them (O49, O50). -/

namespace Sys2Proof.Machine

open Sys2Proof

/-- A job-control message whose TDIG is its tree's is acted on. -/
theorem jobPacket_delivered {s : State} {n vc : Nat} {p : List Byte} {t : Tree} (hfatal : s.chip.hif.fatal = false)
    (hdel : s.delivers n vc p = true) (htree : (s.takePacket n vc p).tree? (pkJob p) = some t) (hdig : jbTdig (pkPayload p) = t.tdig)
    {ptype : Nat} (htype : pkType p = ptype) (act : Nat → Tree → Nat → Nat → JobMsg → State → State) :
    s.jobPacket n vc ptype act =
      act (pkJob p) t (pkSrc p) (jbSeq (pkPayload p)) (JobMsg.parse (pkPayload p)) (s.takePacket n vc p) := by
  unfold State.jobPacket
  rw [hfatal, if_neg Bool.false_ne_true, receive_delivered hdel (by simpa using htype)]
  simp only [htree, if_pos hdig]

/-- A message of the round or attempt that it names is acted on. -/
theorem current_of_eq {s : State} {a b : Nat} (h : a = b) (act : State) : s.current (a == b) act = act := by
  simp [State.current, h]

/-- Settles O49. -/
theorem treesFormAndDecide : Obligations.TreesFormAndDecide := by
  unfold Obligations.TreesFormAndDecide
  refine ⟨?_, ?_, ?_, ?_, ?_⟩
  · rintro s f n vc p hdel rfl htype
    have takes := fun act => receive_delivered hdel (types := (· == 0x10)) (beq_iff_eq.mpr htype) act
    refine ⟨fun htree => next_settle ((takes _).trans ?_), fun t m htree hform hsent hchild hm => next_settle ((takes _).trans ?_)⟩
    · simp only [htree]
    · have hopen : ¬ ((t.formed || t.helloSent || !t.hasChild (pkSrc p)) = true) := by simp [hform, hsent, hchild]
      simp only [htree, if_neg hopen, ← hm]
  · rintro s f n vc p t hfatal hdel rfl htree hdig
    have takes := fun {k} h act => jobPacket_delivered hfatal hdel htree hdig (ptype := k) h act
    refine ⟨fun htype hform hparent => next_settle ((takes htype _).trans (if_neg (by simp [hform, hparent]))),
      fun htype hseq hform hvoted hchild => next_settle ((takes htype _).trans ((current_of_eq hseq _).trans (if_neg ?_))),
      fun htype hseq hform hparent => next_settle ((takes htype _).trans ((current_of_eq hseq _).trans (if_pos ⟨hform, ?_⟩)))⟩
    · simp [hform, hvoted, hchild]
    · exact Option.isSome_iff_ne_none.mpr hparent
  · intro s job t hfatal htree hform
    refine next_settle ((if_neg (Bool.eq_false_iff.mp hfatal)).trans ?_)
    simp only [htree, hform]
    rfl
  · intro s job who t hfatal htree hform hvoted hrestart
    have hround : ¬ ((!t.formed || t.voted || t.restarting) = true) := by simp [hform, hvoted, hrestart]
    refine ⟨fun m hwho hm hst hany hall hnew => next_settle ((if_neg (Bool.eq_false_iff.mp hfatal)).trans ?_),
      fun hwho hvotes => next_settle ((if_neg (Bool.eq_false_iff.mp hfatal)).trans ?_)⟩
    · simp only [State.voteTimeout, htree, if_neg hround, if_pos hwho, hm, hany, hall, hnew]
      refine if_pos ?_
      simp [hst]
    · simp only [State.voteTimeout, htree, if_neg hround, if_neg (Nat.not_lt.mpr hwho)]
      refine if_neg ?_
      simp [hvotes]
  · intro s job t hfatal htree hform hvoted hrestart hparent
    refine next_settle ((if_neg (Bool.eq_false_iff.mp hfatal)).trans ?_)
    simp only [htree]
    refine if_neg ?_
    simp [hform, hvoted, hrestart, hparent]

/-- Settles O50. -/
theorem jobsRestart : Obligations.JobsRestart := by
  unfold Obligations.JobsRestart
  refine ⟨?_, ?_, ?_, ?_⟩
  · rintro s f n vc p t hfatal hdel rfl htree hdig
    have takes := fun {k} h act => jobPacket_delivered hfatal hdel htree hdig (ptype := k) h act
    refine ⟨fun htype hseq hform hparent => next_settle ((takes htype _).trans ((current_of_eq hseq _).trans ?_)),
      fun htype hform hparent hlater => next_settle ((takes htype _).trans ?_),
      fun htype hseq hrestart hsent hchild => next_settle ((takes htype _).trans ((current_of_eq hseq _).trans ?_)),
      fun htype hseq hrestart hparent => next_settle ((takes htype _).trans ((current_of_eq hseq _).trans ?_))⟩
    · exact if_pos ⟨hform, Option.isNone_iff_eq_none.mpr hparent⟩
    · exact if_pos ⟨hform, Option.isSome_iff_ne_none.mpr hparent, hlater⟩
    · refine if_neg ?_
      simp [hrestart, hsent, hchild]
    · exact if_pos ⟨hrestart, Option.isSome_iff_ne_none.mpr hparent⟩
  · intro s job t hfatal htree hrestart hreported
    refine ⟨fun hstopped hrest => next_settle ((if_neg (Bool.eq_false_iff.mp hfatal)).trans ?_), next_settle ((if_neg (Bool.eq_false_iff.mp hfatal)).trans ?_)⟩
    · simp only [htree]
      refine if_pos ?_
      simp [hrestart, hreported, hstopped, hrest]
    · simp only [htree]
      refine if_neg ?_
      simp [hrestart, hreported]
  · intro s job t hfatal htree hrestart hparent
    refine ⟨fun hfull => next_settle ((if_neg (Bool.eq_false_iff.mp hfatal)).trans ?_), fun hpart => next_settle ((if_neg (Bool.eq_false_iff.mp hfatal)).trans ?_)⟩
    · simp only [htree]
      exact if_pos hfull
    · simp only [htree]
      refine if_pos ?_
      simp [hrestart, hparent, hpart]
  · intro s job t hfatal htree hform hparent
    refine next_settle ((if_neg (Bool.eq_false_iff.mp hfatal)).trans ?_)
    simp only [htree]
    refine if_neg ?_
    simp [hform, hparent]

end Sys2Proof.Machine
end

section
/-! Watchdogs, FAULT_N, block resets and patrols (R547, R548, R554 to R562), and the statement about them (O51). -/

namespace Sys2Proof.Machine

open Sys2Proof

/-- What a block reset leaves, by the kind of its unit. -/
theorem blockResetComplete_of_mem {s : State} {k unit : Nat} (hmem : (k, unit) ∈ s.chip.fc.blk) :
    s.blockResetComplete k unit =
      let t : State := { s with chip.fc.blk := s.chip.fc.blk.erase (k, unit) }
      if k = 1 then t.clearCore unit else if k = 2 then t.clearCore (unit / 4)
      else if k = 3 then (t.clearStack unit).modNmu unit fun m => { m with tries := 0 } else t := by
  unfold State.blockResetComplete
  rw [if_neg (by simp [hmem])]
  match k with
  | 0 | 1 | 2 | 3 | _ + 4 => rfl

/-! ### The control SRAM -/

/-- A word of the control SRAM whose bits have turned over, where none had before. -/
theorem sramErr_of_one {w m : Nat} (hm : m ≠ 0) :
    [(w, m)].foldl (fun (t : Tab Nat) x => Tab.set t 0 x.1 (Tab.get t 0 x.1 ^^^ x.2)) [] = [(w, m)] := by
  simp [Tab.get, Tab.look, Tab.set, Tab.put, hm.symm]

/-- A corrected word leaves no word in error. -/
theorem sramErr_corrected (w m : Nat) : Tab.set ([(w, m)] : Tab Nat) 0 w 0 = [] := by
  simp [Tab.set, Tab.erase]

/-- The patrol of the control SRAM that holds Drover meets every word in error. -/
theorem exec_controlSramPatrol {s : State} {fl : List (Nat × Nat)} {errs : Tab Nat} (hsram : s.chip.sram ≠ none)
    (herrs : fl.foldl (fun m x => Tab.set m 0 x.1 (Tab.get m 0 x.1 ^^^ x.2)) s.chip.sramErr = errs) :
    exec (.controlSramPatrol fl) s =
      .next (errs.foldl (fun a p => a.meetSram p.1 p.2) ({ s with chip.sramErr := errs } : State)).settle := by
  subst herrs
  refine next_settle (if_neg ?_)
  simpa using hsram

/-- A store of the control SRAM's errors as they are changes nothing. -/
theorem sramErr_of_eq {s : State} {errs : Tab Nat} (h : s.chip.sramErr = errs) : ({ s with chip.sramErr := errs } : State) = s := by
  subst h
  rfl

/-- Settles O51. -/
theorem faultEventsAndPatrols : Obligations.FaultEventsAndPatrols := by
  unfold Obligations.FaultEventsAndPatrols
  refine ⟨⟨fun s => rfl, ?_, ?_, ?_, ?_, ?_, ?_⟩, ?_, ?_, ?_⟩
  · intro s hruns
    refine ⟨?_, fun hfirst => next_settle ?_, fun hfirst => next_settle ?_⟩
    · exact congrArg Host.Outcome.next (if_pos hruns)
    · refine if_pos ?_
      simp [hruns, hfirst]
    · refine if_pos ?_
      simp [hruns, hfirst]
  · intro s hheld hpll
    refine next_settle (if_neg ?_)
    simp [hheld, hpll]
  · intro s hon hpulse
    refine congrArg Host.Outcome.next (if_pos ?_)
    simp [hon, hpulse]
  · intro s hgap
    refine ⟨fun hnone => congrArg Host.Outcome.next ?_, fun src hsome => congrArg Host.Outcome.next ?_⟩
    · simp only [hgap, hnone]
      rfl
    · simp only [hgap, hsome]
      rfl
  · intro s hans
    refine ⟨fun hhold => congrArg Host.Outcome.next ?_, congrArg Host.Outcome.next ?_⟩
    · simp [State.sbWrite, State.releaseFaultN, hans, hhold]
    · simp [State.sbWrite, hans]
  · rintro s t unit k hmem rfl
    exact next_settle (blockResetComplete_of_mem hmem)
  · rintro s t u core l fl hcore hper hline rfl rfl
    refine next_settle ((if_pos hcore).trans ?_)
    simp only [State.islePatrol, if_neg hper, hline]
  · rintro s t stack u errs hstack hper hdram hunit hbusy rfl
    refine next_settle ((if_pos hstack).trans ?_)
    simp only [State.stackPatrol, hunit]
    refine if_neg ?_
    simp [hper, hdram, hbusy]
  · intro s t w m hsram herr hm ht
    have hterr : t.chip.sramErr = [(w, m)] := by rw [ht]
    have met : exec (.controlSramPatrol []) t = .next (t.meetSram w m).settle := by
      rw [exec_controlSramPatrol (s := t) (fl := []) (by rw [ht]; exact hsram) hterr, sramErr_of_eq hterr, List.foldl_cons, List.foldl_nil]
    refine ⟨?_, ?_, fun hone => met.trans (next_settle ?_), fun hmany => met.trans (next_settle (if_neg hmany))⟩
    · rw [exec_controlSramPatrol (fl := []) hsram herr, sramErr_of_eq herr, List.foldl_nil]
    · rw [met, exec_controlSramPatrol hsram (errs := [(w, m)]) (by rw [herr, sramErr_of_one hm]), ← ht, List.foldl_cons, List.foldl_nil]
    · have hback : ({ t with chip.sramErr := Tab.set t.chip.sramErr 0 w 0 } : State) = s := by
        rw [hterr, sramErr_corrected, ht]
        exact sramErr_of_eq herr
      simp only [State.meetSram, if_pos hone, hback]

end Sys2Proof.Machine
end

section
/-! Input power, temperature and the power cap (R565 to R567, R578 to R581), clocks, rails and domains (R568 to R577, R593), and the
statements about them (O52, O53). -/

namespace Sys2Proof.Machine

open Sys2Proof

/-! ### Power, heat and the cap -/

/-- A window of the power cap, where the main conversion is on. -/
theorem exec_powerCapWindow {s : State} (hon : s.aon.mainOn = true) (avg : Nat) :
    exec (.powerCapWindow avg) s = .next (s.capWindow avg).settle :=
  next_settle (if_pos hon)

theorem exec_thermalWindow {s : State} {h : Nat} (hon : s.aon.mainOn = true) (hh : h < 8) :
    exec (.thermalWindow h) s = .next (s.thermalWindow h).settle := by
  refine next_settle (if_pos ?_)
  simp [hon, hh]

/-- Settles O52. -/
theorem powerHeatAndCapFollowed : Obligations.PowerHeatAndCapFollowed := by
  unfold Obligations.PowerHeatAndCapFollowed
  refine ⟨⟨?_, ?_, ?_, ?_, ?_, ?_⟩, ?_⟩
  · intro s v i hup
    refine congrArg Host.Outcome.next (if_neg ?_)
    simp [hup]
  · intro s hup hvlow hlow
    refine next_settle (if_pos ?_)
    simp [hup, hvlow, hlow]
  · intro s hpow
    have hon : ¬ ((!s.powered) = true) := by simp [hpow]
    refine ⟨fun hlow => next_settle ((if_neg hon).trans (if_pos hlow)),
      fun hhigh => next_settle ((if_neg hon).trans ((if_neg (by omega)).trans (if_pos hhigh))), fun hcur => next_settle (if_pos ?_),
      fun k i t htrip => next_settle ?_⟩
    · simp [hpow, hcur]
    · simp only [htrip, if_neg hon]
  · intro s
    refine ⟨fun hon hcur => next_settle (if_pos ?_), rfl⟩
    simp [hon, hcur]
  · rintro s t j m o hup hj hm rfl
    refine next_settle (if_neg ?_)
    simp [hup, hj, hm]
  · rintro s h d hon hh rfl
    refine ⟨fun hhot hd => (exec_thermalWindow hon hh).trans (next_settle ?_), fun hhot hd => (exec_thermalWindow hon hh).trans (next_settle ?_),
      fun hhot hcool => (exec_thermalWindow hon hh).trans (next_settle ?_)⟩
    · simp [State.thermalWindow, hhot, hd]
    · simp [State.thermalWindow, hhot, hd]
    · simp [State.thermalWindow, hhot, hcool]
  · rintro s avg p hon rfl
    have window := exec_powerCapWindow hon avg
    refine ⟨fun habove hdiv => window.trans (next_settle ?_), fun habove hdiv => window.trans (next_settle ?_),
      fun hunder hfew => window.trans (next_settle ?_), fun hunder hmany => window.trans (next_settle ?_),
      fun hle hnear => window.trans (next_settle ?_)⟩
    · have hunder : ¬ (100 * avg < 95 * (1000 * s.chip.pwr.cap)) := by omega
      simp [State.capWindow, habove, hunder, hdiv]
    · have hunder : ¬ (100 * avg < 95 * (1000 * s.chip.pwr.cap)) := by omega
      simp [State.capWindow, habove, hunder, hdiv]
    · have habove : ¬ (1000 * s.chip.pwr.cap < avg) := by omega
      have hfew' : ¬ (10 ≤ s.chip.pwr.below + 1) := by omega
      simp [State.capWindow, habove, hunder, hfew']
    · have habove : ¬ (1000 * s.chip.pwr.cap < avg) := by omega
      have hmany' : 10 ≤ s.chip.pwr.below + 1 := by omega
      simp [State.capWindow, habove, hunder, hmany']
    · have habove : ¬ (1000 * s.chip.pwr.cap < avg) := by omega
      have hunder : ¬ (100 * avg < 95 * (1000 * s.chip.pwr.cap)) := by omega
      simp [State.capWindow, habove, hunder]

/-! ### Clocks, rails, domains -/

/-- Settles O53. -/
theorem clocksAndDomains : Obligations.ClocksAndDomains := by
  unfold Obligations.ClocksAndDomains
  refine ⟨?_, ?_, ?_, ?_, ?_, ?_⟩
  · exact fun s hpll => ⟨congrArg Host.Outcome.next (if_pos hpll), next_settle (if_pos hpll)⟩
  · intro s hheld hpll
    refine next_settle (if_neg ?_)
    simp [hheld, hpll]
  · intro s d hon hgood
    refine next_settle (if_pos ?_)
    simp [hon, hgood]
  · rintro s t h hh rfl
    exact next_settle (if_pos hh)
  · intro s core hcore
    refine ⟨fun hforce hidle hpst hok => congrArg Host.Outcome.next (if_pos ⟨hcore, ?_, hidle, hpst, hok⟩),
      fun hforce => congrArg Host.Outcome.next (if_pos ⟨hcore, hforce⟩), fun hwaits => next_settle (if_pos hwaits)⟩
    simp [hforce]
  · intro s st hst hforce
    exact ⟨congrArg Host.Outcome.next (if_pos ⟨hst, hforce⟩), congrArg Host.Outcome.next (if_pos ⟨hst, hforce⟩)⟩

end Sys2Proof.Machine
end

section
/-! Supplies and pins, the start-up, firmware writes and crash captures (R256, R524, R565, R588 to R594, R601, R604), and the statements
about them (O54, O55, O56). -/

namespace Sys2Proof.Machine

open Sys2Proof

/-! ### Supplies and pins -/

/-- A pin resets the chip where the main conversion is on. -/
theorem pinReset_of_on {s : State} (hon : s.aon.mainOn = true) : s.pinReset = s.chipReset :=
  if_pos hon

/-- Settles O54. -/
theorem suppliesAndPins : Obligations.SuppliesAndPins := by
  unfold Obligations.SuppliesAndPins
  refine ⟨?_, fun s => ⟨rfl, rfl⟩, ?_, ?_, ?_⟩
  · intro s vin slot fold p r x e m hdown hvin
    refine congrArg Host.Outcome.next (if_neg ?_)
    simp [hdown, Nat.not_lt.mpr hvin]
  · exact fun s hstarting => ⟨congrArg Host.Outcome.next (if_pos (Or.inl hstarting)), fun d => next_settle (if_pos hstarting)⟩
  · exact fun s hup => ⟨congrArg Host.Outcome.next (if_pos hup), congrArg Host.Outcome.next (if_pos hup), congrArg Host.Outcome.next (if_pos hup),
      congrArg Host.Outcome.next (if_pos hup), fun m slot fold => congrArg Host.Outcome.next (if_pos hup)⟩
  · intro s t hup
    refine ⟨fun hpin hon => congrArg Host.Outcome.next ((if_pos ((Bool.and_eq_true ..).mpr ⟨hup, hpin⟩)).trans (pinReset_of_on hon)),
      fun hpin hon => congrArg Host.Outcome.next ((if_pos ((Bool.and_eq_true ..).mpr ⟨hup, hpin⟩)).trans (pinReset_of_on hon)), ?_, ?_⟩
    · rintro hpin hpow rfl
      exact next_settle ((if_pos ((Bool.and_eq_true ..).mpr ⟨hup, hpin⟩)).trans (if_pos hpow))
    · rintro hpin hpow rfl
      exact congrArg Host.Outcome.next ((if_pos ((Bool.and_eq_true ..).mpr ⟨hup, hpin⟩)).trans (if_pos hpow))

/-! ### The start-up -/

/-- A chosen image is noted, and the next one's choice follows. -/
theorem bootImages_cons_chosen {s : State} {k : Nat} {ks : List Nat} {im : RunImage} (h : s.chooseImage k = .inl im) :
    s.bootImages (k :: ks) = ({ s with chip.enc.images := Tab.put s.chip.enc.images k im } : State).bootImages ks := by
  simp only [State.bootImages, h]

/-- Both copies of an image rejected: the module waits in recovery. -/
theorem bootImages_cons_rejected {s : State} {k : Nat} {ks : List Nat} {f : Nat × Nat} (h : s.chooseImage k = .inr f) :
    s.bootImages (k :: ks) = ({ s with chip.boot := .recovery, chip.hif.fatal := true, chip.hif.fatalAt := s.aon.time } : State).raise
      { src := 0x07, detail := k, info := packInfo 0 [(1, f.1), (1, f.2)] } := by
  simp only [State.bootImages, h]

/-- The choice of an image looks at the flash and the fuses, not at the images chosen before. -/
theorem chooseImage_images (s : State) (is : Tab RunImage) (k : Nat) :
    ({ s with chip.enc.images := is } : State).chooseImage k = s.chooseImage k := rfl

theorem exec_enclaveBootComplete {s : State} (hboot : s.chip.boot = .enclave) :
    exec (.enclaveBootComplete true) s = .next (s.bootImages [1, 3, 2]).settle :=
  next_settle (if_neg (not_not_intro hboot))

/-- The self-test of one present engine of a core that is tested. -/
theorem exec_arraySelfTestComplete_one {s : State} {g r c : Nat} {e : Eng} (hg : g < 2304) (htests : s.tests (g / 4) = true)
    (he : e = (s.core (g / 4)).engine (g % 4)) (hpresent : e.present = true) {f : Nat × Nat} (hf : f = Tab.get s.nv.repair (0, 0) g) {cause : Nat}
    (hcause : cause = if 2 - f.1 < r ∨ 2 - f.2 < c then 1 else 0) :
    exec (.arraySelfTestComplete [(g, r, c, true)]) s = .next (
      let s1 := s.modCore (g / 4) fun q => q.setEngine (g % 4)
        { e with srow := min r (2 - f.1), scol := min c (2 - f.2), present := cause == 0, cause := cause }
      if cause = 0 then s1 else s1.raise { src := 0x14, unit := g, detail := cause }).settle := by
  subst hcause hf he
  refine next_settle (if_neg ?_)
  simp [htests, hpresent, Nat.not_le.mpr hg]

/-- Settles O55. -/
theorem startUpRuns : Obligations.StartUpRuns := by
  unfold Obligations.StartUpRuns
  refine ⟨?_, ?_, ?_, ?_, ?_⟩
  · intro s hboot
    refine ⟨next_settle (if_neg (not_not_intro hboot)), ?_, fun f hrejected => ?_⟩
    · rintro k1 k3 k2 t h1 h3 h2 rfl
      rw [exec_enclaveBootComplete hboot, bootImages_cons_chosen h1, bootImages_cons_chosen ((chooseImage_images ..).trans h3),
        bootImages_cons_chosen ((chooseImage_images ..).trans ((chooseImage_images ..).trans h2))]
      rfl
    · rw [exec_enclaveBootComplete hboot, bootImages_cons_rejected hrejected]
  · intro s st step hst htrains havail
    refine ⟨fun htries => next_settle ((if_pos hst).trans ?_), fun htries => next_settle ((if_pos hst).trans ?_)⟩
    · simp [State.trainingTimeout, htrains, havail, htries]
    · simp [State.trainingTimeout, htrains, havail, htries]
  · intro s hboot hfatal
    refine ⟨next_settle (if_pos ?_), fun hready => next_settle (if_pos ?_)⟩
    · simp [hboot, hfatal]
    · simp [hboot, hfatal, hready]
  · intro s g r c e hg htests he hpresent hr hc
    have hrow : r ≤ 2 - (Tab.get s.nv.repair (0, 0) g).1 := by omega
    have hcol : c ≤ 2 - (Tab.get s.nv.repair (0, 0) g).2 := by omega
    rw [exec_arraySelfTestComplete_one hg htests he hpresent rfl (cause := 0) (if_neg (by omega)).symm, Nat.min_eq_left hrow,
      Nat.min_eq_left hcol]
    rfl
  · intro s g r c e hg htests he hpresent hmore hf hf'
    rw [exec_arraySelfTestComplete_one hg htests he hpresent rfl (cause := 1) (if_pos (by omega)).symm]
    rfl

/-! ### Firmware writes and captures -/

/-- The programming of a firmware write steps on, where no capture goes first. -/
theorem exec_flashProgrammingComplete {s : State} {w : FwWrite} (hfw : s.aon.fw = some w) (hcapture : s.aon.capture = false) :
    exec .flashProgrammingComplete s = .next (s.fwStep w).settle := by
  refine next_settle ?_
  simp only [hfw]
  exact if_neg (Bool.eq_false_iff.mp hcapture)

/-- Settles O56. -/
theorem flashProgrammed : Obligations.FlashProgrammed := by
  unfold Obligations.FlashProgrammed
  refine ⟨fun s w hfw hcapture hlen => ?_, fun s hcapture => congrArg Host.Outcome.next (if_pos hcapture)⟩
  have programmed := exec_flashProgrammingComplete hfw hcapture
  have hall : ¬ w.bytes.length < w.len := Nat.not_lt.mpr hlen
  refine ⟨fun hA => programmed.trans (next_settle ((if_neg hall).trans (if_pos hA))), fun hB hpass => programmed.trans (next_settle ?_), ?_⟩
  · simp [State.fwStep, hall, hB, hpass]
  · rintro hB n rfl hn
    refine programmed.trans (next_settle ?_)
    simp [State.fwStep, hall, hB, hn]

end Sys2Proof.Machine
end

section
/-! The sideband's registers, its mailbox and MCTP (R595 to R602), the test access port (R605), the step and the reset state, and the
statements about them (O57, O58, O59, O60, O1, O2). -/

namespace Sys2Proof.Machine

open Sys2Proof

/-! ### Registers -/

/-- A sideband write whose PEC and length are right acts, where the module answers. -/
theorem sbWrite_ok {s : State} (hans : s.aon.answers = true) (act : State) : s.sbWrite true act = act := by
  simp [State.sbWrite, hans]

/-- A sideband write with a wrong PEC or length is reported and does nothing else. -/
theorem sbWrite_bad {s : State} (hans : s.aon.answers = true) (act : State) :
    s.sbWrite false act = { s with aon.pecErr := true } := by
  simp [State.sbWrite, hans]

/-- Settles O57. -/
theorem sidebandRegisters : Obligations.SidebandRegisters := by
  unfold Obligations.SidebandRegisters
  refine ⟨?_, ?_⟩
  · intro s v hans
    have hsilent : ¬ ((!s.aon.answers) = true) := by simp [hans]
    refine ⟨congrArg Host.Outcome.next (sbWrite_ok hans _), congrArg Host.Outcome.next (sbWrite_bad hans _),
      congrArg Host.Outcome.next (sbWrite_ok hans _), congrArg Host.Outcome.next (sbWrite_ok hans _), ?_, ?_⟩
    · intro x hreg
      refine next_settle ((if_neg hsilent).trans ?_)
      simp only [hreg]
    · intro hreg
      refine next_settle ((if_neg hsilent).trans ?_)
      simp only [hreg]
  · intro s n hans halert haddr
    refine congrArg Host.Outcome.next ((if_pos ((Bool.and_eq_true ..).mpr ⟨hans, halert⟩)).trans ?_)
    rw [haddr, Option.getD_some]

/-! ### The mailbox -/

/-- An operation that a free mailbox takes sets BUSY and acts. -/
theorem sbGo_free {s : State} (hans : s.aon.answers = true) (hfree : s.aon.mb.busy = false) (hboot : s.chip.boot ≠ .recovery)
    (op arg : Nat) (act : State → State) :
    s.sbGo true op arg act = act { s with aon.mb := { s.aon.mb with op := op, arg := arg, busy := true, data := [] } } := by
  simp [State.sbGo, sbWrite_ok hans, hfree, hboot]

/-- While an operation runs, a second one sets MBERR. -/
theorem sbGo_busy {s : State} (hans : s.aon.answers = true) (hbusy : s.aon.mb.busy = true) (op arg : Nat) (act : State → State) :
    s.sbGo true op arg act = s.mbErr := by
  simp [State.sbGo, sbWrite_ok hans, hbusy]

/-- A firmware write that runs takes a word while it still wants one. -/
theorem mbWrite_taken {s : State} {w : FwWrite} (hfw : s.aon.fw = some w) (hbusy : s.aon.mb.busy = true) (hcapture : s.aon.capture = false)
    (hhost : w.host = none) (hlen : w.bytes.length < w.len) (v : Nat) :
    s.mbWrite v = ({ s with aon.mb.data_ := BitVec.ofNat 32 v } : State).fwMore w (leBytes 4 v) := by
  simp [State.mbWrite, hfw, hbusy, hcapture, hhost, hlen]

/-- Settles O58. -/
theorem sidebandMailbox : Obligations.SidebandMailbox := by
  unfold Obligations.SidebandMailbox
  refine ⟨?_, ?_, ?_, ?_⟩
  · intro s t hans hfree hboot
    have go := fun op arg act => sbGo_free hans hfree hboot op arg act
    refine ⟨?_, ?_, ?_, ?_, ?_, ?_⟩
    · rintro kind hkind hlen hfw hcapture rfl
      refine next_settle ((go ..).trans ?_)
      simp [hkind, hlen, hfw, hcapture]
    · rintro rfl
      refine ⟨fun hready => next_settle ((go ..).trans (if_pos ?_)), fun hready hfatal => next_settle ((go ..).trans (if_neg ?_))⟩
      · simp [hready]
      · simp [hready, hfatal]
    · rintro rfl
      refine ⟨fun hdump => next_settle ((go ..).trans (if_pos ?_)), fun hdump hdbg => next_settle ((go ..).trans ((if_neg ?_).trans ?_))⟩
      · simp [hdump]
      · simpa [Option.isSome_iff_ne_none] using hdump
      · simp [hdbg]
    · rintro rfl
      exact next_settle (go ..)
    · rintro rfl
      exact next_settle (go ..)
    · rintro rfl hon
      exact next_settle ((go ..).trans (pinReset_of_on hon))
  · intro s hans hbusy
    have busy := fun op arg act => next_settle (sbGo_busy hans hbusy op arg act)
    refine ⟨fun k => busy .., busy .., busy .., busy .., busy .., busy .., ?_, ?_, ?_⟩
    · rintro v t rfl
      refine congrArg Host.Outcome.next ((sbWrite_ok hans _).trans ((if_pos hbusy).trans ?_))
      exact apply_ite (fun a : State => a.sbCut .aborted) _ _ _
    · intro hcnt hruns
      refine congrArg Host.Outcome.next (if_pos ?_)
      obtain hcapture | hfw := hruns
      · simp [hbusy, hcnt, hcapture]
      · simp [hbusy, hcnt, hfw]
    · intro w v hfw hcapture hhost hlen
      exact next_settle ((sbWrite_ok hans _).trans (mbWrite_taken hfw hbusy hcapture hhost hlen v))
  · rintro s t w ws hans hdata rfl
    have hsilent : ¬ ((!s.aon.answers) = true) := by simp [hans]
    refine congrArg Host.Outcome.next ((if_neg hsilent).trans ?_)
    simp only [hdata]
  · intro s hans hdata
    have hsilent : ¬ ((!s.aon.answers) = true) := by simp [hans]
    refine congrArg Host.Outcome.next ((if_neg hsilent).trans ?_)
    simp only [hdata]

/-! ### MCTP -/

/-- Settles O59. -/
theorem mctpAnswered : Obligations.MctpAnswered := by
  unfold Obligations.MctpAnswered
  refine ⟨?_, fun s => rfl⟩
  intro s hans
  have hsilent : ¬ ((!s.aon.answers) = true) := by simp [hans]
  refine ⟨?_, congrArg Host.Outcome.next (if_neg hsilent), congrArg Host.Outcome.next (if_neg hsilent),
    congrArg Host.Outcome.next (if_neg hsilent), congrArg Host.Outcome.next (if_neg hsilent), ?_, ?_⟩
  · intro eid hlt hne hne'
    have hmod : eid % 256 = eid := Nat.mod_eq_of_lt hlt
    refine congrArg Host.Outcome.next ((if_neg hsilent).trans ((if_pos rfl).trans ((if_neg ?_).trans ?_)))
    · simp [hmod, hne, hne']
    · rw [hmod]
  · intro b o e hlen
    refine ⟨next_settle ((sbWrite_ok hans _).trans ((if_neg ?_).trans (if_pos rfl))),
      next_settle ((sbWrite_ok hans _).trans ((if_neg ?_).trans (if_neg (by decide))))⟩ <;>
    simp <;> omega
  · intro b o e hlen hsome hall
    refine next_settle ((sbWrite_ok hans _).trans ((if_neg ?_).trans (if_pos rfl)))
    simp [hsome] at hall ⊢
    omega

/-! ### The test access port -/

/-- The instruction register is loaded where its block has power. -/
theorem tapLoad_up {s : State} (hup : s.aon.up = true) (ir : Nat) : s.tapLoad ir = { s with aon.tapIr := ir } :=
  if_pos hup

/-- A load and a scan of all 321 cells: what was captured leaves, what was shifted in stands in the boundary register. -/
theorem scan_tapLoad {s : State} {cells load : List Bool} (hup : s.aon.up = true) (hcells : cells.length = 321) (hload : load.length = 321)
    (ir : Nat) : (s.tapLoad ir).scan cells load =
      ({ s with aon := { s.aon with tapIr := ir, bscan := load } } : State).send (.scan (s.aon.captured cells)) := by
  rw [tapLoad_up hup]
  refine (if_pos ?_).trans rfl
  simp [hup, hcells, hload]

/-- Settles O60. -/
theorem testAccessPort : Obligations.TestAccessPort := by
  unfold Obligations.TestAccessPort
  intro s hup
  have loads (ir : Nat) : (.next (s.tapLoad ir) : Host.Outcome State Fault Refusal) = .next { s with aon.tapIr := ir } := by
    rw [tapLoad_up hup]
  refine ⟨loads _, loads _, loads _, loads _, ?_, ?_⟩
  · intro op hlo hhi
    refine (loads _).trans ?_
    simp [hlo, hhi]
  · intro cells load hcells hload
    have scans := scan_tapLoad hup hcells hload
    refine ⟨congrArg Host.Outcome.next (scans 1), fun hacts => ?_, fun hidle => ?_⟩
    · exact ⟨congrArg Host.Outcome.next ((if_pos hacts).trans (scans 2)), congrArg Host.Outcome.next ((if_pos hacts).trans (scans 5)),
        congrArg Host.Outcome.next ((if_pos hacts).trans (scans 6))⟩
    · exact congrArg Host.Outcome.next ((if_neg (Bool.eq_false_iff.mp hidle)).trans (tapLoad_up hup 2))

/-! ### The step and the reset state -/

/-- Settles O1. -/
theorem stepRunsFrontCommand : Obligations.StepRunsFrontCommand := by
  unfold Obligations.StepRunsFrontCommand
  exact fun s i rest => step_of_cons

/-- Settles O2: what the reset state reads is its default; with an empty queue the step is the tick. -/
theorem resetStateAndIdle : Obligations.ResetStateAndIdle := by
  unfold Obligations.ResetStateAndIdle
  refine ⟨rfl, rfl, rfl, rfl, fun _ => rfl, rfl, rfl, rfl, rfl, rfl, fun h => ?_, fun _ => rfl, fun _ => rfl, fun _ => rfl,
    fun _ _ => rfl, fun _ => rfl, step_of_idle rfl, fun s hempty hup => (step_of_idle hempty).trans ?_⟩
  · rfl
  · exact congrArg Host.Outcome.next (if_pos hup)

end Sys2Proof.Machine
end

section
/-! The bytes of a new segment, in a module at rest (R263, R269), and the statement about them (O12). -/

namespace Sys2Proof.Machine

open Sys2Proof

/-- What stands inside the module tells every byte of its memory. -/
theorem rd_inside {s t : State} (h : t.inside = s.inside) (k : Nat) : t.rd k = s.rd k := by
  have e : ∀ x : State, x.rd k = x.inside.rd k := fun _ => rfl
  rw [e t, e s, h]

/-- Zeroing sets nothing off. -/
theorem zeroAll_atRest (s : State) (rs : List (Nat × Nat)) : (s.zeroAll rs).atRest = s.atRest := by
  induction rs generalizing s with
  | nil => rfl
  | cons r rs ih => exact ih (s.zero r.1 r.2)

/-- The end of a new segment's zeroing enters the segment and answers the command. -/
theorem zeroingComplete_newSeg {s : State} {seq ctx id : Nat} {r : Running} {g : Segment}
    (hrun : s.chip.hif.running.find? (fun r => r.seq == seq) = some r) (hawait : r.await = .newSeg ctx id g) :
    s.zeroingComplete seq = (s.addSegment ctx id g).answerRun (fun x => x.seq == seq) .ok := by
  simp only [State.zeroingComplete, hrun, hawait]

/-- A segment that is not FIXED enters its context's table once its bytes and its metadata are zeroed: that sets nothing off. -/
theorem addSegment_atRest {s : State} {g : Segment} (ctx id : Nat) (hfixed : g.fixed = false) :
    (s.addSegment ctx id g).atRest = s.serveAll.atRest := by
  rw [← zeroAll_atRest s.serveAll (g.keyRuns ++ g.metaRuns), State.addSegment, hfixed]
  rfl

/-- Memory once a segment that is not FIXED has entered its context's table. -/
theorem addSegment_rd {s : State} {g : Segment} (ctx id k : Nat) (hfixed : g.fixed = false) :
    (s.addSegment ctx id g).rd k = (s.serveAll.zeroAll (g.keyRuns ++ g.metaRuns)).rd k := by
  rw [State.addSegment, hfixed]
  rfl

/-- Settles O12: at rest the step ends with what the zeroing did, and the answer changes nothing inside the module. -/
theorem newSegmentReadsZero : Obligations.NewSegmentReadsZero := by
  unfold Obligations.NewSegmentReadsZero
  rintro s t u seq ctx id r g rfl hrest hwf hrun hawait hfixed hstep k
  have hended := zeroingComplete_newSeg hrun hawait
  have hinside : (s.zeroingComplete seq).inside = (s.addSegment ctx id g).inside := by rw [hended, answerRun_inside]
  have hsettle := settle_rest ((atRest_inside hinside).trans ((addSegment_atRest ctx id hfixed).trans hrest))
  obtain rfl : (s.zeroingComplete seq).settle = t := Host.Outcome.next.inj hstep
  rw [hsettle, rd_inside hinside, addSegment_rd ctx id k hfixed, rd_zeroAll _ _ _ hwf]

end Sys2Proof.Machine
end
